-- ==== Sys2Proof/Word.lean ====
section
/-! DEFINITION. The word types of the machine and their plainest arithmetic (02 R22, 00 R4). -/

namespace Sys2Proof

/-- A general register's 64 bits. -/
abbrev Word := BitVec 64
/-- One byte of memory. -/
abbrev Byte := BitVec 8
/-- A vector register's 512 bits. -/
abbrev Vec := BitVec 512

end Sys2Proof
end

