-- ==== Sys2Proof/Syntax.lean ====
section
/-! DEFINITION. The instructions and events of the Gorxis GX4: ONE constructor per row of the opcode table.

A row with an encoding is an Ibfort instruction; its arguments are the fields of its word (02 R22), at their own
widths, so that no bit is dropped.  A row without an encoding is a step that the hardware, the host or the outside
world makes (a completion, an agent's action, a Pacia command, an input); its arguments say which core, slot, bank,
message or object it acts on, and carry the values that come from outside the machine. -/

namespace Sys2Proof

/-- One constructor per row of the opcode table: the words with operands, the words without, then the events. -/
inductive Instr where
  /-- NON_INSTRUCTION (R34): An issue attempt of a word that is not an instruction traps before issue with the detail of the first failing check. -/
  | nonInstruction (w : BitVec 32)
  /-- add (R182): Adds two general registers, wrapping to 64 bits. -/
  | add (d : BitVec 6) (a : BitVec 6) (b : BitVec 6)
  /-- sub (R182): Subtracts g[b] from g[a], wrapping to 64 bits. -/
  | sub (d : BitVec 6) (a : BitVec 6) (b : BitVec 6)
  /-- and (R182): Bitwise and of two registers. -/
  | and (d : BitVec 6) (a : BitVec 6) (b : BitVec 6)
  /-- or (R182): Bitwise or of two registers. -/
  | or (d : BitVec 6) (a : BitVec 6) (b : BitVec 6)
  /-- xor (R182): Bitwise exclusive-or of two registers. -/
  | xor (d : BitVec 6) (a : BitVec 6) (b : BitVec 6)
  /-- andn (R182): g[a] and the complement of g[b]. -/
  | andn (d : BitVec 6) (a : BitVec 6) (b : BitVec 6)
  /-- sll (R182): Shifts left by g[b] bits 5:0. -/
  | sll (d : BitVec 6) (a : BitVec 6) (b : BitVec 6)
  /-- srl (R182): Logical shift right by g[b] bits 5:0. -/
  | srl (d : BitVec 6) (a : BitVec 6) (b : BitVec 6)
  /-- sra (R182): Arithmetic shift right by g[b] bits 5:0. -/
  | sra (d : BitVec 6) (a : BitVec 6) (b : BitVec 6)
  /-- ror (R182): Rotates right by g[b] bits 5:0. -/
  | ror (d : BitVec 6) (a : BitVec 6) (b : BitVec 6)
  /-- slt (R182): Sets 1 if g[a] is less than g[b], signed. -/
  | slt (d : BitVec 6) (a : BitVec 6) (b : BitVec 6)
  /-- sltu (R182): Sets 1 if g[a] is less than g[b], unsigned. -/
  | sltu (d : BitVec 6) (a : BitVec 6) (b : BitVec 6)
  /-- min (R182): Smaller of two registers, signed. -/
  | min (d : BitVec 6) (a : BitVec 6) (b : BitVec 6)
  /-- minu (R182): Smaller of two registers, unsigned. -/
  | minu (d : BitVec 6) (a : BitVec 6) (b : BitVec 6)
  /-- max (R182): Larger of two registers, signed. -/
  | max (d : BitVec 6) (a : BitVec 6) (b : BitVec 6)
  /-- maxu (R182): Larger of two registers, unsigned. -/
  | maxu (d : BitVec 6) (a : BitVec 6) (b : BitVec 6)
  /-- add.w (R182): 32-bit add, sign-extended. -/
  | addW (d : BitVec 6) (a : BitVec 6) (b : BitVec 6)
  /-- sub.w (R182): 32-bit subtract, sign-extended. -/
  | subW (d : BitVec 6) (a : BitVec 6) (b : BitVec 6)
  /-- adds (R182): Signed saturating add. -/
  | adds (d : BitVec 6) (a : BitVec 6) (b : BitVec 6)
  /-- subs (R182): Signed saturating subtract. -/
  | subs (d : BitVec 6) (a : BitVec 6) (b : BitVec 6)
  /-- add (R183): Adds a sign-extended 13-bit constant. -/
  | addImmediate (d : BitVec 6) (a : BitVec 6) (i : BitVec 13)
  /-- and (R183): Ands with a sign-extended constant. -/
  | andImmediate (d : BitVec 6) (a : BitVec 6) (i : BitVec 13)
  /-- or (R183): Ors with a sign-extended constant. -/
  | orImmediate (d : BitVec 6) (a : BitVec 6) (i : BitVec 13)
  /-- xor (R183): Exclusive-ors with a sign-extended constant. -/
  | xorImmediate (d : BitVec 6) (a : BitVec 6) (i : BitVec 13)
  /-- sll (R183): Shifts left by an immediate amount. -/
  | sllImmediate (d : BitVec 6) (a : BitVec 6) (n : BitVec 6)
  /-- srl (R183): Logical shift right by an immediate amount. -/
  | srlImmediate (d : BitVec 6) (a : BitVec 6) (n : BitVec 6)
  /-- sra (R183): Arithmetic shift right by an immediate amount. -/
  | sraImmediate (d : BitVec 6) (a : BitVec 6) (n : BitVec 6)
  /-- ror (R183): Rotates right by an immediate amount. -/
  | rorImmediate (d : BitVec 6) (a : BitVec 6) (n : BitVec 6)
  /-- slt (R183): Sets 1 if g[a] is below the constant, signed. -/
  | sltImmediate (d : BitVec 6) (a : BitVec 6) (i : BitVec 13)
  /-- sltu (R183): Sets 1 if g[a] is below the constant, unsigned. -/
  | sltuImmediate (d : BitVec 6) (a : BitVec 6) (i : BitVec 13)
  /-- movhi (R184): Builds the high part of a constant. -/
  | movhi (d : BitVec 6) (i : BitVec 19)
  /-- adrhi (R184): Builds the high part of a PC-relative image address. -/
  | adrhi (d : BitVec 6) (i : BitVec 19)
  /-- mul (R185): Low 64 bits of the product. -/
  | mul (d : BitVec 6) (a : BitVec 6) (b : BitVec 6)
  /-- mul.w (R185): Low 32 bits of the product, sign-extended. -/
  | mulW (d : BitVec 6) (a : BitVec 6) (b : BitVec 6)
  /-- mulh (R185): High 64 bits of the 128-bit product with selected signedness. -/
  | mulh (d : BitVec 6) (a : BitVec 6) (b : BitVec 6) (s : BitVec 2)
  /-- mulp (R185): Whole 128-bit product into a register pair. -/
  | mulp (d : BitVec 6) (a : BitVec 6) (b : BitVec 6) (s : BitVec 2)
  /-- div (R186): Signed division, 36 cc. -/
  | div (d : BitVec 6) (a : BitVec 6) (b : BitVec 6) (l : BitVec 4)
  /-- divu (R186): Unsigned division, 36 cc. -/
  | divu (d : BitVec 6) (a : BitVec 6) (b : BitVec 6) (l : BitVec 4)
  /-- rem (R186): Signed remainder, 36 cc. -/
  | rem (d : BitVec 6) (a : BitVec 6) (b : BitVec 6) (l : BitVec 4)
  /-- remu (R186): Unsigned remainder, 36 cc. -/
  | remu (d : BitVec 6) (a : BitVec 6) (b : BitVec 6) (l : BitVec 4)
  /-- clz (R187): Counts leading zeros. -/
  | clz (d : BitVec 6) (a : BitVec 6)
  /-- ctz (R187): Counts trailing zeros. -/
  | ctz (d : BitVec 6) (a : BitVec 6)
  /-- popc (R187): Counts one bits. -/
  | popc (d : BitVec 6) (a : BitVec 6)
  /-- rev8 (R187): Reverses byte order. -/
  | rev8 (d : BitVec 6) (a : BitVec 6)
  /-- brev (R187): Reverses bit order. -/
  | brev (d : BitVec 6) (a : BitVec 6)
  /-- ext.b.s (R187): Sign-extends the low byte. -/
  | extBS (d : BitVec 6) (a : BitVec 6)
  /-- ext.h.s (R187): Sign-extends the low halfword. -/
  | extHS (d : BitVec 6) (a : BitVec 6)
  /-- ext.w.s (R187): Sign-extends the low word. -/
  | extWS (d : BitVec 6) (a : BitVec 6)
  /-- ext.b.z (R187): Zero-extends the low byte. -/
  | extBZ (d : BitVec 6) (a : BitVec 6)
  /-- ext.h.z (R187): Zero-extends the low halfword. -/
  | extHZ (d : BitVec 6) (a : BitVec 6)
  /-- ext.w.z (R187): Zero-extends the low word. -/
  | extWZ (d : BitVec 6) (a : BitVec 6)
  /-- mov.take (R141): Takes a full shared register's value and marks it empty, free. -/
  | movTake (d : BitVec 6) (a : BitVec 6)
  /-- mov.put (R141): Puts a value into an empty, free shared register and marks it full. -/
  | movPut (d : BitVec 6) (a : BitVec 6)
  /-- mov.v (R139): Copies a whole vector register. -/
  | movV (d : BitVec 6) (a : BitVec 6)
  /-- mov.mg (R139): Moves the low 16 bits of a general register into a mask. -/
  | movMg (d : BitVec 3) (a : BitVec 6)
  /-- mov.gm (R139): Moves a mask into a general register, zero-extended. -/
  | movGm (d : BitVec 6) (a : BitVec 3)
  /-- mov.m (R139): Copies one mask to another. -/
  | movM (d : BitVec 3) (a : BitVec 3)
  /-- beq (R189): Branches if equal. -/
  | beq (a : BitVec 6) (b : BitVec 6) (i : BitVec 13)
  /-- bne (R189): Branches if not equal. -/
  | bne (a : BitVec 6) (b : BitVec 6) (i : BitVec 13)
  /-- blt (R189): Branches if less, signed. -/
  | blt (a : BitVec 6) (b : BitVec 6) (i : BitVec 13)
  /-- bge (R189): Branches if greater or equal, signed. -/
  | bge (a : BitVec 6) (b : BitVec 6) (i : BitVec 13)
  /-- bltu (R189): Branches if less, unsigned. -/
  | bltu (a : BitVec 6) (b : BitVec 6) (i : BitVec 13)
  /-- bgeu (R189): Branches if greater or equal, unsigned. -/
  | bgeu (a : BitVec 6) (b : BitVec 6) (i : BitVec 13)
  /-- jlk (R190): PC-relative jump writing a link. -/
  | jlk (d : BitVec 6) (i : BitVec 19)
  /-- jlkr (R190): Jump through a register writing a link. -/
  | jlkr (d : BitVec 6) (a : BitVec 6) (i : BitVec 13)
  /-- ld.b (R80): Loads a byte from a local offset, long-latency. -/
  | ldB (d : BitVec 6) (a : BitVec 6) (l : BitVec 4) (i : BitVec 8) (x : BitVec 1)
  /-- ld.h (R80): Loads a halfword from a local offset. -/
  | ldH (d : BitVec 6) (a : BitVec 6) (l : BitVec 4) (i : BitVec 8) (x : BitVec 1)
  /-- ld.w (R80): Loads a word from a local offset. -/
  | ldW (d : BitVec 6) (a : BitVec 6) (l : BitVec 4) (i : BitVec 8) (x : BitVec 1)
  /-- ld.d (R80): Loads a doubleword from a local offset. -/
  | ldD (d : BitVec 6) (a : BitVec 6) (l : BitVec 4) (i : BitVec 8)
  /-- st (R81): Enqueues a 1-8 byte store in the posted-store queue. -/
  | st (a : BitVec 6) (b : BitVec 6) (s : BitVec 2) (o : BitVec 11)
  /-- lda (R84): Load-acquire at a scope. -/
  | lda (d : BitVec 6) (a : BitVec 6) (b : BitVec 6) (l : BitVec 4) (x : BitVec 1) (s : BitVec 2)
  /-- stl (R84): Store-release at a scope after earlier accesses are performed. -/
  | stl (d : BitVec 6) (a : BitVec 6) (b : BitVec 6) (l : BitVec 4) (s : BitVec 2)
  /-- amo.swap (R336): Local atomic swap. -/
  | amoSwap (d : BitVec 6) (a : BitVec 6) (b : BitVec 6) (l : BitVec 4)
  /-- amo.add (R336): Local atomic add. -/
  | amoAdd (d : BitVec 6) (a : BitVec 6) (b : BitVec 6) (l : BitVec 4)
  /-- amo.and (R336): Local atomic and. -/
  | amoAnd (d : BitVec 6) (a : BitVec 6) (b : BitVec 6) (l : BitVec 4)
  /-- amo.or (R336): Local atomic or. -/
  | amoOr (d : BitVec 6) (a : BitVec 6) (b : BitVec 6) (l : BitVec 4)
  /-- amo.xor (R336): Local atomic exclusive-or. -/
  | amoXor (d : BitVec 6) (a : BitVec 6) (b : BitVec 6) (l : BitVec 4)
  /-- amo.max (R336): Local atomic signed maximum. -/
  | amoMax (d : BitVec 6) (a : BitVec 6) (b : BitVec 6) (l : BitVec 4)
  /-- amo.min (R336): Local atomic signed minimum. -/
  | amoMin (d : BitVec 6) (a : BitVec 6) (b : BitVec 6) (l : BitVec 4)
  /-- amo.cas (R336): Local atomic compare-and-swap. -/
  | amoCas (d : BitVec 6) (a : BitVec 6) (b : BitVec 6) (l : BitVec 4)
  /-- fadd (R193): Floating add in binary64 or binary32. -/
  | fadd (d : BitVec 6) (a : BitVec 6) (b : BitVec 6) (w : BitVec 1)
  /-- fsub (R193): Floating subtract. -/
  | fsub (d : BitVec 6) (a : BitVec 6) (b : BitVec 6) (w : BitVec 1)
  /-- fmul (R193): Floating multiply. -/
  | fmul (d : BitVec 6) (a : BitVec 6) (b : BitVec 6) (w : BitVec 1)
  /-- fmin (R193): Floating minimum. -/
  | fmin (d : BitVec 6) (a : BitVec 6) (b : BitVec 6) (w : BitVec 1)
  /-- fmax (R193): Floating maximum. -/
  | fmax (d : BitVec 6) (a : BitVec 6) (b : BitVec 6) (w : BitVec 1)
  /-- fsgn (R193): x with the sign of y. -/
  | fsgn (d : BitVec 6) (a : BitVec 6) (b : BitVec 6) (w : BitVec 1)
  /-- fsgnn (R193): x with the inverted sign of y. -/
  | fsgnn (d : BitVec 6) (a : BitVec 6) (b : BitVec 6) (w : BitVec 1)
  /-- fsgnx (R193): x with the xor of both signs. -/
  | fsgnx (d : BitVec 6) (a : BitVec 6) (b : BitVec 6) (w : BitVec 1)
  /-- fma (R194): Fused x*y+z into g[d]. -/
  | fma (d : BitVec 6) (a : BitVec 6) (b : BitVec 6) (w : BitVec 1)
  /-- fms (R194): Fused x*y-z into g[d]. -/
  | fms (d : BitVec 6) (a : BitVec 6) (b : BitVec 6) (w : BitVec 1)
  /-- fnma (R194): Fused -(x*y)+z into g[d]. -/
  | fnma (d : BitVec 6) (a : BitVec 6) (b : BitVec 6) (w : BitVec 1)
  /-- fnms (R194): Fused -(x*y)-z into g[d]. -/
  | fnms (d : BitVec 6) (a : BitVec 6) (b : BitVec 6) (w : BitVec 1)
  /-- fdiv (R195): Floating divide, fixed latency. -/
  | fdiv (d : BitVec 6) (a : BitVec 6) (b : BitVec 6) (l : BitVec 4) (w : BitVec 1)
  /-- fsqrt (R195): Floating square root, fixed latency. -/
  | fsqrt (d : BitVec 6) (a : BitVec 6) (l : BitVec 4) (w : BitVec 1)
  /-- feq (R196): Floating equality compare. -/
  | feq (d : BitVec 6) (a : BitVec 6) (b : BitVec 6) (w : BitVec 1)
  /-- flt (R196): Floating less-than compare. -/
  | flt (d : BitVec 6) (a : BitVec 6) (b : BitVec 6) (w : BitVec 1)
  /-- fle (R196): Floating less-or-equal compare. -/
  | fle (d : BitVec 6) (a : BitVec 6) (b : BitVec 6) (w : BitVec 1)
  /-- fclass (R196): One-hot class of a floating value. -/
  | fclass (d : BitVec 6) (a : BitVec 6) (w : BitVec 1)
  /-- fcvt (R198): Scalar format conversion, optionally scaled, trapping NARROW_RANGE before issue. -/
  | fcvt (d : BitVec 6) (a : BitVec 6) (b : BitVec 6) (x : BitVec 1) (y : BitVec 3) (z : BitVec 3)
  /-- vfadd (R209): Masked lanewise floating add. -/
  | vfadd (d : BitVec 6) (a : BitVec 6) (b : BitVec 6) (m : BitVec 3) (w : BitVec 1)
  /-- vfsub (R209): Masked lanewise floating subtract. -/
  | vfsub (d : BitVec 6) (a : BitVec 6) (b : BitVec 6) (m : BitVec 3) (w : BitVec 1)
  /-- vfmul (R209): Masked lanewise floating multiply. -/
  | vfmul (d : BitVec 6) (a : BitVec 6) (b : BitVec 6) (m : BitVec 3) (w : BitVec 1)
  /-- vfmin (R209): Masked lanewise floating minimum. -/
  | vfmin (d : BitVec 6) (a : BitVec 6) (b : BitVec 6) (m : BitVec 3) (w : BitVec 1)
  /-- vfmax (R209): Masked lanewise floating maximum. -/
  | vfmax (d : BitVec 6) (a : BitVec 6) (b : BitVec 6) (m : BitVec 3) (w : BitVec 1)
  /-- vfsgn (R209): Lanewise sign copy. -/
  | vfsgn (d : BitVec 6) (a : BitVec 6) (b : BitVec 6) (m : BitVec 3) (w : BitVec 1)
  /-- vfsgnn (R209): Lanewise inverted sign copy. -/
  | vfsgnn (d : BitVec 6) (a : BitVec 6) (b : BitVec 6) (m : BitVec 3) (w : BitVec 1)
  /-- vfsgnx (R209): Lanewise sign xor. -/
  | vfsgnx (d : BitVec 6) (a : BitVec 6) (b : BitVec 6) (m : BitVec 3) (w : BitVec 1)
  /-- vand (R209): Lanewise and of 32-bit lanes. -/
  | vand (d : BitVec 6) (a : BitVec 6) (b : BitVec 6) (m : BitVec 3)
  /-- vor (R209): Lanewise or of 32-bit lanes. -/
  | vor (d : BitVec 6) (a : BitVec 6) (b : BitVec 6) (m : BitVec 3)
  /-- vxor (R209): Lanewise exclusive-or of 32-bit lanes. -/
  | vxor (d : BitVec 6) (a : BitVec 6) (b : BitVec 6) (m : BitVec 3)
  /-- vandn (R209): Lanewise and-not of 32-bit lanes. -/
  | vandn (d : BitVec 6) (a : BitVec 6) (b : BitVec 6) (m : BitVec 3)
  /-- vadd (R209): Lanewise integer add. -/
  | vadd (d : BitVec 6) (a : BitVec 6) (b : BitVec 6) (m : BitVec 3) (w : BitVec 1)
  /-- vsub (R209): Lanewise integer subtract. -/
  | vsub (d : BitVec 6) (a : BitVec 6) (b : BitVec 6) (m : BitVec 3) (w : BitVec 1)
  /-- vmul (R209): Lanewise integer multiply, low bits. -/
  | vmul (d : BitVec 6) (a : BitVec 6) (b : BitVec 6) (m : BitVec 3) (w : BitVec 1)
  /-- vmin (R209): Lanewise signed minimum. -/
  | vmin (d : BitVec 6) (a : BitVec 6) (b : BitVec 6) (m : BitVec 3) (w : BitVec 1)
  /-- vmax (R209): Lanewise signed maximum. -/
  | vmax (d : BitVec 6) (a : BitVec 6) (b : BitVec 6) (m : BitVec 3) (w : BitVec 1)
  /-- vsll (R209): Lanewise shift left. -/
  | vsll (d : BitVec 6) (a : BitVec 6) (b : BitVec 6) (m : BitVec 3) (w : BitVec 1)
  /-- vsrl (R209): Lanewise logical shift right. -/
  | vsrl (d : BitVec 6) (a : BitVec 6) (b : BitVec 6) (m : BitVec 3) (w : BitVec 1)
  /-- vsra (R209): Lanewise arithmetic shift right. -/
  | vsra (d : BitVec 6) (a : BitVec 6) (b : BitVec 6) (m : BitVec 3) (w : BitVec 1)
  /-- vfma (R210): Lanewise fused x*y+z into v[d]. -/
  | vfma (d : BitVec 6) (a : BitVec 6) (b : BitVec 6) (m : BitVec 3) (w : BitVec 1)
  /-- vfms (R210): Lanewise fused x*y-z. -/
  | vfms (d : BitVec 6) (a : BitVec 6) (b : BitVec 6) (m : BitVec 3) (w : BitVec 1)
  /-- vfnma (R210): Lanewise fused -(x*y)+z. -/
  | vfnma (d : BitVec 6) (a : BitVec 6) (b : BitVec 6) (m : BitVec 3) (w : BitVec 1)
  /-- vfnms (R210): Lanewise fused -(x*y)-z. -/
  | vfnms (d : BitVec 6) (a : BitVec 6) (b : BitVec 6) (m : BitVec 3) (w : BitVec 1)
  /-- vfeq (R211): Floating equality compare into a mask. -/
  | vfeq (d : BitVec 3) (a : BitVec 6) (b : BitVec 6) (m : BitVec 3) (w : BitVec 1)
  /-- vflt (R211): Floating less-than compare into a mask. -/
  | vflt (d : BitVec 3) (a : BitVec 6) (b : BitVec 6) (m : BitVec 3) (w : BitVec 1)
  /-- vfle (R211): Floating less-or-equal compare into a mask. -/
  | vfle (d : BitVec 3) (a : BitVec 6) (b : BitVec 6) (m : BitVec 3) (w : BitVec 1)
  /-- veq (R211): Integer equality compare into a mask. -/
  | veq (d : BitVec 3) (a : BitVec 6) (b : BitVec 6) (m : BitVec 3) (w : BitVec 1)
  /-- vlt (R211): Signed less-than compare into a mask. -/
  | vlt (d : BitVec 3) (a : BitVec 6) (b : BitVec 6) (m : BitVec 3) (w : BitVec 1)
  /-- vltu (R211): Unsigned less-than compare into a mask. -/
  | vltu (d : BitVec 3) (a : BitVec 6) (b : BitVec 6) (m : BitVec 3) (w : BitVec 1)
  /-- mand (R212): Mask and. -/
  | mand (d : BitVec 3) (a : BitVec 3) (b : BitVec 3)
  /-- mor (R212): Mask or. -/
  | mor (d : BitVec 3) (a : BitVec 3) (b : BitVec 3)
  /-- mxor (R212): Mask exclusive-or. -/
  | mxor (d : BitVec 3) (a : BitVec 3) (b : BitVec 3)
  /-- mandn (R212): Mask and-not. -/
  | mandn (d : BitVec 3) (a : BitVec 3) (b : BitVec 3)
  /-- mnot (R212): Mask complement. -/
  | mnot (d : BitVec 3) (a : BitVec 3)
  /-- mpopc (R212): Counts mask bits into a general register. -/
  | mpopc (d : BitVec 6) (a : BitVec 3)
  /-- mfirst (R212): Index of the lowest set mask bit. -/
  | mfirst (d : BitVec 6) (a : BitVec 3)
  /-- mlast (R212): Index of the highest set mask bit. -/
  | mlast (d : BitVec 6) (a : BitVec 3)
  /-- mlen (R212): Sets the low min(g[a],16) mask bits. -/
  | mlen (d : BitVec 3) (a : BitVec 6)
  /-- vsel (R213): Selects lanes of two vectors by a mask. -/
  | vsel (d : BitVec 6) (a : BitVec 6) (b : BitVec 6) (m : BitVec 3) (w : BitVec 1)
  /-- vbcast (R213): Broadcasts a general register into active lanes. -/
  | vbcast (d : BitVec 6) (a : BitVec 6) (m : BitVec 3) (w : BitVec 1)
  /-- vins (R213): Inserts a general register into one lane. -/
  | vins (d : BitVec 6) (a : BitVec 6) (b : BitVec 6) (w : BitVec 1)
  /-- vext.w.z (R213): Extracts a 32-bit lane, zero-extended. -/
  | vextWZ (d : BitVec 6) (a : BitVec 6) (b : BitVec 6)
  /-- vext.w.s (R213): Extracts a 32-bit lane, sign-extended. -/
  | vextWS (d : BitVec 6) (a : BitVec 6) (b : BitVec 6)
  /-- vext.d (R213): Extracts a 64-bit lane. -/
  | vextD (d : BitVec 6) (a : BitVec 6) (b : BitVec 6)
  /-- vperm (R214): Permutes lanes by an index vector. -/
  | vperm (d : BitVec 6) (a : BitVec 6) (b : BitVec 6) (m : BitVec 3) (w : BitVec 1)
  /-- vrot (R214): Rotates lanes by a register amount. -/
  | vrot (d : BitVec 6) (a : BitVec 6) (b : BitVec 6) (m : BitVec 3) (w : BitVec 1)
  /-- vfredsum (R216): Floating sum reduction in the fixed tree. -/
  | vfredsum (d : BitVec 6) (a : BitVec 6) (m : BitVec 3) (w : BitVec 1)
  /-- vfredmin (R216): Floating minimum reduction. -/
  | vfredmin (d : BitVec 6) (a : BitVec 6) (m : BitVec 3) (w : BitVec 1)
  /-- vfredmax (R216): Floating maximum reduction. -/
  | vfredmax (d : BitVec 6) (a : BitVec 6) (m : BitVec 3) (w : BitVec 1)
  /-- vredadd (R216): Integer sum reduction. -/
  | vredadd (d : BitVec 6) (a : BitVec 6) (m : BitVec 3) (w : BitVec 1)
  /-- vredmin (R216): Signed minimum reduction. -/
  | vredmin (d : BitVec 6) (a : BitVec 6) (m : BitVec 3) (w : BitVec 1)
  /-- vredmax (R216): Signed maximum reduction. -/
  | vredmax (d : BitVec 6) (a : BitVec 6) (m : BitVec 3) (w : BitVec 1)
  /-- vcvt (R218): Lanewise format conversion, trapping NARROW_RANGE before issue. -/
  | vcvt (d : BitVec 6) (a : BitVec 6) (b : BitVec 6) (m : BitVec 3) (c : BitVec 4)
  /-- vld (R220): Masked unit-stride vector load. -/
  | vld (d : BitVec 6) (a : BitVec 6) (b : BitVec 3) (l : BitVec 4) (w : BitVec 1)
  /-- vlds (R220): Strided vector load. -/
  | vlds (d : BitVec 6) (a : BitVec 6) (b : BitVec 6) (l : BitVec 4) (w : BitVec 1)
  /-- vldx (R220): Indexed vector load. -/
  | vldx (d : BitVec 6) (a : BitVec 6) (b : BitVec 6) (l : BitVec 4) (w : BitVec 1)
  /-- vst (R224): Masked unit-stride vector store into the posted-store queue. -/
  | vst (a : BitVec 6) (b : BitVec 6) (w : BitVec 1) (m : BitVec 3)
  /-- vsts (R224): Strided vector store. -/
  | vsts (r : BitVec 6) (a : BitVec 6) (b : BitVec 6) (w : BitVec 1)
  /-- vstx (R224): Indexed vector store. -/
  | vstx (r : BitVec 6) (a : BitVec 6) (b : BitVec 6) (w : BitVec 1)
  /-- mma (R231): Multiplies the tiles at pp of two rings into an accumulator via the command queue. -/
  | mma (d : BitVec 3) (a : BitVec 4) (b : BitVec 4) (l : BitVec 4) (z : BitVec 1) (y : BitVec 1) (x : BitVec 1)
  /-- accld (R238): Loads an accumulator image from the scratchpad. -/
  | accld (d : BitVec 3) (a : BitVec 6) (l : BitVec 4)
  /-- accst (R238): Stores an accumulator image to the scratchpad. -/
  | accst (d : BitVec 3) (a : BitVec 6) (l : BitVec 4)
  /-- accdr (R239): Drains accumulator entries into the slot's vmq. -/
  | accdr (d : BitVec 3) (a : BitVec 6) (l : BitVec 4)
  /-- accz (R235): Zeroes an accumulator and clears its poison. -/
  | accz (d : BitVec 3)
  /-- accq (R236): Samples engine state into a general register. -/
  | accq (d : BitVec 6)
  /-- mxcfg (R234): Sets the thread's engine mode word. -/
  | mxcfg (a : BitVec 6)
  /-- tld.a (R124): Starts filling the ring slot at fp with an A-shape tile. -/
  | tldA (r : BitVec 4) (a : BitVec 6) (b : BitVec 6) (l : BitVec 4) (t : BitVec 3)
  /-- tld.b (R124): Starts filling the ring slot at fp with a B-shape tile. -/
  | tldB (r : BitVec 4) (a : BitVec 6) (b : BitVec 6) (l : BitVec 4) (t : BitVec 3)
  /-- tst (R125): Writes the tile at pp to its tensor and pops the slot. -/
  | tst (r : BitVec 4) (a : BitVec 6) (b : BitVec 6) (l : BitVec 4) (t : BitVec 3)
  /-- tst.keep (R125): Writes the tile at pp to its tensor and keeps the slot. -/
  | tstKeep (r : BitVec 4) (a : BitVec 6) (b : BitVec 6) (l : BitVec 4) (t : BitVec 3)
  /-- tdset.base (R127): Writes word 0 (base) of a tensor descriptor. -/
  | tdsetBase (d : BitVec 3) (a : BitVec 6)
  /-- tdset.dims (R127): Writes word 1 (dims) of a tensor descriptor. -/
  | tdsetDims (d : BitVec 3) (a : BitVec 6)
  /-- tdset.strides (R127): Writes word 2 (strides) of a tensor descriptor. -/
  | tdsetStrides (d : BitVec 3) (a : BitVec 6)
  /-- tdset.form (R127): Writes word 3 (pad, sc, fmt) of a tensor descriptor. -/
  | tdsetForm (d : BitVec 3) (a : BitVec 6)
  /-- tdset.scale (R127): Writes word 4 (scale table base and stride) of a tensor descriptor. -/
  | tdsetScale (d : BitVec 3) (a : BitVec 6)
  /-- ringcfg (R128): Configures a ring, parking until it is idle, and empties its slots. -/
  | ringcfg (d : BitVec 4) (a : BitVec 6) (b : BitVec 6)
  /-- ringqry (R129): Samples a ring's state. -/
  | ringqry (d : BitVec 6) (a : BitVec 4)
  /-- tqry (R130): Samples one tile-table entry. -/
  | tqry (d : BitVec 6) (a : BitVec 4) (b : BitVec 6)
  /-- rowact (R86): Queues an activation of a vault row. -/
  | rowact (a : BitVec 6) (l : BitVec 4)
  /-- rowpre (R86): Queues a precharge of a bank's open row. -/
  | rowpre (a : BitVec 6) (l : BitVec 4)
  /-- vqry (R87): Samples a bank's state. -/
  | vqry (d : BitVec 6) (a : BitVec 6) (l : BitVec 4)
  /-- go2d (R250): Exact 2-D orientation on eight lanes. -/
  | go2d (d : BitVec 6) (a : BitVec 6) (l : BitVec 4) (n : BitVec 1) (s : BitVec 1) (m : BitVec 3)
  /-- go3d (R250): Exact 3-D orientation on eight lanes. -/
  | go3d (d : BitVec 6) (a : BitVec 6) (l : BitVec 4) (n : BitVec 1) (s : BitVec 1) (m : BitVec 3)
  /-- ginc (R250): Exact in-circle test on eight lanes. -/
  | ginc (d : BitVec 6) (a : BitVec 6) (l : BitVec 4) (n : BitVec 1) (s : BitVec 1) (m : BitVec 3)
  /-- gins (R250): Exact in-sphere test on eight lanes. -/
  | gins (d : BitVec 6) (a : BitVec 6) (l : BitVec 4) (n : BitVec 1) (s : BitVec 1) (m : BitVec 3)
  /-- gsegx (R243): Exact segment intersection test on eight lanes. -/
  | gsegx (d : BitVec 6) (a : BitVec 6) (l : BitVec 4) (n : BitVec 1) (s : BitVec 1) (m : BitVec 3)
  /-- gpcfg (R252): Sets the thread's predicate mode word. -/
  | gpcfg (a : BitVec 6)
  /-- bbset.r (R262): Sets the bit buffer to read a stream range. -/
  | bbsetR (a : BitVec 6) (b : BitVec 6)
  /-- bbset.w (R262): Sets the bit buffer to write a stream range. -/
  | bbsetW (a : BitVec 6) (b : BitVec 6)
  /-- bget (R262): Takes n bits from the window. -/
  | bget (d : BitVec 6) (a : BitVec 6)
  /-- bpeek (R262): Reads n bits without consuming them. -/
  | bpeek (d : BitVec 6) (a : BitVec 6)
  /-- bpeek.pos (R262): Returns the stream position. -/
  | bpeekPos (d : BitVec 6)
  /-- bskip (R262): Discards n bits. -/
  | bskip (a : BitVec 6)
  /-- bput (R262): Appends n bits to the window. -/
  | bput (a : BitVec 6) (b : BitVec 6)
  /-- bflush (R262): Pads and spills the write window. -/
  | bflush (d : BitVec 6)
  /-- balign (R262): Aligns the stream to a byte boundary. -/
  | balign (d : BitVec 6)
  /-- tdec (R265): Table-driven decode of count symbols from the bit buffer. -/
  | tdec (d : BitVec 6) (a : BitVec 6) (b : BitVec 6) (l : BitVec 4)
  /-- ldec (R266): Starts up to eight chunk-decoding lanes. -/
  | ldec (d : BitVec 6) (a : BitVec 6) (b : BitVec 6) (l : BitVec 4)
  /-- lmerge (R267): Writes decoded lane symbols in stream order. -/
  | lmerge (d : BitVec 6) (a : BitVec 6) (l : BitVec 4)
  /-- zrenc (R270): Encodes words as ZR tokens through the bit buffer. -/
  | zrenc (d : BitVec 6) (a : BitVec 6) (b : BitVec 6) (l : BitVec 4)
  /-- zrenc.end (R270): Encodes words as ZR tokens and appends END. -/
  | zrencEnd (d : BitVec 6) (a : BitVec 6) (b : BitVec 6) (l : BitVec 4)
  /-- rget (R281): Remote read of 1-8 bytes, zero-extending. -/
  | rget (d : BitVec 6) (a : BitVec 6) (l : BitVec 4) (s : BitVec 2)
  /-- rget.v (R281): Remote read of 64 bytes into a vector. -/
  | rgetV (d : BitVec 6) (a : BitVec 6) (l : BitVec 4)
  /-- rget.s (R281): Remote read of 1-4 bytes, sign-extending. -/
  | rgetS (d : BitVec 6) (a : BitVec 6) (l : BitVec 4) (s : BitVec 2)
  /-- rput (R281): Remote write of 1-8 bytes. -/
  | rput (a : BitVec 6) (b : BitVec 6) (l : BitVec 4) (s : BitVec 2)
  /-- rput.v (R281): Remote write of 64 bytes from a vector. -/
  | rputV (a : BitVec 6) (b : BitVec 6) (l : BitVec 4)
  /-- ratom (R282): Remote atomic 8-byte read-modify-write. -/
  | ratom (d : BitVec 6) (a : BitVec 6) (b : BitVec 6) (l : BitVec 4) (o : BitVec 3)
  /-- amsend (R283): Sends an active message to run a user handler at a home. -/
  | amsend (d : BitVec 6) (a : BitVec 6) (b : BitVec 6) (l : BitVec 4)
  /-- amret (R286): Ends a user handler and sends its reply. -/
  | amret (a : BitVec 6)
  /-- msend (R288): Sends a two-word mailbox message at a priority. -/
  | msend (d : BitVec 6) (a : BitVec 6) (b : BitVec 6) (l : BitVec 4) (p : BitVec 2)
  /-- mrecv (R289): Receives one mailbox message by priority and skip counts. -/
  | mrecv (d : BitVec 6) (a : BitVec 6) (l : BitVec 4)
  /-- mprobe (R290): Samples the mailbox. -/
  | mprobe (d : BitVec 6) (a : BitVec 6)
  /-- ctxalloc (R301): Requests a tag from the allocator. -/
  | ctxalloc (d : BitVec 6) (l : BitVec 4)
  /-- ctxseal (R302): Seals a tag at every home of a scope. -/
  | ctxseal (a : BitVec 6) (b : BitVec 6) (l : BitVec 4)
  /-- ctxret (R303): Retires a tag, freeing its cells. -/
  | ctxret (a : BitVec 6) (l : BitVec 4)
  /-- ctxmrg (R304): Seals, merges masked cell bytes into the base, then retires a tag. -/
  | ctxmrg (a : BitVec 6) (l : BitVec 4)
  /-- ldx.now (R306): Reads a line as a tag, sealed cell or base. -/
  | ldxNow (d : BitVec 6) (a : BitVec 6) (b : BitVec 6) (l : BitVec 4)
  /-- ldx.wait (R306): Waits for a tag's seal at the home, then reads. -/
  | ldxWait (d : BitVec 6) (a : BitVec 6) (b : BitVec 6) (l : BitVec 4)
  /-- ldx.probe (R306): Returns a tag's cell state at the home. -/
  | ldxProbe (d : BitVec 6) (a : BitVec 6) (b : BitVec 6) (l : BitVec 4)
  /-- ctxset (R308): Writes the thread's ctx tag. -/
  | ctxset (a : BitVec 6)
  /-- frnset (R313): Raises the core frontier after a package-scope release. -/
  | frnset (d : BitVec 6) (a : BitVec 6)
  /-- frnget (R314): Reads gfrn with acquire. -/
  | frnget (d : BitVec 6)
  /-- frnget.wait (R314): Parks until gfrn reaches a threshold, then reads it. -/
  | frngetWait (d : BitVec 6) (a : BitVec 6)
  /-- fence (R333): Full fence waiting for earlier writes at a scope. -/
  | fence (b : BitVec 6)
  /-- fence.acq (R333): Acquire-only fence. -/
  | fenceAcq (b : BitVec 6)
  /-- bararr (R368): Arrives at a barrier after a release. -/
  | bararr (d : BitVec 6) (a : BitVec 6) (b : BitVec 6) (l : BitVec 4)
  /-- barwait (R368): Waits until a barrier's generation changes. -/
  | barwait (a : BitVec 6) (b : BitVec 6) (l : BitVec 4)
  /-- barbytes (R368): Adds a signed byte count to a barrier's pending count. -/
  | barbytes (a : BitVec 6) (b : BitVec 6) (l : BitVec 4)
  /-- barqry (R369): Samples a barrier's status or pending count. -/
  | barqry (d : BitVec 6) (a : BitVec 6) (b : BitVec 6) (l : BitVec 4)
  /-- ctrwait (R107): Waits until a local counter reaches a threshold. -/
  | ctrwait (d : BitVec 6) (a : BitVec 6) (b : BitVec 6) (l : BitVec 4)
  /-- ctradd (R108): Atomic add to a local counter with core-scope release. -/
  | ctradd (d : BitVec 6) (a : BitVec 6) (b : BitVec 6) (l : BitVec 4)
  /-- fempty (R143): Marks a register empty, free. -/
  | fempty (a : BitVec 6) (f : BitVec 2)
  /-- fetest (R143): Tests whether a register is full. -/
  | fetest (d : BitVec 6) (a : BitVec 6) (f : BitVec 2)
  /-- spawn (R157): Starts a dormant crew member with copied registers. -/
  | spawn (d : BitVec 6) (a : BitVec 6) (b : BitVec 6) (l : BitVec 4)
  /-- launch (R362): Copies a packet into a launch queue. -/
  | launch (d : BitVec 6) (a : BitVec 6) (b : BitVec 6) (l : BitVec 4)
  /-- wlqry (R365): Samples the work list length and inflight count. -/
  | wlqry (d : BitVec 6)
  /-- pbind (R150): Sets wrap bits after the edge ports are quiet. -/
  | pbind (a : BitVec 6)
  /-- pqry (R151): Samples one port's binding, credits and occupancy. -/
  | pqry (d : BitVec 6) (a : BitVec 6)
  /-- csrrd (R199): Reads a CSR. -/
  | csrrd (d : BitVec 6) (c : BitVec 12)
  /-- csrwr (R199): Writes a CSR, returning the old value. -/
  | csrwr (d : BitVec 6) (a : BitVec 6) (c : BitVec 12)
  /-- csrset (R199): Sets CSR bits. -/
  | csrset (d : BitVec 6) (a : BitVec 6) (c : BitVec 12)
  /-- csrclr (R199): Clears CSR bits. -/
  | csrclr (d : BitVec 6) (a : BitVec 6) (c : BitVec 12)
  /-- trap (R379): Raises SOFT_TRAP with detail from g[a]. -/
  | trap (a : BitVec 6)
  /-- texit (R364): Ends the thread, making it dormant or returning slot 15 to sleep. -/
  | texit
  /-- tret (R380): Returns from the user trap handler to tpc. -/
  | tret
  /-- idem (R382): Opens an idempotent region. -/
  | idem
  /-- ebrk (R381): Debug breakpoint stop when armed. -/
  | ebrk
  /-- DIVIDE_COMPLETION (R186): A pending integer divide or remainder fills its destination. -/
  | divideCompletion (c sl id : Nat)
  /-- LOAD_COMPLETION (R80): A pending local load, LDA or vector load fills its destination, with poison if any byte is poisoned. -/
  | loadCompletion (c sl id : Nat)
  /-- POSTED_STORE_PERFORMED (R82): A posted-store queue entry is accepted and performed at its bank. -/
  | postedStorePerformed (c sl id : Nat)
  /-- AMO_COMPLETION (R336): The read-modify-write of an AMO is performed at its bank and the old value returned. -/
  | amoCompletion (c sl id : Nat)
  /-- FDIV_COMPLETION (R195): A pending divide or square root fills its destination and ORs its flags. -/
  | fdivCompletion (c sl id : Nat)
  /-- ENGINE_COMMAND_START (R227): The oldest queued engine command starts when its unit and accumulator are free. -/
  | engineCommandStart (c : Nat)
  /-- MMA_COMPLETION (R231): An MMA writes its accumulator, ORs flags, empties popped slots and releases its lock. -/
  | mmaCompletion (c sl id : Nat)
  /-- ACC_PORT_COMPLETION (R238): An ACCLD, ACCST or ACCDR completes on the accumulator port and releases its lock. -/
  | accPortCompletion (c sl id : Nat)
  /-- TILE_LOAD_READY (R124): A tile fill's last byte or scale arrives; the slot becomes ready and completion posts. -/
  | tileLoadReady (c sl id : Nat)
  /-- TST_COMPLETION (R125): A tile store's writes are performed; completion posts and the slot state changes. -/
  | tstCompletion (c sl id : Nat)
  /-- PREDICATE_COMPLETION (R250): A pending predicate fills its destination and replaces gstat. -/
  | predicateCompletion (c sl id : Nat)
  /-- BB_REFILL (R258): The bit buffer reads the doubleword holding bit rp when valid falls to 64 or below. -/
  | bbRefill (c : Nat)
  /-- BB_REFILL_ARRIVAL (R258): A refill read completes and its bits join the window. -/
  | bbRefillArrival (c : Nat)
  /-- BB_SPILL (R258): The write window spills 64 bits as a posted store. -/
  | bbSpill (c : Nat)
  /-- TDEC_COMPLETION (R265): A TDEC finishes its symbols or takes a late fault. -/
  | tdecCompletion (c sl id : Nat)
  /-- LDEC_LANE_SYMBOL (R266): An LDEC lane decodes one symbol into its reorder queue. -/
  | ldecLaneSymbol (c lane : Nat)
  /-- LMERGE_COMPLETION (R267): An LMERGE finishes writing its symbols or faults on a stopped lane. -/
  | lmergeCompletion (c sl id : Nat)
  /-- ZRENC_COMPLETION (R270): A ZRENC finishes its words or faults beyond end. -/
  | zrencCompletion (c sl id : Nat)
  /-- TRANSFORM_WAKE (R254): The sleeping transform thread wakes after tq becomes non-empty. -/
  | transformWake (c : Nat)
  /-- REMOTE_COMPLETION (R277): A reply or acknowledgement is accepted at the issuer, completing or late-faulting the remote instruction. -/
  | remoteCompletion (id : Nat)
  /-- MESSAGE_ACCEPT (R275): A message arrives at a core and enters the vault agent's input buffer. -/
  | messageAccept (id : Nat)
  /-- HOME_RGET (R281): The vault agent translates and reads for an RGET and sends the reply. -/
  | homeRget (c : Nat)
  /-- HOME_RPUT (R281): The vault agent translates and writes for an RPUT and acknowledges. -/
  | homeRput (c : Nat)
  /-- HOME_RATOM (R282): The home performs an atomic read-modify-write and replies. -/
  | homeRatom (c : Nat)
  /-- HOME_COPY_TRANSFER (R96): The home's vault agent writes a copy transfer message and acknowledges it. -/
  | homeCopyTransfer (c : Nat)
  /-- HOME_COPY_READ (R96): The home's vault agent reads for a copy read message and replies. -/
  | homeCopyRead (c : Nat)
  /-- HANDLER_START (R284): The vault agent starts a user handler in slot 13 for an AMSEND. -/
  | handlerStart (c : Nat)
  /-- MAILBOX_DEPOSIT (R288): The home deposits an MSEND in its priority queue and acknowledges, or refuses when full. -/
  | mailboxDeposit (id : Nat)
  /-- MESSAGE_RETRY (R276): 64 rc after a refusal is accepted, the sender re-sends the message. -/
  | messageRetry (id : Nat)
  /-- PAGE_LINE_COPY (R291): A migrating page's home copies one 64-byte line to the new home. -/
  | pageLineCopy (id : Nat)
  /-- ALLOCATOR_REQUEST (R301): The allocator serves a CTXALLOC, opening a tag at every core or queuing it. -/
  | allocatorRequest (id : Nat)
  /-- SEAL_MESSAGE (R302): A home's agent marks a tag and its private cells sealed and acknowledges. -/
  | sealMessage (c : Nat)
  /-- RETIRE_MESSAGE (R303): A home frees a tag's directory entries, fails pending LDX.wait and acknowledges. -/
  | retireMessage (c : Nat)
  /-- MERGE_MESSAGE (R304): A home writes a tag's masked cell bytes into base lines in directory order. -/
  | mergeMessage (c : Nat)
  /-- CELL_STORE_FULL (R298): The full-store counter reaches 2^20 and waiting tagged writes fail. -/
  | cellStoreFull (c : Nat)
  /-- SADDLE_TREE_PUBLISH (R311): Every 256 rc the saddle tree publishes each ASID's minimum frontier as gfrn. -/
  | saddleTreePublish
  /-- BARRIER_REPORT (R366): A core's .ridge report reaches the origin core. -/
  | barrierReport (id : Nat)
  /-- BARRIER_RELEASE (R366): The origin's release reaches a core, completing the .ridge generation there. -/
  | barrierRelease (id : Nat)
  /-- PORT_PUSH (R145): A write to a port window pushes one entry using a credit. -/
  | portPush (c sl port : Nat) (v : BitVec 512)
  /-- PORT_POP (R145): A read of a port window pops the oldest entry and returns a credit. -/
  | portPop (c sl port : Nat)
  /-- PORT_ENTRY_ARRIVAL (R437): A pushed entry reaches the receiving queue after its path delay. -/
  | portEntryArrival (id : Nat)
  /-- PORT_CREDIT_RETURN (R145): A returned credit reaches the sender. -/
  | portCreditReturn (id : Nat)
  /-- WL_PUSH (R153): A write to wl pushes a work-list entry with core-scope release. -/
  | wlPush (c sl : Nat) (v : BitVec 64)
  /-- WL_POP (R153): A read of wl pops the oldest entry with acquire. -/
  | wlPop (c sl : Nat)
  /-- TQ_PUSH (R153): A write to tq pushes a transform-queue entry. -/
  | tqPush (c sl : Nat) (v : BitVec 64)
  /-- TQ_POP (R153): Slot 15 pops tq, sleeping while it is empty. -/
  | tqPop (c : Nat)
  /-- VMQ_POP (R208): A read of vmq pops the oldest drained accumulator entry. -/
  | vmqPop (c sl : Nat)
  /-- CQ_PUSH (R88): A write to cq stages one request word in the slot's staging buffer. -/
  | cqPush (c sl : Nat) (v : BitVec 64)
  /-- COPY_REQUEST_START (R441): A committed request starts when fewer than four are active. -/
  | copyRequestStart (c : Nat)
  /-- COPY_BEAT (R97): The movement thread issues the next beat or message of an active request. -/
  | copyBeat (c : Nat)
  /-- COPY_WRITE_PERFORMED (R100): A copy destination write is performed or acknowledged, decrementing its barrier. -/
  | copyWritePerformed (id : Nat)
  /-- COPY_COMPLETION (R100): After every destination write is performed, the counter add posts. -/
  | copyCompletion (c id : Nat)
  /-- BANK_SERVE (R69): A vault bank serves its next queued access, precharging and activating as allowed. -/
  | bankServe (c b : Nat)
  /-- ACTIVATION_COMPLETE (R68): An activating row becomes open 18 cc after it began. -/
  | activationComplete (c b : Nat)
  /-- PRECHARGE_COMPLETE (R68): A precharging bank becomes closed 18 cc after it began. -/
  | prechargeComplete (c b : Nat)
  /-- TRANSFER_BEAT (R69): A tile, copy or scalar beat takes the vault bus in a cycle. -/
  | transferBeat (c : Nat)
  /-- REFRESH_NOTICE (R72): 64 cc before a refresh, the bank's notice begins and vevt shows it. -/
  | refreshNotice (c b : Nat)
  /-- REFRESH_START (R71): A scheduled per-bank refresh begins, closing the row and stopping transfers. -/
  | refreshStart (c b : Nat)
  /-- REFRESH_END (R71): A refresh or repair ends and the bank resumes, reactivating stopped transfers. -/
  | refreshEnd (c b : Nat)
  /-- THERMAL_STATE_CHANGE (R75): The vault's thermal state changes with its DRAM temperature. -/
  | thermalStateChange (c : Nat) (t : BitVec 2)
  /-- SCRATCH_SCRUB (R113): A corrected scratchpad half is written back in the first idle bank cycle. -/
  | scratchScrub (c addr : Nat)
  /-- FAR_READ (R57): A far agent reads, checks CRC, rebuilds, checks the tag and returns a block. -/
  | farRead (j : Nat)
  /-- FAR_WRITE (R60): A far agent writes whole blocks or read-modify-writes a partial block. -/
  | farWrite (j : Nat)
  /-- FAR_PORT_DOWN (R63): A CXL port's link goes down; its agents answer requests with FAR_PORT_DOWN. -/
  | farPortDown (p : Nat)
  /-- FAR_PORT_RESTORE (R63): The port retrains and firmware restores the HDM decoder. -/
  | farPortRestore (p cap : Nat)
  /-- INSTRUCTION_STORE_MISS (R340): An issue at a non-resident line starts a 2 KiB refill read. -/
  | instructionStoreMiss (c sl : Nat)
  /-- REFILL_COMPLETE (R340): A refill line arrives in the instruction store and stalled threads issue. -/
  | refillComplete (c : Nat)
  /-- COMPARATOR_TIMEOUT (R386): A comparator entry unmatched for 4,096 cc is a mismatch. -/
  | comparatorTimeout (c pair : Nat)
  /-- TIMING_REPLAY (R388): A detector flags a timing error and the instruction replays 16 cc later. -/
  | timingReplay (c sl : Nat)
  /-- QUEUE_DOORBELL (R424): A doorbell write sets a launch queue's tail count. -/
  | queueDoorbell (q tail : Nat)
  /-- PACKET_CHECK (R345): A packet becoming head is checked; failure refuses the launch. -/
  | packetCheck (q : Nat)
  /-- DEPENDENCE_POLL (R346): Every 256 rc the sequencer reads dependence counters. -/
  | dependencePoll (l : Nat)
  /-- LEASING_COMPLETE (R346): All global lease entries are resident and pinned. -/
  | leasingComplete (l : Nat)
  /-- PLACEMENT_ARBITRATION (R347): The partition arbiter places the next instance or chooses pre-emption victims. -/
  | placementArbitration (p : Nat)
  /-- COMMON_START (R349): Members of a placed or resumed instance start at the common start cycle. -/
  | commonStart (r : Nat)
  /-- INSTANCE_END (R354): An instance ends, releasing leases and tags and advancing done. -/
  | instanceEnd (r : Nat)
  /-- GRACE_EXPIRY (R390): A victim's grace expires and each core quiesces and saves. -/
  | graceExpiry (r : Nat)
  /-- SAVE_COMPLETE (R390): Every core has written its save image and the instance is saved. -/
  | saveComplete (r : Nat)
  /-- LOAD_LEVELLING (R355): Each levelling interval a core ships surplus work-list entries to a neighbour. -/
  | loadLevelling (c : Nat)
  /-- WL_SHIPMENT_ARRIVAL (R355): Shipped entries arrive and are appended or returned. -/
  | wlShipmentArrival (id : Nat)
  /-- POWER_WINDOW (R357): At each 1,024-rc window end the controller takes or undoes one power step. -/
  | powerWindow (c avg : Nat)
  /-- CLOCK_PAUSE_END (R356): A frequency-change pause ends and the clock resumes. -/
  | clockPauseEnd (c : Nat)
  /-- CAP_LEASE_EXPIRY (R359): A cap's lease expires and the safe floor applies. -/
  | capLeaseExpiry
  /-- DBG_STOP (R401): Debug command op 1 stops named threads. -/
  | dbgStop (c : Nat) (slots : BitVec 16)
  /-- DBG_RESUME (R402): Debug command op 2 resumes stopped threads. -/
  | dbgResume (c : Nat) (slots : BitVec 16)
  /-- DBG_STEP (R402): Debug command op 3 steps one instruction. -/
  | dbgStep (c : Nat) (slots : BitVec 16)
  /-- DBG_LATCH (R398): Debug command op 4 latches live counters at the rotation end. -/
  | dbgLatch (c : Nat)
  /-- DBG_CLEAR_ACCOUNT (R398): Debug command op 5 clears live counters at the rotation end. -/
  | dbgClearAccount (c : Nat)
  /-- DBG_START_TRACE (R405): Debug command op 6 is a trace start condition. -/
  | dbgStartTrace (c : Nat)
  /-- DBG_STOP_TRACE (R405): Debug command op 7 is a trace stop condition. -/
  | dbgStopTrace (c : Nat)
  /-- TRGCTL_WRITE (R405): A trgctl write makes trace inactive and clears tlost. -/
  | trgctlWrite (c : Nat) (v : BitVec 64)
  /-- SMPCTL_WRITE (R399): An smpctl write restarts the sampler's rotation count. -/
  | smpctlWrite (c : Nat) (v : BitVec 64)
  /-- THREAD_WINDOW_WRITE (R404): A write to a stopped thread's window changes its state or is refused. -/
  | threadWindowWrite (c sl off : Nat) (v : BitVec 64)
  /-- REGISTER_WRITE (R396): A write to a debug or control register with no behaviour of its own. -/
  | registerWrite (c off : Nat) (v : BitVec 64)
  /-- BREAKPOINT_CYCLE_MATCH (R400): A kind-4 comparator matches the cycle count. -/
  | breakpointCycleMatch (c n : Nat)
  /-- SAMPLE_RECORD (R399): Every n-th rotation the sampler writes a sample record. -/
  | sampleRecord (c : Nat)
  /-- TRACE_DRAIN (R408): The core drains trace records to the trace buffer. -/
  | traceDrain (c : Nat)
  /-- PRE_IMAGE_COPY (R409): Before a page's first touch the home copies it into the cairn. -/
  | preImageCopy (page : Nat)
  /-- LOCKSTEP_WINDOW_COMPARE (R414): At each 4,096-cycle window end vault hashes are compared with the mirror. -/
  | lockstepWindowCompare (c : Nat)
  /-- RDMA_WRITE (R417): An RDMA WRITE is served at its home or Pacia space. -/
  | rdmaWrite (rkey : BitVec 32) (va : BitVec 64) (data : List (BitVec 8))
  /-- RDMA_READ (R417): An RDMA READ is served at its home or Pacia space. -/
  | rdmaRead (rkey : BitVec 32) (va : BitVec 64) (len : Nat)
  /-- RDMA_COMPARE_AND_SWAP (R416): An 8-byte RDMA compare-and-swap is served. -/
  | rdmaCompareAndSwap (rkey : BitVec 32) (va cmp swp : BitVec 64)
  /-- RDMA_FETCH_AND_ADD (R416): An 8-byte RDMA fetch-and-add is served. -/
  | rdmaFetchAndAdd (rkey : BitVec 32) (va add : BitVec 64)
  /-- RDMA_UNSUPPORTED (R416): An unsupported RoCE operation is answered with a NAK. -/
  | rdmaUnsupported (op : BitVec 8)
  /-- FLIT_RECEIVE (R420): A Dreard flit is accepted, discarded or triggers a replay request. -/
  | flitReceive (link : Nat) (bytes : List (BitVec 8))
  /-- FLIT_REPLAY (R420): On a replay request the sender resends unacknowledged flits. -/
  | flitReplay (link : Nat)
  /-- LINK_ACK_TIMER (R420): The receiver sends an acknowledgement at least every 256 rc. -/
  | linkAckTimer (link : Nat)
  /-- LANE_FAULT (R421): A lane fault stops the link and starts retraining or takes it down. -/
  | laneFault (link lane : Nat)
  /-- RETRAIN_COMPLETE (R421): Training succeeds and the link comes up and replays. -/
  | retrainComplete (link : Nat) (lo hi : Bool)
  /-- RETRAIN_TIMEOUT (R421): Retraining not complete within 4,000 rc takes the link down. -/
  | retrainTimeout (link : Nat)
  /-- SNAPSHOT_REWRITE (R425): Every 10 ms the device rewrites the snapshot. -/
  | snapshotRewrite
  /-- FEAT_REQ_WRITE (R426): A feat_req write latches the negotiated feature word. -/
  | featReqWrite (v : BitVec 128)
  /-- MODES_WRITE (R427): A modes write selects host-assisted functions. -/
  | modesWrite (v : BitVec 64)
  /-- DRAIN_WRITE (R353): A drain write drains the device or massifs. -/
  | drainWrite (v : BitVec 64)
  /-- CDRAIN_WRITE (R353): A cdrain write drains individual cores. -/
  | cdrainWrite (v : BitVec 1024)
  /-- HOST_ASSIST_ANSWER (R428): A host answer doorbell releases the waiting host-assisted request. -/
  | hostAssistAnswer (fn slot : Nat)
  /-- ASID_CREATE (R429): Command 0x01 creates an ASID with keys and grant. -/
  | asidCreate (slot asid ceil mw : Nat) (boost : Bool)
  /-- ASID_RELEASE (R429): Command 0x02 releases an ASID and destroys its keys. -/
  | asidRelease (slot asid : Nat)
  /-- GRANT_SET (R429): Command 0x03 sets an ASID's grant. -/
  | grantSet (slot asid ceil mw : Nat) (boost : Bool)
  /-- QUEUE_CREATE (R429): Command 0x04 creates a launch queue. -/
  | queueCreate (slot q asid : Nat) (ring : BitVec 64) (n : Nat)
  /-- QUEUE_DESTROY (R429): Command 0x05 destroys a launch queue. -/
  | queueDestroy (slot q : Nat)
  /-- CAP (R359): Command 0x06 delivers a rack cap message. -/
  | cap (slot seq watts ms : Nat)
  /-- DEVICE_NUMBER (R429): Command 0x07 sets the device number. -/
  | deviceNumber (slot n : Nat)
  /-- ROUTE_SET (R423): Command 0x08 loads routing entries under drain. -/
  | routeSet (slot first : Nat) (links : List Nat)
  /-- HOST_WINDOW (R418): Command 0x09 sets a host-window entry. -/
  | hostWindow (slot asid entry qp : Nat) (rkey : BitVec 32) (base : BitVec 64) (len : Nat)
  /-- CAPTURE_ARM (R409): Command 0x0A arms cairn capture on a queue. -/
  | captureArm (slot q : Nat)
  /-- CAIRN_REPLAY (R411): Command 0x0B replays a cairn. -/
  | cairnReplay (slot cairn q first n : Nat) (status : BitVec 64)
  /-- DEBUG_SESSION (R396): Command 0x0C opens or closes a debug session. -/
  | debugSession (slot asid : Nat)
  /-- RETRAIN (R421): Command 0x0D retrains a link on all 16 lanes. -/
  | retrain (slot link : Nat)
  /-- CORE_LIMIT (R428): Command 0x0E sets a core's power limit under host-assisted caps. -/
  | coreLimit (slot core mw : Nat)
  /-- ATTEST (R432): Command 0x0F writes a signed attestation report. -/
  | attest (slot n : Nat)
  /-- FIRMWARE_STAGE (R431): Command 0x10 checks and installs a signed firmware image. -/
  | firmwareStage (slot : Nat) (addr : BitVec 64) (len : Nat)
  /-- LOCKSTEP (R413): Command 0x11 sets lockstep replay mode. -/
  | lockstep (slot v : Nat)
  /-- UNKNOWN_COMMAND (R429): A command with an unlisted code returns status 2. -/
  | unknownCommand (slot code : Nat)
  /-- POWER_ON_RESET (R430): After reset the device verifies firmware, self-tests and publishes the first snapshot. -/
  | powerOnReset (fw bist : Bool) (caps : List Nat) (found : List (Nat × Option (Nat × Nat × BitVec 12)))
  /-- MANAGEMENT_WATCHDOG (R430): The management watchdog expires and the device reports DEVICE_LOST. -/
  | managementWatchdog
  /-- SOFT_ERROR (R113): A soft error flips bits of a scratchpad word, parity word or vault sector, which a later read corrects, rebuilds or marks poisoned. -/
  | softError (addr : Nat) (flip : BitVec 512) (parity : Nat)
  /-- STL_COMPLETION (R84): A pending store-release, after its earlier accesses are performed, writes at its scope and completes. -/
  | stlCompletion (c sl id : Nat)
  /-- CTRADD_COMPLETION (R108): A pending CTRADD performs its atomic read-modify-write of the counter, fills g[d] and wakes CTRWAITs on it. -/
  | ctraddCompletion (c sl id : Nat)
  /-- LDX_COMPLETION (R306): A pending local LDX reads the cell or base, or its .wait is satisfied by a seal, and fills g[d]. -/
  | ldxCompletion (c sl id : Nat)
  /-- VQRY_COMPLETION (R87): VQRY's sampled bank word is written to g[d] at issue plus 2 cc. -/
  | vqryCompletion (c sl id : Nat)
  /-- BARRIER_INSTRUCTION_COMPLETION (R368): BARARR, BARBYTES and BARQRY complete at issue plus 2 cc and fill g[d]. -/
  | barrierInstructionCompletion (c sl id : Nat)
  /-- MRECV_COMPLETION (R289): The three destinations of an issued MRECV become full 2 cc after it takes its message. -/
  | mrecvCompletion (c sl id : Nat)
  /-- PAGE_MIGRATION_START (R291): Firmware or the host begins moving an unleased page from home H to home H', which starts the line copies and the line-state tracking. -/
  | pageMigrationStart (asid : Nat) (va : BitVec 64) (home off : Nat)
  /-- TRAINING_FAILURE (R421): Link training ends with success on neither 8-lane half, and the link goes down. -/
  | trainingFailure (link : Nat)
  /-- FLIT_SEND (R445): A link interface frames waiting outbound slots into a numbered flit at the link's rate and keeps it in the replay buffer. -/
  | flitSend (link : Nat)
  /-- ETHERNET_LINK_CHANGE (R425): An Ethernet port's link goes up or down, which changes its snapshot state and breaks or restores the RC queue pairs it serves. -/
  | ethernetLinkChange (port : Nat) (up : Bool)
  deriving DecidableEq, Repr

end Sys2Proof
end

