-- ==== Sys2Proof/WellFormed.lean ====
section
/-! DEFINITION. Which instructions some word encodes: the register numbers that 02 R34 (check 7) and each entry allow,
and the selectors that check 5 leaves assigned.  An event row has no word and is not well formed. -/

namespace Sys2Proof

/-- n ≤ k, as register numbers. -/
def le (n : BitVec 6) (k : Nat) : Bool := n.toNat ≤ k
/-- 1 ≤ n. -/
def ge1 (n : BitVec 6) : Bool := 1 ≤ n.toNat
/-- lo ≤ n ≤ hi. -/
def inr (n : BitVec 6) (lo hi : Nat) : Bool := lo ≤ n.toNat && n.toNat ≤ hi
/-- g0–g55: the entries that reserve 56–63 (R79, R180, R280 and others). -/
def g55 (n : BitVec 6) : Bool := le n 55
/-- A vector source (R207): v0–v47, the ports v56–v60, vmq v62. -/
def vSrc (n : BitVec 6) : Bool := le n 47 || inr n 56 60 || n == 62
/-- A vector destination (R207): v0–v47 and the ports v56–v60. -/
def vDst (n : BitVec 6) : Bool := le n 47 || inr n 56 60
/-- A scope code of R83 (codes 12–63 are unassigned). -/
def isScope (b : BitVec 6) : Bool := b.toNat < 12
/-- A form of BARARR (R367): .thread, .core, .ridge. -/
def isBarForm (b : BitVec 6) : Bool := b == 0 || b == 2 || b == 4
/-- An assigned conversion of op 0x26 (R197): the formats differ, one is floating or narrow, and a register scale only
with D8. -/
def fcvtAssigned (x : BitVec 1) (dst src : BitVec 3) : Bool :=
  dst != src && (dst.toNat ≤ 4 || src.toNat ≤ 4) && (x == 0 || dst == 4 || src == 4)
/-- The CSR numbers of R200. -/
def csrNumbers : List (BitVec 12) :=
  [0x001, 0x002, 0x003, 0x004, 0x005, 0x010, 0x011, 0x012, 0x020, 0x030, 0x031, 0x032, 0x040, 0x041, 0x042, 0x050,
   0x060, 0x070, 0x0F0, 0x0F1]
/-- A listed CSR number (R200; an unlisted number fails check 5 of R34). -/
def isCsr (c : BitVec 12) : Bool := csrNumbers.contains c

/-- Some word encodes this instruction. -/
def Instr.wf : Instr → Bool
  | .add _ _ _ => true
  | .sub _ _ _ => true
  | .and _ _ _ => true
  | .or _ _ _ => true
  | .xor _ _ _ => true
  | .andn _ _ _ => true
  | .sll _ _ _ => true
  | .srl _ _ _ => true
  | .sra _ _ _ => true
  | .ror _ _ _ => true
  | .slt _ _ _ => true
  | .sltu _ _ _ => true
  | .min _ _ _ => true
  | .minu _ _ _ => true
  | .max _ _ _ => true
  | .maxu _ _ _ => true
  | .addW _ _ _ => true
  | .subW _ _ _ => true
  | .adds _ _ _ => true
  | .subs _ _ _ => true
  | .addImmediate _ _ _ => true
  | .andImmediate _ _ _ => true
  | .orImmediate _ _ _ => true
  | .xorImmediate _ _ _ => true
  | .sllImmediate _ _ _ => true
  | .srlImmediate _ _ _ => true
  | .sraImmediate _ _ _ => true
  | .rorImmediate _ _ _ => true
  | .sltImmediate _ _ _ => true
  | .sltuImmediate _ _ _ => true
  | .movhi _ _ => true
  | .adrhi _ _ => true
  | .mul _ _ _ => true
  | .mulW _ _ _ => true
  | .mulh _ _ _ _ => true
  | .mulp d _ _ _ => ge1 d && le d 46
  | .div d a b _ => g55 d && g55 a && g55 b
  | .divu d a b _ => g55 d && g55 a && g55 b
  | .rem d a b _ => g55 d && g55 a && g55 b
  | .remu d a b _ => g55 d && g55 a && g55 b
  | .clz _ _ => true
  | .ctz _ _ => true
  | .popc _ _ => true
  | .rev8 _ _ => true
  | .brev _ _ => true
  | .extBS _ _ => true
  | .extHS _ _ => true
  | .extWS _ _ => true
  | .extBZ _ _ => true
  | .extHZ _ _ => true
  | .extWZ _ _ => true
  | .movTake d a => (le d 47 || inr d 56 60) && inr a 48 55
  | .movPut d a => inr d 48 55 && le a 60
  | .movV d a => vDst d && vSrc a
  | .movMg _ a => le a 60
  | .movGm d _ => le d 60
  | .movM _ _ => true
  | .beq _ _ _ => true
  | .bne _ _ _ => true
  | .blt _ _ _ => true
  | .bge _ _ _ => true
  | .bltu _ _ _ => true
  | .bgeu _ _ _ => true
  | .jlk _ _ => true
  | .jlkr _ _ _ => true
  | .ldB d a _ _ _ => g55 d && g55 a
  | .ldH d a _ _ _ => g55 d && g55 a
  | .ldW d a _ _ _ => g55 d && g55 a
  | .ldD d a _ _ => g55 d && g55 a
  | .st a b _ _ => g55 a && g55 b
  | .lda d a b _ x sz => g55 d && g55 a && isScope b && (x == 0 || sz != 3)
  | .stl d a b _ _ => g55 a && g55 b && isScope d
  | .amoSwap d a b _ => g55 d && g55 a && g55 b
  | .amoAdd d a b _ => g55 d && g55 a && g55 b
  | .amoAnd d a b _ => g55 d && g55 a && g55 b
  | .amoOr d a b _ => g55 d && g55 a && g55 b
  | .amoXor d a b _ => g55 d && g55 a && g55 b
  | .amoMax d a b _ => g55 d && g55 a && g55 b
  | .amoMin d a b _ => g55 d && g55 a && g55 b
  | .amoCas d a b _ => g55 d && g55 a && ge1 b && le b 46
  | .fadd _ _ _ _ => true
  | .fsub _ _ _ _ => true
  | .fmul _ _ _ _ => true
  | .fmin _ _ _ _ => true
  | .fmax _ _ _ _ => true
  | .fsgn _ _ _ _ => true
  | .fsgnn _ _ _ _ => true
  | .fsgnx _ _ _ _ => true
  | .fma d _ _ _ => ge1 d && le d 47
  | .fms d _ _ _ => ge1 d && le d 47
  | .fnma d _ _ _ => ge1 d && le d 47
  | .fnms d _ _ _ => ge1 d && le d 47
  | .fdiv d a b _ _ => g55 d && g55 a && g55 b
  | .fsqrt d a _ _ => g55 d && g55 a
  | .feq _ _ _ _ => true
  | .flt _ _ _ _ => true
  | .fle _ _ _ _ => true
  | .fclass _ _ _ => true
  | .fcvt _ _ b x y z => fcvtAssigned x y z && (x == 1 || b == 0)
  | .vfadd d a b _ _ => vDst d && vSrc a && vSrc b
  | .vfsub d a b _ _ => vDst d && vSrc a && vSrc b
  | .vfmul d a b _ _ => vDst d && vSrc a && vSrc b
  | .vfmin d a b _ _ => vDst d && vSrc a && vSrc b
  | .vfmax d a b _ _ => vDst d && vSrc a && vSrc b
  | .vfsgn d a b _ _ => vDst d && vSrc a && vSrc b
  | .vfsgnn d a b _ _ => vDst d && vSrc a && vSrc b
  | .vfsgnx d a b _ _ => vDst d && vSrc a && vSrc b
  | .vand d a b _ => vDst d && vSrc a && vSrc b
  | .vor d a b _ => vDst d && vSrc a && vSrc b
  | .vxor d a b _ => vDst d && vSrc a && vSrc b
  | .vandn d a b _ => vDst d && vSrc a && vSrc b
  | .vadd d a b _ _ => vDst d && vSrc a && vSrc b
  | .vsub d a b _ _ => vDst d && vSrc a && vSrc b
  | .vmul d a b _ _ => vDst d && vSrc a && vSrc b
  | .vmin d a b _ _ => vDst d && vSrc a && vSrc b
  | .vmax d a b _ _ => vDst d && vSrc a && vSrc b
  | .vsll d a b _ _ => vDst d && vSrc a && vSrc b
  | .vsrl d a b _ _ => vDst d && vSrc a && vSrc b
  | .vsra d a b _ _ => vDst d && vSrc a && vSrc b
  | .vfma d a b _ _ => le d 47 && vSrc a && vSrc b
  | .vfms d a b _ _ => le d 47 && vSrc a && vSrc b
  | .vfnma d a b _ _ => le d 47 && vSrc a && vSrc b
  | .vfnms d a b _ _ => le d 47 && vSrc a && vSrc b
  | .vfeq _ a b _ _ => vSrc a && vSrc b
  | .vflt _ a b _ _ => vSrc a && vSrc b
  | .vfle _ a b _ _ => vSrc a && vSrc b
  | .veq _ a b _ _ => vSrc a && vSrc b
  | .vlt _ a b _ _ => vSrc a && vSrc b
  | .vltu _ a b _ _ => vSrc a && vSrc b
  | .mand _ _ _ => true
  | .mor _ _ _ => true
  | .mxor _ _ _ => true
  | .mandn _ _ _ => true
  | .mnot _ _ => true
  | .mpopc _ _ => true
  | .mfirst _ _ => true
  | .mlast _ _ => true
  | .mlen _ _ => true
  | .vsel d a b _ _ => vDst d && vSrc a && vSrc b
  | .vbcast d _ _ _ => vDst d
  | .vins d _ _ _ => le d 47
  | .vextWZ _ a _ => vSrc a
  | .vextWS _ a _ => vSrc a
  | .vextD _ a _ => vSrc a
  | .vperm d a b _ _ => vDst d && vSrc a && vSrc b
  | .vrot d a _ _ _ => vDst d && vSrc a
  | .vfredsum _ a _ _ => vSrc a
  | .vfredmin _ a _ _ => vSrc a
  | .vfredmax _ a _ _ => vSrc a
  | .vredadd _ a _ _ => vSrc a
  | .vredmin _ a _ _ => vSrc a
  | .vredmax _ a _ _ => vSrc a
  | .vcvt d a b _ c => c.toNat < 12 && vDst d && vSrc a && (if c.toNat ≤ 1 then le b 47 else b == 0)
  | .vld d a _ _ _ => le d 47 && g55 a
  | .vlds d a b _ _ => le d 47 && g55 a && g55 b
  | .vldx d a b _ _ => le d 47 && g55 a && le b 47
  | .vst a b _ _ => le b 47 && g55 a
  | .vsts r a b _ => le b 47 && g55 a && ge1 r && le r 47
  | .vstx r a b _ => le b 47 && g55 a && le r 47
  | .mma _ _ _ _ _ _ _ => true
  | .accld _ a _ => g55 a
  | .accst _ a _ => g55 a
  | .accdr _ a _ => g55 a
  | .accz _ => true
  | .accq d => g55 d
  | .mxcfg a => g55 a
  | .tldA _ a b _ _ => g55 a && g55 b
  | .tldB _ a b _ _ => g55 a && g55 b
  | .tst _ a b _ _ => g55 a && g55 b
  | .tstKeep _ a b _ _ => g55 a && g55 b
  | .tdsetBase _ a => g55 a
  | .tdsetDims _ a => g55 a
  | .tdsetStrides _ a => g55 a
  | .tdsetForm _ a => g55 a
  | .tdsetScale _ a => g55 a
  | .ringcfg _ a b => g55 a && g55 b
  | .ringqry d _ => g55 d
  | .tqry d _ b => g55 d && g55 b
  | .rowact a _ => g55 a
  | .rowpre a _ => g55 a
  | .vqry d a _ => g55 d && g55 a
  | .go2d d a _ _ _ _ => le d 47 && a.toNat + 6 ≤ 48
  | .go3d d a _ _ _ _ => le d 47 && a.toNat + 12 ≤ 48
  | .ginc d a _ _ _ _ => le d 47 && a.toNat + 8 ≤ 48
  | .gins d a _ _ _ _ => le d 47 && a.toNat + 15 ≤ 48
  | .gsegx d a _ _ _ _ => le d 47 && a.toNat + 8 ≤ 48
  | .gpcfg a => g55 a
  | .bbsetR a b => g55 a && g55 b
  | .bbsetW a b => g55 a && g55 b
  | .bget d a => g55 d && g55 a
  | .bpeek d a => g55 d && g55 a
  | .bpeekPos d => g55 d
  | .bskip a => g55 a
  | .bput a b => g55 a && g55 b
  | .bflush d => g55 d
  | .balign d => g55 d
  | .tdec d a b _ => g55 d && g55 a && g55 b
  | .ldec d a b _ => g55 d && g55 a && g55 b
  | .lmerge d a _ => g55 d && g55 a
  | .zrenc d a b _ => g55 d && g55 a && g55 b
  | .zrencEnd d a b _ => g55 d && g55 a && g55 b
  | .rget d a _ _ => g55 d && g55 a
  | .rgetV d a _ => le d 47 && g55 a
  | .rgetS d a _ s => s != 0 && g55 d && g55 a
  | .rput a b _ _ => g55 a && g55 b
  | .rputV a b _ => g55 a && le b 47
  | .ratom d a b _ o => g55 d && g55 a && (if o == 7 then ge1 b && le b 46 else g55 b)
  | .amsend d a b _ => g55 d && g55 a && ge1 b && le b 46
  | .amret a => g55 a
  | .msend d a b _ _ => g55 d && g55 a && g55 b
  | .mrecv d a _ => ge1 d && le d 45 && g55 a
  | .mprobe d a => g55 d && g55 a
  | .ctxalloc d _ => ge1 d && g55 d
  | .ctxseal a b _ => g55 a && isScope b
  | .ctxret a _ => g55 a
  | .ctxmrg a _ => g55 a
  | .ldxNow d a b _ => g55 d && g55 a && g55 b
  | .ldxWait d a b _ => g55 d && g55 a && g55 b
  | .ldxProbe d a b _ => g55 d && g55 a && g55 b
  | .ctxset a => g55 a
  | .frnset d a => g55 d && g55 a
  | .frnget d => g55 d
  | .frngetWait d a => g55 d && g55 a
  | .fence b => isScope b
  | .fenceAcq b => isScope b
  | .bararr d a b _ => g55 d && g55 a && isBarForm b
  | .barwait a b _ => g55 a && g55 b
  | .barbytes a b _ => g55 a && g55 b
  | .barqry d a b _ => g55 d && g55 a && g55 b
  | .ctrwait d a b _ => g55 d && g55 a && g55 b
  | .ctradd d a b _ => g55 d && g55 a && g55 b
  | .fempty a f => f.toNat < 3 && (if f == 0 then g55 a else if f == 1 then le a 47 else le a 7)
  | .fetest d a f => f.toNat < 3 && g55 d && (if f == 0 then g55 a else if f == 1 then le a 47 else le a 7)
  | .spawn d a b _ => le d 47 && le a 47 && le b 47
  | .launch d a b _ => g55 d && g55 a && g55 b
  | .texit => true
  | .wlqry d => g55 d
  | .pbind a => g55 a
  | .pqry d a => g55 d && g55 a
  | .csrrd _ c => isCsr c
  | .csrwr _ _ c => isCsr c
  | .csrset _ _ c => isCsr c
  | .csrclr _ _ c => isCsr c
  | .trap a => g55 a
  | .tret => true
  | .idem => true
  | .ebrk => true
  | .nonInstruction _ => false
  | .divideCompletion _ _ _ => false
  | .loadCompletion _ _ _ => false
  | .postedStorePerformed _ _ _ => false
  | .amoCompletion _ _ _ => false
  | .fdivCompletion _ _ _ => false
  | .engineCommandStart _ => false
  | .mmaCompletion _ _ _ => false
  | .accPortCompletion _ _ _ => false
  | .tileLoadReady _ _ _ => false
  | .tstCompletion _ _ _ => false
  | .predicateCompletion _ _ _ => false
  | .bbRefill _ => false
  | .bbRefillArrival _ => false
  | .bbSpill _ => false
  | .tdecCompletion _ _ _ => false
  | .ldecLaneSymbol _ _ => false
  | .lmergeCompletion _ _ _ => false
  | .zrencCompletion _ _ _ => false
  | .transformWake _ => false
  | .remoteCompletion _ => false
  | .messageAccept _ => false
  | .homeRget _ => false
  | .homeRput _ => false
  | .homeRatom _ => false
  | .homeCopyTransfer _ => false
  | .homeCopyRead _ => false
  | .handlerStart _ => false
  | .mailboxDeposit _ => false
  | .messageRetry _ => false
  | .pageLineCopy _ => false
  | .allocatorRequest _ => false
  | .sealMessage _ => false
  | .retireMessage _ => false
  | .mergeMessage _ => false
  | .cellStoreFull _ => false
  | .saddleTreePublish => false
  | .barrierReport _ => false
  | .barrierRelease _ => false
  | .portPush _ _ _ _ => false
  | .portPop _ _ _ => false
  | .portEntryArrival _ => false
  | .portCreditReturn _ => false
  | .wlPush _ _ _ => false
  | .wlPop _ _ => false
  | .tqPush _ _ _ => false
  | .tqPop _ => false
  | .vmqPop _ _ => false
  | .cqPush _ _ _ => false
  | .copyRequestStart _ => false
  | .copyBeat _ => false
  | .copyWritePerformed _ => false
  | .copyCompletion _ _ => false
  | .bankServe _ _ => false
  | .activationComplete _ _ => false
  | .prechargeComplete _ _ => false
  | .transferBeat _ => false
  | .refreshNotice _ _ => false
  | .refreshStart _ _ => false
  | .refreshEnd _ _ => false
  | .thermalStateChange _ _ => false
  | .scratchScrub _ _ => false
  | .farRead _ => false
  | .farWrite _ => false
  | .farPortDown _ => false
  | .farPortRestore _ _ => false
  | .instructionStoreMiss _ _ => false
  | .refillComplete _ => false
  | .comparatorTimeout _ _ => false
  | .timingReplay _ _ => false
  | .queueDoorbell _ _ => false
  | .packetCheck _ => false
  | .dependencePoll _ => false
  | .leasingComplete _ => false
  | .placementArbitration _ => false
  | .commonStart _ => false
  | .instanceEnd _ => false
  | .graceExpiry _ => false
  | .saveComplete _ => false
  | .loadLevelling _ => false
  | .wlShipmentArrival _ => false
  | .powerWindow _ _ => false
  | .clockPauseEnd _ => false
  | .capLeaseExpiry => false
  | .dbgStop _ _ => false
  | .dbgResume _ _ => false
  | .dbgStep _ _ => false
  | .dbgLatch _ => false
  | .dbgClearAccount _ => false
  | .dbgStartTrace _ => false
  | .dbgStopTrace _ => false
  | .trgctlWrite _ _ => false
  | .smpctlWrite _ _ => false
  | .threadWindowWrite _ _ _ _ => false
  | .registerWrite _ _ _ => false
  | .breakpointCycleMatch _ _ => false
  | .sampleRecord _ => false
  | .traceDrain _ => false
  | .preImageCopy _ => false
  | .lockstepWindowCompare _ => false
  | .rdmaWrite _ _ _ => false
  | .rdmaRead _ _ _ => false
  | .rdmaCompareAndSwap _ _ _ _ => false
  | .rdmaFetchAndAdd _ _ _ => false
  | .rdmaUnsupported _ => false
  | .flitReceive _ _ => false
  | .flitReplay _ => false
  | .linkAckTimer _ => false
  | .laneFault _ _ => false
  | .retrainComplete _ _ _ => false
  | .retrainTimeout _ => false
  | .snapshotRewrite => false
  | .featReqWrite _ => false
  | .modesWrite _ => false
  | .drainWrite _ => false
  | .cdrainWrite _ => false
  | .hostAssistAnswer _ _ => false
  | .asidCreate _ _ _ _ _ => false
  | .asidRelease _ _ => false
  | .grantSet _ _ _ _ _ => false
  | .queueCreate _ _ _ _ _ => false
  | .queueDestroy _ _ => false
  | .cap _ _ _ _ => false
  | .deviceNumber _ _ => false
  | .routeSet _ _ _ => false
  | .hostWindow _ _ _ _ _ _ _ => false
  | .captureArm _ _ => false
  | .cairnReplay _ _ _ _ _ _ => false
  | .debugSession _ _ => false
  | .retrain _ _ => false
  | .coreLimit _ _ _ => false
  | .attest _ _ => false
  | .firmwareStage _ _ _ => false
  | .lockstep _ _ => false
  | .unknownCommand _ _ => false
  | .powerOnReset _ _ _ _ => false
  | .managementWatchdog => false
  | .softError _ _ _ => false
  | .stlCompletion _ _ _ => false
  | .ctraddCompletion _ _ _ => false
  | .ldxCompletion _ _ _ => false
  | .vqryCompletion _ _ _ => false
  | .barrierInstructionCompletion _ _ _ => false
  | .mrecvCompletion _ _ _ => false
  | .pageMigrationStart _ _ _ _ => false
  | .trainingFailure _ => false
  | .flitSend _ => false
  | .ethernetLinkChange _ _ => false

/-- The rows of the table that are events: steps the hardware, the host or the outside world makes. -/
def Instr.isEvent : Instr → Bool
  | .nonInstruction _ => false
  | .add _ _ _ => false
  | .sub _ _ _ => false
  | .and _ _ _ => false
  | .or _ _ _ => false
  | .xor _ _ _ => false
  | .andn _ _ _ => false
  | .sll _ _ _ => false
  | .srl _ _ _ => false
  | .sra _ _ _ => false
  | .ror _ _ _ => false
  | .slt _ _ _ => false
  | .sltu _ _ _ => false
  | .min _ _ _ => false
  | .minu _ _ _ => false
  | .max _ _ _ => false
  | .maxu _ _ _ => false
  | .addW _ _ _ => false
  | .subW _ _ _ => false
  | .adds _ _ _ => false
  | .subs _ _ _ => false
  | .addImmediate _ _ _ => false
  | .andImmediate _ _ _ => false
  | .orImmediate _ _ _ => false
  | .xorImmediate _ _ _ => false
  | .sllImmediate _ _ _ => false
  | .srlImmediate _ _ _ => false
  | .sraImmediate _ _ _ => false
  | .rorImmediate _ _ _ => false
  | .sltImmediate _ _ _ => false
  | .sltuImmediate _ _ _ => false
  | .movhi _ _ => false
  | .adrhi _ _ => false
  | .mul _ _ _ => false
  | .mulW _ _ _ => false
  | .mulh _ _ _ _ => false
  | .mulp _ _ _ _ => false
  | .div _ _ _ _ => false
  | .divu _ _ _ _ => false
  | .rem _ _ _ _ => false
  | .remu _ _ _ _ => false
  | .divideCompletion _ _ _ => true
  | .clz _ _ => false
  | .ctz _ _ => false
  | .popc _ _ => false
  | .rev8 _ _ => false
  | .brev _ _ => false
  | .extBS _ _ => false
  | .extHS _ _ => false
  | .extWS _ _ => false
  | .extBZ _ _ => false
  | .extHZ _ _ => false
  | .extWZ _ _ => false
  | .movTake _ _ => false
  | .movPut _ _ => false
  | .movV _ _ => false
  | .movMg _ _ => false
  | .movGm _ _ => false
  | .movM _ _ => false
  | .beq _ _ _ => false
  | .bne _ _ _ => false
  | .blt _ _ _ => false
  | .bge _ _ _ => false
  | .bltu _ _ _ => false
  | .bgeu _ _ _ => false
  | .jlk _ _ => false
  | .jlkr _ _ _ => false
  | .ldB _ _ _ _ _ => false
  | .ldH _ _ _ _ _ => false
  | .ldW _ _ _ _ _ => false
  | .ldD _ _ _ _ => false
  | .loadCompletion _ _ _ => true
  | .st _ _ _ _ => false
  | .postedStorePerformed _ _ _ => true
  | .lda _ _ _ _ _ _ => false
  | .stl _ _ _ _ _ => false
  | .amoSwap _ _ _ _ => false
  | .amoAdd _ _ _ _ => false
  | .amoAnd _ _ _ _ => false
  | .amoOr _ _ _ _ => false
  | .amoXor _ _ _ _ => false
  | .amoMax _ _ _ _ => false
  | .amoMin _ _ _ _ => false
  | .amoCas _ _ _ _ => false
  | .amoCompletion _ _ _ => true
  | .fadd _ _ _ _ => false
  | .fsub _ _ _ _ => false
  | .fmul _ _ _ _ => false
  | .fmin _ _ _ _ => false
  | .fmax _ _ _ _ => false
  | .fsgn _ _ _ _ => false
  | .fsgnn _ _ _ _ => false
  | .fsgnx _ _ _ _ => false
  | .fma _ _ _ _ => false
  | .fms _ _ _ _ => false
  | .fnma _ _ _ _ => false
  | .fnms _ _ _ _ => false
  | .fdiv _ _ _ _ _ => false
  | .fsqrt _ _ _ _ => false
  | .fdivCompletion _ _ _ => true
  | .feq _ _ _ _ => false
  | .flt _ _ _ _ => false
  | .fle _ _ _ _ => false
  | .fclass _ _ _ => false
  | .fcvt _ _ _ _ _ _ => false
  | .vfadd _ _ _ _ _ => false
  | .vfsub _ _ _ _ _ => false
  | .vfmul _ _ _ _ _ => false
  | .vfmin _ _ _ _ _ => false
  | .vfmax _ _ _ _ _ => false
  | .vfsgn _ _ _ _ _ => false
  | .vfsgnn _ _ _ _ _ => false
  | .vfsgnx _ _ _ _ _ => false
  | .vand _ _ _ _ => false
  | .vor _ _ _ _ => false
  | .vxor _ _ _ _ => false
  | .vandn _ _ _ _ => false
  | .vadd _ _ _ _ _ => false
  | .vsub _ _ _ _ _ => false
  | .vmul _ _ _ _ _ => false
  | .vmin _ _ _ _ _ => false
  | .vmax _ _ _ _ _ => false
  | .vsll _ _ _ _ _ => false
  | .vsrl _ _ _ _ _ => false
  | .vsra _ _ _ _ _ => false
  | .vfma _ _ _ _ _ => false
  | .vfms _ _ _ _ _ => false
  | .vfnma _ _ _ _ _ => false
  | .vfnms _ _ _ _ _ => false
  | .vfeq _ _ _ _ _ => false
  | .vflt _ _ _ _ _ => false
  | .vfle _ _ _ _ _ => false
  | .veq _ _ _ _ _ => false
  | .vlt _ _ _ _ _ => false
  | .vltu _ _ _ _ _ => false
  | .mand _ _ _ => false
  | .mor _ _ _ => false
  | .mxor _ _ _ => false
  | .mandn _ _ _ => false
  | .mnot _ _ => false
  | .mpopc _ _ => false
  | .mfirst _ _ => false
  | .mlast _ _ => false
  | .mlen _ _ => false
  | .vsel _ _ _ _ _ => false
  | .vbcast _ _ _ _ => false
  | .vins _ _ _ _ => false
  | .vextWZ _ _ _ => false
  | .vextWS _ _ _ => false
  | .vextD _ _ _ => false
  | .vperm _ _ _ _ _ => false
  | .vrot _ _ _ _ _ => false
  | .vfredsum _ _ _ _ => false
  | .vfredmin _ _ _ _ => false
  | .vfredmax _ _ _ _ => false
  | .vredadd _ _ _ _ => false
  | .vredmin _ _ _ _ => false
  | .vredmax _ _ _ _ => false
  | .vcvt _ _ _ _ _ => false
  | .vld _ _ _ _ _ => false
  | .vlds _ _ _ _ _ => false
  | .vldx _ _ _ _ _ => false
  | .vst _ _ _ _ => false
  | .vsts _ _ _ _ => false
  | .vstx _ _ _ _ => false
  | .mma _ _ _ _ _ _ _ => false
  | .accld _ _ _ => false
  | .accst _ _ _ => false
  | .accdr _ _ _ => false
  | .accz _ => false
  | .accq _ => false
  | .mxcfg _ => false
  | .engineCommandStart _ => true
  | .mmaCompletion _ _ _ => true
  | .accPortCompletion _ _ _ => true
  | .tldA _ _ _ _ _ => false
  | .tldB _ _ _ _ _ => false
  | .tst _ _ _ _ _ => false
  | .tstKeep _ _ _ _ _ => false
  | .tileLoadReady _ _ _ => true
  | .tstCompletion _ _ _ => true
  | .tdsetBase _ _ => false
  | .tdsetDims _ _ => false
  | .tdsetStrides _ _ => false
  | .tdsetForm _ _ => false
  | .tdsetScale _ _ => false
  | .ringcfg _ _ _ => false
  | .ringqry _ _ => false
  | .tqry _ _ _ => false
  | .rowact _ _ => false
  | .rowpre _ _ => false
  | .vqry _ _ _ => false
  | .go2d _ _ _ _ _ _ => false
  | .go3d _ _ _ _ _ _ => false
  | .ginc _ _ _ _ _ _ => false
  | .gins _ _ _ _ _ _ => false
  | .gsegx _ _ _ _ _ _ => false
  | .gpcfg _ => false
  | .predicateCompletion _ _ _ => true
  | .bbsetR _ _ => false
  | .bbsetW _ _ => false
  | .bget _ _ => false
  | .bpeek _ _ => false
  | .bpeekPos _ => false
  | .bskip _ => false
  | .bput _ _ => false
  | .bflush _ => false
  | .balign _ => false
  | .bbRefill _ => true
  | .bbRefillArrival _ => true
  | .bbSpill _ => true
  | .tdec _ _ _ _ => false
  | .ldec _ _ _ _ => false
  | .lmerge _ _ _ => false
  | .tdecCompletion _ _ _ => true
  | .ldecLaneSymbol _ _ => true
  | .lmergeCompletion _ _ _ => true
  | .zrenc _ _ _ _ => false
  | .zrencEnd _ _ _ _ => false
  | .zrencCompletion _ _ _ => true
  | .transformWake _ => true
  | .rget _ _ _ _ => false
  | .rgetV _ _ _ => false
  | .rgetS _ _ _ _ => false
  | .rput _ _ _ _ => false
  | .rputV _ _ _ => false
  | .ratom _ _ _ _ _ => false
  | .amsend _ _ _ _ => false
  | .amret _ => false
  | .msend _ _ _ _ _ => false
  | .mrecv _ _ _ => false
  | .mprobe _ _ => false
  | .remoteCompletion _ => true
  | .messageAccept _ => true
  | .homeRget _ => true
  | .homeRput _ => true
  | .homeRatom _ => true
  | .homeCopyTransfer _ => true
  | .homeCopyRead _ => true
  | .handlerStart _ => true
  | .mailboxDeposit _ => true
  | .messageRetry _ => true
  | .pageLineCopy _ => true
  | .ctxalloc _ _ => false
  | .ctxseal _ _ _ => false
  | .ctxret _ _ => false
  | .ctxmrg _ _ => false
  | .ldxNow _ _ _ _ => false
  | .ldxWait _ _ _ _ => false
  | .ldxProbe _ _ _ _ => false
  | .ctxset _ => false
  | .frnset _ _ => false
  | .frnget _ => false
  | .frngetWait _ _ => false
  | .allocatorRequest _ => true
  | .sealMessage _ => true
  | .retireMessage _ => true
  | .mergeMessage _ => true
  | .cellStoreFull _ => true
  | .saddleTreePublish => true
  | .fence _ => false
  | .fenceAcq _ => false
  | .bararr _ _ _ _ => false
  | .barwait _ _ _ => false
  | .barbytes _ _ _ => false
  | .barqry _ _ _ _ => false
  | .barrierReport _ => true
  | .barrierRelease _ => true
  | .ctrwait _ _ _ _ => false
  | .ctradd _ _ _ _ => false
  | .fempty _ _ => false
  | .fetest _ _ _ => false
  | .spawn _ _ _ _ => false
  | .launch _ _ _ _ => false
  | .texit => false
  | .wlqry _ => false
  | .pbind _ => false
  | .pqry _ _ => false
  | .csrrd _ _ => false
  | .csrwr _ _ _ => false
  | .csrset _ _ _ => false
  | .csrclr _ _ _ => false
  | .trap _ => false
  | .tret => false
  | .idem => false
  | .ebrk => false
  | .portPush _ _ _ _ => true
  | .portPop _ _ _ => true
  | .portEntryArrival _ => true
  | .portCreditReturn _ => true
  | .wlPush _ _ _ => true
  | .wlPop _ _ => true
  | .tqPush _ _ _ => true
  | .tqPop _ => true
  | .vmqPop _ _ => true
  | .cqPush _ _ _ => true
  | .copyRequestStart _ => true
  | .copyBeat _ => true
  | .copyWritePerformed _ => true
  | .copyCompletion _ _ => true
  | .bankServe _ _ => true
  | .activationComplete _ _ => true
  | .prechargeComplete _ _ => true
  | .transferBeat _ => true
  | .refreshNotice _ _ => true
  | .refreshStart _ _ => true
  | .refreshEnd _ _ => true
  | .thermalStateChange _ _ => true
  | .scratchScrub _ _ => true
  | .farRead _ => true
  | .farWrite _ => true
  | .farPortDown _ => true
  | .farPortRestore _ _ => true
  | .instructionStoreMiss _ _ => true
  | .refillComplete _ => true
  | .comparatorTimeout _ _ => true
  | .timingReplay _ _ => true
  | .queueDoorbell _ _ => true
  | .packetCheck _ => true
  | .dependencePoll _ => true
  | .leasingComplete _ => true
  | .placementArbitration _ => true
  | .commonStart _ => true
  | .instanceEnd _ => true
  | .graceExpiry _ => true
  | .saveComplete _ => true
  | .loadLevelling _ => true
  | .wlShipmentArrival _ => true
  | .powerWindow _ _ => true
  | .clockPauseEnd _ => true
  | .capLeaseExpiry => true
  | .dbgStop _ _ => true
  | .dbgResume _ _ => true
  | .dbgStep _ _ => true
  | .dbgLatch _ => true
  | .dbgClearAccount _ => true
  | .dbgStartTrace _ => true
  | .dbgStopTrace _ => true
  | .trgctlWrite _ _ => true
  | .smpctlWrite _ _ => true
  | .threadWindowWrite _ _ _ _ => true
  | .registerWrite _ _ _ => true
  | .breakpointCycleMatch _ _ => true
  | .sampleRecord _ => true
  | .traceDrain _ => true
  | .preImageCopy _ => true
  | .lockstepWindowCompare _ => true
  | .rdmaWrite _ _ _ => true
  | .rdmaRead _ _ _ => true
  | .rdmaCompareAndSwap _ _ _ _ => true
  | .rdmaFetchAndAdd _ _ _ => true
  | .rdmaUnsupported _ => true
  | .flitReceive _ _ => true
  | .flitReplay _ => true
  | .linkAckTimer _ => true
  | .laneFault _ _ => true
  | .retrainComplete _ _ _ => true
  | .retrainTimeout _ => true
  | .snapshotRewrite => true
  | .featReqWrite _ => true
  | .modesWrite _ => true
  | .drainWrite _ => true
  | .cdrainWrite _ => true
  | .hostAssistAnswer _ _ => true
  | .asidCreate _ _ _ _ _ => true
  | .asidRelease _ _ => true
  | .grantSet _ _ _ _ _ => true
  | .queueCreate _ _ _ _ _ => true
  | .queueDestroy _ _ => true
  | .cap _ _ _ _ => true
  | .deviceNumber _ _ => true
  | .routeSet _ _ _ => true
  | .hostWindow _ _ _ _ _ _ _ => true
  | .captureArm _ _ => true
  | .cairnReplay _ _ _ _ _ _ => true
  | .debugSession _ _ => true
  | .retrain _ _ => true
  | .coreLimit _ _ _ => true
  | .attest _ _ => true
  | .firmwareStage _ _ _ => true
  | .lockstep _ _ => true
  | .unknownCommand _ _ => true
  | .powerOnReset _ _ _ _ => true
  | .managementWatchdog => true
  | .softError _ _ _ => true
  | .stlCompletion _ _ _ => true
  | .ctraddCompletion _ _ _ => true
  | .ldxCompletion _ _ _ => true
  | .vqryCompletion _ _ _ => true
  | .barrierInstructionCompletion _ _ _ => true
  | .mrecvCompletion _ _ _ => true
  | .pageMigrationStart _ _ _ _ => true
  | .trainingFailure _ => true
  | .flitSend _ => true
  | .ethernetLinkChange _ _ => true

/-- Check 7 of R34 holds and every selector is assigned. -/
abbrev WellFormed (i : Instr) : Prop := i.wf = true

end Sys2Proof
end

