-- ==== Sys2Proof/Decode.lean ====
section
/-! DEFINITION. Decoding a 32-bit word (02 R22-R38), total and rejecting by name, and the encoder.

A word is first given its shape (checks 1, 2, 3, 5 and 6 of R34, in that order), then its register numbers are
checked (check 7, WellFormed).  No encoding of generation 1 is feature-gated (R34, check 4). -/

namespace Sys2Proof

/-- Why a word is not an instruction: the rows of R34 that the word alone decides. -/
inductive Reject where
  /-- check 1: major opcode 0x00 -/
  | illegal00
  /-- check 2: major opcode 0x7F -/
  | illegal7F
  /-- check 3: reserved major opcode -/
  | reservedOpcode
  /-- check 5: function value not assigned -/
  | unassigned
  /-- check 6: a non-zero unused or reserved field (R24) -/
  | reservedField
  /-- check 7: reserved register number (R38) -/
  | reservedRegister
  deriving DecidableEq, Repr

/-- The detail byte of ILLEGAL_INSTRUCTION for each rejection (R34). -/
def Reject.detail : Reject → BitVec 8
  | .illegal00 => 0x01
  | .illegal7F => 0x02
  | .reservedOpcode => 0x03
  | .unassigned => 0x04
  | .reservedField => 0x05
  | .reservedRegister => 0x06

/-- Bits lo+n-1 … lo of a word (R22). -/
def fld (w : BitVec 32) (lo n : Nat) : BitVec n := w.extractLsb' lo n

/-- Check 6 of R34: the reserved fields hold 0. -/
def resv (c : Bool) (i : Instr) : Except Reject Instr := if c then .ok i else .error .reservedField

/-- Check 5 of R34 for a selector outside f7 and f3 (a scope code, a CSR number, a conversion pair). -/
def asg (c : Bool) (r : Except Reject Instr) : Except Reject Instr := if c then r else .error .unassigned

/-- The shape of a word of major opcode 0x01. -/
def shape01 (w : BitVec 32) : Except Reject Instr :=
  match (fld w 25 7).toNat with
  | 0x00 => .ok (.add (fld w 7 6) (fld w 13 6) (fld w 19 6))
  | 0x01 => .ok (.sub (fld w 7 6) (fld w 13 6) (fld w 19 6))
  | 0x02 => .ok (.and (fld w 7 6) (fld w 13 6) (fld w 19 6))
  | 0x03 => .ok (.or (fld w 7 6) (fld w 13 6) (fld w 19 6))
  | 0x04 => .ok (.xor (fld w 7 6) (fld w 13 6) (fld w 19 6))
  | 0x05 => .ok (.andn (fld w 7 6) (fld w 13 6) (fld w 19 6))
  | 0x08 => .ok (.sll (fld w 7 6) (fld w 13 6) (fld w 19 6))
  | 0x09 => .ok (.srl (fld w 7 6) (fld w 13 6) (fld w 19 6))
  | 0x0A => .ok (.sra (fld w 7 6) (fld w 13 6) (fld w 19 6))
  | 0x0B => .ok (.ror (fld w 7 6) (fld w 13 6) (fld w 19 6))
  | 0x10 => .ok (.slt (fld w 7 6) (fld w 13 6) (fld w 19 6))
  | 0x11 => .ok (.sltu (fld w 7 6) (fld w 13 6) (fld w 19 6))
  | 0x18 => .ok (.min (fld w 7 6) (fld w 13 6) (fld w 19 6))
  | 0x19 => .ok (.minu (fld w 7 6) (fld w 13 6) (fld w 19 6))
  | 0x1A => .ok (.max (fld w 7 6) (fld w 13 6) (fld w 19 6))
  | 0x1B => .ok (.maxu (fld w 7 6) (fld w 13 6) (fld w 19 6))
  | 0x20 => .ok (.addW (fld w 7 6) (fld w 13 6) (fld w 19 6))
  | 0x21 => .ok (.subW (fld w 7 6) (fld w 13 6) (fld w 19 6))
  | 0x28 => .ok (.adds (fld w 7 6) (fld w 13 6) (fld w 19 6))
  | 0x29 => .ok (.subs (fld w 7 6) (fld w 13 6) (fld w 19 6))
  | _ => .error .unassigned

/-- The shape of a word of major opcode 0x02. -/
def shape02 (w : BitVec 32) : Except Reject Instr :=
  .ok (.addImmediate (fld w 7 6) (fld w 13 6) (fld w 19 13))

/-- The shape of a word of major opcode 0x03. -/
def shape03 (w : BitVec 32) : Except Reject Instr :=
  .ok (.andImmediate (fld w 7 6) (fld w 13 6) (fld w 19 13))

/-- The shape of a word of major opcode 0x04. -/
def shape04 (w : BitVec 32) : Except Reject Instr :=
  .ok (.orImmediate (fld w 7 6) (fld w 13 6) (fld w 19 13))

/-- The shape of a word of major opcode 0x05. -/
def shape05 (w : BitVec 32) : Except Reject Instr :=
  .ok (.xorImmediate (fld w 7 6) (fld w 13 6) (fld w 19 13))

/-- The shape of a word of major opcode 0x06. -/
def shape06 (w : BitVec 32) : Except Reject Instr :=
  match (fld w 25 7).toNat with
  | 0x00 => .ok (.sllImmediate (fld w 7 6) (fld w 13 6) (fld w 19 6))
  | 0x01 => .ok (.srlImmediate (fld w 7 6) (fld w 13 6) (fld w 19 6))
  | 0x02 => .ok (.sraImmediate (fld w 7 6) (fld w 13 6) (fld w 19 6))
  | 0x03 => .ok (.rorImmediate (fld w 7 6) (fld w 13 6) (fld w 19 6))
  | _ => .error .unassigned

/-- The shape of a word of major opcode 0x07. -/
def shape07 (w : BitVec 32) : Except Reject Instr :=
  .ok (.sltImmediate (fld w 7 6) (fld w 13 6) (fld w 19 13))

/-- The shape of a word of major opcode 0x08. -/
def shape08 (w : BitVec 32) : Except Reject Instr :=
  .ok (.sltuImmediate (fld w 7 6) (fld w 13 6) (fld w 19 13))

/-- The shape of a word of major opcode 0x09. -/
def shape09 (w : BitVec 32) : Except Reject Instr :=
  .ok (.movhi (fld w 7 6) (fld w 13 19))

/-- The shape of a word of major opcode 0x0A. -/
def shape0A (w : BitVec 32) : Except Reject Instr :=
  .ok (.adrhi (fld w 7 6) (fld w 13 19))

/-- The shape of a word of major opcode 0x0B. -/
def shape0B (w : BitVec 32) : Except Reject Instr :=
  match (fld w 25 7).toNat with
  | 0x00 => .ok (.mul (fld w 7 6) (fld w 13 6) (fld w 19 6))
  | 0x04 => .ok (.mulW (fld w 7 6) (fld w 13 6) (fld w 19 6))
  | 0x08 | 0x09 | 0x0A | 0x0B => .ok (.mulh (fld w 7 6) (fld w 13 6) (fld w 19 6) (fld w 25 2))
  | 0x0C | 0x0D | 0x0E | 0x0F => .ok (.mulp (fld w 7 6) (fld w 13 6) (fld w 19 6) (fld w 25 2))
  | _ => .error .unassigned

/-- The shape of a word of major opcode 0x0C. -/
def shape0C (w : BitVec 32) : Except Reject Instr :=
  match (fld w 25 3).toNat with
  | 0x00 => .ok (.div (fld w 7 6) (fld w 13 6) (fld w 19 6) (fld w 28 4))
  | 0x01 => .ok (.divu (fld w 7 6) (fld w 13 6) (fld w 19 6) (fld w 28 4))
  | 0x02 => .ok (.rem (fld w 7 6) (fld w 13 6) (fld w 19 6) (fld w 28 4))
  | 0x03 => .ok (.remu (fld w 7 6) (fld w 13 6) (fld w 19 6) (fld w 28 4))
  | _ => .error .unassigned

/-- The shape of a word of major opcode 0x0D. -/
def shape0D (w : BitVec 32) : Except Reject Instr :=
  match (fld w 25 7).toNat with
  | 0x00 => resv (fld w 19 6 == 0) (.clz (fld w 7 6) (fld w 13 6))
  | 0x01 => resv (fld w 19 6 == 0) (.ctz (fld w 7 6) (fld w 13 6))
  | 0x02 => resv (fld w 19 6 == 0) (.popc (fld w 7 6) (fld w 13 6))
  | 0x03 => resv (fld w 19 6 == 0) (.rev8 (fld w 7 6) (fld w 13 6))
  | 0x04 => resv (fld w 19 6 == 0) (.brev (fld w 7 6) (fld w 13 6))
  | 0x05 => resv (fld w 19 6 == 0) (.extBS (fld w 7 6) (fld w 13 6))
  | 0x06 => resv (fld w 19 6 == 0) (.extHS (fld w 7 6) (fld w 13 6))
  | 0x07 => resv (fld w 19 6 == 0) (.extWS (fld w 7 6) (fld w 13 6))
  | 0x08 => resv (fld w 19 6 == 0) (.extBZ (fld w 7 6) (fld w 13 6))
  | 0x09 => resv (fld w 19 6 == 0) (.extHZ (fld w 7 6) (fld w 13 6))
  | 0x0A => resv (fld w 19 6 == 0) (.extWZ (fld w 7 6) (fld w 13 6))
  | _ => .error .unassigned

/-- The shape of a word of major opcode 0x0E. -/
def shape0E (w : BitVec 32) : Except Reject Instr :=
  match (fld w 25 7).toNat with
  | 0x01 => resv (fld w 19 6 == 0) (.movTake (fld w 7 6) (fld w 13 6))
  | 0x02 => resv (fld w 19 6 == 0) (.movPut (fld w 7 6) (fld w 13 6))
  | 0x03 => resv (fld w 19 6 == 0) (.movV (fld w 7 6) (fld w 13 6))
  | 0x04 => resv (fld w 10 3 == 0 && fld w 19 6 == 0) (.movMg (fld w 7 3) (fld w 13 6))
  | 0x05 => resv (fld w 16 9 == 0) (.movGm (fld w 7 6) (fld w 13 3))
  | 0x06 => resv (fld w 10 3 == 0 && fld w 16 9 == 0) (.movM (fld w 7 3) (fld w 13 3))
  | _ => .error .unassigned

/-- The shape of a word of major opcode 0x10. -/
def shape10 (w : BitVec 32) : Except Reject Instr :=
  .ok (.beq (fld w 13 6) (fld w 19 6) (fld w 25 7 ++ fld w 7 6))

/-- The shape of a word of major opcode 0x11. -/
def shape11 (w : BitVec 32) : Except Reject Instr :=
  .ok (.bne (fld w 13 6) (fld w 19 6) (fld w 25 7 ++ fld w 7 6))

/-- The shape of a word of major opcode 0x12. -/
def shape12 (w : BitVec 32) : Except Reject Instr :=
  .ok (.blt (fld w 13 6) (fld w 19 6) (fld w 25 7 ++ fld w 7 6))

/-- The shape of a word of major opcode 0x13. -/
def shape13 (w : BitVec 32) : Except Reject Instr :=
  .ok (.bge (fld w 13 6) (fld w 19 6) (fld w 25 7 ++ fld w 7 6))

/-- The shape of a word of major opcode 0x14. -/
def shape14 (w : BitVec 32) : Except Reject Instr :=
  .ok (.bltu (fld w 13 6) (fld w 19 6) (fld w 25 7 ++ fld w 7 6))

/-- The shape of a word of major opcode 0x15. -/
def shape15 (w : BitVec 32) : Except Reject Instr :=
  .ok (.bgeu (fld w 13 6) (fld w 19 6) (fld w 25 7 ++ fld w 7 6))

/-- The shape of a word of major opcode 0x16. -/
def shape16 (w : BitVec 32) : Except Reject Instr :=
  .ok (.jlk (fld w 7 6) (fld w 13 19))

/-- The shape of a word of major opcode 0x17. -/
def shape17 (w : BitVec 32) : Except Reject Instr :=
  .ok (.jlkr (fld w 7 6) (fld w 13 6) (fld w 19 13))

/-- The shape of a word of major opcode 0x18. -/
def shape18 (w : BitVec 32) : Except Reject Instr :=
  .ok (.ldB (fld w 7 6) (fld w 13 6) (fld w 28 4) (fld w 20 8) (fld w 19 1))

/-- The shape of a word of major opcode 0x19. -/
def shape19 (w : BitVec 32) : Except Reject Instr :=
  .ok (.ldH (fld w 7 6) (fld w 13 6) (fld w 28 4) (fld w 20 8) (fld w 19 1))

/-- The shape of a word of major opcode 0x1A. -/
def shape1A (w : BitVec 32) : Except Reject Instr :=
  .ok (.ldW (fld w 7 6) (fld w 13 6) (fld w 28 4) (fld w 20 8) (fld w 19 1))

/-- The shape of a word of major opcode 0x1B. -/
def shape1B (w : BitVec 32) : Except Reject Instr :=
  resv (fld w 19 1 == 0) (.ldD (fld w 7 6) (fld w 13 6) (fld w 28 4) (fld w 20 8))

/-- The shape of a word of major opcode 0x1C. -/
def shape1C (w : BitVec 32) : Except Reject Instr :=
  .ok (.st (fld w 13 6) (fld w 19 6) (fld w 30 2) (fld w 25 5 ++ fld w 7 6))

/-- The shape of a word of major opcode 0x1D. -/
def shape1D (w : BitVec 32) : Except Reject Instr :=
  asg ((fld w 19 6).toNat < 12) (resv (fld w 27 1 == 0 || fld w 25 2 != 3)
    (.lda (fld w 7 6) (fld w 13 6) (fld w 19 6) (fld w 28 4) (fld w 27 1) (fld w 25 2)))

/-- The shape of a word of major opcode 0x1E. -/
def shape1E (w : BitVec 32) : Except Reject Instr :=
  asg ((fld w 7 6).toNat < 12) (resv (fld w 27 1 == 0) (.stl (fld w 7 6) (fld w 13 6) (fld w 19 6) (fld w 28 4) (fld w 25 2)))

/-- The shape of a word of major opcode 0x1F. -/
def shape1F (w : BitVec 32) : Except Reject Instr :=
  match (fld w 25 3).toNat with
  | 0x00 => .ok (.amoSwap (fld w 7 6) (fld w 13 6) (fld w 19 6) (fld w 28 4))
  | 0x01 => .ok (.amoAdd (fld w 7 6) (fld w 13 6) (fld w 19 6) (fld w 28 4))
  | 0x02 => .ok (.amoAnd (fld w 7 6) (fld w 13 6) (fld w 19 6) (fld w 28 4))
  | 0x03 => .ok (.amoOr (fld w 7 6) (fld w 13 6) (fld w 19 6) (fld w 28 4))
  | 0x04 => .ok (.amoXor (fld w 7 6) (fld w 13 6) (fld w 19 6) (fld w 28 4))
  | 0x05 => .ok (.amoMax (fld w 7 6) (fld w 13 6) (fld w 19 6) (fld w 28 4))
  | 0x06 => .ok (.amoMin (fld w 7 6) (fld w 13 6) (fld w 19 6) (fld w 28 4))
  | _ => .ok (.amoCas (fld w 7 6) (fld w 13 6) (fld w 19 6) (fld w 28 4))

/-- The shape of a word of major opcode 0x20. -/
def shape20 (w : BitVec 32) : Except Reject Instr :=
  match (fld w 25 7).toNat with
  | 0x00 => .ok (.fadd (fld w 7 6) (fld w 13 6) (fld w 19 6) (fld w 0 1))
  | 0x01 => .ok (.fsub (fld w 7 6) (fld w 13 6) (fld w 19 6) (fld w 0 1))
  | 0x02 => .ok (.fmul (fld w 7 6) (fld w 13 6) (fld w 19 6) (fld w 0 1))
  | 0x04 => .ok (.fmin (fld w 7 6) (fld w 13 6) (fld w 19 6) (fld w 0 1))
  | 0x05 => .ok (.fmax (fld w 7 6) (fld w 13 6) (fld w 19 6) (fld w 0 1))
  | 0x08 => .ok (.fsgn (fld w 7 6) (fld w 13 6) (fld w 19 6) (fld w 0 1))
  | 0x09 => .ok (.fsgnn (fld w 7 6) (fld w 13 6) (fld w 19 6) (fld w 0 1))
  | 0x0A => .ok (.fsgnx (fld w 7 6) (fld w 13 6) (fld w 19 6) (fld w 0 1))
  | _ => .error .unassigned

/-- The shape of a word of major opcode 0x21. -/
def shape21 (w : BitVec 32) : Except Reject Instr :=
  match (fld w 25 7).toNat with
  | 0x00 => .ok (.fadd (fld w 7 6) (fld w 13 6) (fld w 19 6) (fld w 0 1))
  | 0x01 => .ok (.fsub (fld w 7 6) (fld w 13 6) (fld w 19 6) (fld w 0 1))
  | 0x02 => .ok (.fmul (fld w 7 6) (fld w 13 6) (fld w 19 6) (fld w 0 1))
  | 0x04 => .ok (.fmin (fld w 7 6) (fld w 13 6) (fld w 19 6) (fld w 0 1))
  | 0x05 => .ok (.fmax (fld w 7 6) (fld w 13 6) (fld w 19 6) (fld w 0 1))
  | 0x08 => .ok (.fsgn (fld w 7 6) (fld w 13 6) (fld w 19 6) (fld w 0 1))
  | 0x09 => .ok (.fsgnn (fld w 7 6) (fld w 13 6) (fld w 19 6) (fld w 0 1))
  | 0x0A => .ok (.fsgnx (fld w 7 6) (fld w 13 6) (fld w 19 6) (fld w 0 1))
  | _ => .error .unassigned

/-- The shape of a word of major opcode 0x22. -/
def shape22 (w : BitVec 32) : Except Reject Instr :=
  match (fld w 25 7).toNat with
  | 0x00 => .ok (.fma (fld w 7 6) (fld w 13 6) (fld w 19 6) (fld w 0 1))
  | 0x01 => .ok (.fms (fld w 7 6) (fld w 13 6) (fld w 19 6) (fld w 0 1))
  | 0x02 => .ok (.fnma (fld w 7 6) (fld w 13 6) (fld w 19 6) (fld w 0 1))
  | 0x03 => .ok (.fnms (fld w 7 6) (fld w 13 6) (fld w 19 6) (fld w 0 1))
  | _ => .error .unassigned

/-- The shape of a word of major opcode 0x23. -/
def shape23 (w : BitVec 32) : Except Reject Instr :=
  match (fld w 25 7).toNat with
  | 0x00 => .ok (.fma (fld w 7 6) (fld w 13 6) (fld w 19 6) (fld w 0 1))
  | 0x01 => .ok (.fms (fld w 7 6) (fld w 13 6) (fld w 19 6) (fld w 0 1))
  | 0x02 => .ok (.fnma (fld w 7 6) (fld w 13 6) (fld w 19 6) (fld w 0 1))
  | 0x03 => .ok (.fnms (fld w 7 6) (fld w 13 6) (fld w 19 6) (fld w 0 1))
  | _ => .error .unassigned

/-- The shape of a word of major opcode 0x24. -/
def shape24 (w : BitVec 32) : Except Reject Instr :=
  match (fld w 25 3).toNat with
  | 0x00 | 0x02 => .ok (.fdiv (fld w 7 6) (fld w 13 6) (fld w 19 6) (fld w 28 4) (fld w 26 1))
  | 0x01 | 0x03 => resv (fld w 19 6 == 0) (.fsqrt (fld w 7 6) (fld w 13 6) (fld w 28 4) (fld w 26 1))
  | _ => .error .unassigned

/-- The shape of a word of major opcode 0x25. -/
def shape25 (w : BitVec 32) : Except Reject Instr :=
  match (fld w 25 7).toNat with
  | 0x00 | 0x08 => .ok (.feq (fld w 7 6) (fld w 13 6) (fld w 19 6) (fld w 28 1))
  | 0x01 | 0x09 => .ok (.flt (fld w 7 6) (fld w 13 6) (fld w 19 6) (fld w 28 1))
  | 0x02 | 0x0A => .ok (.fle (fld w 7 6) (fld w 13 6) (fld w 19 6) (fld w 28 1))
  | 0x04 | 0x0C => resv (fld w 19 6 == 0) (.fclass (fld w 7 6) (fld w 13 6) (fld w 28 1))
  | _ => .error .unassigned

/-- The shape of a word of major opcode 0x26. -/
def shape26 (w : BitVec 32) : Except Reject Instr :=
  asg (fcvtAssigned (fld w 31 1) (fld w 28 3) (fld w 25 3)) (resv ((fld w 31 1 == 1 || fld w 19 6 == 0)) (.fcvt (fld w 7 6) (fld w 13 6) (fld w 19 6) (fld w 31 1) (fld w 28 3) (fld w 25 3)))

/-- The shape of a word of major opcode 0x30. -/
def shape30 (w : BitVec 32) : Except Reject Instr :=
  match (fld w 25 4).toNat with
  | 0x00 => .ok (.vfadd (fld w 7 6) (fld w 13 6) (fld w 19 6) (fld w 29 3) (fld w 0 1))
  | 0x01 => .ok (.vfsub (fld w 7 6) (fld w 13 6) (fld w 19 6) (fld w 29 3) (fld w 0 1))
  | 0x02 => .ok (.vfmul (fld w 7 6) (fld w 13 6) (fld w 19 6) (fld w 29 3) (fld w 0 1))
  | 0x03 => .ok (.vfmin (fld w 7 6) (fld w 13 6) (fld w 19 6) (fld w 29 3) (fld w 0 1))
  | 0x04 => .ok (.vfmax (fld w 7 6) (fld w 13 6) (fld w 19 6) (fld w 29 3) (fld w 0 1))
  | 0x05 => .ok (.vfsgn (fld w 7 6) (fld w 13 6) (fld w 19 6) (fld w 29 3) (fld w 0 1))
  | 0x06 => .ok (.vfsgnn (fld w 7 6) (fld w 13 6) (fld w 19 6) (fld w 29 3) (fld w 0 1))
  | 0x07 => .ok (.vfsgnx (fld w 7 6) (fld w 13 6) (fld w 19 6) (fld w 29 3) (fld w 0 1))
  | 0x08 => .ok (.vand (fld w 7 6) (fld w 13 6) (fld w 19 6) (fld w 29 3))
  | 0x09 => .ok (.vor (fld w 7 6) (fld w 13 6) (fld w 19 6) (fld w 29 3))
  | 0x0A => .ok (.vxor (fld w 7 6) (fld w 13 6) (fld w 19 6) (fld w 29 3))
  | 0x0B => .ok (.vandn (fld w 7 6) (fld w 13 6) (fld w 19 6) (fld w 29 3))
  | _ => .error .unassigned

/-- The shape of a word of major opcode 0x31. -/
def shape31 (w : BitVec 32) : Except Reject Instr :=
  match (fld w 25 4).toNat with
  | 0x00 => .ok (.vfadd (fld w 7 6) (fld w 13 6) (fld w 19 6) (fld w 29 3) (fld w 0 1))
  | 0x01 => .ok (.vfsub (fld w 7 6) (fld w 13 6) (fld w 19 6) (fld w 29 3) (fld w 0 1))
  | 0x02 => .ok (.vfmul (fld w 7 6) (fld w 13 6) (fld w 19 6) (fld w 29 3) (fld w 0 1))
  | 0x03 => .ok (.vfmin (fld w 7 6) (fld w 13 6) (fld w 19 6) (fld w 29 3) (fld w 0 1))
  | 0x04 => .ok (.vfmax (fld w 7 6) (fld w 13 6) (fld w 19 6) (fld w 29 3) (fld w 0 1))
  | 0x05 => .ok (.vfsgn (fld w 7 6) (fld w 13 6) (fld w 19 6) (fld w 29 3) (fld w 0 1))
  | 0x06 => .ok (.vfsgnn (fld w 7 6) (fld w 13 6) (fld w 19 6) (fld w 29 3) (fld w 0 1))
  | 0x07 => .ok (.vfsgnx (fld w 7 6) (fld w 13 6) (fld w 19 6) (fld w 29 3) (fld w 0 1))
  | _ => .error .unassigned

/-- The shape of a word of major opcode 0x32. -/
def shape32 (w : BitVec 32) : Except Reject Instr :=
  match (fld w 25 4).toNat with
  | 0x00 | 0x01 => .ok (.vadd (fld w 7 6) (fld w 13 6) (fld w 19 6) (fld w 29 3) (fld w 25 1))
  | 0x02 | 0x03 => .ok (.vsub (fld w 7 6) (fld w 13 6) (fld w 19 6) (fld w 29 3) (fld w 25 1))
  | 0x04 | 0x05 => .ok (.vmul (fld w 7 6) (fld w 13 6) (fld w 19 6) (fld w 29 3) (fld w 25 1))
  | 0x06 | 0x07 => .ok (.vmin (fld w 7 6) (fld w 13 6) (fld w 19 6) (fld w 29 3) (fld w 25 1))
  | 0x08 | 0x09 => .ok (.vmax (fld w 7 6) (fld w 13 6) (fld w 19 6) (fld w 29 3) (fld w 25 1))
  | 0x0A | 0x0B => .ok (.vsll (fld w 7 6) (fld w 13 6) (fld w 19 6) (fld w 29 3) (fld w 25 1))
  | 0x0C | 0x0D => .ok (.vsrl (fld w 7 6) (fld w 13 6) (fld w 19 6) (fld w 29 3) (fld w 25 1))
  | _ => .ok (.vsra (fld w 7 6) (fld w 13 6) (fld w 19 6) (fld w 29 3) (fld w 25 1))

/-- The shape of a word of major opcode 0x33. -/
def shape33 (w : BitVec 32) : Except Reject Instr :=
  match (fld w 25 4).toNat with
  | 0x00 | 0x08 => .ok (.vfma (fld w 7 6) (fld w 13 6) (fld w 19 6) (fld w 29 3) (fld w 28 1))
  | 0x01 | 0x09 => .ok (.vfms (fld w 7 6) (fld w 13 6) (fld w 19 6) (fld w 29 3) (fld w 28 1))
  | 0x02 | 0x0A => .ok (.vfnma (fld w 7 6) (fld w 13 6) (fld w 19 6) (fld w 29 3) (fld w 28 1))
  | 0x03 | 0x0B => .ok (.vfnms (fld w 7 6) (fld w 13 6) (fld w 19 6) (fld w 29 3) (fld w 28 1))
  | _ => .error .unassigned

/-- The shape of a word of major opcode 0x34. -/
def shape34 (w : BitVec 32) : Except Reject Instr :=
  match (fld w 25 4).toNat with
  | 0x00 | 0x04 => resv (fld w 10 3 == 0) (.vfeq (fld w 7 3) (fld w 13 6) (fld w 19 6) (fld w 29 3) (fld w 27 1))
  | 0x01 | 0x05 => resv (fld w 10 3 == 0) (.vflt (fld w 7 3) (fld w 13 6) (fld w 19 6) (fld w 29 3) (fld w 27 1))
  | 0x02 | 0x06 => resv (fld w 10 3 == 0) (.vfle (fld w 7 3) (fld w 13 6) (fld w 19 6) (fld w 29 3) (fld w 27 1))
  | 0x08 | 0x0C => resv (fld w 10 3 == 0) (.veq (fld w 7 3) (fld w 13 6) (fld w 19 6) (fld w 29 3) (fld w 27 1))
  | 0x09 | 0x0D => resv (fld w 10 3 == 0) (.vlt (fld w 7 3) (fld w 13 6) (fld w 19 6) (fld w 29 3) (fld w 27 1))
  | 0x0A | 0x0E => resv (fld w 10 3 == 0) (.vltu (fld w 7 3) (fld w 13 6) (fld w 19 6) (fld w 29 3) (fld w 27 1))
  | _ => .error .unassigned

/-- The shape of a word of major opcode 0x35. -/
def shape35 (w : BitVec 32) : Except Reject Instr :=
  match (fld w 25 7).toNat with
  | 0x00 => resv (fld w 10 3 == 0 && fld w 16 3 == 0 && fld w 22 3 == 0) (.mand (fld w 7 3) (fld w 13 3) (fld w 19 3))
  | 0x01 => resv (fld w 10 3 == 0 && fld w 16 3 == 0 && fld w 22 3 == 0) (.mor (fld w 7 3) (fld w 13 3) (fld w 19 3))
  | 0x02 => resv (fld w 10 3 == 0 && fld w 16 3 == 0 && fld w 22 3 == 0) (.mxor (fld w 7 3) (fld w 13 3) (fld w 19 3))
  | 0x03 => resv (fld w 10 3 == 0 && fld w 16 3 == 0 && fld w 22 3 == 0) (.mandn (fld w 7 3) (fld w 13 3) (fld w 19 3))
  | 0x04 => resv (fld w 10 3 == 0 && fld w 16 9 == 0) (.mnot (fld w 7 3) (fld w 13 3))
  | 0x10 => resv (fld w 16 9 == 0) (.mpopc (fld w 7 6) (fld w 13 3))
  | 0x11 => resv (fld w 16 9 == 0) (.mfirst (fld w 7 6) (fld w 13 3))
  | 0x12 => resv (fld w 16 9 == 0) (.mlast (fld w 7 6) (fld w 13 3))
  | 0x20 => resv (fld w 10 3 == 0 && fld w 19 6 == 0) (.mlen (fld w 7 3) (fld w 13 6))
  | _ => .error .unassigned

/-- The shape of a word of major opcode 0x36. -/
def shape36 (w : BitVec 32) : Except Reject Instr :=
  match (fld w 25 4).toNat with
  | 0x00 | 0x01 => .ok (.vsel (fld w 7 6) (fld w 13 6) (fld w 19 6) (fld w 29 3) (fld w 25 1))
  | 0x02 | 0x03 => resv (fld w 19 6 == 0) (.vbcast (fld w 7 6) (fld w 13 6) (fld w 29 3) (fld w 25 1))
  | 0x04 | 0x05 => resv (fld w 29 3 == 0) (.vins (fld w 7 6) (fld w 13 6) (fld w 19 6) (fld w 25 1))
  | 0x06 => resv (fld w 29 3 == 0) (.vextWZ (fld w 7 6) (fld w 13 6) (fld w 19 6))
  | 0x07 => resv (fld w 29 3 == 0) (.vextWS (fld w 7 6) (fld w 13 6) (fld w 19 6))
  | 0x08 => resv (fld w 29 3 == 0) (.vextD (fld w 7 6) (fld w 13 6) (fld w 19 6))
  | _ => .error .unassigned

/-- The shape of a word of major opcode 0x37. -/
def shape37 (w : BitVec 32) : Except Reject Instr :=
  match (fld w 25 4).toNat with
  | 0x00 | 0x01 => .ok (.vperm (fld w 7 6) (fld w 13 6) (fld w 19 6) (fld w 29 3) (fld w 25 1))
  | 0x02 | 0x03 => .ok (.vrot (fld w 7 6) (fld w 13 6) (fld w 19 6) (fld w 29 3) (fld w 25 1))
  | _ => .error .unassigned

/-- The shape of a word of major opcode 0x38. -/
def shape38 (w : BitVec 32) : Except Reject Instr :=
  match (fld w 25 4).toNat with
  | 0x00 | 0x01 => resv (fld w 19 6 == 0) (.vfredsum (fld w 7 6) (fld w 13 6) (fld w 29 3) (fld w 25 1))
  | 0x02 | 0x03 => resv (fld w 19 6 == 0) (.vfredmin (fld w 7 6) (fld w 13 6) (fld w 29 3) (fld w 25 1))
  | 0x04 | 0x05 => resv (fld w 19 6 == 0) (.vfredmax (fld w 7 6) (fld w 13 6) (fld w 29 3) (fld w 25 1))
  | 0x08 | 0x09 => resv (fld w 19 6 == 0) (.vredadd (fld w 7 6) (fld w 13 6) (fld w 29 3) (fld w 25 1))
  | 0x0A | 0x0B => resv (fld w 19 6 == 0) (.vredmin (fld w 7 6) (fld w 13 6) (fld w 29 3) (fld w 25 1))
  | 0x0C | 0x0D => resv (fld w 19 6 == 0) (.vredmax (fld w 7 6) (fld w 13 6) (fld w 29 3) (fld w 25 1))
  | _ => .error .unassigned

/-- The shape of a word of major opcode 0x39. -/
def shape39 (w : BitVec 32) : Except Reject Instr :=
  match (fld w 25 4).toNat with
  | 0x00 | 0x01 | 0x02 | 0x03 | 0x04 | 0x05 | 0x06 | 0x07 | 0x08 | 0x09 | 0x0A | 0x0B => resv (((fld w 25 4).toNat ≤ 1 || fld w 19 6 == 0)) (.vcvt (fld w 7 6) (fld w 13 6) (fld w 19 6) (fld w 29 3) (fld w 25 4))
  | _ => .error .unassigned

/-- The shape of a word of major opcode 0x3A. -/
def shape3A (w : BitVec 32) : Except Reject Instr :=
  match (fld w 25 3).toNat with
  | 0x00 | 0x01 => resv (fld w 22 3 == 0) (.vld (fld w 7 6) (fld w 13 6) (fld w 19 3) (fld w 28 4) (fld w 25 1))
  | 0x02 | 0x03 => .ok (.vlds (fld w 7 6) (fld w 13 6) (fld w 19 6) (fld w 28 4) (fld w 25 1))
  | _ => .error .unassigned

/-- The shape of a word of major opcode 0x3B. -/
def shape3B (w : BitVec 32) : Except Reject Instr :=
  match (fld w 25 3).toNat with
  | 0x00 | 0x01 => .ok (.vldx (fld w 7 6) (fld w 13 6) (fld w 19 6) (fld w 28 4) (fld w 25 1))
  | _ => .error .unassigned

/-- The shape of a word of major opcode 0x3C. -/
def shape3C (w : BitVec 32) : Except Reject Instr :=
  match (fld w 30 2).toNat with
  | 0x00 | 0x01 => resv (fld w 7 6 == 0 && fld w 25 1 == 0 && fld w 29 1 == 0) (.vst (fld w 13 6) (fld w 19 6) (fld w 30 1) (fld w 26 3))
  | 0x02 => resv (fld w 25 4 == 0) (.vsts (fld w 7 6) (fld w 13 6) (fld w 19 6) (fld w 29 1))
  | _ => resv (fld w 25 4 == 0) (.vstx (fld w 7 6) (fld w 13 6) (fld w 19 6) (fld w 29 1))

/-- The shape of a word of major opcode 0x40. -/
def shape40 (w : BitVec 32) : Except Reject Instr :=
  resv (fld w 10 3 == 0 && fld w 17 2 == 0 && fld w 23 2 == 0) (.mma (fld w 7 3) (fld w 13 4) (fld w 19 4) (fld w 28 4) (fld w 27 1) (fld w 26 1) (fld w 25 1))

/-- The shape of a word of major opcode 0x41. -/
def shape41 (w : BitVec 32) : Except Reject Instr :=
  match (fld w 25 3).toNat with
  | 0x00 => resv (fld w 10 3 == 0 && fld w 19 6 == 0) (.accld (fld w 7 3) (fld w 13 6) (fld w 28 4))
  | 0x01 => resv (fld w 10 3 == 0 && fld w 19 6 == 0) (.accst (fld w 7 3) (fld w 13 6) (fld w 28 4))
  | 0x02 => resv (fld w 10 3 == 0 && fld w 19 6 == 0) (.accdr (fld w 7 3) (fld w 13 6) (fld w 28 4))
  | _ => .error .unassigned

/-- The shape of a word of major opcode 0x42. -/
def shape42 (w : BitVec 32) : Except Reject Instr :=
  match (fld w 25 7).toNat with
  | 0x00 => resv (fld w 10 15 == 0) (.accz (fld w 7 3))
  | 0x01 => resv (fld w 13 12 == 0) (.accq (fld w 7 6))
  | 0x02 => resv (fld w 7 6 == 0 && fld w 19 6 == 0) (.mxcfg (fld w 13 6))
  | _ => .error .unassigned

/-- The shape of a word of major opcode 0x43. -/
def shape43 (w : BitVec 32) : Except Reject Instr :=
  match (fld w 11 2).toNat with
  | 0 => .ok (.tldA (fld w 7 4) (fld w 13 6) (fld w 19 6) (fld w 28 4) (fld w 25 3))
  | 1 => .ok (.tldB (fld w 7 4) (fld w 13 6) (fld w 19 6) (fld w 28 4) (fld w 25 3))
  | 2 => .ok (.tst (fld w 7 4) (fld w 13 6) (fld w 19 6) (fld w 28 4) (fld w 25 3))
  | _ => .ok (.tstKeep (fld w 7 4) (fld w 13 6) (fld w 19 6) (fld w 28 4) (fld w 25 3))

/-- The shape of a word of major opcode 0x44. -/
def shape44 (w : BitVec 32) : Except Reject Instr :=
  match (fld w 25 7).toNat with
  | 0x00 => resv (fld w 10 3 == 0 && fld w 19 6 == 0) (.tdsetBase (fld w 7 3) (fld w 13 6))
  | 0x01 => resv (fld w 10 3 == 0 && fld w 19 6 == 0) (.tdsetDims (fld w 7 3) (fld w 13 6))
  | 0x02 => resv (fld w 10 3 == 0 && fld w 19 6 == 0) (.tdsetStrides (fld w 7 3) (fld w 13 6))
  | 0x03 => resv (fld w 10 3 == 0 && fld w 19 6 == 0) (.tdsetForm (fld w 7 3) (fld w 13 6))
  | 0x04 => resv (fld w 10 3 == 0 && fld w 19 6 == 0) (.tdsetScale (fld w 7 3) (fld w 13 6))
  | 0x10 => resv (fld w 11 2 == 0) (.ringcfg (fld w 7 4) (fld w 13 6) (fld w 19 6))
  | 0x20 => resv (fld w 17 8 == 0) (.ringqry (fld w 7 6) (fld w 13 4))
  | 0x30 => resv (fld w 17 2 == 0) (.tqry (fld w 7 6) (fld w 13 4) (fld w 19 6))
  | _ => .error .unassigned

/-- The shape of a word of major opcode 0x45. -/
def shape45 (w : BitVec 32) : Except Reject Instr :=
  match (fld w 25 3).toNat with
  | 0x00 => resv (fld w 7 6 == 0 && fld w 19 6 == 0) (.rowact (fld w 13 6) (fld w 28 4))
  | 0x01 => resv (fld w 7 6 == 0 && fld w 19 6 == 0) (.rowpre (fld w 13 6) (fld w 28 4))
  | 0x02 => resv (fld w 19 6 == 0) (.vqry (fld w 7 6) (fld w 13 6) (fld w 28 4))
  | _ => .error .unassigned

/-- The shape of a word of major opcode 0x48. -/
def shape48 (w : BitVec 32) : Except Reject Instr :=
  match (fld w 25 3).toNat with
  | 0x00 => resv (fld w 24 1 == 0) (.go2d (fld w 7 6) (fld w 13 6) (fld w 28 4) (fld w 23 1) (fld w 22 1) (fld w 19 3))
  | 0x01 => resv (fld w 24 1 == 0) (.go3d (fld w 7 6) (fld w 13 6) (fld w 28 4) (fld w 23 1) (fld w 22 1) (fld w 19 3))
  | 0x02 => resv (fld w 24 1 == 0) (.ginc (fld w 7 6) (fld w 13 6) (fld w 28 4) (fld w 23 1) (fld w 22 1) (fld w 19 3))
  | 0x03 => resv (fld w 24 1 == 0) (.gins (fld w 7 6) (fld w 13 6) (fld w 28 4) (fld w 23 1) (fld w 22 1) (fld w 19 3))
  | 0x04 => resv (fld w 24 1 == 0) (.gsegx (fld w 7 6) (fld w 13 6) (fld w 28 4) (fld w 23 1) (fld w 22 1) (fld w 19 3))
  | _ => .error .unassigned

/-- The shape of a word of major opcode 0x49. -/
def shape49 (w : BitVec 32) : Except Reject Instr :=
  match (fld w 25 7).toNat with
  | 0x00 => resv (fld w 7 6 == 0 && fld w 19 6 == 0) (.gpcfg (fld w 13 6))
  | _ => .error .unassigned

/-- The shape of a word of major opcode 0x4C. -/
def shape4C (w : BitVec 32) : Except Reject Instr :=
  match (fld w 25 7).toNat with
  | 0x00 => resv (fld w 7 6 == 0) (.bbsetR (fld w 13 6) (fld w 19 6))
  | 0x01 => resv (fld w 7 6 == 0) (.bbsetW (fld w 13 6) (fld w 19 6))
  | 0x08 => resv (fld w 19 6 == 0) (.bget (fld w 7 6) (fld w 13 6))
  | 0x0A => resv (fld w 19 6 == 0) (.bpeek (fld w 7 6) (fld w 13 6))
  | 0x0B => resv (fld w 13 12 == 0) (.bpeekPos (fld w 7 6))
  | 0x0C => resv (fld w 7 6 == 0 && fld w 19 6 == 0) (.bskip (fld w 13 6))
  | 0x10 => resv (fld w 7 6 == 0) (.bput (fld w 13 6) (fld w 19 6))
  | 0x11 => resv (fld w 13 12 == 0) (.bflush (fld w 7 6))
  | 0x18 => resv (fld w 13 12 == 0) (.balign (fld w 7 6))
  | _ => .error .unassigned

/-- The shape of a word of major opcode 0x4D. -/
def shape4D (w : BitVec 32) : Except Reject Instr :=
  match (fld w 25 3).toNat with
  | 0x00 => .ok (.tdec (fld w 7 6) (fld w 13 6) (fld w 19 6) (fld w 28 4))
  | 0x01 => .ok (.ldec (fld w 7 6) (fld w 13 6) (fld w 19 6) (fld w 28 4))
  | 0x02 => resv (fld w 19 6 == 0) (.lmerge (fld w 7 6) (fld w 13 6) (fld w 28 4))
  | _ => .error .unassigned

/-- The shape of a word of major opcode 0x4E. -/
def shape4E (w : BitVec 32) : Except Reject Instr :=
  match (fld w 25 3).toNat with
  | 0x00 => .ok (.zrenc (fld w 7 6) (fld w 13 6) (fld w 19 6) (fld w 28 4))
  | 0x01 => .ok (.zrencEnd (fld w 7 6) (fld w 13 6) (fld w 19 6) (fld w 28 4))
  | _ => .error .unassigned

/-- The shape of a word of major opcode 0x50. -/
def shape50 (w : BitVec 32) : Except Reject Instr :=
  match (fld w 25 3).toNat with
  | 0x00 | 0x01 | 0x02 | 0x03 => resv (fld w 19 6 == 0) (.rget (fld w 7 6) (fld w 13 6) (fld w 28 4) (fld w 25 2))
  | 0x04 => resv (fld w 19 6 == 0) (.rgetV (fld w 7 6) (fld w 13 6) (fld w 28 4))
  | _ => resv (fld w 19 6 == 0) (.rgetS (fld w 7 6) (fld w 13 6) (fld w 28 4) (fld w 25 2))

/-- The shape of a word of major opcode 0x51. -/
def shape51 (w : BitVec 32) : Except Reject Instr :=
  match (fld w 25 3).toNat with
  | 0x00 | 0x01 | 0x02 | 0x03 => resv (fld w 7 6 == 0) (.rput (fld w 13 6) (fld w 19 6) (fld w 28 4) (fld w 25 2))
  | 0x04 => resv (fld w 7 6 == 0) (.rputV (fld w 13 6) (fld w 19 6) (fld w 28 4))
  | _ => .error .unassigned

/-- The shape of a word of major opcode 0x52. -/
def shape52 (w : BitVec 32) : Except Reject Instr :=
  match (fld w 25 3).toNat with
  | _ => .ok (.ratom (fld w 7 6) (fld w 13 6) (fld w 19 6) (fld w 28 4) (fld w 25 3))

/-- The shape of a word of major opcode 0x53. -/
def shape53 (w : BitVec 32) : Except Reject Instr :=
  match (fld w 25 3).toNat with
  | 0x00 => .ok (.amsend (fld w 7 6) (fld w 13 6) (fld w 19 6) (fld w 28 4))
  | _ => .error .unassigned

/-- The shape of a word of major opcode 0x54. -/
def shape54 (w : BitVec 32) : Except Reject Instr :=
  match (fld w 25 7).toNat with
  | 0x00 => resv (fld w 7 6 == 0 && fld w 19 6 == 0) (.amret (fld w 13 6))
  | _ => .error .unassigned

/-- The shape of a word of major opcode 0x55. -/
def shape55 (w : BitVec 32) : Except Reject Instr :=
  match (fld w 25 3).toNat with
  | 0x00 | 0x01 | 0x02 | 0x03 => .ok (.msend (fld w 7 6) (fld w 13 6) (fld w 19 6) (fld w 28 4) (fld w 25 2))
  | _ => .error .unassigned

/-- The shape of a word of major opcode 0x56. -/
def shape56 (w : BitVec 32) : Except Reject Instr :=
  match (fld w 25 3).toNat with
  | 0x00 => resv (fld w 19 6 == 0) (.mrecv (fld w 7 6) (fld w 13 6) (fld w 28 4))
  | _ => .error .unassigned

/-- The shape of a word of major opcode 0x57. -/
def shape57 (w : BitVec 32) : Except Reject Instr :=
  match (fld w 25 7).toNat with
  | 0x00 => resv (fld w 19 6 == 0) (.mprobe (fld w 7 6) (fld w 13 6))
  | _ => .error .unassigned

/-- The shape of a word of major opcode 0x58. -/
def shape58 (w : BitVec 32) : Except Reject Instr :=
  match (fld w 25 3).toNat with
  | 0x00 => resv (fld w 13 12 == 0) (.ctxalloc (fld w 7 6) (fld w 28 4))
  | 0x01 => asg ((fld w 19 6).toNat < 12) (resv (fld w 7 6 == 0) (.ctxseal (fld w 13 6) (fld w 19 6) (fld w 28 4)))
  | 0x02 => resv (fld w 7 6 == 0 && fld w 19 6 == 0) (.ctxret (fld w 13 6) (fld w 28 4))
  | 0x03 => resv (fld w 7 6 == 0 && fld w 19 6 == 0) (.ctxmrg (fld w 13 6) (fld w 28 4))
  | _ => .error .unassigned

/-- The shape of a word of major opcode 0x59. -/
def shape59 (w : BitVec 32) : Except Reject Instr :=
  match (fld w 25 3).toNat with
  | 0x00 => .ok (.ldxNow (fld w 7 6) (fld w 13 6) (fld w 19 6) (fld w 28 4))
  | 0x01 => .ok (.ldxWait (fld w 7 6) (fld w 13 6) (fld w 19 6) (fld w 28 4))
  | 0x02 => .ok (.ldxProbe (fld w 7 6) (fld w 13 6) (fld w 19 6) (fld w 28 4))
  | _ => .error .unassigned

/-- The shape of a word of major opcode 0x5A. -/
def shape5A (w : BitVec 32) : Except Reject Instr :=
  match (fld w 25 7).toNat with
  | 0x00 => resv (fld w 7 6 == 0 && fld w 19 6 == 0) (.ctxset (fld w 13 6))
  | 0x10 => resv (fld w 19 6 == 0) (.frnset (fld w 7 6) (fld w 13 6))
  | 0x20 => resv (fld w 13 12 == 0) (.frnget (fld w 7 6))
  | 0x21 => resv (fld w 19 6 == 0) (.frngetWait (fld w 7 6) (fld w 13 6))
  | _ => .error .unassigned

/-- The shape of a word of major opcode 0x5C. -/
def shape5C (w : BitVec 32) : Except Reject Instr :=
  match (fld w 25 7).toNat with
  | 0x00 => asg ((fld w 19 6).toNat < 12) (resv (fld w 7 12 == 0) (.fence (fld w 19 6)))
  | 0x01 => asg ((fld w 19 6).toNat < 12) (resv (fld w 7 12 == 0) (.fenceAcq (fld w 19 6)))
  | _ => .error .unassigned

/-- The shape of a word of major opcode 0x5D. -/
def shape5D (w : BitVec 32) : Except Reject Instr :=
  match (fld w 25 3).toNat with
  | 0x00 => asg (isBarForm (fld w 19 6)) (.ok (.bararr (fld w 7 6) (fld w 13 6) (fld w 19 6) (fld w 28 4)))
  | 0x01 => resv (fld w 7 6 == 0) (.barwait (fld w 13 6) (fld w 19 6) (fld w 28 4))
  | 0x02 => resv (fld w 7 6 == 0) (.barbytes (fld w 13 6) (fld w 19 6) (fld w 28 4))
  | 0x03 => .ok (.barqry (fld w 7 6) (fld w 13 6) (fld w 19 6) (fld w 28 4))
  | _ => .error .unassigned

/-- The shape of a word of major opcode 0x5E. -/
def shape5E (w : BitVec 32) : Except Reject Instr :=
  match (fld w 25 3).toNat with
  | 0x00 => .ok (.ctrwait (fld w 7 6) (fld w 13 6) (fld w 19 6) (fld w 28 4))
  | 0x01 => .ok (.ctradd (fld w 7 6) (fld w 13 6) (fld w 19 6) (fld w 28 4))
  | _ => .error .unassigned

/-- The shape of a word of major opcode 0x5F. -/
def shape5F (w : BitVec 32) : Except Reject Instr :=
  match (fld w 25 7).toNat with
  | 0x00 | 0x01 | 0x02 => resv (fld w 7 6 == 0 && fld w 19 6 == 0 && (fld w 25 2 != 2 || fld w 16 3 == 0)) (.fempty (fld w 13 6) (fld w 25 2))
  | 0x10 | 0x11 | 0x12 => resv (fld w 19 6 == 0 && (fld w 25 2 != 2 || fld w 16 3 == 0)) (.fetest (fld w 7 6) (fld w 13 6) (fld w 25 2))
  | _ => .error .unassigned

/-- The shape of a word of major opcode 0x60. -/
def shape60 (w : BitVec 32) : Except Reject Instr :=
  match (fld w 25 3).toNat with
  | 0x00 => .ok (.spawn (fld w 7 6) (fld w 13 6) (fld w 19 6) (fld w 28 4))
  | _ => .error .unassigned

/-- The shape of a word of major opcode 0x61. -/
def shape61 (w : BitVec 32) : Except Reject Instr :=
  match (fld w 25 3).toNat with
  | 0x00 => .ok (.launch (fld w 7 6) (fld w 13 6) (fld w 19 6) (fld w 28 4))
  | _ => .error .unassigned

/-- The shape of a word of major opcode 0x62. -/
def shape62 (w : BitVec 32) : Except Reject Instr :=
  match (fld w 25 7).toNat with
  | 0x00 => resv (fld w 7 18 == 0) (.texit)
  | 0x01 => resv (fld w 13 12 == 0) (.wlqry (fld w 7 6))
  | 0x10 => resv (fld w 7 6 == 0 && fld w 19 6 == 0) (.pbind (fld w 13 6))
  | 0x11 => resv (fld w 19 6 == 0) (.pqry (fld w 7 6) (fld w 13 6))
  | _ => .error .unassigned

/-- The shape of a word of major opcode 0x64. -/
def shape64 (w : BitVec 32) : Except Reject Instr :=
  asg (isCsr (fld w 19 12)) (resv (fld w 13 6 == 0 && fld w 31 1 == 0) (.csrrd (fld w 7 6) (fld w 19 12)))

/-- The shape of a word of major opcode 0x65. -/
def shape65 (w : BitVec 32) : Except Reject Instr :=
  asg (isCsr (fld w 19 12)) (resv (fld w 31 1 == 0) (.csrwr (fld w 7 6) (fld w 13 6) (fld w 19 12)))

/-- The shape of a word of major opcode 0x66. -/
def shape66 (w : BitVec 32) : Except Reject Instr :=
  match (fld w 31 1).toNat with
  | 0x00 => asg (isCsr (fld w 19 12)) (.ok (.csrset (fld w 7 6) (fld w 13 6) (fld w 19 12)))
  | _ => asg (isCsr (fld w 19 12)) (.ok (.csrclr (fld w 7 6) (fld w 13 6) (fld w 19 12)))

/-- The shape of a word of major opcode 0x67. -/
def shape67 (w : BitVec 32) : Except Reject Instr :=
  match (fld w 25 7).toNat with
  | 0x00 => resv (fld w 7 6 == 0 && fld w 19 6 == 0) (.trap (fld w 13 6))
  | 0x01 => resv (fld w 7 18 == 0) (.tret)
  | 0x02 => resv (fld w 7 18 == 0) (.idem)
  | 0x03 => resv (fld w 7 18 == 0) (.ebrk)
  | _ => .error .unassigned

/-- Checks 1, 2, 3, 5 and 6 of R34: the instruction a word's bits spell, register numbers unchecked. -/
def shape (w : BitVec 32) : Except Reject Instr :=
  match (fld w 0 7).toNat with
  | 0x00 => .error .illegal00
  | 0x01 => shape01 w
  | 0x02 => shape02 w
  | 0x03 => shape03 w
  | 0x04 => shape04 w
  | 0x05 => shape05 w
  | 0x06 => shape06 w
  | 0x07 => shape07 w
  | 0x08 => shape08 w
  | 0x09 => shape09 w
  | 0x0A => shape0A w
  | 0x0B => shape0B w
  | 0x0C => shape0C w
  | 0x0D => shape0D w
  | 0x0E => shape0E w
  | 0x10 => shape10 w
  | 0x11 => shape11 w
  | 0x12 => shape12 w
  | 0x13 => shape13 w
  | 0x14 => shape14 w
  | 0x15 => shape15 w
  | 0x16 => shape16 w
  | 0x17 => shape17 w
  | 0x18 => shape18 w
  | 0x19 => shape19 w
  | 0x1A => shape1A w
  | 0x1B => shape1B w
  | 0x1C => shape1C w
  | 0x1D => shape1D w
  | 0x1E => shape1E w
  | 0x1F => shape1F w
  | 0x20 => shape20 w
  | 0x21 => shape21 w
  | 0x22 => shape22 w
  | 0x23 => shape23 w
  | 0x24 => shape24 w
  | 0x25 => shape25 w
  | 0x26 => shape26 w
  | 0x30 => shape30 w
  | 0x31 => shape31 w
  | 0x32 => shape32 w
  | 0x33 => shape33 w
  | 0x34 => shape34 w
  | 0x35 => shape35 w
  | 0x36 => shape36 w
  | 0x37 => shape37 w
  | 0x38 => shape38 w
  | 0x39 => shape39 w
  | 0x3A => shape3A w
  | 0x3B => shape3B w
  | 0x3C => shape3C w
  | 0x40 => shape40 w
  | 0x41 => shape41 w
  | 0x42 => shape42 w
  | 0x43 => shape43 w
  | 0x44 => shape44 w
  | 0x45 => shape45 w
  | 0x48 => shape48 w
  | 0x49 => shape49 w
  | 0x4C => shape4C w
  | 0x4D => shape4D w
  | 0x4E => shape4E w
  | 0x50 => shape50 w
  | 0x51 => shape51 w
  | 0x52 => shape52 w
  | 0x53 => shape53 w
  | 0x54 => shape54 w
  | 0x55 => shape55 w
  | 0x56 => shape56 w
  | 0x57 => shape57 w
  | 0x58 => shape58 w
  | 0x59 => shape59 w
  | 0x5A => shape5A w
  | 0x5C => shape5C w
  | 0x5D => shape5D w
  | 0x5E => shape5E w
  | 0x5F => shape5F w
  | 0x60 => shape60 w
  | 0x61 => shape61 w
  | 0x62 => shape62 w
  | 0x64 => shape64 w
  | 0x65 => shape65 w
  | 0x66 => shape66 w
  | 0x67 => shape67 w
  | 0x7F => .error .illegal7F
  | _ => .error .reservedOpcode

/-- The instruction a word is, or why it is none (R34, checks 1 to 7). -/
def decode (w : BitVec 32) : Except Reject Instr :=
  match shape w with
  | .ok i => if i.wf then .ok i else .error .reservedRegister
  | .error r => .error r

/-- The word whose bytes, lowest address first, are given: little-endian (R22, R4). -/
def wordOfBytes (b0 b1 b2 b3 : BitVec 8) : BitVec 32 := b3 ++ b2 ++ b1 ++ b0

/-- Decoding from the bytes of memory: the first four bytes and the rest; none when fewer are left. -/
def decodeBytes : List (BitVec 8) → Option (Except Reject Instr × List (BitVec 8))
  | b0 :: b1 :: b2 :: b3 :: rest => some (decode (wordOfBytes b0 b1 b2 b3), rest)
  | _ => none

/-- The bytes of a word as the hardware stores them, lowest address first. -/
def bytesOfWord (w : BitVec 32) : List (BitVec 8) := [fld w 0 8, fld w 8 8, fld w 16 8, fld w 24 8]

/-- The instruction the decoder reads from an opcode-table word: bit 0 is the least significant bit of the word. -/
def decodeTableWord (_nbits w : Nat) : Option Instr :=
  match decodeBytes (bytesOfWord (BitVec.ofNat 32 w)) with
  | some (.ok i, _) => some i
  | _ => none

/-- Bits off+n-1 … off of an immediate that the word holds in two pieces. -/
def fldN {k : Nat} (x : BitVec k) (off n : Nat) : BitVec n := x.extractLsb' off n

/-- The word of an instruction, its fields laid out as R22 and the entry give them; 0 for a constructor without an
encoding.  What decode reads back (see Laws/Encoding.lean). -/
def encode : Instr → BitVec 32
  | .add d a b => 0x0#7 ++ b ++ a ++ d ++ 0x1#7
  | .sub d a b => 0x1#7 ++ b ++ a ++ d ++ 0x1#7
  | .and d a b => 0x2#7 ++ b ++ a ++ d ++ 0x1#7
  | .or d a b => 0x3#7 ++ b ++ a ++ d ++ 0x1#7
  | .xor d a b => 0x4#7 ++ b ++ a ++ d ++ 0x1#7
  | .andn d a b => 0x5#7 ++ b ++ a ++ d ++ 0x1#7
  | .sll d a b => 0x8#7 ++ b ++ a ++ d ++ 0x1#7
  | .srl d a b => 0x9#7 ++ b ++ a ++ d ++ 0x1#7
  | .sra d a b => 0xA#7 ++ b ++ a ++ d ++ 0x1#7
  | .ror d a b => 0xB#7 ++ b ++ a ++ d ++ 0x1#7
  | .slt d a b => 0x10#7 ++ b ++ a ++ d ++ 0x1#7
  | .sltu d a b => 0x11#7 ++ b ++ a ++ d ++ 0x1#7
  | .min d a b => 0x18#7 ++ b ++ a ++ d ++ 0x1#7
  | .minu d a b => 0x19#7 ++ b ++ a ++ d ++ 0x1#7
  | .max d a b => 0x1A#7 ++ b ++ a ++ d ++ 0x1#7
  | .maxu d a b => 0x1B#7 ++ b ++ a ++ d ++ 0x1#7
  | .addW d a b => 0x20#7 ++ b ++ a ++ d ++ 0x1#7
  | .subW d a b => 0x21#7 ++ b ++ a ++ d ++ 0x1#7
  | .adds d a b => 0x28#7 ++ b ++ a ++ d ++ 0x1#7
  | .subs d a b => 0x29#7 ++ b ++ a ++ d ++ 0x1#7
  | .addImmediate d a i => i ++ a ++ d ++ 0x2#7
  | .andImmediate d a i => i ++ a ++ d ++ 0x3#7
  | .orImmediate d a i => i ++ a ++ d ++ 0x4#7
  | .xorImmediate d a i => i ++ a ++ d ++ 0x5#7
  | .sllImmediate d a n => 0x0#7 ++ n ++ a ++ d ++ 0x6#7
  | .srlImmediate d a n => 0x1#7 ++ n ++ a ++ d ++ 0x6#7
  | .sraImmediate d a n => 0x2#7 ++ n ++ a ++ d ++ 0x6#7
  | .rorImmediate d a n => 0x3#7 ++ n ++ a ++ d ++ 0x6#7
  | .sltImmediate d a i => i ++ a ++ d ++ 0x7#7
  | .sltuImmediate d a i => i ++ a ++ d ++ 0x8#7
  | .movhi d i => i ++ d ++ 0x9#7
  | .adrhi d i => i ++ d ++ 0xA#7
  | .mul d a b => 0x0#7 ++ b ++ a ++ d ++ 0xB#7
  | .mulW d a b => 0x4#7 ++ b ++ a ++ d ++ 0xB#7
  | .mulh d a b s => 0x2#5 ++ s ++ b ++ a ++ d ++ 0xB#7
  | .mulp d a b s => 0x3#5 ++ s ++ b ++ a ++ d ++ 0xB#7
  | .div d a b l => l ++ 0x0#3 ++ b ++ a ++ d ++ 0xC#7
  | .divu d a b l => l ++ 0x1#3 ++ b ++ a ++ d ++ 0xC#7
  | .rem d a b l => l ++ 0x2#3 ++ b ++ a ++ d ++ 0xC#7
  | .remu d a b l => l ++ 0x3#3 ++ b ++ a ++ d ++ 0xC#7
  | .clz d a => 0x0#7 ++ 0x0#6 ++ a ++ d ++ 0xD#7
  | .ctz d a => 0x1#7 ++ 0x0#6 ++ a ++ d ++ 0xD#7
  | .popc d a => 0x2#7 ++ 0x0#6 ++ a ++ d ++ 0xD#7
  | .rev8 d a => 0x3#7 ++ 0x0#6 ++ a ++ d ++ 0xD#7
  | .brev d a => 0x4#7 ++ 0x0#6 ++ a ++ d ++ 0xD#7
  | .extBS d a => 0x5#7 ++ 0x0#6 ++ a ++ d ++ 0xD#7
  | .extHS d a => 0x6#7 ++ 0x0#6 ++ a ++ d ++ 0xD#7
  | .extWS d a => 0x7#7 ++ 0x0#6 ++ a ++ d ++ 0xD#7
  | .extBZ d a => 0x8#7 ++ 0x0#6 ++ a ++ d ++ 0xD#7
  | .extHZ d a => 0x9#7 ++ 0x0#6 ++ a ++ d ++ 0xD#7
  | .extWZ d a => 0xA#7 ++ 0x0#6 ++ a ++ d ++ 0xD#7
  | .movTake d a => 0x1#7 ++ 0x0#6 ++ a ++ d ++ 0xE#7
  | .movPut d a => 0x2#7 ++ 0x0#6 ++ a ++ d ++ 0xE#7
  | .movV d a => 0x3#7 ++ 0x0#6 ++ a ++ d ++ 0xE#7
  | .movMg d a => 0x4#7 ++ 0x0#6 ++ a ++ 0x0#3 ++ d ++ 0xE#7
  | .movGm d a => 0x5#7 ++ 0x0#9 ++ a ++ d ++ 0xE#7
  | .movM d a => 0x6#7 ++ 0x0#9 ++ a ++ 0x0#3 ++ d ++ 0xE#7
  | .beq a b i => fldN i 6 7 ++ b ++ a ++ fldN i 0 6 ++ 0x10#7
  | .bne a b i => fldN i 6 7 ++ b ++ a ++ fldN i 0 6 ++ 0x11#7
  | .blt a b i => fldN i 6 7 ++ b ++ a ++ fldN i 0 6 ++ 0x12#7
  | .bge a b i => fldN i 6 7 ++ b ++ a ++ fldN i 0 6 ++ 0x13#7
  | .bltu a b i => fldN i 6 7 ++ b ++ a ++ fldN i 0 6 ++ 0x14#7
  | .bgeu a b i => fldN i 6 7 ++ b ++ a ++ fldN i 0 6 ++ 0x15#7
  | .jlk d i => i ++ d ++ 0x16#7
  | .jlkr d a i => i ++ a ++ d ++ 0x17#7
  | .ldB d a l i x => l ++ i ++ x ++ a ++ d ++ 0x18#7
  | .ldH d a l i x => l ++ i ++ x ++ a ++ d ++ 0x19#7
  | .ldW d a l i x => l ++ i ++ x ++ a ++ d ++ 0x1A#7
  | .ldD d a l i => l ++ i ++ 0x0#1 ++ a ++ d ++ 0x1B#7
  | .st a b s o => s ++ fldN o 6 5 ++ b ++ a ++ fldN o 0 6 ++ 0x1C#7
  | .lda d a b l x s => l ++ x ++ s ++ b ++ a ++ d ++ 0x1D#7
  | .stl d a b l s => l ++ 0x0#1 ++ s ++ b ++ a ++ d ++ 0x1E#7
  | .amoSwap d a b l => l ++ 0x0#3 ++ b ++ a ++ d ++ 0x1F#7
  | .amoAdd d a b l => l ++ 0x1#3 ++ b ++ a ++ d ++ 0x1F#7
  | .amoAnd d a b l => l ++ 0x2#3 ++ b ++ a ++ d ++ 0x1F#7
  | .amoOr d a b l => l ++ 0x3#3 ++ b ++ a ++ d ++ 0x1F#7
  | .amoXor d a b l => l ++ 0x4#3 ++ b ++ a ++ d ++ 0x1F#7
  | .amoMax d a b l => l ++ 0x5#3 ++ b ++ a ++ d ++ 0x1F#7
  | .amoMin d a b l => l ++ 0x6#3 ++ b ++ a ++ d ++ 0x1F#7
  | .amoCas d a b l => l ++ 0x7#3 ++ b ++ a ++ d ++ 0x1F#7
  | .fadd d a b w => 0x0#7 ++ b ++ a ++ d ++ 0x10#6 ++ w
  | .fsub d a b w => 0x1#7 ++ b ++ a ++ d ++ 0x10#6 ++ w
  | .fmul d a b w => 0x2#7 ++ b ++ a ++ d ++ 0x10#6 ++ w
  | .fmin d a b w => 0x4#7 ++ b ++ a ++ d ++ 0x10#6 ++ w
  | .fmax d a b w => 0x5#7 ++ b ++ a ++ d ++ 0x10#6 ++ w
  | .fsgn d a b w => 0x8#7 ++ b ++ a ++ d ++ 0x10#6 ++ w
  | .fsgnn d a b w => 0x9#7 ++ b ++ a ++ d ++ 0x10#6 ++ w
  | .fsgnx d a b w => 0xA#7 ++ b ++ a ++ d ++ 0x10#6 ++ w
  | .fma d a b w => 0x0#7 ++ b ++ a ++ d ++ 0x11#6 ++ w
  | .fms d a b w => 0x1#7 ++ b ++ a ++ d ++ 0x11#6 ++ w
  | .fnma d a b w => 0x2#7 ++ b ++ a ++ d ++ 0x11#6 ++ w
  | .fnms d a b w => 0x3#7 ++ b ++ a ++ d ++ 0x11#6 ++ w
  | .fdiv d a b l w => l ++ 0x0#1 ++ w ++ 0x0#1 ++ b ++ a ++ d ++ 0x24#7
  | .fsqrt d a l w => l ++ 0x0#1 ++ w ++ 0x1#1 ++ 0x0#6 ++ a ++ d ++ 0x24#7
  | .feq d a b w => 0x0#3 ++ w ++ 0x0#3 ++ b ++ a ++ d ++ 0x25#7
  | .flt d a b w => 0x0#3 ++ w ++ 0x1#3 ++ b ++ a ++ d ++ 0x25#7
  | .fle d a b w => 0x0#3 ++ w ++ 0x2#3 ++ b ++ a ++ d ++ 0x25#7
  | .fclass d a w => 0x0#3 ++ w ++ 0x4#3 ++ 0x0#6 ++ a ++ d ++ 0x25#7
  | .fcvt d a b x y z => x ++ y ++ z ++ b ++ a ++ d ++ 0x26#7
  | .vfadd d a b m w => m ++ 0x0#4 ++ b ++ a ++ d ++ 0x18#6 ++ w
  | .vfsub d a b m w => m ++ 0x1#4 ++ b ++ a ++ d ++ 0x18#6 ++ w
  | .vfmul d a b m w => m ++ 0x2#4 ++ b ++ a ++ d ++ 0x18#6 ++ w
  | .vfmin d a b m w => m ++ 0x3#4 ++ b ++ a ++ d ++ 0x18#6 ++ w
  | .vfmax d a b m w => m ++ 0x4#4 ++ b ++ a ++ d ++ 0x18#6 ++ w
  | .vfsgn d a b m w => m ++ 0x5#4 ++ b ++ a ++ d ++ 0x18#6 ++ w
  | .vfsgnn d a b m w => m ++ 0x6#4 ++ b ++ a ++ d ++ 0x18#6 ++ w
  | .vfsgnx d a b m w => m ++ 0x7#4 ++ b ++ a ++ d ++ 0x18#6 ++ w
  | .vand d a b m => m ++ 0x8#4 ++ b ++ a ++ d ++ 0x30#7
  | .vor d a b m => m ++ 0x9#4 ++ b ++ a ++ d ++ 0x30#7
  | .vxor d a b m => m ++ 0xA#4 ++ b ++ a ++ d ++ 0x30#7
  | .vandn d a b m => m ++ 0xB#4 ++ b ++ a ++ d ++ 0x30#7
  | .vadd d a b m w => m ++ 0x0#3 ++ w ++ b ++ a ++ d ++ 0x32#7
  | .vsub d a b m w => m ++ 0x1#3 ++ w ++ b ++ a ++ d ++ 0x32#7
  | .vmul d a b m w => m ++ 0x2#3 ++ w ++ b ++ a ++ d ++ 0x32#7
  | .vmin d a b m w => m ++ 0x3#3 ++ w ++ b ++ a ++ d ++ 0x32#7
  | .vmax d a b m w => m ++ 0x4#3 ++ w ++ b ++ a ++ d ++ 0x32#7
  | .vsll d a b m w => m ++ 0x5#3 ++ w ++ b ++ a ++ d ++ 0x32#7
  | .vsrl d a b m w => m ++ 0x6#3 ++ w ++ b ++ a ++ d ++ 0x32#7
  | .vsra d a b m w => m ++ 0x7#3 ++ w ++ b ++ a ++ d ++ 0x32#7
  | .vfma d a b m w => m ++ w ++ 0x0#3 ++ b ++ a ++ d ++ 0x33#7
  | .vfms d a b m w => m ++ w ++ 0x1#3 ++ b ++ a ++ d ++ 0x33#7
  | .vfnma d a b m w => m ++ w ++ 0x2#3 ++ b ++ a ++ d ++ 0x33#7
  | .vfnms d a b m w => m ++ w ++ 0x3#3 ++ b ++ a ++ d ++ 0x33#7
  | .vfeq d a b m w => m ++ 0x0#1 ++ w ++ 0x0#2 ++ b ++ a ++ 0x0#3 ++ d ++ 0x34#7
  | .vflt d a b m w => m ++ 0x0#1 ++ w ++ 0x1#2 ++ b ++ a ++ 0x0#3 ++ d ++ 0x34#7
  | .vfle d a b m w => m ++ 0x0#1 ++ w ++ 0x2#2 ++ b ++ a ++ 0x0#3 ++ d ++ 0x34#7
  | .veq d a b m w => m ++ 0x1#1 ++ w ++ 0x0#2 ++ b ++ a ++ 0x0#3 ++ d ++ 0x34#7
  | .vlt d a b m w => m ++ 0x1#1 ++ w ++ 0x1#2 ++ b ++ a ++ 0x0#3 ++ d ++ 0x34#7
  | .vltu d a b m w => m ++ 0x1#1 ++ w ++ 0x2#2 ++ b ++ a ++ 0x0#3 ++ d ++ 0x34#7
  | .mand d a b => 0x0#7 ++ 0x0#3 ++ b ++ 0x0#3 ++ a ++ 0x0#3 ++ d ++ 0x35#7
  | .mor d a b => 0x1#7 ++ 0x0#3 ++ b ++ 0x0#3 ++ a ++ 0x0#3 ++ d ++ 0x35#7
  | .mxor d a b => 0x2#7 ++ 0x0#3 ++ b ++ 0x0#3 ++ a ++ 0x0#3 ++ d ++ 0x35#7
  | .mandn d a b => 0x3#7 ++ 0x0#3 ++ b ++ 0x0#3 ++ a ++ 0x0#3 ++ d ++ 0x35#7
  | .mnot d a => 0x4#7 ++ 0x0#9 ++ a ++ 0x0#3 ++ d ++ 0x35#7
  | .mpopc d a => 0x10#7 ++ 0x0#9 ++ a ++ d ++ 0x35#7
  | .mfirst d a => 0x11#7 ++ 0x0#9 ++ a ++ d ++ 0x35#7
  | .mlast d a => 0x12#7 ++ 0x0#9 ++ a ++ d ++ 0x35#7
  | .mlen d a => 0x20#7 ++ 0x0#6 ++ a ++ 0x0#3 ++ d ++ 0x35#7
  | .vsel d a b m w => m ++ 0x0#3 ++ w ++ b ++ a ++ d ++ 0x36#7
  | .vbcast d a m w => m ++ 0x1#3 ++ w ++ 0x0#6 ++ a ++ d ++ 0x36#7
  | .vins d a b w => 0x2#6 ++ w ++ b ++ a ++ d ++ 0x36#7
  | .vextWZ d a b => 0x6#7 ++ b ++ a ++ d ++ 0x36#7
  | .vextWS d a b => 0x7#7 ++ b ++ a ++ d ++ 0x36#7
  | .vextD d a b => 0x8#7 ++ b ++ a ++ d ++ 0x36#7
  | .vperm d a b m w => m ++ 0x0#3 ++ w ++ b ++ a ++ d ++ 0x37#7
  | .vrot d a b m w => m ++ 0x1#3 ++ w ++ b ++ a ++ d ++ 0x37#7
  | .vfredsum d a m w => m ++ 0x0#3 ++ w ++ 0x0#6 ++ a ++ d ++ 0x38#7
  | .vfredmin d a m w => m ++ 0x1#3 ++ w ++ 0x0#6 ++ a ++ d ++ 0x38#7
  | .vfredmax d a m w => m ++ 0x2#3 ++ w ++ 0x0#6 ++ a ++ d ++ 0x38#7
  | .vredadd d a m w => m ++ 0x4#3 ++ w ++ 0x0#6 ++ a ++ d ++ 0x38#7
  | .vredmin d a m w => m ++ 0x5#3 ++ w ++ 0x0#6 ++ a ++ d ++ 0x38#7
  | .vredmax d a m w => m ++ 0x6#3 ++ w ++ 0x0#6 ++ a ++ d ++ 0x38#7
  | .vcvt d a b m c => m ++ c ++ b ++ a ++ d ++ 0x39#7
  | .vld d a b l w => l ++ 0x0#2 ++ w ++ 0x0#3 ++ b ++ a ++ d ++ 0x3A#7
  | .vlds d a b l w => l ++ 0x1#2 ++ w ++ b ++ a ++ d ++ 0x3A#7
  | .vldx d a b l w => l ++ 0x0#2 ++ w ++ b ++ a ++ d ++ 0x3B#7
  | .vst a b w m => 0x0#1 ++ w ++ 0x0#1 ++ m ++ 0x0#1 ++ b ++ a ++ 0x0#6 ++ 0x3C#7
  | .vsts r a b w => 0x2#2 ++ w ++ 0x0#4 ++ b ++ a ++ r ++ 0x3C#7
  | .vstx r a b w => 0x3#2 ++ w ++ 0x0#4 ++ b ++ a ++ r ++ 0x3C#7
  | .mma d a b l z y x => l ++ z ++ y ++ x ++ 0x0#2 ++ b ++ 0x0#2 ++ a ++ 0x0#3 ++ d ++ 0x40#7
  | .accld d a l => l ++ 0x0#3 ++ 0x0#6 ++ a ++ 0x0#3 ++ d ++ 0x41#7
  | .accst d a l => l ++ 0x1#3 ++ 0x0#6 ++ a ++ 0x0#3 ++ d ++ 0x41#7
  | .accdr d a l => l ++ 0x2#3 ++ 0x0#6 ++ a ++ 0x0#3 ++ d ++ 0x41#7
  | .accz d => 0x0#7 ++ 0x0#15 ++ d ++ 0x42#7
  | .accq d => 0x1#7 ++ 0x0#12 ++ d ++ 0x42#7
  | .mxcfg a => 0x2#7 ++ 0x0#6 ++ a ++ 0x0#6 ++ 0x42#7
  | .tldA r a b l t => l ++ t ++ b ++ a ++ 0x0#2 ++ r ++ 0x43#7
  | .tldB r a b l t => l ++ t ++ b ++ a ++ 0x1#2 ++ r ++ 0x43#7
  | .tst r a b l t => l ++ t ++ b ++ a ++ 0x2#2 ++ r ++ 0x43#7
  | .tstKeep r a b l t => l ++ t ++ b ++ a ++ 0x3#2 ++ r ++ 0x43#7
  | .tdsetBase d a => 0x0#7 ++ 0x0#6 ++ a ++ 0x0#3 ++ d ++ 0x44#7
  | .tdsetDims d a => 0x1#7 ++ 0x0#6 ++ a ++ 0x0#3 ++ d ++ 0x44#7
  | .tdsetStrides d a => 0x2#7 ++ 0x0#6 ++ a ++ 0x0#3 ++ d ++ 0x44#7
  | .tdsetForm d a => 0x3#7 ++ 0x0#6 ++ a ++ 0x0#3 ++ d ++ 0x44#7
  | .tdsetScale d a => 0x4#7 ++ 0x0#6 ++ a ++ 0x0#3 ++ d ++ 0x44#7
  | .ringcfg d a b => 0x10#7 ++ b ++ a ++ 0x0#2 ++ d ++ 0x44#7
  | .ringqry d a => 0x20#7 ++ 0x0#8 ++ a ++ d ++ 0x44#7
  | .tqry d a b => 0x30#7 ++ b ++ 0x0#2 ++ a ++ d ++ 0x44#7
  | .rowact a l => l ++ 0x0#3 ++ 0x0#6 ++ a ++ 0x0#6 ++ 0x45#7
  | .rowpre a l => l ++ 0x1#3 ++ 0x0#6 ++ a ++ 0x0#6 ++ 0x45#7
  | .vqry d a l => l ++ 0x2#3 ++ 0x0#6 ++ a ++ d ++ 0x45#7
  | .go2d d a l n s m => l ++ 0x0#3 ++ 0x0#1 ++ n ++ s ++ m ++ a ++ d ++ 0x48#7
  | .go3d d a l n s m => l ++ 0x1#3 ++ 0x0#1 ++ n ++ s ++ m ++ a ++ d ++ 0x48#7
  | .ginc d a l n s m => l ++ 0x2#3 ++ 0x0#1 ++ n ++ s ++ m ++ a ++ d ++ 0x48#7
  | .gins d a l n s m => l ++ 0x3#3 ++ 0x0#1 ++ n ++ s ++ m ++ a ++ d ++ 0x48#7
  | .gsegx d a l n s m => l ++ 0x4#3 ++ 0x0#1 ++ n ++ s ++ m ++ a ++ d ++ 0x48#7
  | .gpcfg a => 0x0#7 ++ 0x0#6 ++ a ++ 0x0#6 ++ 0x49#7
  | .bbsetR a b => 0x0#7 ++ b ++ a ++ 0x0#6 ++ 0x4C#7
  | .bbsetW a b => 0x1#7 ++ b ++ a ++ 0x0#6 ++ 0x4C#7
  | .bget d a => 0x8#7 ++ 0x0#6 ++ a ++ d ++ 0x4C#7
  | .bpeek d a => 0xA#7 ++ 0x0#6 ++ a ++ d ++ 0x4C#7
  | .bpeekPos d => 0xB#7 ++ 0x0#12 ++ d ++ 0x4C#7
  | .bskip a => 0xC#7 ++ 0x0#6 ++ a ++ 0x0#6 ++ 0x4C#7
  | .bput a b => 0x10#7 ++ b ++ a ++ 0x0#6 ++ 0x4C#7
  | .bflush d => 0x11#7 ++ 0x0#12 ++ d ++ 0x4C#7
  | .balign d => 0x18#7 ++ 0x0#12 ++ d ++ 0x4C#7
  | .tdec d a b l => l ++ 0x0#3 ++ b ++ a ++ d ++ 0x4D#7
  | .ldec d a b l => l ++ 0x1#3 ++ b ++ a ++ d ++ 0x4D#7
  | .lmerge d a l => l ++ 0x2#3 ++ 0x0#6 ++ a ++ d ++ 0x4D#7
  | .zrenc d a b l => l ++ 0x0#3 ++ b ++ a ++ d ++ 0x4E#7
  | .zrencEnd d a b l => l ++ 0x1#3 ++ b ++ a ++ d ++ 0x4E#7
  | .rget d a l s => l ++ 0x0#1 ++ s ++ 0x0#6 ++ a ++ d ++ 0x50#7
  | .rgetV d a l => l ++ 0x4#3 ++ 0x0#6 ++ a ++ d ++ 0x50#7
  | .rgetS d a l s => l ++ 0x1#1 ++ s ++ 0x0#6 ++ a ++ d ++ 0x50#7
  | .rput a b l s => l ++ 0x0#1 ++ s ++ b ++ a ++ 0x0#6 ++ 0x51#7
  | .rputV a b l => l ++ 0x4#3 ++ b ++ a ++ 0x0#6 ++ 0x51#7
  | .ratom d a b l o => l ++ o ++ b ++ a ++ d ++ 0x52#7
  | .amsend d a b l => l ++ 0x0#3 ++ b ++ a ++ d ++ 0x53#7
  | .amret a => 0x0#7 ++ 0x0#6 ++ a ++ 0x0#6 ++ 0x54#7
  | .msend d a b l p => l ++ 0x0#1 ++ p ++ b ++ a ++ d ++ 0x55#7
  | .mrecv d a l => l ++ 0x0#3 ++ 0x0#6 ++ a ++ d ++ 0x56#7
  | .mprobe d a => 0x0#7 ++ 0x0#6 ++ a ++ d ++ 0x57#7
  | .ctxalloc d l => l ++ 0x0#3 ++ 0x0#12 ++ d ++ 0x58#7
  | .ctxseal a b l => l ++ 0x1#3 ++ b ++ a ++ 0x0#6 ++ 0x58#7
  | .ctxret a l => l ++ 0x2#3 ++ 0x0#6 ++ a ++ 0x0#6 ++ 0x58#7
  | .ctxmrg a l => l ++ 0x3#3 ++ 0x0#6 ++ a ++ 0x0#6 ++ 0x58#7
  | .ldxNow d a b l => l ++ 0x0#3 ++ b ++ a ++ d ++ 0x59#7
  | .ldxWait d a b l => l ++ 0x1#3 ++ b ++ a ++ d ++ 0x59#7
  | .ldxProbe d a b l => l ++ 0x2#3 ++ b ++ a ++ d ++ 0x59#7
  | .ctxset a => 0x0#7 ++ 0x0#6 ++ a ++ 0x0#6 ++ 0x5A#7
  | .frnset d a => 0x10#7 ++ 0x0#6 ++ a ++ d ++ 0x5A#7
  | .frnget d => 0x20#7 ++ 0x0#12 ++ d ++ 0x5A#7
  | .frngetWait d a => 0x21#7 ++ 0x0#6 ++ a ++ d ++ 0x5A#7
  | .fence b => 0x0#7 ++ b ++ 0x0#12 ++ 0x5C#7
  | .fenceAcq b => 0x1#7 ++ b ++ 0x0#12 ++ 0x5C#7
  | .bararr d a b l => l ++ 0x0#3 ++ b ++ a ++ d ++ 0x5D#7
  | .barwait a b l => l ++ 0x1#3 ++ b ++ a ++ 0x0#6 ++ 0x5D#7
  | .barbytes a b l => l ++ 0x2#3 ++ b ++ a ++ 0x0#6 ++ 0x5D#7
  | .barqry d a b l => l ++ 0x3#3 ++ b ++ a ++ d ++ 0x5D#7
  | .ctrwait d a b l => l ++ 0x0#3 ++ b ++ a ++ d ++ 0x5E#7
  | .ctradd d a b l => l ++ 0x1#3 ++ b ++ a ++ d ++ 0x5E#7
  | .fempty a f => 0x0#5 ++ f ++ 0x0#6 ++ a ++ 0x0#6 ++ 0x5F#7
  | .fetest d a f => 0x4#5 ++ f ++ 0x0#6 ++ a ++ d ++ 0x5F#7
  | .spawn d a b l => l ++ 0x0#3 ++ b ++ a ++ d ++ 0x60#7
  | .launch d a b l => l ++ 0x0#3 ++ b ++ a ++ d ++ 0x61#7
  | .texit => 0x0#7 ++ 0x0#18 ++ 0x62#7
  | .wlqry d => 0x1#7 ++ 0x0#12 ++ d ++ 0x62#7
  | .pbind a => 0x10#7 ++ 0x0#6 ++ a ++ 0x0#6 ++ 0x62#7
  | .pqry d a => 0x11#7 ++ 0x0#6 ++ a ++ d ++ 0x62#7
  | .csrrd d c => 0x0#1 ++ c ++ 0x0#6 ++ d ++ 0x64#7
  | .csrwr d a c => 0x0#1 ++ c ++ a ++ d ++ 0x65#7
  | .csrset d a c => 0x0#1 ++ c ++ a ++ d ++ 0x66#7
  | .csrclr d a c => 0x1#1 ++ c ++ a ++ d ++ 0x66#7
  | .trap a => 0x0#7 ++ 0x0#6 ++ a ++ 0x0#6 ++ 0x67#7
  | .tret => 0x1#7 ++ 0x0#18 ++ 0x67#7
  | .idem => 0x2#7 ++ 0x0#18 ++ 0x67#7
  | .ebrk => 0x3#7 ++ 0x0#18 ++ 0x67#7
  | .nonInstruction _ => 0
  | .divideCompletion _ _ _ => 0
  | .loadCompletion _ _ _ => 0
  | .postedStorePerformed _ _ _ => 0
  | .amoCompletion _ _ _ => 0
  | .fdivCompletion _ _ _ => 0
  | .engineCommandStart _ => 0
  | .mmaCompletion _ _ _ => 0
  | .accPortCompletion _ _ _ => 0
  | .tileLoadReady _ _ _ => 0
  | .tstCompletion _ _ _ => 0
  | .predicateCompletion _ _ _ => 0
  | .bbRefill _ => 0
  | .bbRefillArrival _ => 0
  | .bbSpill _ => 0
  | .tdecCompletion _ _ _ => 0
  | .ldecLaneSymbol _ _ => 0
  | .lmergeCompletion _ _ _ => 0
  | .zrencCompletion _ _ _ => 0
  | .transformWake _ => 0
  | .remoteCompletion _ => 0
  | .messageAccept _ => 0
  | .homeRget _ => 0
  | .homeRput _ => 0
  | .homeRatom _ => 0
  | .homeCopyTransfer _ => 0
  | .homeCopyRead _ => 0
  | .handlerStart _ => 0
  | .mailboxDeposit _ => 0
  | .messageRetry _ => 0
  | .pageLineCopy _ => 0
  | .allocatorRequest _ => 0
  | .sealMessage _ => 0
  | .retireMessage _ => 0
  | .mergeMessage _ => 0
  | .cellStoreFull _ => 0
  | .saddleTreePublish => 0
  | .barrierReport _ => 0
  | .barrierRelease _ => 0
  | .portPush _ _ _ _ => 0
  | .portPop _ _ _ => 0
  | .portEntryArrival _ => 0
  | .portCreditReturn _ => 0
  | .wlPush _ _ _ => 0
  | .wlPop _ _ => 0
  | .tqPush _ _ _ => 0
  | .tqPop _ => 0
  | .vmqPop _ _ => 0
  | .cqPush _ _ _ => 0
  | .copyRequestStart _ => 0
  | .copyBeat _ => 0
  | .copyWritePerformed _ => 0
  | .copyCompletion _ _ => 0
  | .bankServe _ _ => 0
  | .activationComplete _ _ => 0
  | .prechargeComplete _ _ => 0
  | .transferBeat _ => 0
  | .refreshNotice _ _ => 0
  | .refreshStart _ _ => 0
  | .refreshEnd _ _ => 0
  | .thermalStateChange _ _ => 0
  | .scratchScrub _ _ => 0
  | .farRead _ => 0
  | .farWrite _ => 0
  | .farPortDown _ => 0
  | .farPortRestore _ _ => 0
  | .instructionStoreMiss _ _ => 0
  | .refillComplete _ => 0
  | .comparatorTimeout _ _ => 0
  | .timingReplay _ _ => 0
  | .queueDoorbell _ _ => 0
  | .packetCheck _ => 0
  | .dependencePoll _ => 0
  | .leasingComplete _ => 0
  | .placementArbitration _ => 0
  | .commonStart _ => 0
  | .instanceEnd _ => 0
  | .graceExpiry _ => 0
  | .saveComplete _ => 0
  | .loadLevelling _ => 0
  | .wlShipmentArrival _ => 0
  | .powerWindow _ _ => 0
  | .clockPauseEnd _ => 0
  | .capLeaseExpiry => 0
  | .dbgStop _ _ => 0
  | .dbgResume _ _ => 0
  | .dbgStep _ _ => 0
  | .dbgLatch _ => 0
  | .dbgClearAccount _ => 0
  | .dbgStartTrace _ => 0
  | .dbgStopTrace _ => 0
  | .trgctlWrite _ _ => 0
  | .smpctlWrite _ _ => 0
  | .threadWindowWrite _ _ _ _ => 0
  | .registerWrite _ _ _ => 0
  | .breakpointCycleMatch _ _ => 0
  | .sampleRecord _ => 0
  | .traceDrain _ => 0
  | .preImageCopy _ => 0
  | .lockstepWindowCompare _ => 0
  | .rdmaWrite _ _ _ => 0
  | .rdmaRead _ _ _ => 0
  | .rdmaCompareAndSwap _ _ _ _ => 0
  | .rdmaFetchAndAdd _ _ _ => 0
  | .rdmaUnsupported _ => 0
  | .flitReceive _ _ => 0
  | .flitReplay _ => 0
  | .linkAckTimer _ => 0
  | .laneFault _ _ => 0
  | .retrainComplete _ _ _ => 0
  | .retrainTimeout _ => 0
  | .snapshotRewrite => 0
  | .featReqWrite _ => 0
  | .modesWrite _ => 0
  | .drainWrite _ => 0
  | .cdrainWrite _ => 0
  | .hostAssistAnswer _ _ => 0
  | .asidCreate _ _ _ _ _ => 0
  | .asidRelease _ _ => 0
  | .grantSet _ _ _ _ _ => 0
  | .queueCreate _ _ _ _ _ => 0
  | .queueDestroy _ _ => 0
  | .cap _ _ _ _ => 0
  | .deviceNumber _ _ => 0
  | .routeSet _ _ _ => 0
  | .hostWindow _ _ _ _ _ _ _ => 0
  | .captureArm _ _ => 0
  | .cairnReplay _ _ _ _ _ _ => 0
  | .debugSession _ _ => 0
  | .retrain _ _ => 0
  | .coreLimit _ _ _ => 0
  | .attest _ _ => 0
  | .firmwareStage _ _ _ => 0
  | .lockstep _ _ => 0
  | .unknownCommand _ _ => 0
  | .powerOnReset _ _ _ _ => 0
  | .managementWatchdog => 0
  | .softError _ _ _ => 0
  | .stlCompletion _ _ _ => 0
  | .ctraddCompletion _ _ _ => 0
  | .ldxCompletion _ _ _ => 0
  | .vqryCompletion _ _ _ => 0
  | .barrierInstructionCompletion _ _ _ => 0
  | .mrecvCompletion _ _ _ => 0
  | .pageMigrationStart _ _ _ _ => 0
  | .trainingFailure _ => 0
  | .flitSend _ => 0
  | .ethernetLinkChange _ _ => 0

end Sys2Proof
end

