-- ==== Sys2Proof/Config.lean ====
section
/-! DEFINITION. What an implementation fixes, and the values the spec leaves open.

A value left open is an opaque constant applied to a counter: nothing in Lean can evaluate it (log 3). -/

namespace Sys2Proof.Config

/-- A value the spec leaves open, different at every use of the counter (log 3). -/
opaque freeWord : Nat → BitVec 64
/-- Whether the host answers a request of this device with a NAK (20 R418). -/
opaque hostNak : Nat → Bool
/-- An rkey drawn for an ASID (20 R417): 32 bits from the device's random source. -/
opaque freeRkey : Nat → BitVec 32
/-- The device's management key value (20 R417): 30 bits. -/
opaque managementKey : Nat
/-- The size of the save pool in MiB, chosen by Pacia (18 R391, 20 R425). -/
opaque savePool : BitVec 32
/-- The size of the cairn pool in MiB, chosen by Pacia (19 R409, 20 R425). -/
opaque cairnPool : BitVec 32
/-- The version of a firmware image whose signature passes (20 R431). -/
opaque firmware : List (BitVec 8) → Option Nat
/-- The SHA-512 measurement of the running firmware, by its version (20 R432). -/
opaque measurement : Nat → List (BitVec 8)
/-- The identity key's signature of a report (20 R432): r and s, big-endian. -/
opaque signature : List (BitVec 8) → List (BitVec 8)
/-- The device number at the far end of a Dreard link: how the links of a system are wired (20 R423, R425). -/
opaque linkPeer : Nat → Nat
/-- The data capacity in bytes of a far-memory agent of another device, by device and agent (03 R50, R95; log 88). -/
opaque farCapOf : Nat → Nat → Nat
/-- The queues that Pacia marks lockstep, for which R429 has no command (19 R413; log 73). -/
opaque lockstepMark : Nat → Bool
/-- A byte of the certificate chain (20 R432). -/
opaque certificate : Nat → BitVec 8

/-- Both pools, as the snapshot shows them (20 R425). -/
def poolWord : BitVec 64 := cairnPool ++ savePool
/-- The pages of 64 KiB that the cairn pool holds (19 R409). -/
def cairnPages : Nat := 16 * cairnPool.toNat
/-- The design power in watts (17 R359). -/
def designWatts : Nat := 2400
/-- The safe floor: 60% of the design power (17 R359). -/
def safeFloor : Nat := 1440
/-- The router clock in MHz (01 R19). -/
def routerMhz : Nat := 2000
/-- Bytes of one home's local-offset space (01 R14): 2^42. -/
def homeSpan : Nat := 4398046511104
/-- The first scratchpad offset, 0x0100_0000_0000 (04 R64). -/
def scratchBase : Nat := 1099511627776
/-- Scratchpad bytes (06 R109). -/
def scratchBytes : Nat := 2097152
/-- Vault bytes (04 R64). -/
def vaultBytes : Nat := 1073741824

end Sys2Proof.Config
end

