-- ==== Sys2Proof/Machine/State.lean ====
section
/-! DEFINITION. The state of the GX4: everything the spec gives the machine, as plain data.

The state is sparse: a core that is not listed is in the state `Core.reset`. -/

namespace Sys2Proof.Machine

/-- Why a step stops the model. -/
inductive Fault where
  /-- Raised by step alone: the agenda's head is an instruction word, which only an issue opportunity may run.
  Safe: the machine has no such step. -/
  | badAgenda
  deriving DecidableEq, Repr

/-- Why a step has no meaning. -/
inductive Refusal where
  /-- Raised by an arm of exec whose instruction has no meaning yet. Safe. -/
  | notModelled (mnemonic : String)
  deriving DecidableEq, Repr

/-- The state of a register's full/empty bit (07 R133). -/
inductive FE where
  | full
  | pending
  | free
  deriving DecidableEq, Repr

/-- A register with a full/empty bit and a poison bit (07 R131, R133; 04 R78). -/
structure Reg (n : Nat) where
  val : BitVec n
  fe : FE
  poison : Bool
  deriving DecidableEq, Repr

/-- A register at launch: full, 0 (07 R131). -/
def Reg.zero (n : Nat) : Reg n := { val := 0, fe := .full, poison := false }

/-- A register name in an instruction: the file and the number. -/
inductive Opnd where
  | g (n : BitVec 6)
  | v (n : BitVec 6)
  | m (n : BitVec 3)
  deriving DecidableEq, Repr

/-- What a park counts as in the time-loss account (19 R397); a stall counts as memory and is the one wait a user
handler may make (14 R285); sleep is slot 15's pop of an empty tq (13 R254). -/
inductive Wait where
  | memory
  | message
  | stall
  | sleep
  /-- a write that waits for a directory entry (15 R298): a stall -/
  | directory
  deriving DecidableEq, Repr

/-- The four classes of a rotation (19 R397). -/
inductive Class where
  | issued
  | memory
  | message
  | vacant
  deriving DecidableEq, Repr

/-- The local atomic operations (16 R334) and those of RATOM (14 R282). -/
inductive AtomOp where
  | swap | add | and | or | xor | max | min | cas
  deriving DecidableEq, Repr

/-- A copy of a coordinate lane or a known result to be written at completion. -/
structure Fill where
  dst : Opnd
  val : Vec
  poison : Bool
  deriving DecidableEq, Repr

/-- Symbols that TDEC or LMERGE has gathered for one bank word and not yet written: the number of the first, and the symbols (13
R265, R267). -/
structure Gathered where
  first : Nat
  syms : List (BitVec 16)
  deriving DecidableEq, Repr

/-- How a pending long-latency instruction ends: one constructor for each kind of completion of the table.  waits names the
earlier accesses of the thread that must be performed first (04 R84, 16 R322). -/
inductive PKind where
  /-- DIV, DIVU, REM, REMU (09 R186): the result is known at issue. -/
  | divide (v : Word)
  /-- FDIV, FSQRT (09 R195): result and flags. -/
  | fdiv (v : Word) (flags : BitVec 5)
  /-- LD and LDA (04 R80, R84): address, bytes, zero-extend; ctx tag; acquire for LDA. -/
  | load (ea : Word) (size : Nat) (zext : Bool) (tag : BitVec 16)
  /-- Vector loads (10 R220): the address of each touched lane, the lane's bytes, the old value, and the cycles from the start
  of one lane's read to the next: 0 unit-stride, 1 strided or indexed (10 R222). -/
  | vload (addrs : List (Nat × Word)) (size : Nat) (old : Vec) (tag : BitVec 16) (step : Nat)
  /-- STL (04 R84). -/
  | stl (ea : Word) (size : Nat) (v : Word) (tag : BitVec 16) (scope : BitVec 6) (waits : List Nat)
  /-- AMO (16 R336). -/
  | amo (op : AtomOp) (ea : Word) (x y : Word) (tag : BitVec 16) (waits : List Nat)
  /-- CTRWAIT (05 R107): counter address, threshold, tag, whether the comparison at issue has been made, and the value
  that satisfied a later one. -/
  | ctrwait (ea : Word) (thr : Word) (tag : BitVec 16) (armed : Bool) (got : Option (Word × Bool))
  /-- CTRADD (05 R108). -/
  | ctradd (ea : Word) (x : Word) (tag : BitVec 16) (waits : List Nat)
  /-- VQRY (04 R87): the word sampled at issue. -/
  | vqry (w : Word)
  /-- A predicate (12 R250): result lanes and the gstat word. -/
  | predicate (r : Vec) (gstat : Word)
  /-- MMA 0, ACCLD 1, ACCST 2, ACCDR 3 (11), and the accumulator: the command in the engine carries the operands. -/
  | engine (kind acc : Nat)
  /-- TLD and TST (06 R122): ring and slot, and for TLD the operand form. -/
  | tile (ring slot : Nat) (store : Bool)
  /-- TDEC (13 R265): table word, output word, symbols decoded, and those still to be written. -/
  | tdec (table out : Word) (done : Nat) (held : List Gathered)
  /-- LDEC (13 R266): table word, chunk word. -/
  | ldec (table chunk : Word)
  /-- LMERGE (13 R267): output word, symbols taken, and those still to be written. -/
  | lmerge (out : Word) (done : Nat) (held : List Gathered)
  /-- ZRENC (13 R270): source, words, words encoded, END, bits appended. -/
  | zrenc (src count : Word) (done : Nat) (fin : Bool) (bits : Nat)
  /-- RGET and RPUT waiting for the reply (14 R277): size and sign of an RGET; size 0 for RPUT. -/
  | remote (size : Nat) (sext : Bool)
  /-- RATOM waiting for the old value (14 R282). -/
  | ratom
  /-- AMSEND, MSEND (14 R283, R288). -/
  | send (deposit : Bool) (target prio : Nat)
  /-- MRECV (14 R289): the three words taken at issue. -/
  | mrecv (w0 w1 w2 : Word)
  /-- CTXALLOC (15 R301). -/
  | ctxalloc
  /-- CTXSEAL, CTXRET, CTXMRG (15 R302-R304): the tag, homes still to acknowledge, and the stage reached. -/
  | ctxop (tag : BitVec 16) (left : Nat) (stage : Nat)
  /-- LDX on a local line (15 R306): form 0 now, 1 wait, 2 probe, 3 a wait that is satisfied. -/
  | ldx (form : Nat) (ea : Word) (tag : BitVec 16)
  /-- LDX at another core's home (15 R306). -/
  | ldxRemote (form : Nat) (ea : Word) (tag : BitVec 16)
  /-- BARARR, BARBYTES, BARQRY (17 R368): the result word, complete at issue + 2. -/
  | bar (w : Word)
  /-- BARWAIT (17 R368): barrier number, and the word whose low half is the generation. -/
  | barwait (n : Nat) (gen : Word)
  /-- SPAWN (07 R157): the child's core and slot. -/
  | spawn (core member : Nat)
  /-- LAUNCH (17 R362): the sequence number to return, the address of its packet, its queue, and how far it is: 0 it reads the packet, 1
  the packet is on its way, 2 it stands in its slot. -/
  | launch (seq ea : Word) (queue stage : Nat)
  deriving DecidableEq, Repr

/-- A pending long-latency instruction (02 R26): its lookahead and the window instructions that have issued since. -/
structure Pend where
  id : Nat
  kind : PKind
  pc : Word
  word : BitVec 32
  la : Nat
  issued : Nat
  dst : List Opnd
  /-- the core cycle from which its completion may fall -/
  due : Nat
  /-- its access has been performed: its bank has served it (04 R69), or its reply has been accepted (14 R277) -/
  served : Bool
  /-- the core cycle of its issue -/
  start : Nat := 0
  /-- what its reads have returned, by lane: value and poison (16 R315) -/
  got : List (Nat × Nat × Bool) := []
  /-- its access waits at its home for the pre-image of this page (19 R409) -/
  imaged : Option Nat := none
  deriving DecidableEq, Repr

/-- An entry of the posted-store queue (04 R82): bytes still to write, in lane order for a vector store; the first part is the
one at its bank. -/
structure Posted where
  id : Nat
  /-- (address, bytes, value) of each part in the order performed (10 R224) -/
  parts : List (Word × Nat × Vec)
  tag : BitVec 16
  /-- core cycle from which the first part may be performed -/
  due : Nat
  /-- a bit-stream spill (13 R258) -/
  spill : Bool := false
  /-- its last part has been accepted by its bank, so that it holds no place in the queue any more (04 R82) -/
  taken : Bool := false
  /-- a store of a user handler that has been abandoned (14 R285), which no later handler sees as its own (16 R316) -/
  left : Bool := false
  /-- a unit-stride vector store, whose parts in one 64-byte line are performed together (10 R224) -/
  joined : Bool := false
  /-- a store of a user handler: the party on whose behalf it runs (19 R409) -/
  actor : Option Nat := none
  deriving DecidableEq, Repr

/-- One direction of a port of a slot (07 R145): its receive queue, oldest first, each with the cycle from which it can
be popped, and the credits the slot holds for pushes. -/
structure Port where
  queue : List (Vec × Bool × Nat)
  credits : Nat
  deriving DecidableEq, Repr

/-- A refill read in flight (13 R258): the core cycle from which it arrives, none while it waits for its bank, and what it has
read. -/
structure Refill where
  due : Option Nat
  val : Word
  poison : Bool
  deriving DecidableEq, Repr

/-- The bit buffer of slot 15 (13 R256). -/
structure BitBuf where
  zprev : Word
  valid : Nat
  fin : Nat
  poison : Bool
  /-- false read, true write -/
  write : Bool
  rp : Nat
  win : BitVec 128
  /-- a refill read in flight -/
  refill : Option Refill
  /-- a refill read has met a critical vault (13 R259) -/
  hot : Bool
  deriving DecidableEq, Repr

/-- One LDEC lane (13 R266): its table, its own read window on the chunk, and the symbols still to be decoded. -/
structure Lane where
  table : Word
  bb : BitBuf
  remaining : Nat
  queue : List (BitVec 16)
  /-- it has stopped at a symbol: the fault the LMERGE that reaches it takes, or none for poison -/
  stopped : Option (Option (BitVec 16))
  deriving DecidableEq, Repr

/-- Slot 15's LDEC and LMERGE state (13 R266, R267): the lanes in stream order. -/
structure Lanes where
  lanes : List Lane
  deriving DecidableEq, Repr

/-- Where a user handler in slot 13 came from (14 R284, R285). -/
structure Invocation where
  msg : Nat
  count : Nat
  /-- its tag belongs to another ridge instance than its core's (15 R296) -/
  foreign : Bool := false
  /-- the party on whose behalf it runs (19 R409) -/
  actor : Option Nat := none
  deriving DecidableEq, Repr

/-- The life of a slot's thread (07 R155, 13 R254, 17 R338). -/
inductive Life where
  | vacant
  | live
  | dormant
  | asleep
  /-- a dormant member claimed by a SPAWN that has not started it yet -/
  | claimed
  deriving DecidableEq, Repr

/-- A descriptor register td0–td7 (06 R120). -/
structure Desc where
  base : Word
  dims : Word
  strides : Word
  form : Word
  scale : Word
  deriving DecidableEq, Repr

/-- The state a thread slot holds (07 R131). -/
structure Thread where
  life : Life
  pc : Word
  g : Vector (Reg 64) 48
  v : Vector (Reg 512) 48
  m : Vector (Reg 16) 8
  td : Vector Desc 8
  fcsr : Word
  fmtd : Word
  sclp : Word
  ctx : BitVec 16
  iep : Word
  tpc : Word
  tcause : Word
  tinfo : Word
  gstat : Word
  mxcfg : Word
  gpcfg : Word
  wrapX : Bool
  wrapY : Bool
  /-- handler state of the user trap handler (18 R377) -/
  handler : Bool
  /-- stopped by debug; one step outstanding; the instruction whose breakpoints it ignores until it has issued (19 R401, R402) -/
  stopped : Bool
  stepping : Bool
  skipAt : Option Word
  /-- an opportunity has met the instruction at the PC; a parked attempt of it has been traced (19 R400, R407) -/
  seen : Bool
  parkSeen : Bool
  /-- an EBRK that stops the thread is issuing (19 R381, R401) -/
  ebrk : Bool
  /-- core cycle from which a started member may issue (07 R157) -/
  wakeAt : Nat
  /-- the thread's store waits for a directory entry (15 R298) -/
  dirWait : Bool
  /-- the word whose issue is attempted, for trace records (19 R407) -/
  word : BitVec 32
  /-- slot removed by the power controller (17 R358) -/
  removed : Bool
  /-- consecutive timing-error flags of the next instruction; the next opportunity replays (18 R388) -/
  replays : Nat
  replayNext : Bool
  /-- the member that its parked SPAWN claims: its core, its number, and whether the claim has been asked for (0), won (1) or lost (2)
  (07 R157) -/
  claiming : Option (Nat × Nat × Nat) := none
  psq : List Posted
  pend : List Pend
  /-- cq staging buffer (05 R88) -/
  staging : List Word
  /-- vmq, oldest first: value, poison, the cycle from which it can be popped (11 R239) -/
  vmq : List (Vec × Bool × Nat)
  /-- places reserved by started or queued drains (11 R239) -/
  vmqReserved : Nat
  /-- five scalar ports N, E, S, W, L, then five vector ports -/
  ports : Vector Port 10
  invocation : Option Invocation
  bb : BitBuf
  ldec : Lanes
  deriving DecidableEq, Repr

/-- One open or activating row of a bank: cell rows are numbered 0-15 (04 R67, 15 R297). -/
structure RowName where
  row : Nat
  cell : Bool
  deriving DecidableEq, Repr

/-- What waits at a bank (04 R69). -/
inductive BankRef where
  /-- some lanes of a pending instruction of a slot -/
  | pend (slot id : Nat) (lanes : List Nat)
  /-- the first part of a posted store of a slot -/
  | posted (slot id : Nat)
  /-- ROWACT -/
  | rowact
  /-- ROWPRE -/
  | rowpre
  /-- a tile transfer, for the row of its next beat, or a tile load's read of its scale (06 R124) -/
  | xfer (id : Nat)
  | scale (id : Nat)
  /-- a copy request of the movement thread, for the row of its next beat (05 R441) -/
  | copy (id : Nat)
  /-- the running message of the vault agent (14 R275): one access, or the row of the next beat of a transfer -/
  | agent
  | agentRun
  /-- a bit-stream refill of slot 15 (13 R258), or of one of its LDEC lanes (13 R266) -/
  | refill (lane : Option Nat)
  /-- a bank word of symbols that a TDEC or LMERGE writes, by its first symbol (13 R265, R267), or the word of that number that a
  ZRENC reads (13 R270) -/
  | word (id k : Nat)
  /-- a counter add that a completion posts (05 R100) -/
  | post (id : Nat)
  deriving DecidableEq, Repr

/-- An access queued at a bank: its row, the cycle it reached the bank and the slot it came from (04 R68), the cycle its
transfer began (R69), its bytes, whether it reads and writes them, the tag it carries, whether it reads the base line to
make the tag's cell first (15 R297), and whether it has read it and its write is to fill the cell. -/
structure BankReq where
  ref : BankRef
  row : RowName
  arrived : Nat
  slot : Nat
  began : Nat
  off : Nat
  bytes : Nat
  rd : Bool
  wr : Bool
  tag : BitVec 16
  mat : Bool
  made : Bool := false
  /-- its page is still on its way to a cairn (19 R409) -/
  pre : Bool := false
  deriving DecidableEq, Repr

/-- An access whose command its bank has begun (04 R68): the bank, the cycle from which its beat may take the bus, and whether
that beat is the write half of a read-modify-write. -/
structure Beat where
  req : BankReq
  bank : Nat
  ready : Nat
  second : Bool
  /-- a read beat that is made again behind the rebuild of a sector (04 R77) -/
  again : Bool := false
  deriving DecidableEq, Repr

/-- The state of a bank (04 R67). -/
inductive BankState where
  | closed | activating | opened | precharging | refreshing | repairing
  deriving DecidableEq, Repr

/-- A vault bank (04 R67-R74): state, open or opening row, the cycles of its last activation, precharge and beat, the
cycle until which it is held, its queue, its next refresh (start in router cycles), marked rows and spare rows. -/
structure Bank where
  state : BankState
  row : RowName
  actAt : Option Nat
  preAt : Nat
  lastBeat : Nat
  heldTo : Nat
  queue : List BankReq
  /-- a refresh whose notice has begun: its start in router cycles -/
  notice : Option Nat
  repair : Bool
  marked : List Nat
  spares : Nat
  exhaustedLogged : Bool
  /-- the row of a ROWACT that is being served, while its precharge is under way (04 R86) -/
  opening : Option RowName := none
  deriving DecidableEq, Repr

/-- A ring slot's tile-table entry (06 R115). -/
inductive SlotState where
  | empty | filling | ready | draining
  deriving DecidableEq, Repr

/-- A tile-table entry (06 R115): the fields of the entry, and how many consumers are reading the slot. -/
structure Tile where
  state : SlotState
  bytes : Nat
  scale : BitVec 32
  fmt : Nat
  shapeB : Bool
  poison : Bool
  padonly : Bool
  readers : Nat
  deriving DecidableEq, Repr

/-- A tile ring (06 R114, R115): base, slot size in 64-byte units (0 while unconfigured), count, pointers, entries. -/
structure Ring where
  base : Word
  size : Nat
  count : Nat
  fp : Nat
  pp : Nat
  tiles : List Tile
  deriving DecidableEq, Repr

/-- An accumulator (11 R225, R226). -/
structure Acc where
  image : BitVec 65536
  locked : Bool
  owner : Nat
  claimant : Option Nat
  poison : Bool
  deriving DecidableEq, Repr

/-- A barrier (17 R366). -/
structure Barrier where
  gen : BitVec 32
  form : Nat
  arrived : Nat
  pending : Word
  carryArr : Nat
  carryBytes : Word
  reported : Bool
  /-- at the origin core: the cores that have reported the current generation -/
  reports : Nat
  deriving DecidableEq, Repr

/-- The state of a tag in a core's tag table (15 R299). -/
inductive TagState where
  | free | opened | sealed
  deriving DecidableEq, Repr

/-- An entry of the cell directory (15 R297): line, domain, tag, sealed, byte mask, directory number, bytes. -/
structure Cell where
  line : Nat
  domain : Nat
  tag : BitVec 16
  isSealed : Bool
  mask : BitVec 64
  k : Nat
  bytes : BitVec 512
  poison : Bool
  deriving DecidableEq, Repr

/-- A window of the protection unit (04 R65). -/
structure Window where
  base : Nat
  len : Nat
  read : Bool
  write : Bool
  deriving DecidableEq, Repr

/-- One piece of a tile transfer (06 R124, R125): offset in the tensor, offset in the slot and bytes of each element
moved in one beat. -/
structure Piece where
  moves : List (Nat × Nat × Nat)
  deriving DecidableEq, Repr

/-- Bytes of a ring slot in a transfer, by their number in the slot: for a fill an aligned 32 bytes of which only some have come, which
those are, and what the unit held before the fill, as loads see it until all have come (06 R118); for a tile store a 64-byte word, which
it reads once (R125). -/
structure HeldWord where
  word : Nat
  val : Vec
  got : BitVec 64
  poison : Bool
  deriving DecidableEq, Repr

/-- A tile load or store in progress (06 R124, R125). -/
structure Xfer where
  slot : Nat
  id : Nat
  ring : Nat
  rslot : Nat
  store : Bool
  pieces : List Piece
  /-- pad still to be written: value, element bytes, slot offsets -/
  pad : Word × Nat × List Nat
  /-- the scale's address while it is still to be fetched, and the scale (1.0 without one) -/
  scaleAt : Option Word
  scale : BitVec 32
  comp : Word
  tbytes : Nat
  tag : BitVec 16
  /-- the cycle of its issue, and the cycle after the one in which its last byte or its scale has come -/
  began : Nat
  due : Nat
  held : List HeldWord := []
  /-- its tile is complete, and the add of its counter is on its way to the vault (05 R100) -/
  posting : Bool := false
  deriving DecidableEq, Repr

/-- A committed copy request (05 R88-R104). -/
structure CopyReq where
  id : Nat
  slot : Nat
  words : List Word
  /-- started (05 R97) -/
  active : Bool
  /-- bytes transferred before a pre-emption (05 R104) -/
  before : Nat
  /-- bytes issued, bytes performed, messages outstanding -/
  issued : Nat
  performed : Nat
  outstanding : Nat
  /-- cycle from which it may start, and once it has started the cycle in which it did (05 R441) -/
  due : Nat
  /-- what its source reads wait for: the pusher's earlier accesses, by name (05 R101; 16 R323) -/
  waits : List Nat := []
  /-- pushed by a user handler: the party on whose behalf that ran (19 R409) -/
  actor : Option Nat := none
  /-- bytes read for the piece or message under way, and bytes that have come and are still to be written, with their
  destinations, oldest first (05 R96, R99) -/
  gath : List (Byte × Bool) := []
  landing : List (Word × List (Byte × Bool)) := []
  /-- its next beat or message may go in this cycle and needs no vault beat (05 R441) -/
  ready : Bool := false
  deriving DecidableEq, Repr

/-- An engine command (11 R227): MMA 0, ACCLD 1, ACCST 2, ACCDR 3. -/
structure EngCmd where
  slot : Nat
  id : Nat
  kind : Nat
  acc : Nat
  /-- rings and ring slots of an MMA's tiles, and whether the accumulator enters as 0 -/
  ringA : Nat
  slotA : Nat
  ringB : Nat
  slotB : Nat
  zero : Bool
  /-- the image address of ACCLD and ACCST, the first entry and count of ACCDR -/
  addr : Word
  count : Nat
  half : Bool
  started : Bool
  doneAt : Nat
  /-- 64-byte words of the image moved by an ACCLD or ACCST, and those an ACCLD has read, each with its poison (11 R238) -/
  moved : Nat := 0
  got : List (Vec × Bool) := []
  /-- a trailing ACCLD, which takes the image its leading one reads: the leading command, while the image is still to come (11
  R241) -/
  follows : Bool := false
  twin : Option Nat := none
  /-- a command of a pair whose twin a restart has discarded: it releases nothing (18 R384, R387) -/
  solo : Bool := false
  deriving DecidableEq, Repr

/-- A message of a mailbox (14 R287) and the cycle from which it can be received. -/
structure MailMsg where
  w0 : Word
  w1 : Word
  sender : Word
  visible : Nat
  deriving DecidableEq, Repr

/-- What a message on the mesh carries (14 R272-R289, 15 R301-R305, 17 R366, 05 R96). -/
inductive MsgKind where
  | rget (size : Nat)
  | rput (size : Nat) (data : Vec) (poison : Bool)
  | ratom (op : AtomOp) (x y : Word)
  | amsend (index : Nat) (arg : Word)
  | msend (prio : Nat) (w0 w1 : Word)
  | copyWrite (data : List (Byte × Bool))
  | copyRead (len : Nat) (dst : Word)
  /-- the reply to a read message, with its bytes, or the acknowledgement of n bytes of a transfer (05 R96) -/
  | copyDone (dst : Word) (data : List (Byte × Bool)) (n : Nat) (fault : Option (BitVec 16))
  | ctxalloc
  | ctxretire (tag : BitVec 16) (merge : Bool)
  | seal (tag : BitVec 16)
  | retire (tag : BitVec 16)
  /-- a home's acknowledgement of a retirement, to the allocator (15 R303) -/
  | retired (tag : BitVec 16)
  | merge (tag : BitVec 16)
  | ldx (form : Nat) (tag : BitVec 16)
  | barReport (n : Nat)
  | barRelease (n : Nat)
  /-- the claim of a SPAWN on a member of another core, and its answer (07 R157) -/
  | claim (member : Nat)
  | claimed (won : Bool)
  /-- the set-up of a SPAWN: the member, the child, and whether its first flit has come -/
  | spawn (member : Nat) (child : Thread) (begun : Bool)
  /-- a message from one link to another: its slots (20 R423) -/
  | transit (slots : List (List Byte))
  | reply (val : Vec) (poison : Bool) (fault : Option (BitVec 16))
  deriving DecidableEq, Repr

/-- The end of a message's or an entry's hops, num/den router cycles after device reset (14 R273): a stage of the sending core
ends with one of its clock edges, which need not fall on a router cycle. -/
structure Arrival where
  num : Nat
  den : Nat
  /-- the core whose cycles it left by, none where it is no core's, and the router cycles of its hops: a pause of that core before the
  hops begin puts it off (17 R356) -/
  src : Option Nat := none
  hops : Nat := 0
  deriving DecidableEq, Repr

/-- A message in the mesh, at a home, or refused and waiting for its retry (14 R273-R276): the issuing core, slot and
pending instruction, the home and the offset there, the virtual address, ASID and tag, and when its hops end. -/
structure Msg where
  id : Nat
  kind : MsgKind
  core : Nat
  slot : Nat
  pend : Nat
  home : Nat
  off : Nat
  va : Word
  asid : Nat
  tag : BitVec 16
  due : Arrival
  /-- refused, and not yet sent again -/
  refused : Bool
  /-- far blocks a reply reports: global address, failed sectors (03 R58) -/
  bad : List (Word × Nat) := []
  /-- the device of the issuer, 0 for this device (20 R444), and the home a forwarded message was sent to (14 R292) -/
  dev : Nat := 0
  vhome : Option Nat := none
  /-- bytes of the value an answer carries (20 R444) -/
  rlen : Nat := 0
  /-- the launch on whose behalf the scheduler sends it (17 R345, R346; 19 R409) -/
  forLaunch : Option Nat := none
  /-- the party on whose behalf a copy sends it that a user handler has pushed (19 R409) -/
  party : Option Nat := none
  /-- the home from whose router it has come, where one has forwarded it (14 R292) -/
  via : Option Nat := none
  /-- what has become of a refused message (14 R276): 0 never refused, 1 its refusal travels back, 2 it waits to be sent again, 3 it
  has been sent again -/
  retry : Nat := 0
  deriving DecidableEq, Repr

/-- An entry or a credit on the neighbour-port lanes, or a work-list shipment (07 R145, R148; 17 R355). -/
inductive Lane2 where
  | entry (val : Vec) (poison : Bool)
  | credit
  | ship (entries : List Word)
  | back (entries : List Word)
  deriving DecidableEq, Repr

/-- A flight on the neighbour-port lanes: where it lands, and when its hops end, or, on a lateral port, the core cycle from which
it can be seen. -/
structure Flight where
  id : Nat
  load : Lane2
  core : Nat
  slot : Nat
  port : Nat
  src : Nat
  lateral : Bool
  due : Arrival
  deriving DecidableEq, Repr

/-- An entry of a pair's load-value queue (18 R385): the PC, the operands that the leading slot took from its own registers (an
address among them), the pending instruction that will supply the values (if it is long-latency), the values with their poison, and
whether they are there. -/
structure LvEntry where
  pc : Word
  ops : List Word
  id : Nat
  vals : List (Vec × Bool)
  ready : Bool
  /-- the tiles an MMA of the leading slot passes on (11 R241): ring and slot of A, ring and slot of B -/
  tiles : Option (Nat × Nat × Nat × Nat) := none
  deriving DecidableEq, Repr

/-- A deposit in a pair's comparator (18 R386): which side, the PC, kind (0 an effect, 1 a trap), address, size and data,
the cycle, and whether its twin has arrived. -/
structure CmpEntry where
  leading : Bool
  pc : Word
  kind : Nat
  data : List Word
  at' : Nat
  matched : Bool
  deriving DecidableEq, Repr

/-- The redundant-pair state of slots 2k and 2k+1 (18 R385, R386), and the instructions that each has issued since both last stood
at one place. -/
structure Pair where
  lvq : List LvEntry
  cmp : List CmpEntry
  lead : Nat
  trail : Nat
  deriving DecidableEq, Repr

/-- A change of a shared register (07 R137): the cycle, and the register after it. -/
structure ShChange where
  cycle : Nat
  reg : Reg 64
  deriving DecidableEq, Repr

/-- The time-loss account of a core, live or latched (19 R397, R398): per slot and class, histogram, rotations. -/
structure Account where
  cls : List Nat
  hist : List Nat
  rots : Nat
  deriving DecidableEq, Repr

/-- An event of the current cycle that a trace record may keep (19 R407): slot or 0xFF, kind, PC, payload. -/
structure TraceEv where
  slot : Nat
  kind : Nat
  pc : Word
  pay : List Byte
  deriving DecidableEq, Repr

/-- The debug block, sampler and trace unit of a core (19 R396-R408). -/
structure Debug where
  dbgctl : Word
  /-- dbgstat.wref (19 R404) -/
  wref : Bool
  bkpt : Vector Word 8
  trgctl : Word
  tbase : Word
  tsize : Word
  twr : Word
  tlost : Word
  smpctl : Word
  smpCount : Nat
  smpLast : Nat
  live : Account
  latched : Account
  latchReq : Bool
  clearReq : Bool
  active : Bool
  /-- the trace buffer is full and draining has stopped; records lost since the last 0x0D record (19 R407, R408) -/
  tfull : Bool
  lostSince : Nat
  records : List (List Byte)
  /-- this cycle's events, start and stop conditions (19 R406) -/
  events : List TraceEv
  startNow : Bool
  stopNow : Bool
  /-- a command accepted and not yet in effect, oldest first (19 R396) -/
  cmds : List Word
  /-- compute slots classed issued in the current rotation, and the class of each slot in it -/
  issuedNow : Nat
  rot : List Nat
  deriving DecidableEq, Repr

/-- An operation of a thread of another device that a home has refused and not accepted since (14 R279; log 50). -/
structure HeldOp where
  dev : Nat
  core : Nat
  slot : Nat
  home : Nat
  off : Nat
  kind : MsgKind
  deriving DecidableEq, Repr

/-- Entries taken from a work list that are to go to a neighbour: where, and for each of them the slot that pushed it and the writes that
are to be performed first (07 R153; 16 R323). -/
structure Shipment where
  dest : Nat
  entries : List Word
  waits : List (Nat × List Nat)
  deriving DecidableEq, Repr

/-- One line of the instruction store (17 R340): the line number held, its words, and the numbers of poisoned words (18
R372). -/
structure ILine where
  line : Nat
  words : List (BitVec 32)
  bad : List Nat
  deriving DecidableEq, Repr

/-- A pause of a core's clock (17 R356): the start of the core cycle into which it falls, the router cycle in which it begins, and
whether the next core cycle has begun. -/
structure Gap where
  edge : Arrival
  since : Nat
  begun : Bool
  deriving DecidableEq, Repr

/-- The state of a core. -/
structure Core where
  /-- core cycles since device reset (09 R203) -/
  cycle : Nat
  /-- frequency in MHz, phase of the core clock against the router clock, router cycle at which a pause ends and the
  frequency it resumes at (17 R356) -/
  freq : Nat
  phase : Nat
  pause : Option (Nat × Nat)
  /-- the pause that falls into the current core cycle or the one before it (14 R273) -/
  gap : Option Gap := none
  /-- slotcap (07 R132) -/
  gcap : Nat
  vcap : Nat
  redmask : BitVec 12
  /-- the ridge held, and the core's column and row in it (17 R338) -/
  ridge : Option Nat
  col : Nat
  row : Nat
  placedAt : Nat
  threads : Vector Thread 16
  /-- protection unit: header windows and declared scratchpad bytes (04 R65) -/
  windows : List Window
  scratch : Nat
  /-- windows retained by a saved ridge (17 R351): ridge and window -/
  retained : List (Nat × Window)
  istore : List ILine
  /-- instruction-store lines missed, in miss order; the first one's read is on its way (17 R340) -/
  refills : List Nat
  /-- the reply of the refill under way has arrived: its 16 cc of transfer end in this cycle -/
  refillDue : Option Nat
  /-- sh0-sh7: changes, newest first (07 R136, R137) -/
  sh : Vector (List ShChange) 8
  /-- fills of shared registers that land in the first cycle in which no slot changes the register (07 R137) -/
  shLate : List (Nat × Reg 64)
  frn : Word
  copies : List CopyReq
  /-- the request that took the last beat, and the cycle from which the next may go (05 R441) -/
  copyTurn : Nat
  copyNext : Nat
  /-- work list, oldest first: value and push cycle; inflight shipments (07 R153, 17 R355) -/
  wl : List (Word × Nat)
  /-- the latest removals from the work list: the cycle of the entry's push, and that of its removal (07 R137, 17 R365) -/
  wlGone : List (Nat × Nat)
  wlInflight : Nat
  /-- the pusher's writes to the neighbourhood that were under way at a push of the work list, by the cycle of the push and its slot; and
  shipments that still wait for such writes (07 R153; 16 R323) -/
  wlOwed : List (Nat × Nat × List Nat)
  shipping : List Shipment
  tq : List (Word × Nat)
  /-- cycles of the latest removals from the transform queue (07 R153) -/
  tqGone : List Nat
  rings : Vector Ring 16
  xfers : List Xfer
  accs : Vector Acc 8
  engine : List EngCmd
  gatedRows : Bool
  barriers : List (Nat × Barrier)
  mail : Vector (List MailMsg) 4
  skips : Vector Nat 4
  banks : Vector Bank 32
  therm : Nat
  /-- router cycle from which starts of the refresh schedule count (04 R70), the next free cycle of the vault's bus, and the
  scalar accesses that wait for it (04 R69) -/
  schedFrom : Nat
  bus : Nat
  beats : List Beat
  /-- the access whose beat the bus carries in this cycle, for the party that moves its own bytes -/
  granted : Option BankRef
  /-- the scratchpad bytes that have been written in this cycle, each with its value and poison before the cycle (16 R315) -/
  old : List (Nat × Byte × Bool)
  rpcnt : Nat
  /-- the vault agent's input buffer (14 R275), the message it runs and when it is done with it -/
  inbuf : List Msg
  agentFree : Nat
  /-- bytes of the running transfer that have been written at the vault, and those that have been read (05 R96) -/
  agentPos : Nat
  agentGot : List (Byte × Bool)
  cells : List Cell
  /-- LDX.wait messages that wait at this home for a seal (15 R306) -/
  ldxWaits : List Msg
  tags : List (BitVec 16 × TagState)
  fullCount : Nat
  /-- dirty 4 KiB granules of the declared scratchpad (18 R389) -/
  dirty : List Nat
  pairs : Vector Pair 6
  /-- redundant mode of the core's ridge (18 R385) -/
  redundant : Bool
  /-- power steps in force, newest first (17 R357): 0-15 a slot, 16 rows gated; 25 MHz down to f MHz, 17 + 32·f, or below mnfreq,
  18 + 32·f -/
  steps : List Nat
  /-- average power of the last window in mW, the limit of the host (20 R428), and the end of the last window -/
  windowPower : Nat
  coreLimit : Option Nat
  windowAt : Nat
  /-- the core cycle of the last load levelling (17 R355) -/
  levelledAt : Nat
  /-- failed self-test (20 R430); drained (17 R353) -/
  dead : Bool
  drained : Bool
  dbg : Debug
  /-- cycle of the common start, and the committed-store hash of the current window (19 R414, R415) -/
  startCycle : Nat
  hash : Word
  hashCount : Nat
  hashWindow : Nat
  /-- finished windows not yet compared (window, hash, count), the windows compared, and whether the pair diverged -/
  rolled : List (Nat × Word × Nat)
  compared : Nat
  diverged : Bool
  deriving DecidableEq, Repr

/-- The sixteen slots' empty bit buffer. -/
def BitBuf.reset : BitBuf :=
  { zprev := 0, valid := 0, fin := 0, poison := false, write := false, rp := 0, win := 0, refill := none, hot := false }

/-- A pair whose slots stand at one place. -/
def Pair.reset : Pair := { lvq := [], cmp := [], lead := 0, trail := 0 }

/-- No LDEC in progress. -/
def Lanes.reset : Lanes := { lanes := [] }

/-- A descriptor at launch (06 R120). -/
def Desc.reset : Desc := { base := 0, dims := 0, strides := 0, form := 0, scale := 0 }

/-- Full credits of a scalar or a vector port (07 R145). -/
def Port.reset (i : Nat) : Port := { queue := [], credits := if i < 5 then 8 else 4 }

/-- A slot's state at launch, vacant (07 R131; log 20 for the registers the spec gives no reset value). -/
def Thread.reset : Thread :=
  { life := .vacant, pc := 0, g := Vector.replicate 48 (Reg.zero 64), v := Vector.replicate 48 (Reg.zero 512),
    m := Vector.replicate 8 (Reg.zero 16), td := Vector.replicate 8 Desc.reset, fcsr := 0, fmtd := 0, sclp := 0,
    ctx := 0, iep := 0, tpc := 0, tcause := 0, tinfo := 0, gstat := 0, mxcfg := 0, gpcfg := 0, wrapX := false,
    wrapY := false, handler := false, stopped := false, stepping := false, skipAt := none, seen := false, parkSeen := false, ebrk := false,
    wakeAt := 0, dirWait := false, word := 0, removed := false,
    replays := 0, replayNext := false, psq := [], pend := [], staging := [], vmq := [], vmqReserved := 0,
    ports := Vector.replicate 5 (Port.reset 0) ++ Vector.replicate 5 (Port.reset 5), invocation := none, bb := BitBuf.reset, ldec := Lanes.reset }

/-- A bank at reset: closed, idle (04 R67). -/
def Bank.reset : Bank :=
  { state := .closed, row := ⟨0, false⟩, actAt := none, preAt := 0, lastBeat := 0, heldTo := 0, queue := [], notice := none, repair := false, marked := [], spares := 64, exhaustedLogged := false }

/-- An unconfigured ring (06 R114). -/
def Ring.reset : Ring := { base := 0, size := 0, count := 0, fp := 0, pp := 0, tiles := [] }

/-- An accumulator at placement: +0, unlocked (11 R225, R226). -/
def Acc.reset : Acc := { image := 0, locked := false, owner := 0, claimant := none, poison := false }

/-- A barrier at placement (17 R366). -/
def Barrier.reset : Barrier :=
  { gen := 0, form := 0, arrived := 0, pending := 0, carryArr := 0, carryBytes := 0, reported := false, reports := 0 }

/-- Cleared counters (19 R398). -/
def Account.reset : Account := { cls := [], hist := [], rots := 0 }

/-- The debug block at reset (19 R396). -/
def Debug.reset : Debug :=
  { dbgctl := 0, wref := false, bkpt := Vector.replicate 8 0, trgctl := 0, tbase := 0, tsize := 0, twr := 0, tlost := 0, smpctl := 0,
    smpCount := 0, smpLast := 15, live := Account.reset, latched := Account.reset, latchReq := false, clearReq := false,
    active := false, tfull := false, lostSince := 0, records := [], events := [], startNow := false, stopNow := false,
    cmds := [], issuedNow := 0, rot := List.replicate 16 3 }

/-- A core at device reset: idle at 600 MHz (17 R356), nothing placed, full register capacity (07 R132). -/
def Core.reset : Core :=
  { cycle := 0, freq := 600, phase := 0, pause := none, gcap := 47, vcap := 48, redmask := 0, ridge := none, col := 0,
    row := 0, placedAt := 0, threads := Vector.replicate 16 Thread.reset, windows := [], scratch := 0,
    retained := [], istore := [], refills := [], refillDue := none, sh := Vector.replicate 8 [], shLate := [], frn := 0, copies := [], copyTurn := 0, copyNext := 0,
    wl := [], wlGone := [], wlInflight := 0, wlOwed := [], shipping := [], tq := [], tqGone := [], rings := Vector.replicate 16 Ring.reset, xfers := [],
    accs := Vector.replicate 8 Acc.reset, engine := [], gatedRows := false, barriers := [],
    mail := Vector.replicate 4 [], skips := Vector.replicate 4 0, banks := Vector.replicate 32 Bank.reset, therm := 0,
    schedFrom := 0, bus := 0, beats := [], granted := none, old := [], rpcnt := 0, inbuf := [], agentFree := 0, agentPos := 0, agentGot := [], cells := [], ldxWaits := [], tags := [], fullCount := 0, dirty := [],
    pairs := Vector.replicate 6 Pair.reset, redundant := false, steps := [], windowPower := 0, coreLimit := none,
    windowAt := 0, levelledAt := 0, dead := false, drained := false, dbg := Debug.reset, startCycle := 0, hash := 0, hashCount := 0,
    hashWindow := 0, rolled := [], compared := 0, diverged := false }

/-- Bank b of the vault of core n, idle at 600 MHz since device reset, after rt router cycles: under the refresh that its
schedule has begun, in notice of the next, or closed (04 R70, R72). -/
def Bank.resetAt (n rt b : Nat) : Bank :=
  let o := 256 * b + 8 * (n % 32)
  let now := rt * 600 / 2000
  let next := rt + 1 + (o + 8192 - (rt + 1) % 8192) % 8192
  let held := (if next * 600 / 2000 = now then next else rt - (rt - o) % 8192) * 600 / 2000 + 160
  if (next * 600 / 2000 = now ∨ o ≤ rt) ∧ now < held then { Bank.reset with state := .refreshing, heldTo := held }
  else if next * 600 / 2000 ≤ now + 64 then { Bank.reset with notice := some next }
  else Bank.reset

/-- The account of a core that has passed its cycles up to one with every slot vacant (19 R397, R398). -/
def Account.vacantTo (n : Nat) : Account :=
  { cls := (List.range 64).map (fun i => if i % 4 = 3 then (n + 16 - i / 4) / 16 else 0), hist := [(n + 1) / 16], rots := (n + 1) / 16 }
/-- Core n while it is not listed, after rt router cycles: idle at 600 MHz since device reset (09 R203, 17 R356), its vault
refreshed on schedule (04 R70), its slots vacant (19 R397). -/
def Core.resetAt (n rt : Nat) : Core :=
  { Core.reset with cycle := rt * 600 / 2000, phase := rt * 600 % 2000, dbg := { Debug.reset with live := Account.vacantTo (rt * 600 / 2000) },
                    banks := ⟨⟨(List.range 32).map (Bank.resetAt n rt)⟩, by simp⟩ }

/-- The kernel header of a placed image (02 R48). -/
structure Header where
  redundant : Bool
  tagged : Bool
  regs : Nat
  vregs : Nat
  barriers : Nat
  rings : Nat
  crew : Nat
  scratch : Nat
  entry : Nat
  trapEntry : Option Nat
  amTable : List (Option Nat)
  windows : List Window
  datas : List (Nat × List Byte)
  codeSize : Nat
  deriving DecidableEq, Repr

/-- The states of a launch packet's fields (17 R342). -/
structure Packet where
  kind : Nat
  flags : Nat
  prio : Nat
  part : Nat
  w : Nat
  h : Nat
  count : Nat
  pool : Nat
  lvl : Nat
  code : Word
  grace : Nat
  mnfreq : Nat
  mxpow : Nat
  gcount : Nat
  args : Word
  fmtd : Word
  sclp : Word
  dep0 : Word
  thr0 : Word
  dep1 : Word
  thr1 : Word
  done : Word
  status : Word
  glist : Word
  resv : Bool
  deriving DecidableEq, Repr

/-- The states of a launch (17 R346). -/
inductive LaunchState where
  | queued | checking | depwait | leasing | placing | running | refused | done
  deriving DecidableEq, Repr

/-- A launch (17 R346). -/
structure Launch where
  id : Nat
  queue : Nat
  asid : Nat
  /-- the packet's sequence number in its queue (17 R361) -/
  serial : Word
  packet : Packet
  state : LaunchState
  header : Header
  /-- number of the first instance, and the number of instances: N, or those chosen for a replay (19 R411) -/
  first : Nat
  count : Nat
  /-- instances placed, ended, ended without a fault; first fault code -/
  placed : Nat
  ended : Nat
  clean : Nat
  fault : BitVec 16
  /-- the global lease entries: base, bytes, read, write (17 R343) -/
  leases : List (Word × Nat × Bool × Bool)
  /-- rtime of the next dependence poll, and the values that satisfied the dependences -/
  polled : Nat
  deps : List Word
  /-- rtime from which the launch is in placing, and the origin of the rectangle reserved by a pre-emption (17 R351) -/
  readyAt : Nat
  reserved : Option (Nat × Nat)
  /-- where the status record and the completion count go: 0 for nowhere -/
  status : Word
  done : Word
  /-- the cairn the launch is captured in, or whose code it replays (19 R409, R411) -/
  capture : Option Nat
  replay : Bool
  deriving DecidableEq, Repr

/-- The states of a ridge instance (17 R350). -/
inductive RidgeState where
  | starting | running | grace | saving | saved | resuming | ending | ended
  deriving DecidableEq, Repr

/-- A retirement in progress at the allocator (15 R303): the tag, homes still to acknowledge, and who asked. -/
structure Retiring where
  tag : Nat
  left : Nat
  core : Nat
  slot : Nat
  pend : Nat
  deriving DecidableEq, Repr

/-- What the save image holds of one core (18 R391-R394; log 36): the core, its number at the save, the bytes of its declared
scratchpad that are not 0, its poisoned words, by offset from the scratchpad's start, the router cycle of the save, and the bits of the
image that have flipped in the pool, by offset. -/
structure Saved where
  core : Core
  num : Nat
  bytes : List (Nat × Byte)
  poisoned : List Nat
  stamp : Nat
  flips : List (Nat × Byte) := []
  deriving DecidableEq, Repr

/-- A placed ridge instance. -/
structure Ridge where
  id : Nat
  launch : Nat
  inst : Nat
  asid : Nat
  header : Header
  packet : Packet
  /-- origin column and row on the device, width, height -/
  x : Nat
  y : Nat
  w : Nat
  h : Nat
  state : RidgeState
  graceEnd : Nat
  /-- the router cycle of its pre-emption (17 R347) -/
  savedAt : Nat
  /-- the cores of a saved instance, in row-major order of the rectangle, and the refused messages of its threads (18
  R390, R394) -/
  image : List Saved
  held : List Msg
  /-- the router cycle of the common start (17 R349) -/
  startAt : Nat
  /-- the mirror copy of lockstep replay mode (19 R413) -/
  mirror : Bool
  /-- the tag allocator (15 R299): pool size, free tags, tags being retired, queued CTXALLOCs (core, slot, pending id) -/
  pool : Nat
  freeTags : List Nat
  retiring : List Retiring
  waiting : List (Nat × Nat × Nat)
  /-- first fault of the instance: (stamp, core, slot, code) -/
  fault : Option (Nat × Nat × Nat × BitVec 16)
  /-- flags of fcsr raised since launch: bit, and the router cycle of its first raise (08 R164) -/
  raised : List (Nat × Nat)
  deriving DecidableEq, Repr

/-- A launch queue (17 R341): owner, ring address, slots, packets taken and packets written, the launch of the head packet,
and whether capture is armed (19 R409).  The packets lie in the ring's memory. -/
structure Queue where
  id : Nat
  asid : Nat
  ring : Word
  slots : Nat
  head : Nat
  tail : Nat
  current : Option Nat
  armed : Bool
  deriving DecidableEq, Repr

/-- A page of an ASID (03 R62, 14 R274): virtual page, home, offset there, permissions, residency, tagged. -/
structure Page where
  va : Nat
  bytes : Nat
  home : Nat
  off : Nat
  read : Bool
  write : Bool
  resident : Bool
  tagged : Bool
  deriving DecidableEq, Repr

/-- A pin of a translation (17 R343, 04 R65): ridge, home, offset, bytes, permissions. -/
structure Pin where
  launch : Nat
  home : Nat
  off : Nat
  bytes : Nat
  read : Bool
  write : Bool
  deriving DecidableEq, Repr

/-- A host-window entry (20 R418). -/
structure HostWin where
  entry : Nat
  qp : Nat
  rkey : BitVec 32
  base : Word
  len : Nat
  deriving DecidableEq, Repr

/-- An address space (03 R56, R62; 15 R311; 20 R417, R418, R429). -/
structure Asid where
  id : Nat
  ceil : Nat
  mw : Nat
  boost : Bool
  rkey : BitVec 32
  suspect : Bool
  gfrn : Word
  sample : Word
  /-- the name of its key pair and integrity key (03 R56) -/
  keyName : Nat
  /-- a grant that takes effect at the next controller window: the ceiling, the power of a core, boost (20 R429) -/
  next : Option (Nat × Nat × Bool) := none
  pages : List Page
  hostWins : List HostWin
  deriving DecidableEq, Repr

/-- An entry of the fault log (18 R373). -/
structure LogEntry where
  addr : Word
  code : BitVec 16
  asid : Nat
  who : BitVec 8
  restarts : Nat
  core : Nat
  stamp : Nat
  tpc : BitVec 32
  inst : Nat
  /-- sectors and tag status of a far record (03 R59) -/
  far : Option (Nat × Nat) := none
  /-- the 32 bytes of an entry that is no fault's: half of a divergence report (19 R415; log 105) -/
  raw : Option (List Byte) := none
  deriving DecidableEq, Repr

/-- A soft error not yet removed (03 R57; 04 R77; 06 R113): the key of its 64-byte unit, the bits flipped, where they lie (0 the
unit itself, 1 and 2 the parity of its group, 3 the metadata of its 256-byte block: the four CRCs in bits 63:0 and a far block's tag in
bits 127:64), and whether it has been counted or, in a vault, has failed a rebuild. -/
structure Soft where
  unit : Nat
  flip : Vec
  parity : Nat
  seen : Bool
  deriving DecidableEq, Repr

/-- The state of a Dreard link (20 R421). -/
inductive LinkState where
  | down | training | up16 | up8
  deriving DecidableEq, Repr

/-- A Dreard link (20 R419-R422, R445). -/
structure Link where
  state : LinkState
  /-- in training: the half that a retrain after a lane fault uses, and since when; none for all 16 lanes -/
  half : Option (Bool × Nat)
  /-- in up8: the half in use is lanes 8-15 -/
  upper : Bool
  failed : Option Nat
  peer : Nat
  replays : Nat
  retrains : Nat
  /-- the next sequence number, and the replay buffer: unacknowledged flits, oldest first -/
  seq : Nat
  buffer : List (Nat × List (List Byte))
  /-- sequence numbers still to be sent again, in order -/
  again : List Nat
  /-- the next sequence number expected, whether any flit has been accepted, whether a replay has been requested since it was last met, and whether the
  request is still to be sent -/
  expected : Nat
  got : Bool
  asked : Bool
  askNow : Bool
  /-- flits accepted since the last acknowledgement, and the router cycle by which one is due -/
  owed : Nat
  ackBy : Option Nat
  /-- slots not yet framed (20 R445) -/
  out : List (List Byte)
  /-- slots received of a message not yet whole -/
  partly : List (List Byte)
  /-- requests sent whose replies are outstanding -/
  away : List Msg
  /-- flits sent in the current period of the link's rate, and the period -/
  sent : Nat
  period : Nat
  /-- the flits put on the wire in the current router cycle -/
  wire : List (List Byte)
  deriving DecidableEq, Repr

/-- A request record on a host-assist ring (20 R428): function, ring slot, the launch, ridge, message or log entry that
waits, and whether the host has answered. -/
structure Assist where
  fn : Nat
  slot : Nat
  obj : Nat
  answered : Bool
  deriving DecidableEq, Repr

/-- An RDMA request that the device has accepted (20 R417; 14 R275): the ASID, what it does (0 write, 1 read, 2 atomic; in
the Pacia space 3 write, 4 read), the parts still
to be performed in order (address and bytes), the first of them under way, the bytes still to be written, those read, and the
operation of an atomic. -/
structure Rdma where
  id : Nat
  asid : Nat
  kind : Nat
  parts : List (Word × Nat)
  data : List Byte
  got : List Byte
  op : AtomOp
  x : Word
  y : Word
  deriving DecidableEq, Repr

/-- What the device answers to an RDMA request (20 R416, R417). -/
inductive Answer where
  | none
  | ack
  | data (bytes : List Byte)
  /-- remote access error NAK -/
  | accessNak
  /-- invalid request NAK -/
  | requestNak
  deriving DecidableEq, Repr

/-- A core record of the snapshot (20 R425). -/
structure SnapCore where
  gcap : Nat
  vcap : Nat
  redmask : BitVec 12
  asid : Option Nat
  drained : Bool
  retains : Bool
  dead : Bool
  therm : Nat
  freq : Nat
  repaired : Nat
  power : Nat
  cells : Nat
  removed : BitVec 16
  deriving DecidableEq, Repr

/-- The snapshot as last rewritten (20 R425). -/
structure Snap where
  seq : Nat
  stamp : Nat
  state : Nat
  dev : Nat
  drains : BitVec 5
  logidx : Nat
  feat : BitVec 128
  floor : Nat
  cores : List (Nat × SnapCore)
  /-- data capacity and port state of each agent -/
  agents : List (Nat × Bool)
  /-- state, failed lane, peer, replays, retrains -/
  links : List (LinkState × Option Nat × Nat × Nat × Nat)
  /-- link state and queue pairs in use -/
  ports : List (Bool × Nat)
  log : List LogEntry
  deriving DecidableEq, Repr

/-- A cairn (19 R409, R410): what it holds, by name; pages as (page, offset and byte of each byte that is not 0). -/
structure Cairn where
  id : Nat
  launch : Nat
  asid : Nat
  queue : Nat
  seq : Word
  packet : Packet
  header : Header
  code : List Byte
  deps : List Word
  pages : List (Nat × List (Nat × Byte))
  status : Option (Nat × BitVec 16 × Nat × Nat)
  opened : Bool
  incomplete : Bool
  foreign : Nat
  foreignPages : List Nat
  /-- still capturing -/
  live : Bool
  /-- the 128 bytes of the packet's slot -/
  raw : List Byte := []
  /-- the bits of its bytes that have flipped in the pool, by offset -/
  flips : List (Nat × Byte) := []
  deriving DecidableEq, Repr

/-- A page on its way to a cairn (19 R409): the cairn, the page, and the router cycle in which its last byte gets there. -/
structure PreImage where
  cairn : Nat
  page : Nat
  due : Nat
  deriving DecidableEq, Repr

/-- An access of the scheduler: bytes read at a global address, bytes written, one atomic 8-byte add (17 R344-R346); bytes of a data
block written to a core's vault (17 R349), bytes of a vault window moved from one core to another (17 R352), and bytes read at a place of a
home itself (20 R431). -/
inductive JobOp where
  | read (a : Word) (n : Nat)
  | write (a : Word) (data : List Byte)
  | add (a : Word) (x : Nat)
  | put (home off : Nat) (data : List Byte)
  | move (old new off n : Nat)
  | look (home off n : Nat)
  deriving DecidableEq, Repr

/-- What the accesses of the scheduler are for: a packet's slot and its checks (17 R345), dependence polls (R346), the status record and
the completion count (R344), the packet of a LAUNCH (R362), data blocks of a placed instance (R349), vault windows of a resumed one
(R352), the image of a captured launch's code (19 R409), the pages and lists of a replay (19 R411), a firmware image (20 R431). -/
inductive JobFn where
  | check
  | poll
  | status
  | launch (core slot : Nat)
  | place
  | resume
  | code
  | replay
  | firmware
  deriving DecidableEq, Repr

/-- Accesses of the scheduler that are made one after another, in messages of its own (log 38): its ASID, the core from whose router
they leave, what they are for and the name of its object, the launch they are made for, those still to be made, of which the first is
under way, what that one has read so far, what the others have read, and whether one has failed. -/
structure Job where
  id : Nat
  asid : Nat
  core : Nat
  fn : JobFn
  obj : Nat
  launch : Option Nat
  ops : List JobOp
  part : List (Byte × Bool)
  got : List (List Byte)
  failed : Bool
  deriving DecidableEq, Repr

/-- A page under migration (14 R291): the ASID and virtual page, where it is and where it goes, the lines copied, whether the request
still waits for the page's lease to be released, and whether a line copy is under way. -/
structure Migration where
  id : Nat
  asid : Nat
  va : Nat
  bytes : Nat
  home : Nat
  off : Nat
  newHome : Nat
  newOff : Nat
  copied : Nat
  waiting : Bool
  busy : Bool
  deriving DecidableEq, Repr

/-- A divergence report (19 R415). -/
structure Divergence where
  core : Nat
  window : Nat
  hashA : Word
  hashB : Word
  countA : Nat
  countB : Nat
  stamp : Nat
  deriving DecidableEq, Repr

/-- The firmware (20 R431): running version, the version installed for the next reset, the fused minimum. -/
structure Firmware where
  version : Nat
  next : Option Nat
  minimum : Nat
  deriving DecidableEq, Repr

/-- The state of the machine. -/
structure State where
  /-- memory of every home, bytes that differ from the unlisted value, in rising order of key (04 R64; log 1) -/
  mem : List Host.Cell
  /-- poisoned sectors and bank words, by key of the 64-byte unit, rising (04 R78, 06 R113) -/
  poison : List Nat
  /-- soft errors of vault sectors and scratchpad words -/
  soft : List Soft
  /-- router cycles since device reset (09 R203) -/
  rtime : Nat
  devNum : Nat
  cores : List (Nat × Core)
  msgs : List Msg
  /-- operations of other devices' threads that homes have refused, in order (14 R279) -/
  behind : List HeldOp
  flights : List Flight
  asids : List Asid
  pins : List Pin
  queues : List Queue
  launches : List Launch
  ridges : List Ridge
  log : List LogEntry
  logCount : Nat
  /-- routing table: device number and the links that lead to it (20 R423) -/
  routes : List (Nat × List Nat)
  /-- router cycle of the saddle tree's last publication (15 R311) -/
  saddleAt : Nat
  /-- data capacity of each far agent in bytes (03 R50, R53), and the CXL ports that are down (03 R63) -/
  farCap : List (Nat × Nat)
  /-- the key under which each far block was last written (03 R56) -/
  farKeys : List (Nat × Nat)
  portsDown : List Nat
  /-- lockstep replay mode (19 R413): 0 off, 1 on -/
  lockstep : Nat
  /-- 0 recovery, 1 negotiate, 2 ready, 3 lost (20 R425) -/
  devState : Nat
  /-- steps 1 to 4 after power-on reset have passed, and the first snapshot is still to be published (20 R430) -/
  booting : Bool := false
  feat : BitVec 128
  modes : BitVec 5
  drain : BitVec 5
  floor : Nat
  /-- the cap in force in watts and the cores that held an instance at the start of the controllers' window under way, and of the one before
  it (17 R359) -/
  shareNow : Nat × Nat
  shareWas : Nat × Nat
  /-- the last accepted cap message's sequence number, and the cap in force with the rtime of its expiry (17 R359) -/
  capSeq : Option Nat
  cap : Option (Nat × Nat)
  /-- the ASID of the debug session (19 R396) -/
  debugAsid : Option Nat
  /-- bytes of the command slots and the host-assist rings, by Pacia offset, that are not 0; commands rung, in order -/
  pacia : List Host.Cell
  rung : List Nat
  assist : List Assist
  /-- requests posted on each host-assist ring -/
  assistCount : List Nat
  snap : Snap
  links : List Link
  /-- Ethernet ports that are up -/
  eth : List Bool
  hostAnswer : Answer
  /-- RDMA requests accepted and not answered, oldest first (16 R330) -/
  rdmas : List Rdma
  /-- accesses of the scheduler under way, oldest first (17 R344-R346, R349, R352) -/
  jobs : List Job
  cairns : List Cairn
  /-- pre-images on their way to their cairns (19 R409) -/
  preImages : List PreImage
  migrations : List Migration
  /-- the queue that took the last turn of a partition's priority level (17 R347) -/
  turns : List ((Nat × Nat) × Nat)
  reports : List Divergence
  fw : Firmware
  /-- instructions and events whose turn is next: the model's own (log 2) -/
  agenda : List Instr
  /-- cores with a core cycle in the current router cycle: the model's own (log 2) -/
  due : List Nat
  /-- the issue opportunity of the first due core's cycle has passed: the model's own (log 2) -/
  opened : Bool
  /-- the counter that names new objects and that the free values are applied to: the model's own (log 3) -/
  fresh : Nat
  deriving DecidableEq, Repr

/-- A link before it has trained (20 R421, R430). -/
def Link.reset : Link :=
  { state := .training, half := none, upper := false, failed := none, peer := 0, replays := 0, retrains := 0, seq := 0,
    buffer := [], again := [], expected := 0, got := false, asked := false, askNow := false, owed := 0, ackBy := none, out := [], partly := [],
    away := [], sent := 0, period := 0, wire := [] }

/-- The snapshot before the first rewrite (20 R425, R430). -/
def Snap.reset : Snap :=
  { seq := 0, stamp := 0, state := 0, dev := 0, drains := 0, logidx := 0, feat := 0, floor := 1440, cores := [],
    agents := [], links := [], ports := [], log := [] }

/-- The machine right after device reset. -/
def State.reset : State :=
  { mem := [], poison := [], soft := [], rtime := 0, devNum := 0, cores := [], msgs := [], behind := [], flights := [], asids := [],
    pins := [], queues := [], launches := [], ridges := [], log := [], logCount := 0, routes := [], saddleAt := 0,
    farCap := [], farKeys := [], portsDown := [], lockstep := 0, devState := 0, feat := 0, modes := 0, drain := 0,
    floor := 1440, shareNow := (1440, 0), shareWas := (1440, 0), capSeq := none, cap := none, debugAsid := none, pacia := [], rung := [], assist := [], assistCount := [],
    snap := Snap.reset, links := List.replicate 6 Link.reset, eth := List.replicate 8 false, hostAnswer := .none, rdmas := [], jobs := [], cairns := [],
    preImages := [], migrations := [], turns := [], reports := [], fw := ⟨0, none, 0⟩, agenda := [], due := [],
    opened := false, fresh := 0 }

end Sys2Proof.Machine
end

