-- ==== Sys2Proof/Machine/Ops.lean ====
section
/-! DEFINITION. The named operations over cores, threads, registers and memory, and taking a trap. -/

namespace Sys2Proof.Machine
open Sys2Proof

/-! ### Sparse tables -/

/-- Set a key of a table kept in rising order of key. -/
def assocSet {α : Type} : List (Nat × α) → Nat → α → List (Nat × α)
  | [], n, a => [(n, a)]
  | (m, b) :: rest, n, a =>
    if n < m then (n, a) :: (m, b) :: rest
    else if n = m then (n, a) :: rest
    else (m, b) :: assocSet rest n a

/-- The value of a key. -/
def assocGet {α : Type} : List (Nat × α) → Nat → Option α
  | [], _ => none
  | (m, b) :: rest, n => if n = m then some b else assocGet rest n

/-- Set a key of an unordered table, appending a new key. -/
def tblSet {κ α : Type} [DecidableEq κ] : List (κ × α) → κ → α → List (κ × α)
  | [], n, a => [(n, a)]
  | (m, b) :: rest, n, a => if n = m then (n, a) :: rest else (m, b) :: tblSet rest n a

/-- The value of a key of an unordered table. -/
def tblGet {κ α : Type} [DecidableEq κ] : List (κ × α) → κ → Option α
  | [], _ => none
  | (m, b) :: rest, n => if n = m then some b else tblGet rest n

/-- Replace the first element that satisfies p. -/
def replaceFirst {α : Type} (p : α → Bool) (f : α → α) : List α → List α
  | [] => []
  | a :: rest => if p a then f a :: rest else a :: replaceFirst p f rest

/-- Apply f to every element of a vector. -/
def vecMap {α β : Type} {n : Nat} (f : α → β) (v : Vector α n) : Vector β n :=
  ⟨⟨v.toList.map f⟩, by simp⟩
/-- Some element of a vector satisfies p. -/
def vecAny {α : Type} {n : Nat} (p : α → Bool) (v : Vector α n) : Bool := v.toList.any p

/-- A core's state (a core that is not listed is as at reset). -/
def State.core (s : State) (c : Nat) : Core := (assocGet s.cores c).getD (Core.resetAt c s.rtime)
/-- Replace a core's state. -/
def State.setCore (s : State) (c : Nat) (k : Core) : State := { s with cores := assocSet s.cores c k }
/-- Change a core's state. -/
def State.modCore (s : State) (c : Nat) (f : Core → Core) : State := s.setCore c (f (s.core c))
/-- A slot's thread. -/
def Core.thread (k : Core) (sl : Nat) : Thread := (k.threads[sl]?).getD Thread.reset
/-- Replace a slot's thread. -/
def Core.setThread (k : Core) (sl : Nat) (t : Thread) : Core := { k with threads := k.threads.setIfInBounds sl t }
/-- A slot's thread on a core. -/
def State.thr (s : State) (c sl : Nat) : Thread := (s.core c).thread sl
/-- Replace a slot's thread on a core. -/
def State.setThr (s : State) (c sl : Nat) (t : Thread) : State := s.modCore c (fun k => k.setThread sl t)
/-- Change a slot's thread on a core. -/
def State.modThr (s : State) (c sl : Nat) (f : Thread → Thread) : State := s.setThr c sl (f (s.thr c sl))
/-- The core cycle count of a core (09 R203). -/
def State.now (s : State) (c : Nat) : Nat := (s.core c).cycle
/-- A fresh name. -/
def State.name (s : State) : Nat × State := (s.fresh, { s with fresh := s.fresh + 1 })

/-- The core an instruction issues on: the first core with a cycle in this router cycle. -/
def State.curCore (s : State) : Nat := s.due.headD 0
/-- The slot whose issue opportunity the current cycle is (17 R339). -/
def State.curSlot (s : State) : Nat := s.now s.curCore % 16

/-- The ridge instance a core holds (17 R338). -/
def State.ridge? (s : State) (c : Nat) : Option Ridge :=
  match (s.core c).ridge with
  | none => none
  | some r => s.ridges.find? (fun x => x.id == r)
/-- Change a ridge instance. -/
def State.modRidge (s : State) (r : Nat) (f : Ridge → Ridge) : State :=
  { s with ridges := replaceFirst (fun x => x.id == r) f s.ridges }
/-- The ASID of the core's launch, 0 where it holds none (17 R360). -/
def State.asidOf (s : State) (c : Nat) : Nat := match s.ridge? c with | some r => r.asid | none => 0
/-- The kernel header of the core's ridge. -/
def State.header? (s : State) (c : Nat) : Option Header := (s.ridge? c).map (·.header)
/-- Registers declared: g1 to gn (02 R39). -/
def State.gDecl (s : State) (c : Nat) : Nat := match s.header? c with | some h => h.regs | none => 0
/-- Vector registers declared: v0 to v(n-1) (02 R39). -/
def State.vDecl (s : State) (c : Nat) : Nat := match s.header? c with | some h => h.vregs | none => 0
/-- The crew size. -/
def State.crew (s : State) (c : Nat) : Nat := match s.header? c with | some h => h.crew | none => 0
/-- The code size. -/
def State.codeSize (s : State) (c : Nat) : Nat := match s.header? c with | some h => h.codeSize | none => 0

/-- Column and row of a core on the device (00 R7). -/
def coreX (c : Nat) : Nat := c % 32
def coreY (c : Nat) : Nat := c / 32
/-- The massif of a core: 16×16 quarters (01 R15). -/
def massif (c : Nat) : Nat := coreX c / 16 + 2 * (coreY c / 16)
/-- Hops and massif boundaries between two cores along X then Y (14 R273). -/
def hops (a b : Nat) : Nat :=
  (coreX a - coreX b) + (coreX b - coreX a) + (coreY a - coreY b) + (coreY b - coreY a)
/-- Massif boundaries crossed along X then Y. -/
def xings (a b : Nat) : Nat :=
  (if coreX a / 16 ≠ coreX b / 16 then 1 else 0) + (if coreY a / 16 ≠ coreY b / 16 then 1 else 0)
/-- The core whose router far agent j attaches to (03 R51). -/
def agentCore (j : Nat) : Nat :=
  ([0 + 32 * 4, 0 + 32 * 11, 4, 11, 31 + 32 * 4, 31 + 32 * 11, 27, 20, 32 * 20, 32 * 27, 4 + 32 * 31, 11 + 32 * 31,
    31 + 32 * 20, 31 + 32 * 27, 27 + 32 * 31, 20 + 32 * 31][j]?).getD 0
/-- The core at whose router a home's messages arrive. -/
def routerOf (home : Nat) : Nat := if home < 1024 then home else agentCore (home - 1024)
/-- The cores of a ridge instance, row-major. -/
def Ridge.cores (r : Ridge) : List Nat :=
  (List.range r.h).flatMap (fun j => (List.range r.w).map (fun i => (r.y + j) * 32 + (r.x + i)))
/-- The core at a column and row of the ridge. -/
def Ridge.coreAt (r : Ridge) (col row : Nat) : Nat := (r.y + row) * 32 + (r.x + col)

/-! ### Bytes of memory (04 R64, 06 R109; log 1) -/

/-- The key of a byte: home × 2^42 + offset. -/
def key (home off : Nat) : Nat := home * Config.homeSpan + off % Config.homeSpan

/-- What a byte that nothing has written reads as (log 1). -/
def unlisted : Byte := 0

/-- Read a byte of the canonical list. -/
def memGet : List Host.Cell → Nat → Byte
  | [], _ => unlisted
  | (k, b) :: rest, n => if n = k then b else if n < k then unlisted else memGet rest n

/-- Write a byte, keeping the list in rising order without entries equal to the unlisted value. -/
def memSet : List Host.Cell → Nat → Byte → List Host.Cell
  | [], n, v => if v = unlisted then [] else [(n, v)]
  | (k, b) :: rest, n, v =>
    if n < k then (if v = unlisted then (k, b) :: rest else (n, v) :: (k, b) :: rest)
    else if n = k then (if v = unlisted then rest else (k, v) :: rest)
    else (k, b) :: memSet rest n v

/-- The canonical form: keys strictly rising, no entry equal to the unlisted value. -/
def memWf : List Host.Cell → Bool
  | [] => true
  | [(_, b)] => b != unlisted
  | (k, b) :: (k', b') :: rest => b != unlisted && k < k' && memWf ((k', b') :: rest)

/-- The canonical form of the state's memory holds. -/
def Memory.wf (m : List Host.Cell) : Bool := memWf m

/-- A byte of a home. -/
def State.byte (s : State) (home off : Nat) : Byte := memGet s.mem (key home off)
/-- Write a byte of a home. -/
def State.setByte (s : State) (home off : Nat) (b : Byte) : State := { s with mem := memSet s.mem (key home off) b }
/-- n bytes from an offset, lowest first. -/
def State.bytes (s : State) (home off : Nat) : Nat → List Byte
  | 0 => []
  | n + 1 => s.byte home off :: s.bytes home (off + 1) n
/-- Write bytes from an offset. -/
def State.setBytes (s : State) (home off : Nat) : List Byte → State
  | [] => s
  | b :: rest => (s.setByte home off b).setBytes home (off + 1) rest

/-- The little-endian value of bytes (00 R4). -/
def leNat : List Byte → Nat
  | [] => 0
  | b :: rest => b.toNat + 256 * leNat rest
/-- The little-endian field of n bytes at an offset of a record. -/
def field (bs : List Byte) (off n : Nat) : Nat := leNat ((bs.drop off).take n)
/-- The 64-bit field at an offset of a record. -/
def fieldW (bs : List Byte) (off : Nat) : Word := BitVec.ofNat 64 (field bs off 8)
/-- The n low bytes of a value, little-endian. -/
def leBytes (x : Nat) : Nat → List Byte
  | 0 => []
  | n + 1 => BitVec.ofNat 8 x :: leBytes (x / 256) n
/-- A 64-bit little-endian read of n ≤ 8 bytes, zero-extended. -/
def State.readW (s : State) (home off n : Nat) : Word := BitVec.ofNat 64 (leNat (s.bytes home off n))

/-! ### Poison by 64-byte unit (04 R78, 06 R113) -/

/-- Insert into a rising list. -/
def sinsert : List Nat → Nat → List Nat
  | [], n => [n]
  | m :: rest, n => if n < m then n :: m :: rest else if n = m then m :: rest else m :: sinsert rest n
/-- The unit of a byte. -/
def unit (home off : Nat) : Nat := key home off / 64
/-- Some byte of the n from off is poisoned. -/
def State.poisoned (s : State) (home off n : Nat) : Bool :=
  s.poison.any (fun u => unit home off ≤ u && u ≤ unit home (off + n - 1) && 0 < n)
/-- Mark the unit of a byte poisoned. -/
def State.mark (s : State) (home off : Nat) : State := { s with poison := sinsert s.poison (unit home off) }
/-- The code of some sectors of a block is written anew: errors in their CRC fields are gone (03 R54; 04 R77). -/
def Soft.recode (p : Nat → Bool) (e : Soft) : Soft :=
  if e.parity = 3 then
    { e with flip := (List.range 4).foldl (fun v i => if p (e.unit / 4 * 4 + i) then v &&& ~~~((0xFFFF#512) <<< (16 * i)) else v) e.flip }
  else e
/-- A write of n bytes clears the poison of every unit it covers wholly, and the errors in it and in its code (04 R77, R78; 06 R113). -/
def State.clearCovered (s : State) (home off n : Nat) : State :=
  let whole (u : Nat) : Bool := key home off ≤ u * 64 && u * 64 + 64 ≤ key home off + n
  { s with
    poison := s.poison.filter (fun u => !whole u)
    soft := (s.soft.filter (fun e => e.parity != 0 || !whole e.unit)).map (Soft.recode whole) }

/-- The offset by which the model names the 64 bytes of cell k, which lie outside the vault's addresses (15 R297; log 109). -/
def cellOff (k : Nat) : Nat := 2 ^ 41 + ((k / 1024 * 32 + k % 32) * 2048 + k / 32 % 32 * 64)
/-- An offset names bytes of a cell. -/
def inCells (off : Nat) : Bool := 2 ^ 41 ≤ off && off < 2 ^ 41 + 2 ^ 20
/-- The cell that an offset names. -/
def cellAt (off : Nat) : Nat :=
  let row := (off - 2 ^ 41) / 2048
  row / 32 * 1024 + off % 2048 / 64 * 32 + row % 32

/-- A unit is written whole: its errors and those of its code are gone. -/
def State.unitRewritten (s : State) (u : Nat) : State :=
  { s with soft := (s.soft.filter (fun e => e.parity != 0 || e.unit != u)).map (Soft.recode (· == u)) }

/-- The 4 KiB granule of a scratchpad offset. -/
def granule (off : Nat) : Nat := (off - Config.scratchBase) / 4096
/-- A write to declared scratchpad sets the dirty bit of every granule it touches (18 R389). -/
def State.dirtied (s : State) (home off n : Nat) : State :=
  if home < 1024 ∧ Config.scratchBase ≤ off ∧ 0 < n then
    s.modCore home (fun k => { k with
      dirty := (List.range (granule (off + n - 1) + 1 - granule off)).foldl (fun d i => sinsert d (granule off + i)) k.dirty })
  else s

/-- The scratchpad bytes that a write is about to change are kept as they stood before the cycle (16 R315). -/
def State.keepOld (s : State) (home off n : Nat) : State :=
  if home < 1024 ∧ Config.scratchBase ≤ off then
    s.modCore home (fun k => { k with
      old := k.old ++ (((List.range n).map (off + ·)).filter (fun o => !k.old.any (fun x => x.1 == o))).map (fun o =>
        (o, s.byte home o, s.poisoned home o 1)) })
  else s
/-- The state whose scratchpad holds what it held before the current cycle: a read returns what a write of the same cycle is still to
change (16 R315). -/
def State.before (s : State) (c : Nat) : State :=
  (s.core c).old.foldl (fun s x => { s with
    mem := memSet s.mem (key c x.1) x.2.1
    poison := if x.2.2 then sinsert s.poison (unit c x.1) else s.poison.filter (· != unit c x.1) }) s

/-- A write of bytes performed at a home: bytes, poison of whole units, dirty granules. -/
def State.writeAt (s : State) (home off : Nat) (bs : List Byte) : State :=
  (((s.keepOld home off bs.length).setBytes home off bs).clearCovered home off bs.length).dirtied home off bs.length

/-! ### Fault codes (18 R370-R372) -/

/-- Base codes of R371. -/
def cFarCorrected : BitVec 16 := 0x0100
def cVaultCorrected : BitVec 16 := 0x0200
def cScratchCorrected : BitVec 16 := 0x0300
def cRepairExhausted : BitVec 16 := 0x0400
def cFreqFloor : BitVec 16 := 0x0500
def cLinkDegraded : BitVec 16 := 0x0600
def cRegionRestart : BitVec 16 := 0x2100
def cTimingReplay : BitVec 16 := 0x2200
def cCellStoreFull : BitVec 16 := 0x4100
def cVaultThermal : BitVec 16 := 0x6100
def cUncorrectable : BitVec 16 := 0x6200
def cFarPortDown : BitVec 16 := 0x6300
def cResumeCapacity : BitVec 16 := 0x6400
def cPoisonConsumed : BitVec 16 := 0x6500
def cRedundancyMismatch : BitVec 16 := 0x6600
def cTimingPersistent : BitVec 16 := 0x6700
def cLinkDown : BitVec 16 := 0x6800
def cRestartLimit : BitVec 16 := 0x8100
def cIllegalInstruction : BitVec 16 := 0xA100
def cIllegalRegister : BitVec 16 := 0xA300
def cRegisterEmpty : BitVec 16 := 0xA400
def cNonlocal : BitVec 16 := 0xA500
def cMisaligned : BitVec 16 := 0xA600
def cLeaseMiss : BitVec 16 := 0xA700
def cScratchBound : BitVec 16 := 0xA800
def cCodeRange : BitVec 16 := 0xA900
def cFarRange : BitVec 16 := 0xAA00
def cBarrierRange : BitVec 16 := 0xAB00
def cBarrierForm : BitVec 16 := 0xAC00
def cRingRange : BitVec 16 := 0xAD00
def cRingForm : BitVec 16 := 0xAE00
def cCopyForm : BitVec 16 := 0xAF00
def cPortEdge : BitVec 16 := 0xB000
def cPortForm : BitVec 16 := 0xB100
def cSpawnForm : BitVec 16 := 0xB200
def cVectorIndex : BitVec 16 := 0xB300
def cNarrowRange : BitVec 16 := 0xB400
def cMatrixForm : BitVec 16 := 0xB500
def cGeomNonfinite : BitVec 16 := 0xB600
def cGeomForm : BitVec 16 := 0xB700
def cBitstreamForm : BitVec 16 := 0xB800
def cBitstreamEnd : BitVec 16 := 0xB840
def cBitstreamCode : BitVec 16 := 0xB880
def cHandlerBlock : BitVec 16 := 0xB900
def cRemoteForm : BitVec 16 := 0xBA00
def cRemoteTarget : BitVec 16 := 0xBB00
def cCtxForm : BitVec 16 := 0xBC00
def cCtxSealed : BitVec 16 := 0xBC40
def cCtxRetired : BitVec 16 := 0xBC80
def cLaunchForm : BitVec 16 := 0xBD00
def cSoftTrap : BitVec 16 := 0xBE00
def cIntegrity : BitVec 16 := 0xC100
def cDeviceLost : BitVec 16 := 0xE100

/-- A base code with a detail. -/
def det (base : BitVec 16) (d : Nat) : BitVec 16 := base ||| BitVec.ofNat 16 (d % 256)
/-- The grade of a code (18 R370). -/
def grade (code : BitVec 16) : Nat := code.toNat / 8192

/-! ### Trace and comparators (19 R400, R405-R407) -/

/-- An event of this cycle for the trace, kept only while the trigger unit is on. -/
def State.trace (s : State) (c sl kind : Nat) (pc : Word) (pay : List Byte) : State :=
  if (s.core c).dbg.trgctl.getLsbD 63 then
    s.modCore c (fun k => { k with dbg := { k.dbg with events := k.dbg.events ++ [⟨sl, kind, pc, pay⟩] } })
  else s

/-- Comparator n matches: enabled, of the kind, for the slot (kind 4 ignores it), at a value under a mask (19 R400). -/
def bkptHit (w : Word) (kind sl : Nat) (value mask : Nat) : Bool :=
  w.getLsbD 63 && (w.extractLsb' 60 3).toNat == kind && (kind == 4 || w.getLsbD (44 + sl)) &&
    ((w.extractLsb' 0 42).toNat &&& mask) == (value &&& mask)

/-- The comparators that match. -/
def Debug.hits (d : Debug) (kind sl value mask : Nat) : List Nat :=
  (List.range 8).filter (fun n => bkptHit ((d.bkpt[n]?).getD 0) kind sl value mask)

/-- Matches are offered to the trigger unit (19 R400, R405). -/
def Debug.offer (d : Debug) (ns : List Nat) : Debug :=
  { d with
    startNow := d.startNow || (d.trgctl.getLsbD 63 && ns.any (fun n => ((d.bkpt[n]?).getD 0).getLsbD 42 && d.trgctl.getLsbD n))
    stopNow := d.stopNow || (d.trgctl.getLsbD 63 && ns.any (fun n => ((d.bkpt[n]?).getD 0).getLsbD 42 && d.trgctl.getLsbD (8 + n))) }

/-- Matches of one kind at a slot, offered to the trigger unit. -/
def State.offer (s : State) (c : Nat) (ns : List Nat) : State :=
  if ns.isEmpty then s else s.modCore c (fun k => { k with dbg := k.dbg.offer ns })

/-- A fault code is delivered to a thread or recorded for the core (19 R400 kind 3). -/
def State.offerFault (s : State) (c sl : Nat) (code : BitVec 16) : State :=
  s.offer c ((s.core c).dbg.hits 3 sl code.toNat 0xFFFF)

/-! ### The fault log and the end of an instance (18 R370-R374) -/

/-- Enter a record or a trap of an instance into the fault log (18 R373). -/
def State.recordFor (s : State) (asid inst c sl : Nat) (code : BitVec 16) (addr : Word) (late nested : Bool) (tpc : Word) : State :=
  let t := s.thr c sl
  let s := s.offerFault c sl code
  { s with
    log := s.log ++ [{ addr := addr, code := code, asid := asid,
                       who := BitVec.ofNat 8 (sl + (if late then 16 else 0) + (if nested then 32 else 0)
                         + (if (s.core c).redundant && sl < 12 then 64 else 0)),
                       restarts := (t.iep.extractLsb' 36 4).toNat, core := c, stamp := s.rtime,
                       tpc := tpc.setWidth 32, inst := inst }]
    logCount := s.logCount + 1 }
/-- Enter a record or a trap of the core's own instance into the fault log (18 R373). -/
def State.record (s : State) (c sl : Nat) (code : BitVec 16) (addr : Word) (late nested : Bool) (tpc : Word) : State :=
  s.recordFor (s.asidOf c) (match s.ridge? c with | some r => r.inst | none => 0) c sl code addr late nested tpc

/-- a is before b in the order of R374: stamp, core, slot. -/
def firstFault (a b : Nat × Nat × Nat × BitVec 16) : Bool :=
  a.1 < b.1 || (a.1 == b.1 && (a.2.1 < b.2.1 || (a.2.1 == b.2.1 && a.2.2.1 < b.2.2.1)))

/-- End a ridge instance with a fault (18 R370, R374; 17 R350): it enters ending; the first fault is kept. -/
def State.endRidge (s : State) (r : Nat) (c sl : Nat) (code : BitVec 16) : State :=
  s.modRidge r (fun x =>
    let f := (s.rtime, c, sl, code)
    { x with
      state := match x.state with | .ended => .ended | _ => .ending
      fault := match x.fault with
        | none => some f
        | some g => if firstFault f g then some f else some g })

/-- What the supervisor does with a code by its grade (18 R370): G0 and G1 go on; G2 to G5 end the task; G6 also marks
the ASID suspect; G7 ends every instance. -/
def State.actByGrade (s : State) (c sl : Nat) (code : BitVec 16) : State :=
  let s := if grade code = 6 then
      { s with asids := replaceFirst (fun a => a.id == s.asidOf c) (fun a => { a with suspect := true }) s.asids }
    else s
  if grade code ≤ 1 then s
  else if grade code = 7 then
    { s with ridges := s.ridges.map (fun x =>
        { x with state := match x.state with | .ended => .ended | _ => .ending
                 fault := match x.fault with | none => some (s.rtime, c, sl, code) | some g => some g }) }
  else match (s.core c).ridge with
    | some r => s.endRidge r c sl code
    | none => s

/-! ### Taking a trap (18 R375-R377) -/

/-- NARROW_RANGE, GEOM_NONFINITE and SOFT_TRAP may go to the kernel's handler (18 R375). -/
def userCode (code : BitVec 16) : Bool :=
  code &&& 0xFF00 == cNarrowRange || code &&& 0xFF00 == cGeomNonfinite || code &&& 0xFF00 == cSoftTrap

/-- tcause (18 R376). -/
def causeWord (code : BitVec 16) (late nested : Bool) (issued : Nat) : Word :=
  BitVec.ofNat 64 (code.toNat + (if nested then 2 ^ 34 else 0) + (if late then 2 ^ 35 else 0) + 2 ^ 36 * (issued % 16))

/-- The accumulator claims of a slot clear: its thread traps, is stopped by debug, is pre-empted or ends (11 R228). -/
def Core.dropClaims (k : Core) (sl : Nat) : Core :=
  { k with accs := vecMap (fun a => if a.claimant == some sl then { a with claimant := none } else a) k.accs }

/-- A member that a SPAWN has claimed, or its pair, is dormant again (07 R157). -/
def State.unhold (s : State) (c member : Nat) : State :=
  (if (s.core c).redundant && member < 12 then [member / 2 * 2, member / 2 * 2 + 1] else [member]).foldl (fun s x =>
    s.modThr c x (fun t => match t.life with | .claimed => { t with life := .dormant } | _ => t)) s

/-- iep at user-handler entry: held from valid, valid clear (18 R382). -/
def iepSuspend (w : Word) : Word :=
  (w &&& ~~~(0x500000000#64)) ||| (if w.getLsbD 32 then 0x400000000#64 else 0)
/-- iep at TRET: valid from held, held clear (18 R382). -/
def iepRestore (w : Word) : Word :=
  (w &&& ~~~(0x500000000#64)) ||| (if w.getLsbD 34 then 0x100000000#64 else 0)

/-- The offset of the kernel's user trap handler, if the header declares one (18 R375). -/
def State.trapEntry? (s : State) (c : Nat) : Option Nat :=
  match s.header? c with | some h => h.trapEntry | none => none

/-- Taking a trap: tpc, tcause and tinfo are written; NARROW_RANGE, GEOM_NONFINITE and SOFT_TRAP enter the kernel's
handler when one is declared and none is running; every other trap goes to the supervisor, which logs it and acts by its
grade (18 R375-R377). -/
def State.takeTrap (s : State) (c sl : Nat) (code : BitVec 16) (info addr pc : Word) (late : Bool) (issued : Nat) :
    State :=
  let nested := (s.thr c sl).handler
  let s := (s.modCore c (fun k => k.dropClaims sl)).trace c sl 4 (pc &&& 0xFFFFFFFF#64)
    (leBytes code.toNat 8 ++ leBytes info.toNat 8)
  let s := s.modThr c sl (fun t =>
    { t with seen := false, parkSeen := false, skipAt := none, replays := 0, replayNext := false, tpc := pc &&& 0xFFFFFFFF#64, tcause := causeWord code late nested issued, tinfo := info })
  match (if userCode code && !nested && !late then s.trapEntry? c else none) with
  | some e =>
    (s.offerFault c sl code).modThr c sl (fun t => { t with iep := iepSuspend t.iep, handler := true, pc := BitVec.ofNat 64 e })
  | none =>
    let s := s.record c sl code addr late nested pc
    s.actByGrade c sl code

/-- Returning from the user trap handler: the handler state clears and the suspended region is restored (18 R380); the
thread goes on at `returnPc`. -/
def State.trapReturn (s : State) (c sl : Nat) : State :=
  s.modThr c sl (fun t => { t with handler := false, iep := iepRestore t.iep })
/-- Where a return from the user trap handler goes: tpc.pc (18 R380). -/
def Thread.returnPc (t : Thread) : Word := t.tpc &&& 0xFFFFFFFF#64

end Sys2Proof.Machine
end

