-- ==== Sys2Proof/Machine/Access.lean ====
section
/-! DEFINITION. Local accesses: the checks of 04 R66, tagged lines (15 R293-R298), reading with the thread's own posted
stores (04 R80), performing a write at its home and waking the counters it changes (05 R107). -/

namespace Sys2Proof.Machine
open Sys2Proof

/-- ea lies in the vault (04 R64). -/
def inVault (ea : Nat) : Bool := ea < Config.vaultBytes
/-- ea lies in the scratchpad (04 R64). -/
def inScratch (ea : Nat) : Bool := Config.scratchBase ≤ ea && ea < Config.scratchBase + Config.scratchBytes

/-- The header window that holds all n bytes. -/
def Core.window? (k : Core) (ea n : Nat) : Option Window :=
  k.windows.find? (fun w => w.base ≤ ea && ea + n ≤ w.base + w.len)

/-- The checks of R66 in order: the fault code of the first that fails.  row: row control. -/
def Core.check (k : Core) (ea : Word) (n align : Nat) (rd wr row : Bool) : Option (BitVec 16) :=
  let a := ea.toNat
  if a ≥ Config.homeSpan then some (det cNonlocal 0)
  else if align ≠ 0 ∧ a % align ≠ 0 then some (det cMisaligned n)
  else if inScratch a then
    if a + n > Config.scratchBase + k.scratch then some (det cScratchBound 0) else none
  else if inVault a then
    match k.window? a n with
    | none => some (det cLeaseMiss 1)
    | some w =>
      if rd && !w.read then some (det cLeaseMiss 5)
      else if row && !w.read && !w.write then some (det cLeaseMiss 5)
      else if wr && !w.write then some (det cLeaseMiss 4)
      else if k.therm = 3 then some (det cVaultThermal 1)
      else none
  else some (det cLeaseMiss 2)

/-- R66 for an access of n bytes, naturally aligned. -/
def State.checkAt (s : State) (c : Nat) (ea : Word) (n : Nat) (rd wr : Bool) : Option (BitVec 16) :=
  (s.core c).check ea n n rd wr false

/-! ### Tagged lines (15 R293-R297) -/

/-- The page of an ASID that maps an offset of a home. -/
def Asid.pageOf (a : Asid) (home off : Nat) : Option Page :=
  a.pages.find? (fun p => p.home == home && p.off ≤ off && off < p.off + p.bytes)

/-- The tag map of the core marks the 64 KiB part of the offset as tagged (15 R293). -/
def State.taggedPage (s : State) (c off : Nat) : Bool :=
  match s.asids.find? (fun a => a.id == s.asidOf c) with
  | some a => match a.pageOf c off with | some p => p.tagged && inVault off | none => false
  | none => false

/-- The vault offset of the line of an offset. -/
def lineOf (off : Nat) : Nat := off / 64 * 64

/-- T's cell of a line in the core's directory (15 R294). -/
def Core.cell? (k : Core) (domain line : Nat) (tag : BitVec 16) : Option Cell :=
  k.cells.find? (fun x => x.line == line && x.domain == domain && x.tag == tag)

/-- The thread is a user handler whose tag belongs to another ridge instance: its reads return the base (15 R296). -/
def Thread.foreign (t : Thread) : Bool := t.ctx != 0 && (match t.invocation with | some v => v.foreign | none => false)
/-- The tag that a thread's accesses to its own core carry (15 R296). -/
def Thread.tag (t : Thread) : BitVec 16 := if t.foreign then 0 else t.ctx

/-- The tag domain of the core: its ridge (15 R299). -/
def State.domain (s : State) (c : Nat) : Nat := ((s.core c).ridge).getD 0

/-- The state of a tag in the core's tag table (15 R299). -/
def Core.tagState (k : Core) (tag : BitVec 16) : TagState := (tblGet k.tags tag).getD .free

/-- Byte i of a 512-bit line or vector. -/
def vbyte (v : Vec) (i : Nat) : Byte := v.extractLsb' (8 * i) 8

/-- A byte of a local offset as a tag sees it, with its poison (15 R294). -/
def State.taggedByte (s : State) (c off : Nat) (tag : BitVec 16) : Byte × Bool :=
  let base := (s.byte c off, s.poisoned c off 1)
  if tag = 0 || !s.taggedPage c off then base
  else match (s.core c).cell? (s.domain c) (lineOf off) tag with
    | some x => (vbyte x.bytes (off % 64), x.poison)
    | none => base

/-- Eight bytes at a local offset as a tag sees them, and whether any is poisoned. -/
def State.tagged8 (s : State) (c off : Nat) (tag : BitVec 16) : Word × Bool :=
  let bs := (List.range 8).map (fun i => s.taggedByte c (off + i) tag)
  (BitVec.ofNat 64 (leNat (bs.map (·.1))), bs.any (·.2))

/-- The byte that a posted store of the thread holds for an offset, among those with a tag (all of them for none), newest first,
and whether its write covers the whole line (04 R78, R80). -/
def psqByte (off : Nat) (tag : Option (BitVec 16)) : List Posted → Option (Byte × Bool)
  | [] => none
  | e :: older =>
    let here := e.parts.foldl (fun acc (a, n, v) =>
      if a.toNat ≤ off && off < a.toNat + n then some (vbyte v (off - a.toNat), n == 64 && a.toNat % 64 == 0) else acc) none
    match (if tag.all (fun t => e.tag == t) then here else none) with
    | some b => some b
    | none => psqByte off tag older

/-- The thread's own posted byte, none of an abandoned handler's (16 R316), that a read under a tag sees (04 R80): on a tagged line a store with the tag, or, while the tag
has no cell of the line, one to the base (15 R294). -/
def State.ownByte (s : State) (c sl off : Nat) (tag : BitVec 16) : Option (Byte × Bool) :=
  let q := ((s.thr c sl).psq.filter (fun e => !e.left)).reverse
  if s.taggedPage c off then
    match psqByte off (some tag) q with
    | some b => some b
    | none => if tag != 0 && ((s.core c).cell? (s.domain c) (lineOf off) tag).isNone then psqByte off (some 0) q else none
  else psqByte off none q

/-- Of 32 bytes that a tile load has filled in part, a byte as it was before the fill (06 R118). -/
def Core.beforeFill (k : Core) (off : Nat) : Option (Byte × Bool) :=
  if inScratch off then
    k.xfers.findSome? (fun x =>
      let r := (k.rings[x.ring]?).getD Ring.reset
      let base := r.base.toNat + x.rslot * r.size * 64
      if x.store then none
      else x.held.findSome? (fun h =>
        if base + 32 * h.word ≤ off && off < base + 32 * h.word + 32 then some (vbyte h.val (off - (base + 32 * h.word)), h.poison) else none))
  else none
/-- A byte of a local offset as a load of a thread sees it, its own posted stores left aside: 32 bytes of a ring slot that a tile load
has filled in part are seen as they were before the fill (06 R118; 15 R294). -/
def State.seenByte (s : State) (c off : Nat) (tag : BitVec 16) : Byte × Bool :=
  ((s.core c).beforeFill off).getD (s.taggedByte c off tag)

/-- n bytes at a local offset as the thread's own load sees them, lowest first, with poison (04 R78, R80): a forwarded byte
carries the poison of the line it will be merged into. -/
def State.loadBytes (s : State) (c sl off : Nat) (tag : BitVec 16) : Nat → List (Byte × Bool)
  | 0 => []
  | n + 1 =>
    (match s.ownByte c sl off tag with
     | some (b, whole) => (b, !whole && (s.taggedByte c off tag).2)
     | none => s.seenByte c off tag) :: s.loadBytes c sl (off + 1) tag n

/-- The little-endian value of a load, and whether any byte is poisoned. -/
def State.load (s : State) (c sl off n : Nat) (tag : BitVec 16) : Nat × Bool :=
  let bs := s.loadBytes c sl off tag n
  (leNat (bs.map (·.1)), bs.any (·.2))

/-- Why a tagged write is refused, if it is (15 R295). -/
def State.tagRefusal (s : State) (c off : Nat) (tag : BitVec 16) : Option (BitVec 16) :=
  if tag = 0 || !s.taggedPage c off then none
  else
    let k := s.core c
    match k.tagState tag with
    | .free => some (det cCtxRetired 1)
    | .sealed => some (det cCtxSealed 1)
    | .opened =>
      match k.cell? (s.domain c) (lineOf off) tag with
      | some x => if x.isSealed then some (det cCtxSealed 1) else none
      | none => none

/-- T has no cell of a line of a tagged page, so that a write with T takes a directory entry (15 R295). -/
def State.lacksCell (s : State) (c : Nat) (tag : BitVec 16) (off : Nat) : Bool :=
  tag != 0 && s.taggedPage c off && ((s.core c).cell? (s.domain c) (lineOf off) tag).isNone

/-- The writes of a thread that have been accepted and not yet performed: tag and offset (15 R295). -/
def Thread.acceptedWrites (t : Thread) : List (BitVec 16 × Nat) :=
  t.psq.flatMap (fun e => e.parts.map (fun x => (e.tag, x.1.toNat))) ++
    t.pend.filterMap (fun p => match p.kind with
      | .stl ea _ _ tag _ _ | .amo _ ea _ _ tag _ | .ctradd ea _ tag _ => if p.served then none else some (tag, ea.toNat)
      | _ => none)

/-- The directory entries that accepted writes of the core have taken before their cells are made: line and tag
(15 R295, R298). -/
def State.reservedCells (s : State) (c : Nat) : List (BitVec 16 × Nat) :=
  (((s.core c).threads.toList.flatMap Thread.acceptedWrites).filter (fun x => s.lacksCell c x.1 x.2)).map
    (fun x => (x.1, lineOf x.2)) |>.eraseDups

/-- A tagged write to some offsets needs more directory entries than are free (15 R298). -/
def State.directoryFull (s : State) (c : Nat) (tag : BitVec 16) (offs : List Nat) : Bool :=
  if tag = 0 then false
  else
    let held := s.reservedCells c
    let need := (((offs.filter (s.lacksCell c tag)).map lineOf).filter (fun l => !held.contains (tag, l))).eraseDups
    !need.isEmpty && 16384 < (s.core c).cells.length + held.length + need.length

/-- tinfo of a tag fault (15 R309). -/
def tagInfo (tag : BitVec 16) (home line : Nat) : Word :=
  BitVec.ofNat 64 (tag.toNat * 2 ^ 48 + home % 1024 * 2 ^ 30 + line % 2 ^ 30)

/-- The lowest directory number not in use (15 R297). -/
def freeCell (cells : List Cell) : Nat :=
  ((List.range (cells.length + 1)).find? (fun k => cells.all (fun x => x.k != k))).getD 0

/-- The 64 bytes of the base line as one value. -/
def State.baseLine (s : State) (c line : Nat) : Vec := BitVec.ofNat 512 (leNat (s.bytes c line 64))

/-- One byte into a CRC-64 with the ECMA-182 polynomial, most significant bit first (19 R414; log 31). -/
def crc64Bits : Nat → Word → Word
  | 0, w => w
  | n + 1, w => crc64Bits n (if w.getLsbD 63 then (w <<< 1) ^^^ 0x42F0E1EBA9EA3693#64 else w <<< 1)
/-- The CRC-64 of bytes, continuing from a value. -/
def crc64 : Word → List Byte → Word
  | w, [] => w
  | w, b :: rest => crc64 (crc64Bits 8 (w ^^^ (b.setWidth 64 <<< 56))) rest

/-- The 48-byte records of a write's 32-byte units (19 R414): offset, tag, zeros, byte enables, bytes. -/
def hashRecords (off : Nat) (tag : BitVec 16) (bs : List (Option Byte)) : List (List Byte) :=
  let u0 := off / 32
  let u1 := (off + bs.length - 1) / 32
  ((List.range (u1 + 1 - u0)).map (fun d =>
    let u := u0 + d
    (u, (List.range 32).map (fun i =>
      let a := 32 * u + i
      if off ≤ a then (bs[a - off]?).getD none else none)))).filterMap (fun (u, lanes) =>
    if lanes.all (·.isNone) then none
    else some (leBytes (if tag = 0 then 32 * u else u / 2 * 64) 8 ++ leBytes tag.toNat 2 ++ [0, 0] ++
      leBytes (lanes.zipIdx.foldl (fun acc (x, i) => if x.isSome then acc + 2 ^ i else acc) 0) 4 ++
      lanes.map (fun x => x.getD 0)))

/-- A window of the committed-store hash has ended when its successor's first record comes (19 R414). -/
def Core.rollHash (k : Core) (w : Nat) : Core :=
  if k.hashWindow = w then k
  else { k with rolled := k.rolled ++ [(k.hashWindow, k.hash, k.hashCount)], hashWindow := w, hash := 0, hashCount := 0 }
/-- The committed-store hash of the vault controller in lockstep mode (19 R414). -/
def State.hashed (s : State) (c off : Nat) (tag : BitVec 16) (bs : List (Option Byte)) : State :=
  if s.lockstep ≠ 0 && inVault off && !bs.isEmpty then
    s.modCore c (fun k0 =>
      let k := k0.rollHash ((k0.cycle - k0.startCycle) / 4096)
      { k with
        hash := (hashRecords off tag bs).foldl crc64 k.hash
        hashCount := k.hashCount + (hashRecords off tag bs).length })
  else s

/-- Make T's cell of a line from the base, if it is absent (15 R295 step 3): a write of the cell area, which enters the stream of 19
R414. -/
def State.materialise (s : State) (c line : Nat) (tag : BitVec 16) : State :=
  match (s.core c).cell? (s.domain c) line tag with
  | some _ => s
  | none =>
    ((s.hashed c line tag ((s.bytes c line 64).map some)).unitRewritten (unit c (cellOff (freeCell (s.core c).cells)))).modCore c (fun k => { k with
      cells := k.cells ++ [{ line := line, domain := s.domain c, tag := tag, isSealed := false, mask := 0,
                             k := freeCell k.cells, bytes := s.baseLine c line, poison := s.poisoned c line 64 }] })

/-- Replace byte i of a 512-bit value. -/
def setVbyte (v : Vec) (i : Nat) (b : Byte) : Vec :=
  (v &&& ~~~((0xFF#512) <<< (8 * i))) ||| ((b.setWidth 512) <<< (8 * i))

/-- A write of n bytes clears the poison of every cell line it covers wholly, and the errors in it (04 R77, R78). -/
def State.cellsCovered (s : State) (c off n : Nat) (tag : BitVec 16) : State :=
  let whole (x : Cell) : Bool := x.domain == s.domain c && x.tag == tag && off ≤ x.line && x.line + 64 ≤ off + n
  let s1 := ((s.core c).cells.filter whole).foldl (fun s x => s.unitRewritten (unit c (cellOff x.k))) s
  s1.modCore c (fun k => { k with cells := k.cells.map (fun x => if whole x then { x with poison := false } else x) })

/-- Write bytes into the cells of their lines (15 R295 step 4). -/
def State.cellBytes (s : State) (c off : Nat) (tag : BitVec 16) : List Byte → State
  | [] => s
  | b :: rest =>
    let s1 := s.materialise c (lineOf off) tag
    let s2 := s1.modCore c (fun k => { k with
      cells := replaceFirst (fun x => x.line == lineOf off && x.domain == s.domain c && x.tag == tag)
        (fun x => { x with bytes := setVbyte x.bytes (off % 64) b, mask := x.mask ||| (1#64 <<< (off % 64)) })
        k.cells })
    s2.cellBytes c (off + 1) tag rest

/-- The bytes lie in [a, a+n). -/
def touches (ea : Nat) (a n : Nat) : Bool := ea < a + n && a < ea + 8

/-- A pending CTRWAIT whose first look has been made, and has not satisfied it, looks at the value a write has left and, when satisfied,
is served: its completion follows (05 R107). -/
def wakeOne (s : State) (c a n : Nat) (p : Pend) : Pend :=
  match p.kind with
  | .ctrwait ea thr tag armed none =>
    let v := s.tagged8 c ea.toNat tag
    let waits := armed || p.got.any (fun g => !g.2.2 && g.2.1 < thr.toNat)
    if waits && touches ea.toNat a n && (thr.toNat ≤ v.1.toNat || v.2) then
      { p with kind := .ctrwait ea thr tag true (some v), due := s.now c + 1 }
    else p
  | _ => p

/-- Every pending CTRWAIT of the core looks at the bytes just written (05 R107). -/
def State.wake (s : State) (c a n : Nat) : State :=
  if vecAny (fun t => t.pend.any (fun p => match p.kind with | .ctrwait .. => true | _ => false)) (s.core c).threads then
    s.modCore c (fun k => { k with threads := vecMap (fun t => { t with pend := t.pend.map (wakeOne s c a n) }) k.threads })
  else s

/-! ### Cairn capture (19 R409, R410; log 41) -/

/-- The 64 KiB page of a byte of a home. -/
def pageKey (home off : Nat) : Nat := key home off / 65536
/-- The bytes of a 64 KiB page that are not 0, by offset. -/
def State.pageBytes (s : State) (page : Nat) : List (Nat × Byte) :=
  (s.mem.filter (fun x => x.1 / 65536 == page)).map (fun x => (x.1 % 65536, x.2))
/-- Router cycles of the hops of a message from one home to another (14 R273): 4 rc a hop and 16 rc a massif boundary (log 32). -/
def pathRc (src dst : Nat) : Nat := 4 * hops (routerOf src) (routerOf dst) + 16 * xings (routerOf src) (routerOf dst)
/-- The number of a party that is no core of the device, in captures and far records (log 51). -/
def noCore : Nat := 0xFFFF
/-- The number of the scheduler when it acts for a launch. -/
def launchActor (l : Nat) : Nat := noCore + 1 + l
/-- A party acts for a launch: a core of one of its instances, or the scheduler. -/
def State.inLaunch (s : State) (c l : Nat) : Bool :=
  if noCore < c then c == launchActor l else match s.ridge? c with | some r => r.launch == l | none => false
/-- A launch leases the page: an entry of its list pins it, or a window of one of its cores covers it, those that its saved instances
retain among them (17 R351). -/
def State.leasesPage (s : State) (l page home off : Nat) : Bool :=
  s.pins.any (fun p => p.launch == l && pageKey p.home p.off ≤ page && page ≤ pageKey p.home (p.off + p.bytes - 1)) ||
    (home < 1024 && s.inLaunch home l && (s.core home).windows.any (fun w => w.base ≤ off && off < w.base + w.len)) ||
    (home < 1024 && (s.core home).retained.any (fun x => x.2.base ≤ off && off < x.2.base + x.2.len &&
      s.ridges.any (fun r => r.id == x.1 && r.launch == l)))

/-- The pages that cairns of an ASID hold. -/
def State.pagesHeld (s : State) (asid : Nat) : Nat := ((s.cairns.filter (fun y => y.asid == asid)).map (fun y => y.pages.length)).foldl (· + ·) 0
/-- A page's pre-image reaches a cairn; a pool that cannot hold it ends the capture, and the cairn is incomplete (R410). -/
def State.capture (s : State) (k : Cairn) (page : Nat) : State :=
  let full : Bool := Config.cairnPages ≤ s.pagesHeld k.asid
  let new : Cairn := if full then { k with incomplete := true, live := false } else { k with pages := k.pages ++ [(page, s.pageBytes page)] }
  { s with
    cairns := replaceFirst (fun y => y.id == k.id) (fun _ => new) s.cairns
    preImages := if full then s.preImages.filter (fun y => y.cairn != k.id) else s.preImages }
/-- The captures that still lack a page which a party that acts for their launch is about to touch. -/
def State.lacking (s : State) (actor home off : Nat) : List Cairn :=
  if home < 1024 && !inVault off then []
  else s.cairns.filter (fun k => k.live && s.inLaunch actor k.launch && !k.pages.any (fun x => x.1 == pageKey home off))
/-- The pages of a home's pre-images that are lacking set out for their cairns: 512 cc of transfer, then the path to the agent that holds
the pool (R409; log 41). -/
def State.preBegin (s : State) (actor home off : Nat) : State :=
  let page := pageKey home off
  let mhz := if home < 1024 then max 1 (s.core home).freq else 1600
  let due := s.rtime + 512 * Config.routerMhz / mhz + pathRc home 1024
  let new := (s.lacking actor home off).filter (fun k => !s.preImages.any (fun x => x.cairn == k.id && x.page == page))
  { s with preImages := s.preImages ++ new.map (fun k => { cairn := k.id, page := page, due := due }) }

/-- One page touched on behalf of a party: a captured launch's own first touch takes the pre-image, for which an access at a bank or an
agent has waited; a write of another party to a page captured or leased makes the cairn open. -/
def State.touchPage (s : State) (actor home off : Nat) (wr : Bool) (k : Cairn) : State :=
  let page := pageKey home off
  let held := k.pages.any (fun x => x.1 == page) || s.preImages.any (fun x => x.cairn == k.id && x.page == page)
  if s.inLaunch actor k.launch then
    if held || k.incomplete then s else s.capture k page
  else if wr && (held || s.leasesPage k.launch page home off) then
    let mark (x : Cairn) : Cairn := { x with opened := true, foreign := x.foreign + 1, foreignPages := sinsert x.foreignPages page }
    { s with cairns := replaceFirst (fun x => x.id == k.id) mark s.cairns }
  else s

/-- The first byte of n from an offset in each 64 KiB page that they touch. -/
def pageStarts (off n : Nat) : List Nat :=
  (List.range ((off + n - 1) / 65536 + 1 - off / 65536)).map (fun i => max off ((off / 65536 + i) * 65536))

/-- An access of n bytes of a home on behalf of a core, seen by the captures in progress. -/
def State.touch (s : State) (actor home off n : Nat) (wr : Bool) : State :=
  if home < 1024 && !inVault off then s
  else (s.cairns.filter (·.live)).foldl (fun s k =>
    (pageStarts off n).foldl (fun s o => s.touchPage actor home o wr k) s) s

/-- A write to bytes of a ring slot that a tile load has filled in part is seen in what they are seen as (06 R118). -/
def State.overFill (s : State) (c off : Nat) (bs : List Byte) : State :=
  if !inScratch off || (s.core c).xfers.all (fun x => x.store || x.held.isEmpty) then s
  else
    s.modCore c (fun k => { k with xfers := k.xfers.map (fun x =>
      let r := (k.rings[x.ring]?).getD Ring.reset
      let base := r.base.toNat + x.rslot * r.size * 64
      if x.store then x
      else { x with held := x.held.map (fun h => { h with val := (List.range 32).foldl (fun v i =>
        let a := base + 32 * h.word + i
        match (if off ≤ a then bs[a - off]? else none) with | some b => setVbyte v i b | none => v) h.val }) }) })

/-- Mark the units of the bytes that are delivered poisoned (04 R78; 05 R102). -/
def State.markBad (s : State) (home off : Nat) : List Bool → State
  | [] => s
  | po :: rest => (if po then s.mark home off else s).markBad home (off + 1) rest

/-- A write of a core's own vault or scratchpad bytes under a tag, performed at its bank (16 R315): the cell or the base
changes, with the poison that comes with the bytes, and then pending CTRWAITs look at it.  actor: the core on whose behalf it
is made. -/
def State.store (s0 : State) (c off : Nat) (bs : List Byte) (tag : BitVec 16) (actor : Nat := c) (bad : List Bool := []) : State :=
  let s := s0.touch actor c off bs.length true
  if tag != 0 && s.taggedPage c off then
    (((s.cellBytes c off tag bs).cellsCovered c off bs.length tag).hashed c off tag (bs.map some)).wake c off bs.length
  else ((((s.writeAt c off bs).overFill c off bs).markBad c off bad).hashed c off 0 (bs.map some)).wake c off bs.length

/-- The bytes that some parts of one line write, from the first of them on: none for those that they leave out. -/
def lineBytes (off : Nat) (parts : List (Word × Nat × Vec)) : List (Option Byte) :=
  let last := parts.foldl (fun m x => max m (x.1.toNat + x.2.1)) off
  (List.range (last - off)).map (fun i => (parts.find? (fun x => x.1.toNat ≤ off + i && off + i < x.1.toNat + x.2.1)).map
    (fun x => vbyte x.2.2 (off + i - x.1.toNat)))
/-- Parts of a vector store that lie in one line are written as one access (10 R224; 16 R319). -/
def State.storeLine (s : State) (c : Nat) (parts : List (Word × Nat × Vec)) (tag : BitVec 16) (actor : Nat := c) : State :=
  match parts with
  | [] => s
  | [(ea, n, v)] => s.store c ea.toNat (leBytes v.toNat n) tag actor
  | (ea, _, _) :: _ =>
    let bs := lineBytes ea.toNat parts
    let plain := tag == 0 || !s.taggedPage c ea.toNat
    let write (s : State) (x : Word × Nat × Vec) : State :=
      let b := leBytes x.2.2.toNat x.2.1
      if plain then (s.writeAt c x.1.toNat b).overFill c x.1.toNat b else s.cellBytes c x.1.toNat tag b
    ((parts.foldl write (s.touch actor c ea.toNat bs.length true)).hashed c ea.toNat (if plain then 0 else tag) bs).wake c ea.toNat bs.length

/-- The party on whose behalf a message acts: a core; the scheduler for a launch (slots 20 and 21); none for another device's, for
RDMA (slot 17) and for the line copies of a moving page (slot 19; log 51). -/
def Msg.actor (m : Msg) : Nat :=
  match m.forLaunch, m.party with
  | some l, _ => launchActor l
  | none, some a => a
  | none, none => if m.dev != 0 || m.slot == 17 || 19 ≤ m.slot then noCore else m.core
/-- The party of a message, by its launch where it acts for one: on its behalf its user handler runs (19 R409). -/
def State.partyOf (s : State) (m : Msg) : Nat :=
  if noCore ≤ m.actor then m.actor else match s.ridge? m.core with | some r => launchActor r.launch | none => noCore
/-- The party on whose behalf a slot of a core acts: the core, or the party of the user handler in slot 13. -/
def Core.actorIn (k : Core) (c sl : Nat) : Nat := ((if sl = 13 then (k.thread 13).invocation.bind (·.actor) else none)).getD c

/-- The n low bytes of a vector value. -/
def vecBytes (v : Vec) (n : Nat) : List Byte := leBytes v.toNat n

end Sys2Proof.Machine
end

