-- ==== Sys2Proof/Machine/Requests.lean ====
section
/-! DEFINITION. Copy request words and the checks of the committing push (05 R88-R95), and completion words (R92). -/

namespace Sys2Proof.Machine
open Sys2Proof

/-- Bits hi … lo of a word as a number. -/
def bitsN (w : Word) (hi lo : Nat) : Nat := (w.extractLsb' lo (hi + 1 - lo)).toNat

/-- Mode of a length-and-flags word (05 R91): 0 linear, 1 gather, 2 scatter, 3 reserved. -/
def lfMode (w : Word) : Nat := bitsN w 63 62
/-- Rows of a gather or scatter: the field plus one. -/
def lfRows (w : Word) : Nat := bitsN w 61 57 + 1
/-- Register fill. -/
def lfReg (w : Word) : Bool := w.getLsbD 56
/-- Row pitch in bytes; the length where the field is 0. -/
def lfPitch (w : Word) : Nat := if bitsN w 47 32 = 0 then bitsN w 31 0 else 64 * bitsN w 47 32
/-- Length in bytes. -/
def lfLen (w : Word) : Nat := bitsN w 31 0

/-- Words of the request, fixed by its third word (05 R88). -/
def reqWords (w : Word) : Nat :=
  if lfMode w = 1 ∨ lfMode w = 2 then 4 + (lfRows w + 1) / 2 else 4

/-- Completion word fields (05 R92). -/
def cmpKind (w : Word) : Nat := bitsN w 63 62
def cmpAmount (w : Word) : Nat := bitsN w 61 60
def cmpTarget (w : Word) : Nat := bitsN w 41 0

/-- Index i of a gather or scatter (05 R94). -/
def reqIndex (ws : List Word) (i : Nat) : Nat :=
  let w := (ws[4 + i / 2]?).getD 0
  if i % 2 = 0 then bitsN w 31 0 else bitsN w 63 32

/-- A global address (05 R90, 14 R272): device, home, offset. -/
def isGlobal (a : Word) : Bool := Config.homeSpan ≤ a.toNat
def gaDev (a : Word) : Nat := bitsN a 63 53
def gaHome (a : Word) : Nat := bitsN a 52 42
def gaOff (a : Word) : Nat := bitsN a 41 0

/-- The address names this device. -/
def State.thisDev (s : State) (a : Word) : Bool := gaDev a == 0 || gaDev a == s.devNum

/-- The host-window entry an address of device 2047 names (20 R418): the entry's number is the home field. -/
def State.hostWin? (s : State) (asid : Nat) (a : Word) : Option HostWin :=
  (s.asids.find? (fun x => x.id == asid)).bind (fun x => x.hostWins.find? (fun w => w.entry == gaHome a))

/-- Check 8 of R95 and order 2 of R277: reserved homes, devices without a route, host windows. -/
def State.badHome (s : State) (asid : Nat) (a : Word) (n : Nat) : Option (BitVec 16) :=
  if gaDev a = 2047 then
    match s.hostWin? asid a with
    | none => some (det cNonlocal 4)
    | some w => if 64 ≤ gaHome a || w.len < gaOff a + n then some (det cNonlocal 4) else none
  else if 1040 ≤ gaHome a then some (det cNonlocal 3)
  else if s.thisDev a then none
  else match assocGet s.routes (gaDev a) with
    | some (_ :: _) => none
    | _ => some (det cNonlocal 4)

/-- The data capacity in bytes of the agent a far address names (03 R50, R53); that of another device's agent is fixed outside this
device (log 88). -/
def State.capAt (s : State) (a : Word) : Nat :=
  if s.thisDev a then (assocGet s.farCap (gaHome a - 1024)).getD 0 else Config.farCapOf (gaDev a) (gaHome a - 1024)
/-- Check 9 of R95 and order 3 of R277: a far range beyond the agent's data capacity (03 R50).  Bit 41 is beyond every agent. -/
def State.farBad (s : State) (a : Word) (n : Nat) : Option (BitVec 16) :=
  if gaDev a ≠ 2047 ∧ 1024 ≤ gaHome a ∧ gaHome a < 1040 then
    if a.getLsbD 41 || s.capAt a < gaOff a + n then some (det cFarRange 0) else none
  else none

/-- The rows of a request: (source, destination, bytes) of each (05 R94). -/
def reqRows (ws : List Word) : List (Word × Word × Nat) :=
  let src := (ws[0]?).getD 0
  let dst := (ws[1]?).getD 0
  let lf := (ws[2]?).getD 0
  let len := lfLen lf
  let p := lfPitch lf
  match lfMode lf with
  | 1 => (List.range (lfRows lf)).map (fun i =>
      (src + BitVec.ofNat 64 (reqIndex ws i * p), dst + BitVec.ofNat 64 (i * len), len))
  | 2 => (List.range (lfRows lf)).map (fun i =>
      (src + BitVec.ofNat 64 (i * len), dst + BitVec.ofNat 64 (reqIndex ws i * p), len))
  | _ => [(src, dst, len)]

/-- The first failing result of a list of checks. -/
def firstSome {α : Type} : List (Option α) → Option α
  | [] => none
  | some a :: _ => some a
  | none :: rest => firstSome rest

/-- Check 1 of R95 for the completion word: reserved values (05 R92). -/
def cmpReserved (w : Word) : Bool :=
  cmpKind w == 3 || bitsN w 59 42 != 0 || (cmpKind w == 1 && 2 ≤ cmpAmount w) || (cmpKind w != 1 && cmpAmount w != 0)
    || (cmpKind w == 2 && bitsN w 41 8 != 0) || (cmpKind w == 0 && cmpTarget w != 0)

/-- Checks 6 and 7 of R95: the counter's alignment and the barrier's number. -/
def State.cmpTargetBad (s : State) (c : Nat) (w : Word) : Option (BitVec 16) :=
  if cmpKind w = 1 ∧ cmpTarget w % 8 ≠ 0 then some (det cCopyForm 5)
  else if cmpKind w = 2 ∧ (match s.header? c with | some h => h.barriers | none => 0) ≤ cmpTarget w then
    some (det cBarrierRange (cmpTarget w))
  else none

/-- The checks of the committing push, in order (05 R95): code, and the address that the fault concerns (18 R376).  DESIGN CHOICE:
of several ranges that fail one check, checks 8 and 9 name that of the first row, its source before its destination, and check 10 the first
of all sources, all destinations and the counter (log 114). -/
def State.checkRequest (s : State) (c : Nat) (ws : List Word) : Option (BitVec 16 × Word) :=
  let src := (ws[0]?).getD 0
  let dst := (ws[1]?).getD 0
  let lf := (ws[2]?).getD 0
  let cw := (ws[3]?).getD 0
  let m := lfMode lf
  let len := lfLen lf
  let reg := lfReg lf
  let rows := reqRows ws
  let k := { s.core c with therm := 0 }
  if m = 3 ∨ bitsN lf 55 48 ≠ 0 ∨ (m = 0 ∧ (bitsN lf 61 57 ≠ 0 ∨ bitsN lf 47 32 ≠ 0)) ∨ (reg = true ∧ m ≠ 0)
      ∨ cmpReserved cw = true ∨ (cmpKind cw = 0 ∧ reg = false) ∨ (reg = true ∧ bitsN dst 63 6 ≠ 0) then
    some (det cCopyForm 1, 0)
  else if (m = 1 ∨ m = 2) ∧ lfRows lf % 2 = 1 ∧ bitsN ((ws[4 + lfRows lf / 2]?).getD 0) 63 32 ≠ 0 then
    some (det cCopyForm 6, 0)
  else if (if reg then !([1, 2, 4, 8].contains len) else if m = 0 then len == 0 else len == 0 || 65536 < len) then
    some (det cCopyForm 2, 0)
  else if reg = false ∧ isGlobal src = true ∧ isGlobal dst = true then some (det cCopyForm 3, 0)
  else if reg = true ∧ (dst.toNat = 0 ∨ 47 < dst.toNat ∨ src.toNat % len ≠ 0) then some (det cCopyForm 4, 0)
  else if reg = true ∧ s.gDecl c < dst.toNat then some (det cIllegalRegister dst.toNat, 0)
  else match s.cmpTargetBad c cw with
  | some f => some (f, 0)
  | none =>
    let glob := rows.flatMap (fun (a, b, n) =>
      (if isGlobal src then [(a, n)] else []) ++ (if !reg && isGlobal dst then [(b, n)] else []))
    match firstSome (glob.map (fun (a, n) => (s.badHome (s.asidOf c) a n).map (fun f => (f, a)))) with
    | some f => some f
    | none =>
    match firstSome (glob.map (fun (a, n) => (s.farBad a n).map (fun f => (f, a)))) with
    | some f => some f
    | none =>
      firstSome
        (rows.map (fun (a, _, n) => if isGlobal src then none else (k.check a n 0 true false false).map (fun f => (f, a))) ++
         rows.map (fun (_, b, n) => if reg || isGlobal dst then none else (k.check b n 0 false true false).map (fun f => (f, b))) ++
         [if cmpKind cw = 1 then (k.check (BitVec.ofNat 64 (cmpTarget cw)) 8 8 true true false).map
            (fun f => (f, BitVec.ofNat 64 (cmpTarget cw))) else none])

end Sys2Proof.Machine
end

