-- ==== Sys2Proof/Machine/Operands.lean ====
section
/-! DEFINITION. Operands: reading and writing registers, windows and ports (02 R36-R41, 07), release waits (16 R322),
and the one wrapper through which every instruction issues (02 R26-R29, R34, R39, R40; 18 R383, R384). -/

namespace Sys2Proof.Machine
open Sys2Proof

/-- An operand's value, in 512 bits, with its poison. -/
structure Val where
  x : Vec
  poison : Bool
  deriving DecidableEq, Repr

/-- The low 64 bits of a value. -/
def Val.w (v : Val) : Word := v.x.setWidth 64
/-- A 64-bit value without poison. -/
def Val.of (x : Word) : Val := ⟨x.setWidth 512, false⟩
/-- The i-th operand. -/
def arg (xs : List Val) (i : Nat) : Word := ((xs[i]?).getD ⟨0, false⟩).w
/-- The i-th operand's 512 bits. -/
def argV (xs : List Val) (i : Nat) : Vec := ((xs[i]?).getD ⟨0, false⟩).x

/-! ### Shared registers (07 R136-R138) -/

/-- A shared register as an issue in cycle u sees it: after every change made in cycle u - 4 or earlier. -/
def shView (h : List ShChange) (u : Nat) : Reg 64 :=
  match h.find? (fun x => x.cycle + 4 ≤ u) with | some x => x.reg | none => Reg.zero 64
/-- A shared register after its latest change. -/
def shNow (h : List ShChange) : Reg 64 := match h with | x :: _ => x.reg | [] => Reg.zero 64
/-- A change was made in the three cycles before u (07 R138). -/
def shGuard (h : List ShChange) (u : Nat) : Bool := h.any (fun x => x.cycle < u && u ≤ x.cycle + 3)
/-- Record a change, keeping every change that some later issue can still see. -/
def shChange (h : List ShChange) (u : Nat) (r : Reg 64) : List ShChange :=
  { cycle := u, reg := r } :: (h.filter (fun x => u < x.cycle + 4) ++ ((h.find? (fun x => x.cycle + 4 ≤ u)).toList))

/-- The changes of shared register k. -/
def Core.shOf (k : Core) (i : Nat) : List ShChange := (k.sh[i]?).getD []
/-- Change shared register i in this cycle. -/
def State.setSh (s : State) (c i : Nat) (r : Reg 64) : State :=
  s.modCore c (fun k => { k with sh := k.sh.setIfInBounds i (shChange (k.shOf i) k.cycle r) })

/-! ### Port bindings (07 R144, R147, R148) -/

/-- The binding of a port. -/
inductive Bind where
  | edge
  | link (core slot port hops xings : Nat) (wrapped live : Bool)
  deriving DecidableEq, Repr

/-- The core at whose router a Dreard link attaches (20 R419). -/
def linkCore (l : Nat) : Nat := ([8, 23, 31 + 32 * 15, 23 + 32 * 31, 8 + 32 * 31, 32 * 15][l]?).getD 0
/-- The core at whose router an Ethernet port attaches (20 R416). -/
def ethCore (p : Nat) : Nat := ([15 + 32 * 15, 16 + 32 * 15, 15 + 32 * 16, 16 + 32 * 16][p / 2]?).getD 0
/-- The Ethernet port that serves a queue pair (log 40). -/
def portOfQp (qp : Nat) : Nat := qp % 8

/-- The opposite direction: N-S, E-W; the lateral port receives on itself. -/
def opposite (p : Nat) : Nat := match p with | 0 => 2 | 1 => 3 | 2 => 0 | 3 => 1 | _ => 4

/-- Where pushes of slot sl's port p (0-4 scalar, 5-9 vector) of a core go; slots 12-15 have no ports (07 R144). -/
def State.binding (s : State) (c sl p : Nat) : Bind :=
  let d := p % 5
  let v := p / 5 * 5
  match (if sl < 12 then s.ridge? c else none) with
  | none => .edge
  | some r =>
    let k := s.core c
    let n := r.header.crew
    if d = 4 then .link c ((sl + 1) % (if n = 0 then 1 else n)) (v + 4) 0 0 false true
    else
      let (col, row) := (k.col, k.row)
      let inside : Bool := match d with
        | 0 => decide (row + 1 < r.h) | 1 => decide (col + 1 < r.w) | 2 => decide (0 < row) | _ => decide (0 < col)
      let far := match d with
        | 0 => r.coreAt col (if row + 1 < r.h then row + 1 else 0)
        | 1 => r.coreAt (if col + 1 < r.w then col + 1 else 0) row
        | 2 => r.coreAt col (if 0 < row then row - 1 else r.h - 1)
        | _ => r.coreAt (if 0 < col then col - 1 else r.w - 1) row
      let t := s.thr c sl
      let f := s.thr far sl
      let w := if d % 2 = 1 then t.wrapX else t.wrapY
      let fw := if d % 2 = 1 then f.wrapX else f.wrapY
      if inside then .link far sl (v + opposite d) (hops c far) (xings c far) false true
      else if w then .link far sl (v + opposite d) (hops c far) (xings c far) true fw
      else .edge

/-- The slot whose lateral pushes reach slot sl: member i - 1 mod n. -/
def lateralFrom (n sl : Nat) : Nat := if n = 0 then sl else (sl + n - 1) % n

/-- Router cycles of m core cycles at a core's clock, rounded up. -/
def Core.rcOf (k : Core) (m : Nat) : Nat := (m * Config.routerMhz + k.freq - 1) / (if k.freq = 0 then 1 else k.freq)

/-- The end of n router cycles that follow m core cycles of a core, the first of them its current one (14 R273). -/
def State.leaves (s : State) (c m n : Nat) : Arrival :=
  let k := s.core c
  { num := s.rtime * k.freq + Config.routerMhz * m + k.freq * n - k.phase, den := k.freq, src := some c, hops := n }
/-- The two core cycles in which what has come to the core's router is accepted end with the current one: the first of them is
the first that began at or after the end of its hops (14 R273).  The cycle before the first after a pause began before the pause. -/
def Core.accepts (k : Core) (rt : Nat) (a : Arrival) : Bool :=
  match k.gap with
  | some g => if g.begun then a.num * g.edge.den ≤ g.edge.num * a.den
    else a.num * k.freq + (Config.routerMhz + k.phase) * a.den ≤ rt * k.freq * a.den
  | none => a.num * k.freq + (Config.routerMhz + k.phase) * a.den ≤ rt * k.freq * a.den
/-- Its hops have ended (14 R273). -/
def Arrival.over (a : Arrival) (rt : Nat) : Bool := a.num ≤ rt * a.den

/-- When the hops of a push over h hops and x boundaries end: 2 cc, 3 rc a hop and 16 rc a boundary (01 R19, 07 R148); those of
a vector entry 1 rc later (07 R145). -/
def State.portDue (s : State) (c h x : Nat) (vec : Bool) : Arrival := s.leaves c 2 (3 * h + 16 * x + (if vec then 1 else 0))

/-- A port of a slot. -/
def Thread.port (t : Thread) (p : Nat) : Port := (t.ports[p]?).getD (Port.reset p)
/-- Replace a port of a slot. -/
def Thread.setPort (t : Thread) (p : Nat) (q : Port) : Thread := { t with ports := t.ports.setIfInBounds p q }

/-- Send an entry or a credit on the port lanes. -/
def State.fly (s : State) (src : Nat) (load : Lane2) (core slot port : Nat) (lateral : Bool) (due : Arrival) : State :=
  { s with
    flights := s.flights ++ [{ id := s.fresh, load := load, core := core, slot := slot, port := port, src := src,
                               lateral := lateral, due := due }]
    fresh := s.fresh + 1 }

/-- A pop returns its credit to the sender over the same path (07 R145). -/
def State.sendCredit (s : State) (c sl p : Nat) : State :=
  if p % 5 = 4 then s.fly c .credit c (lateralFrom (s.crew c) sl) p true { num := s.now c + 4, den := 1 }
  else match s.binding c sl p with
    | .link far fsl fp h x _ _ => s.fly c .credit far fsl fp false (s.portDue c h x (decide (5 ≤ p)))
    | .edge => s

/-! ### What a park waits for (19 R397) -/

/-- A pending instruction whose wait is in the message class. -/
def PKind.isMessage : PKind → Bool
  | .remote .. | .ratom | .send .. | .mrecv .. | .ctxalloc | .bar _ | .barwait .. | .spawn .. | .launch .. => true
  | .ldx form _ _ | .ldxRemote form _ _ => form == 1 || form == 3
  | _ => false

/-- The class of a wait for a pending instruction: a handler may stall on its own local loads (14 R285). -/
def PKind.wait (k : PKind) : Wait :=
  if k.isMessage then .message else match k with | .load .. | .vload .. | .ldx .. => .stall | _ => .memory

/-- The class of a wait for a pending instruction: one whose access waits for a pre-image counts as memory (19 R409). -/
def Pend.wait (p : Pend) : Wait := if p.imaged.isSome then .memory else p.kind.wait
/-- The class of a wait for a register of the thread. -/
def Thread.waitFor (t : Thread) (o : Opnd) : Wait :=
  match t.pend.find? (fun p => p.dst.contains o) with
  | some p => p.wait
  | none => .memory

/-- The class of a wait for a register as a slot sees it: a shared register's producer may be pending in any slot of the core
(07 R134). -/
def State.waitFor (s : State) (c sl : Nat) (o : Opnd) : Wait :=
  match (s.thr c sl).pend.find? (fun p => p.dst.contains o) with
  | some p => p.wait
  | none =>
    match (match o with
      | .g n => if 48 ≤ n.toNat then ((s.core c).threads.toList.flatMap Thread.pend).find? (fun (p : Pend) => p.dst.contains o) else none
      | _ => none) with
    | some p => p.wait
    | none => .memory

/-! ### Reading sources -/

/-- What reading an operand gives: a value and the state after the pop, a park, or a trap. -/
inductive Got where
  | ok (s : State) (v : Val)
  | park (w : Wait)
  | trap (code : BitVec 16)

/-- A private register as a source (07 R134). -/
def readReg {n : Nat} (s : State) (t : Thread) (o : Opnd) (file num : Nat) (r : Reg n) : Got :=
  match r.fe with
  | .full => .ok s ⟨r.val.setWidth 512, r.poison⟩
  | .pending => .park (t.waitFor o)
  | .free => .trap (det cRegisterEmpty (file * 64 + num))

/-- Pop a port's oldest entry (07 R145). -/
def State.popPort (s : State) (c sl p : Nat) : Got :=
  let t := s.thr c sl
  let q := t.port p
  match s.binding c sl p with
  | .edge => .trap (det cPortEdge (p % 5 + (if 5 ≤ p then 16 else 0)))
  | _ =>
    match q.queue with
    | (x, po, at') :: rest =>
      if at' ≤ s.now c then .ok ((s.setThr c sl (t.setPort p { q with queue := rest })).sendCredit c sl p) ⟨x, po⟩
      else .park .message
    | [] => .park .message

/-- Pop the oldest entry of a core queue once it is visible (07 R153). -/
def popQueue (q : List (Word × Nat)) (now : Nat) : Option (Word × List (Word × Nat)) :=
  match q with
  | (x, at') :: rest => if at' + 4 ≤ now then some (x, rest) else none
  | [] => none

/-- Read one operand in its turn (02 R37, R38, R40). -/
def State.readOp (s : State) (c sl : Nat) (o : Opnd) : Got :=
  let t := s.thr c sl
  match o with
  | .g n =>
    let i := n.toNat
    if i = 0 then .ok s ⟨0, false⟩
    else if i < 48 then readReg s t o 0 i ((t.g[i]?).getD (Reg.zero 64))
    else if i < 56 then
      let r := shView ((s.core c).shOf (i - 48)) (s.now c)
      match r.fe with | .full => .ok s ⟨r.val.setWidth 512, r.poison⟩ | _ => .park (s.waitFor c sl o)
    else if i < 61 then s.popPort c sl (i - 56)
    else if i = 61 then
      match popQueue (s.core c).wl (s.now c) with
      | some (x, rest) => .ok (s.modCore c (fun k => { k with
          wl := rest, wlGone := ((k.wl.headD (0, 0)).2, k.cycle) :: k.wlGone.filter (fun t => k.cycle < t.2 + 4) })) (Val.of x)
      | none => .park .message
    else if i = 62 then
      match popQueue (s.core c).tq (s.now c) with
      | some (x, rest) => .ok (s.modCore c (fun k => { k with
          tq := rest, tqGone := k.cycle :: k.tqGone.filter (fun t => k.cycle < t + 4) })) (Val.of x)
      | none => .park .sleep
    else .ok s ⟨0, false⟩
  | .v n =>
    let i := n.toNat
    if i < 48 then readReg s t o 1 i ((t.v[i]?).getD (Reg.zero 512))
    else if i < 61 then s.popPort c sl (i - 51)
    else match t.vmq with
      | (x, po, at') :: rest => if at' ≤ s.now c then .ok (s.setThr c sl { t with vmq := rest }) ⟨x, po⟩ else .park .memory
      | [] => .park .memory
  | .m n =>
    let i := n.toNat
    if i = 0 then .ok s ⟨0xFFFF, false⟩ else readReg s t o 2 i ((t.m[i]?).getD (Reg.zero 16))

/-- Reading a list of operands in order. -/
inductive Gots where
  | ok (s : State) (vs : List Val)
  | park (w : Wait)
  | trap (code : BitVec 16)

/-- Read the operands in order, popping as they are read (02 R40). -/
def State.readAll (s : State) (c sl : Nat) : List Opnd → Gots
  | [] => .ok s []
  | o :: rest =>
    match s.readOp c sl o with
    | .park w => .park w
    | .trap k => .trap k
    | .ok s1 v =>
      match s1.readAll c sl rest with
      | .park w => .park w
      | .trap k => .trap k
      | .ok s2 vs => .ok s2 (v :: vs)

/-! ### Release waits (16 R320-R322) -/

/-- A home of this device lies in a scope of the issuing core (16 R320). -/
def State.inScope (s : State) (c home scope : Nat) : Bool :=
  if scope ≤ 2 then home == c
  else if scope = 3 then home == c || (home < 1024 && hops c home == 1)
  else if scope = 4 then (match s.ridge? c with | some r => r.cores.contains home | none => home == c)
  else if scope = 5 then home < 1024 && massif home == massif c
  else if scope = 6 then home < 1024 && massif home / 2 == massif c / 2
  else if scope = 7 then home < 1024
  else true

/-- The device that a link of the routing table leads to directly (20 R423): the table sends the device's messages over a link at whose
far end it stands. -/
def State.isPeer (s : State) (dev : Nat) : Bool :=
  match assocGet s.routes dev with
  | some (l :: _) => Config.linkPeer l == dev
  | _ => false
/-- Another device, or the host, lies in a scope: a device that one link reaches from peer on, every device that has a route from
fabric on, the host in system (16 R320; 20 R423). -/
def State.awayInScope (s : State) (dev scope : Nat) : Bool :=
  if dev = 2047 then 11 ≤ scope
  else if s.isPeer dev then 9 ≤ scope
  else if (match assocGet s.routes dev with | some (_ :: _) => true | _ => false) then 10 ≤ scope
  else 11 ≤ scope
/-- The home of an address lies in a scope of the issuing core; a local address's is the core itself (16 R320). -/
def State.addrInScope (s : State) (c : Nat) (a : Word) (scope : Nat) : Bool :=
  if !isGlobal a then s.inScope c c scope
  else if gaDev a != 2047 && s.thisDev a then s.inScope c (gaHome a) scope
  else s.awayInScope (gaDev a) scope

/-- The smallest scope that contains both homes (16 R320). -/
def State.smallestScope (s : State) (c home : Nat) : Nat :=
  ((List.range 12).find? (fun k => s.inScope c home k)).getD 11

/-- The smallest scope that contains the core and the home of an address (16 R320). -/
def State.scopeTo (s : State) (c : Nat) (a : Word) : Nat :=
  ((List.range 12).find? (fun k => s.addrInScope c a k)).getD 11

/-- The smallest scope that contains the core and every home that some addresses name; a release below core scope waits as one at core
scope does (16 R320). -/
def State.scopeOf (s : State) (c : Nat) (as : List Word) : Nat :=
  ((List.range 12).find? (fun k => 2 ≤ k && as.all (fun a => s.addrInScope c a k))).getD 11

/-- A pending read of the thread (16 R322). -/
def PKind.isRead : PKind → Bool
  | .load .. | .vload .. | .amo .. | .ctrwait .. | .ldx .. | .ldxRemote .. | .ratom => true
  | .tile _ _ store => !store
  | .engine kind _ => kind == 1
  | .remote size _ => size != 0
  | _ => false
/-- A pending acquire of the thread that is no read of memory (16 R324): a mailbox message, a barrier wait, the reply of a user
handler. -/
def PKind.isAcquire : PKind → Bool
  | .mrecv .. | .barwait .. => true
  | .send deposit .. => !deposit
  | _ => false
/-- A pending write of the thread performed at its own core (16 R322). -/
def PKind.isWrite : PKind → Bool
  | .stl .. | .ctradd .. | .tdec .. | .lmerge .. | .zrenc .. => true
  | .tile _ _ store => store
  | .engine kind _ => kind == 2
  | _ => false

/-- The message of a pending remote operation, in the mesh, at its home or on its way over a link, until it is answered. -/
def State.msgOfPend (s : State) (c sl id : Nat) : Option Msg :=
  (s.msgs ++ s.cores.flatMap (fun x => x.2.inbuf) ++ s.links.flatMap (·.away)).find? (fun m =>
    m.dev == 0 && m.core == c && m.slot == sl && m.pend == id && (match m.kind with | .reply .. => false | _ => true))
/-- A pending remote operation has not been performed at a scope: its home lies in it, and has not answered (16 R321). -/
def State.awaits (s : State) (c sl scope id : Nat) : Bool :=
  match s.msgOfPend c sl id with
  | some m => if isGlobal m.va && !s.thisDev m.va then s.awayInScope (gaDev m.va) scope else s.inScope c m.home scope
  | none => false

/-- The addresses a copy request writes, one a row; a register fill writes at the pushing core. -/
def reqDests (ws : List Word) : List Word :=
  if lfReg ((ws[2]?).getD 0) then [0] else ((reqRows ws).map (fun x => x.2.1)).eraseDups
/-- The addresses a copy request reads, one a row. -/
def reqSrcs (ws : List Word) : List Word := ((reqRows ws).map (·.1)).eraseDups
/-- Some bytes of a copy request of the thread go to a home in a scope (16 R321). -/
def State.copyIn (s : State) (c scope : Nat) (r : CopyReq) : Bool := (reqDests r.words).any (fun a => s.addrInScope c a scope)

/-- A pending instruction of the thread that a release at a scope waits for (16 R321, R322). -/
def State.releaseWaits (s : State) (c sl scope : Nat) (p : Pend) : Bool :=
  p.kind.isRead || p.kind.isWrite ||
  (match p.kind with
   | .remote _ _ | .send .. => s.awaits c sl scope p.id
   | _ => false)
/-- The name by which a release waits for the spill that is pending in slot 15, until it has been performed (16 R322). -/
def spillName : Nat := 2 ^ 64
/-- A bit-stream spill is pending in a slot (13 R258). -/
def Thread.spills (t : Thread) : Bool := t.bb.write && 64 ≤ t.bb.valid
/-- Everything of the thread that a release at a scope waits for, by name: what release_wait(S) waits on when the release
itself is pending (16 R322, 04 R84). -/
def State.releaseIds (s : State) (c sl scope : Nat) : List Nat :=
  let t := s.thr c sl
  (t.pend.filter (s.releaseWaits c sl scope)).map (·.id) ++ t.psq.map (·.id) ++
    (if t.spills then [spillName] else []) ++
    ((s.core c).copies.filter (fun r => r.slot == sl && s.copyIn c scope r)).map (·.id)
/-- None of the accesses named is outstanding. -/
def State.waitsOver (s : State) (c sl : Nat) (ids : List Nat) : Bool :=
  let t := s.thr c sl
  t.pend.all (fun p => !ids.contains p.id) && t.psq.all (fun e => !ids.contains e.id) &&
    !(ids.contains spillName && (t.spills || t.psq.any (·.spill))) && (s.core c).copies.all (fun r => !ids.contains r.id)

/-- The second line of release_wait(S): every earlier write of the thread is performed at S (16 R321, R322). -/
def State.writesDone (s : State) (c sl scope : Nat) : Bool :=
  let t := s.thr c sl
  t.psq.isEmpty && !t.spills &&
  t.pend.all (fun p => match p.kind with
    | .remote _ _ | .ratom | .send .. => !s.awaits c sl scope p.id
    | k => !k.isWrite) &&
  (s.core c).copies.all (fun r => r.slot != sl || !s.copyIn c scope r)

/-- release_wait(S) (16 R322). -/
def State.releaseReady (s : State) (c sl scope : Nat) : Bool :=
  (s.thr c sl).pend.all (fun p => !p.kind.isRead) && s.writesDone c sl scope

/-! ### Writing destinations -/

/-- What writing an operand gives. -/
inductive Put where
  | ok (s : State)
  | park (w : Wait)
  | trap (code : BitVec 16) (addr : Word)

/-- Mark a private general register. -/
def Thread.setG (t : Thread) (i : Nat) (r : Reg 64) : Thread := { t with g := t.g.setIfInBounds i r }
/-- Mark a private vector register. -/
def Thread.setV (t : Thread) (i : Nat) (r : Reg 512) : Thread := { t with v := t.v.setIfInBounds i r }
/-- Mark a mask register. -/
def Thread.setM (t : Thread) (i : Nat) (r : Reg 16) : Thread := { t with m := t.m.setIfInBounds i r }

/-- Push one entry to a port (07 R145, R147). -/
def State.pushPort (s : State) (c sl p : Nat) (v : Val) : Put :=
  let t := s.thr c sl
  let q := t.port p
  match s.binding c sl p with
  | .edge => .trap (det cPortEdge (p % 5 + (if 5 ≤ p then 16 else 0))) 0
  | .link far fsl fp h x _ live =>
    if q.credits = 0 || !live then .park .message
    else
      let s := s.setThr c sl (t.setPort p { q with credits := q.credits - 1 })
      .ok (s.fly c (.entry v.x v.poison) far fsl fp (p % 5 == 4)
        (if p % 5 = 4 then { num := s.now c + 4, den := 1 } else s.portDue c h x (decide (5 ≤ p))))

/-- The committing push of a register fill in the leading slot of a pair leaves an entry for its twin's, which the fill supplies (05
R93; 18 R385, R386). -/
def Core.passFill (k : Core) (sl id : Nat) (pc : Word) : Core :=
  if !k.redundant || 12 ≤ sl then k
  else
    let p := (k.pairs[sl / 2]?).getD Pair.reset
    { k with pairs := k.pairs.setIfInBounds (sl / 2) { p with lvq := p.lvq ++ [{ pc := pc, ops := [], id := id, vals := [], ready := false }] } }
/-- Push one word to cq: stage it, or commit the request, whose source reads then wait for the pusher's earlier accesses (05 R88, R89,
R93, R95, R101; 16 R323). -/
def State.pushCq (s : State) (c sl : Nat) (x : Word) : Put :=
  let t := s.thr c sl
  let ws := t.staging ++ [x]
  if 4 ≤ ws.length ∧ reqWords ((ws[2]?).getD 0) ≤ ws.length then
    match s.checkRequest c ws with
    | some f => .trap f.1 f.2
    | none =>
      let lf := (ws[2]?).getD 0
      let gk := ((ws[1]?).getD 0).toNat
      if 16 ≤ ((s.core c).copies.filter (fun r => !r.active)).length then .park .memory
      else if lfReg lf && ((t.g[gk]?).getD (Reg.zero 64)).fe == .pending then .park .memory
      else
        let id := s.fresh
        let req : CopyReq := { id := id, slot := sl, words := ws, active := false, before := 0, issued := 0,
                               performed := 0, outstanding := 0, due := s.now c + 1,
                               waits := s.releaseIds c sl (s.scopeOf c (reqSrcs ws ++ reqDests ws)),
                               actor := if sl = 13 then (t.invocation).bind (·.actor) else none }
        let s := { s with fresh := id + 1 }
        let s := s.modCore c (fun k => { (if lfReg lf then k.passFill sl id t.pc else k) with copies := k.copies ++ [req] })
        .ok (s.modThr c sl (fun t =>
          let t := { t with staging := [] }
          if lfReg lf then t.setG gk { val := ((t.g[gk]?).getD (Reg.zero 64)).val, fe := .pending, poison := false }
          else t))
  else .ok (s.setThr c sl { t with staging := ws })

/-- Removals from a queue that an issue in cycle u does not see yet: their places are not free (07 R137, R153); what the
instruction itself has popped leaves its room (02 R40). -/
def unseen (gone : List Nat) (u : Nat) : Nat := (gone.filter (fun t => t != u && u < t + 4)).length

/-- An entry of the work list is pushed: the pusher's writes to the neighbourhood that are still under way are noted, for the release that
a later move of the entry makes (07 R153; 16 R323; log 122). -/
def State.oweWl (s : State) (c sl : Nat) : State :=
  let ids := s.releaseIds c sl 3
  s.modCore c (fun k => { k with
    wlOwed := k.wlOwed.filter (fun o => k.wl.any (fun e => e.2 == o.1)) ++ (if ids.isEmpty then [] else [(k.cycle, sl, ids)]) })
/-- Push one entry to the work list or the transform queue: a release at core scope (07 R153). -/
def State.pushWl (s : State) (c sl : Nat) (x : Word) : Put :=
  if 4096 ≤ (s.core c).wl.length + unseen ((s.core c).wlGone.map (·.2)) (s.now c) then .park .message
  else if !s.releaseReady c sl 2 then .park .message
  else .ok ((s.oweWl c sl).modCore c (fun k => { k with wl := k.wl ++ [(x, k.cycle)] }))
/-- Push one entry to the transform queue (07 R153). -/
def State.pushTq (s : State) (c sl : Nat) (x : Word) : Put :=
  if 16 ≤ (s.core c).tq.length + unseen (s.core c).tqGone (s.now c) then .park .message
  else if !s.releaseReady c sl 2 then .park .message
  else .ok (s.modCore c (fun k => { k with tq := k.tq ++ [(x, k.cycle)] }))

/-- Write one destination of a short-latency instruction (07 R134; 02 R37, R40). -/
def State.put (s : State) (c sl : Nat) (o : Opnd) (v : Val) : Put :=
  let t := s.thr c sl
  match o with
  | .g n =>
    let i := n.toNat
    if i = 0 then .ok s
    else if i < 48 then
      if ((t.g[i]?).getD (Reg.zero 64)).fe == .pending then .park (t.waitFor o)
      else .ok (s.setThr c sl (t.setG i { val := v.w, fe := .full, poison := v.poison }))
    else if i < 56 then
      if (shView ((s.core c).shOf (i - 48)) (s.now c)).fe == .pending then .park (s.waitFor c sl o)
      else .ok (s.setSh c (i - 48) { val := v.w, fe := .full, poison := v.poison })
    else if i < 61 then s.pushPort c sl (i - 56) v
    else if i = 61 then s.pushWl c sl v.w
    else if i = 62 then s.pushTq c sl v.w
    else s.pushCq c sl v.w
  | .v n =>
    let i := n.toNat
    if i < 48 then
      if ((t.v[i]?).getD (Reg.zero 512)).fe == .pending then .park (t.waitFor o)
      else .ok (s.setThr c sl (t.setV i { val := v.x, fe := .full, poison := v.poison }))
    else s.pushPort c sl (i - 51) v
  | .m n =>
    let i := n.toNat
    if i = 0 then .ok s
    else if ((t.m[i]?).getD (Reg.zero 16)).fe == .pending then .park (t.waitFor o)
    else .ok (s.setThr c sl (t.setM i { val := v.x.setWidth 16, fe := .full, poison := v.poison }))

/-- Write several destinations in order. -/
def State.putAll (s : State) (c sl : Nat) : List (Opnd × Val) → Put
  | [] => .ok s
  | (o, v) :: rest =>
    match s.put c sl o v with
    | .ok s => s.putAll c sl rest
    | r => r

/-- A long-latency destination at issue: parks while a producer is pending, else becomes empty, pending
(07 R134, R138). -/
def State.reserve (s : State) (c sl : Nat) (o : Opnd) : Put :=
  let t := s.thr c sl
  match o with
  | .g n =>
    let i := n.toNat
    if i = 0 then .ok s
    else if i < 48 then
      let r := (t.g[i]?).getD (Reg.zero 64)
      if r.fe == .pending then .park (t.waitFor o) else .ok (s.setThr c sl (t.setG i { r with fe := .pending }))
    else if i < 56 then
      let h := (s.core c).shOf (i - 48)
      if shGuard h (s.now c) then .park .memory
      else if (shView h (s.now c)).fe == .pending then .park (s.waitFor c sl o)
      else .ok (s.setSh c (i - 48) { shNow h with fe := .pending })
    else .ok s
  | .v n =>
    let i := n.toNat
    let r := (t.v[i]?).getD (Reg.zero 512)
    if r.fe == .pending then .park (t.waitFor o) else .ok (s.setThr c sl (t.setV i { r with fe := .pending }))
  | .m n =>
    let i := n.toNat
    if i = 0 then .ok s
    else
      let r := (t.m[i]?).getD (Reg.zero 16)
      if r.fe == .pending then .park (t.waitFor o) else .ok (s.setThr c sl (t.setM i { r with fe := .pending }))

/-- Reserve several destinations in order. -/
def State.reserveAll (s : State) (c sl : Nat) : List Opnd → Put
  | [] => .ok s
  | o :: rest =>
    match s.reserve c sl o with
    | .ok s => s.reserveAll c sl rest
    | r => r

/-- A fill of a shared register: it lands in this cycle, or in the next in which no slot changes the register (07 R137). -/
def State.fillSh (s : State) (c i : Nat) (r : Reg 64) : State :=
  match (s.core c).shOf i with
  | x :: _ => if x.cycle = s.now c then s.modCore c (fun k => { k with shLate := k.shLate ++ [(i, r)] }) else s.setSh c i r
  | [] => s.setSh c i r
/-- The fills that have waited for a cycle without a change land, where this is one. -/
def State.landFills (s : State) (c : Nat) : State :=
  (s.core c).shLate.foldl (fun s x => s.fillSh c x.1 x.2) (s.modCore c (fun k => { k with shLate := [] }))

/-- A completion fills a destination (07 R133, R135, R137). -/
def State.fill (s : State) (c sl : Nat) (o : Opnd) (v : Val) : State :=
  match o with
  | .g n =>
    let i := n.toNat
    if i = 0 then s
    else if i < 48 then s.modThr c sl (fun t => t.setG i { val := v.w, fe := .full, poison := v.poison })
    else if i < 56 then s.fillSh c (i - 48) { val := v.w, fe := .full, poison := v.poison }
    else s
  | .v n => s.modThr c sl (fun t => t.setV n.toNat { val := v.x, fe := .full, poison := v.poison })
  | .m n =>
    if n = 0 then s
    else s.modThr c sl (fun t => t.setM n.toNat { val := v.x.setWidth 16, fe := .full, poison := v.poison })

/-- Fill several destinations. -/
def State.fillAll (s : State) (c sl : Nat) : List (Opnd × Val) → State
  | [] => s
  | (o, v) :: rest => (s.fill c sl o v).fillAll c sl rest

/-- A destination becomes empty and free (18 R384). -/
def State.freeReg (s : State) (c sl : Nat) (o : Opnd) : State :=
  match o with
  | .g n =>
    let i := n.toNat
    if i = 0 then s
    else if i < 48 then s.modThr c sl (fun t => t.setG i { (t.g[i]?).getD (Reg.zero 64) with fe := .free })
    else if i < 56 then s.setSh c (i - 48) { shNow ((s.core c).shOf (i - 48)) with fe := .free }
    else s
  | .v n => s.modThr c sl (fun t => t.setV n.toNat { (t.v[n.toNat]?).getD (Reg.zero 512) with fe := .free })
  | .m n =>
    if n = 0 then s else s.modThr c sl (fun t => t.setM n.toNat { (t.m[n.toNat]?).getD (Reg.zero 16) with fe := .free })

end Sys2Proof.Machine
end

