-- ==== Sys2Proof/Machine/Issue.lean ====
section
/-! DEFINITION. Issuing an instruction: the one wrapper every meaning goes through (02 R26-R29, R34 checks 8 and 9,
R39, R40; 07 R134; 18 R383-R387; 14 R285; 19 R397). -/

namespace Sys2Proof.Machine
open Sys2Proof

/-! ### The time-loss account (19 R397, R398) -/

/-- Add 1 at an index of a list of 48-bit saturating counters, extending it with zeros. -/
def bump : List Nat → Nat → List Nat
  | [], 0 => [1]
  | [], n + 1 => 0 :: bump [] n
  | x :: rest, 0 => Nat.min (x + 1) (2 ^ 48 - 1) :: rest
  | x :: rest, n + 1 => x :: bump rest n

/-- The number of a class: 0 issued, 1 memory, 2 message, 3 vacant. -/
def Class.num : Class → Nat
  | .issued => 0 | .memory => 1 | .message => 2 | .vacant => 3

/-- The class of a park. -/
def Wait.cls : Wait → Class
  | .memory => .memory | .message => .message | .stall => .memory | .sleep => .vacant | .directory => .memory

/-- Account one issue opportunity of a slot. -/
def State.account (s : State) (c sl : Nat) (cl : Class) : State :=
  s.modCore c (fun k => { k with dbg := { k.dbg with
    live := { k.dbg.live with cls := bump k.dbg.live.cls (4 * sl + cl.num) }
    issuedNow := if sl < 12 && cl == .issued then k.dbg.issuedNow + 1 else k.dbg.issuedNow
    rot := k.dbg.rot.set sl cl.num } })

/-! ### Messages -/

/-- When the hops of a message that leaves a router now end. -/
def State.routed (s : State) (src dst : Nat) : Arrival := { num := s.rtime + pathRc src dst, den := 1 }
/-- When the hops of a message from one home to another end (14 R273): 2 cc to inject, which for what the core's own hardware
sends begin in the cycle after the current one, then the hops. -/
def State.msgDue (s : State) (src dst : Nat) (cc : Nat := 2) : Arrival :=
  if src < 1024 then s.leaves src cc (pathRc src dst) else s.routed src dst
/-- What has come to a home's router has been accepted: at a core in the two core cycles that end with the current one, elsewhere
when its hops end (14 R273). -/
def State.accepted (s : State) (home : Nat) (a : Arrival) : Bool :=
  if home < 1024 then (s.core home).accepts s.rtime a else a.over s.rtime
/-- A core that a message is on its way to is listed, so that its clock is seen to run (log 7). -/
def State.listCore (s : State) (home : Nat) : State := if home < 1024 then s.setCore home (s.core home) else s

/-- The link to which messages for a device are sent (20 R423). -/
def State.linkTo (s : State) (dev : Nat) : Option Nat :=
  match assocGet s.routes dev with | some (l :: _) => some l | _ => none
/-- The core at whose router a message leaves the mesh: its home's, its link's, or its Ethernet port's. -/
def State.exitCore (s : State) (asid home : Nat) (va : Word) : Nat :=
  if !isGlobal va || s.thisDev va then routerOf home
  else if gaDev va = 2047 then ethCore (portOfQp (match s.hostWin? asid va with | some w => w.qp | none => 0))
  else linkCore ((s.linkTo (gaDev va)).getD 0)

/-- A message kind that answers another message. -/
def MsgKind.isAnswer : MsgKind → Bool
  | .reply .. | .copyDone .. | .claimed _ => true
  | _ => false
/-- A message kind that only writes: of a mirror copy, acknowledged and not performed outside the cores (19 R413). -/
def MsgKind.isWrite : MsgKind → Bool
  | .rput .. | .copyWrite _ => true
  | _ => false
/-- Bytes of the value that answers a request (14 R281, R282, R286). -/
def MsgKind.answerLen : MsgKind → Nat
  | .rget n => n
  | .ratom .. | .amsend .. => 8
  | _ => 0
/-- The acknowledgement of a write. -/
def MsgKind.ack : MsgKind → MsgKind
  | .copyWrite data => .copyDone 0 [] data.length none
  | _ => .reply 0 false none

/-- The mirror copy's core in lockstep replay mode (19 R413). -/
def State.isMirror (s : State) (c : Nat) : Bool :=
  s.lockstep != 0 && (match s.ridge? c with | some r => r.mirror | none => false)

/-- Inject a message of a given ASID. -/
def State.inject (s : State) (kind : MsgKind) (core slot pend home off : Nat) (va : Word) (asid : Nat) (tag : BitVec 16) : State :=
  { s.listCore home with
    msgs := s.msgs ++ [{ id := s.fresh, kind := kind, core := core, slot := slot, pend := pend, home := home, off := off,
                         va := va, asid := asid, tag := tag, due := s.msgDue core (s.exitCore asid home va), refused := false }]
    fresh := s.fresh + 1 }
/-- The channel of a message to a home, which for an entry of the host's window is the number 2,047 (14 R273; 05 R96; 15 R302; 17
R366): 0 request, 1 reply, 2 active message. -/
def MsgKind.channel (home : Nat) : MsgKind → Nat
  | .rget _ | .rput .. | .ratom .. | .amsend .. | .seal _ | .retire _ | .merge _ | .ldx .. => 2
  | .copyWrite _ | .copyRead .. => if home < 1024 then 2 else 0
  | .reply .. | .copyDone .. | .retired _ | .barReport _ | .barRelease _ | .claimed _ => 1
  | .spawn .. | .claim _ => 2
  | .transit slots => ((slots.headD [])[11]?.getD 0).toNat
  | .msend .. | .ctxalloc | .ctxretire .. => 0
/-- The home that decides a message's channel. -/
def chanHome (home : Nat) (va : Word) : Nat := if isGlobal va && gaDev va = 2047 then 2047 else home
/-- The global address a trace record of a message names. -/
def State.tracedAddr (s : State) (home off : Nat) (va : Word) : List Byte :=
  leBytes (if isGlobal va && !s.thisDev va then va.toNat else s.devNum * 2 ^ 53 + home * 2 ^ 42 + off) 8
/-- Inject a message of an instance; a mirror copy's message to a P0 core goes to that core's mirror, its writes outside the cores are
answered at once, and its atomics on other devices only read (19 R413; log 72). -/
def State.send (s : State) (kind : MsgKind) (core slot pend home off : Nat) (va : Word) (tag : BitVec 16) : State :=
  let twin := s.isMirror core && home < 512 && (!isGlobal va || s.thisDev va)
  let (home, va) := if twin then (home + 512, if isGlobal va then va + BitVec.ofNat 64 (512 * 2 ^ 42) else va) else (home, va)
  let s := s.trace core (if 16 ≤ slot then 0xFF else slot) 7 0 (s.tracedAddr home off va ++ [BitVec.ofNat 8 (kind.channel (chanHome home va))])
  if twin then s.inject kind core slot pend home off va (s.asidOf core) tag
  else if s.isMirror core && kind.isWrite && 1024 ≤ home then
    s.inject kind.ack core slot pend core off va (s.asidOf core) tag
  else if s.isMirror core && kind.isWrite && isGlobal va && !s.thisDev va then
    s.inject kind.ack core slot pend core off va (s.asidOf core) tag
  else if s.isMirror core && isGlobal va && !s.thisDev va && (match kind with | .ratom .. => true | _ => false) then
    s.inject (.rget 8) core slot pend home off va (s.asidOf core) tag
  else s.inject kind core slot pend home off va (s.asidOf core) tag

/-- The message sent last is a copy's that a user handler has pushed: it acts for the handler's party (19 R409). -/
def State.asParty (s : State) (a : Option Nat) : State :=
  if a.isSome then { s with msgs := replaceFirst (fun m => m.id + 1 == s.fresh) (fun m => { m with party := a }) s.msgs } else s
/-- Inject the one message of an instruction that becomes pending with it: the message takes the next name, the pending
instruction the one after. -/
def State.sendFor (s : State) (kind : MsgKind) (core slot home off : Nat) (va : Word) (tag : BitVec 16) : State :=
  s.send kind core slot (s.fresh + 1) home off va tag

/-- The priority of an MSEND, on its way through too. -/
def MsgKind.msendPrio : MsgKind → Option Nat
  | .msend p _ _ => some p
  | .transit slots => let head := slots.headD []; if field head 10 1 = 5 then some (field head 40 8) else none
  | _ => none
/-- The address that an answer names of its request: for an MSEND, whose offset is 0, an offset that tells its priority, which no access
has, so that its acknowledgement is not taken for that of an access (16 R330; log 47). -/
def Msg.answerVa (m : Msg) : Word :=
  match m.kind.msendPrio with
  | some p => BitVec.ofNat 64 (m.va.toNat / 2 ^ 42 * 2 ^ 42 + (2 ^ 42 - 1 - p))
  | none => m.va
/-- Send what answers a message back to its issuer (14 R273). -/
def State.sendBack (s : State) (m : Msg) (kind : MsgKind) (cc : Nat := 3) : State :=
  let out := if m.dev = 0 then m.core else linkCore ((s.linkTo m.dev).getD 0)
  let s := if m.home < 1024 && (!isGlobal m.va || s.thisDev m.va) then s.trace m.home 0xFF 7 0 (s.tracedAddr m.home m.off m.va ++ [1]) else s
  let due := if m.dev = 0 && isGlobal m.va && !s.thisDev m.va then s.routed (s.exitCore m.asid m.home m.va) out else s.msgDue m.home out cc
  { (if m.dev = 0 then s.listCore m.core else s) with
    msgs := s.msgs ++ [{ m with id := s.fresh, kind := kind, home := m.core, off := m.home, va := if m.dev = 0 then m.va else m.answerVa,
                                due := due, refused := false, retry := 0, rlen := m.kind.answerLen }]
    fresh := s.fresh + 1 }
/-- Send the reply or acknowledgement of a message back to its issuer. -/
def State.reply (s : State) (m : Msg) (val : Vec) (poison : Bool) (fault : Option (BitVec 16)) (cc : Nat := 3) : State :=
  s.sendBack m (.reply val poison fault) cc

/-! ### Far records (03 R58, R59) -/

/-- A far error record in the fault log; one that is written for a core is offered to its comparators of kind 3 (19 R400). -/
def State.farRecord (s0 : State) (code : BitVec 16) (addr : Word) (asid sectors tagst core : Nat) : State :=
  let s := if core < noCore then s0.offerFault core 12 code else s0
  { s with
    log := s.log ++ [{ addr := addr, code := code, asid := asid, who := 12, restarts := 0, core := min core noCore, stamp := s.rtime,
                       tpc := 0, inst := 0, far := some (sectors, tagst) }]
    logCount := s.logCount + 1 }
/-- The supervisor slot of the requester records the uncorrectable far blocks whose poisoned bytes are delivered. -/
def State.recordBad (s : State) (m : Msg) : State :=
  m.bad.foldl (fun s (x : Word × Nat) => s.farRecord (det cUncorrectable 1) x.1 m.asid x.2 2 m.actor) s
/-- An integrity violation that ends a task is one log entry in the layout of a far record: the block's address, its failed
sectors, tag status failed. -/
def State.asFar (s before : State) (m : Msg) : State :=
  match m.bad, s.log.getLast? with
  | (a, sectors) :: _, some e =>
    if before.logCount < s.logCount then { s with log := s.log.dropLast ++ [{ e with addr := a, far := some (sectors, 1) }] } else s
  | _, _ => s

/-! ### Traps in context -/

/-- The core's instance entered ending in an earlier router cycle: no trap is delivered any more (18 R374). -/
def State.endingSince (s : State) (c : Nat) : Bool :=
  match s.ridge? c with
  | some r => (r.state == .ending || r.state == .ended) &&
      (match r.fault with | some f => f.1 != s.rtime | none => true)
  | none => false

/-- What an abandoned handler has issued and the hardware still carries out: its predicates run to completion (12 R250), and its
accepted writes are performed; they write no register. -/
def Pend.leftOver (p : Pend) : Option Pend :=
  match p.kind with
  | .predicate .. | .stl .. | .amo .. | .ctradd .. => some { p with dst := [] }
  | _ => none

/-- Abandon the user handler of slot 13 (14 R285): record the fault, end the ridge for a G5 code, and answer the sender
with the same code as a late fault, with tinfo beside it (15 R309). -/
def State.abandonHandler (s : State) (c : Nat) (code : BitVec 16) (info addr pc : Word) : State :=
  let t := s.thr c 13
  let s1 := s.record c 13 code addr false false pc
  let s2 := if grade code = 5 then (match (s.core c).ridge with | some r => s1.endRidge r c 13 code | none => s1) else s1
  let s3 := match t.invocation with
    | some inv => match (s.core c).inbuf.find? (fun (x : Msg) => x.id == inv.msg) with
      | some m => (s2.reply m (info.setWidth 512) false (some code)).modCore c (fun k =>
          { k with inbuf := k.inbuf.filter (fun (x : Msg) => x.id != inv.msg) })
      | none => s2
    | none => s2
  s3.setThr c 13 { Thread.reset with psq := t.psq.map (fun e => { e with left := true }), pend := t.pend.filterMap Pend.leftOver, tpc := pc &&& 0xFFFFFFFF#64, tcause := causeWord code false false 0, tinfo := info }

/-- The general register that a short-latency instruction writes. -/
def gDest : Instr → Option (BitVec 6)
  | .add d _ _ | .sub d _ _ | .and d _ _ | .or d _ _ | .xor d _ _ | .andn d _ _ | .sll d _ _ | .srl d _ _ | .sra d _ _
  | .ror d _ _ | .slt d _ _ | .sltu d _ _ | .min d _ _ | .minu d _ _ | .max d _ _ | .maxu d _ _ | .addW d _ _ | .subW d _ _
  | .adds d _ _ | .subs d _ _ | .addImmediate d _ _ | .andImmediate d _ _ | .orImmediate d _ _ | .xorImmediate d _ _
  | .sllImmediate d _ _ | .srlImmediate d _ _ | .sraImmediate d _ _ | .rorImmediate d _ _ | .sltImmediate d _ _
  | .sltuImmediate d _ _ | .movhi d _ | .adrhi d _ | .mul d _ _ | .mulW d _ _ | .mulh d _ _ _ | .clz d _ | .ctz d _ | .popc d _
  | .rev8 d _ | .brev d _ | .extBS d _ | .extHS d _ | .extWS d _ | .extBZ d _ | .extHZ d _ | .extWZ d _ | .movTake d _
  | .movGm d _ | .jlk d _ | .jlkr d _ _ | .fadd d _ _ _ | .fsub d _ _ _ | .fmul d _ _ _ | .fmin d _ _ _ | .fmax d _ _ _
  | .fsgn d _ _ _ | .fsgnn d _ _ _ | .fsgnx d _ _ _ | .fma d _ _ _ | .fms d _ _ _ | .fnma d _ _ _ | .fnms d _ _ _ | .feq d _ _ _
  | .flt d _ _ _ | .fle d _ _ _ | .fclass d _ _ | .fcvt d _ _ _ _ _ | .mpopc d _ | .mfirst d _ | .mlast d _ | .vextWZ d _ _
  | .vextWS d _ _ | .vextD d _ _ | .vfredsum d _ _ _ | .vfredmin d _ _ _ | .vfredmax d _ _ _ | .vredadd d _ _ _
  | .vredmin d _ _ _ | .vredmax d _ _ _ | .accq d | .ringqry d _ | .tqry d _ _ | .bget d _ | .bpeek d _ | .bpeekPos d | .bflush d
  | .balign d | .mprobe d _ | .frnset d _ | .frnget d | .frngetWait d _ | .fetest d _ _ | .wlqry d | .pqry d _ | .csrrd d _
  | .csrwr d _ _ | .csrset d _ _ | .csrclr d _ _ => some d
  | _ => none
/-- The word is an instruction that pushes to cq (05 R88). -/
def pushesCq (w : BitVec 32) : Bool := match decode w with | .ok i => gDest i == some 63 | .error _ => false
/-- A trap taken on a push to cq leaves the staging buffer empty, in a pair for both slots (05 R89). -/
def State.dropStaged (s : State) (c sl : Nat) : State :=
  if pushesCq (s.thr c sl).word then
    (if (s.core c).redundant && sl < 12 then [sl / 2 * 2, sl / 2 * 2 + 1] else [sl]).foldl (fun s x => s.modThr c x (fun t => { t with staging := [] })) s
  else s

/-- Deliver a fault to the thread of a slot: a user handler of slot 13 is abandoned, any other thread takes the trap; one that comes
after its instance has entered ending is logged, and the thread does not take it (18 R374). -/
def State.deliver (s : State) (c sl : Nat) (code : BitVec 16) (info addr pc : Word) (late : Bool) (issued : Nat) :
    State :=
  if sl = 13 ∧ (s.thr c 13).invocation.isSome then s.abandonHandler c code info addr pc
  else if s.endingSince c then s.record c sl code addr late (s.thr c sl).handler pc
  else (if late then s else s.dropStaged c sl).takeTrap c sl code info addr pc late issued

/-! ### Restart (18 R384) -/

/-- What a restart abandons: loads, LDX, RGET, CTRWAIT, divides and square roots. -/
def PKind.abandoned : PKind → Bool
  | .load .. | .vload .. | .ldx .. | .ldxRemote .. | .ctrwait .. | .divide _ | .fdiv .. => true
  | .remote size _ => size != 0
  | _ => false

/-- A parked SPAWN is withdrawn: the member that it claims is dormant again (07 R134, R157). -/
def State.unclaim (s : State) (c sl : Nat) : State :=
  match (s.thr c sl).claiming with
  | none => s
  | some (far, member, st) =>
    let s1 := s.modThr c sl (fun t => { t with claiming := none })
    if st = 1 then s1.unhold far member else s1

/-- Mark destinations empty and free. -/
def State.freeAll (s : State) (c sl : Nat) : List Opnd → State
  | [] => s
  | o :: rest => (s.freeReg c sl o).freeAll c sl rest

/-- The restart of an open region: pending reads abandoned, every pending destination empty and free, PC at the entry. -/
def State.restartThread (s0 : State) (c sl : Nat) : State :=
  let s := s0.unclaim c sl
  (s.freeAll c sl ((s.thr c sl).pend.flatMap (·.dst))).modThr c sl (fun t => { t with
    pend := (t.pend.filter (fun p => !p.kind.abandoned)).map (fun p => { p with dst := [] })
    iep := t.iep + 0x1000000000#64
    seen := false
    parkSeen := false
    skipAt := none
    replays := 0
    replayNext := false
    pc := t.iep &&& 0xFFFFFFFF#64 })

/-- The slots that restart together: a redundant pair, or the slot alone. -/
def State.pairOf (s : State) (c sl : Nat) : List Nat :=
  if (s.core c).redundant && sl < 12 then [sl / 2 * 2, sl / 2 * 2 + 1] else [sl]

/-- A ring of a core. -/
def Core.ring (k : Core) (i : Nat) : Ring := (k.rings[i]?).getD Ring.reset
/-- An empty tile-table entry (06 R115). -/
def Tile.reset : Tile :=
  { state := .empty, bytes := 0, scale := 0, fmt := 0, shapeB := false, poison := false, padonly := false, readers := 0 }
/-- The tile-table entry of a slot of a ring. -/
def Ring.tile (r : Ring) (i : Nat) : Tile := (r.tiles[i]?).getD Tile.reset
/-- Change the tile-table entry of a slot of a ring. -/
def Core.modTile (k : Core) (ring slot : Nat) (f : Tile → Tile) : Core :=
  let r := k.ring ring
  { k with rings := k.rings.setIfInBounds ring { r with tiles := r.tiles.set slot (f (r.tile slot)) } }
/-- A consumer of a tile has completed: a draining slot that nobody reads any more is empty (06 R115). -/
def Tile.release (t : Tile) : Tile :=
  if t.readers ≤ 1 && t.state == .draining then Tile.reset else { t with readers := t.readers - 1 }
/-- The tiles an unmatched MMA of a pair would have read are given back (18 R384). -/
def Core.releaseTiles (k : Core) (es : List LvEntry) : Core :=
  es.foldl (fun k e => match e.tiles with
    | some (ra, sa, rb, sb) => (k.modTile ra sa Tile.release).modTile rb sb Tile.release
    | none => k) k

/-- A pending instruction of a pair waits in the comparator for its twin: it is discarded, with the vmq places it holds (18 R384,
R387). -/
def State.dropDeposit (s : State) (c i : Nat) (e : CmpEntry) : State :=
  s.modThr c (2 * i + (if e.leading then 0 else 1)) (fun t => { t with
    pend := t.pend.filter (fun p => p.id != (e.data.headD 0).toNat)
    vmqReserved := if e.kind = 3 then t.vmqReserved - (e.data.length - 2) / 8 else t.vmqReserved })
/-- The PC of a pending instruction. -/
def State.pcOf (s : State) (c sl id : Nat) : Option Word := ((s.thr c sl).pend.find? (fun p => p.id == id)).map (·.pc)
/-- A restart of pair i discards its load-value queue and its unmatched comparator entries; an ACCST or ACCDR that the engine
still carries and whose twin it does not will release nothing (18 R384, R387). -/
def State.clearPair (s : State) (c i : Nat) : State :=
  let p := ((s.core c).pairs[i]?).getD Pair.reset
  let s1 := (p.cmp.filter (fun e => 2 ≤ e.kind)).foldl (fun s e => s.dropDeposit c i e) s
  s1.modCore c (fun k => { k.releaseTiles p.lvq with
    pairs := k.pairs.setIfInBounds i Pair.reset
    engine := k.engine.map (fun e => if e.slot / 2 == i && 2 ≤ e.kind && k.engine.all (fun x => !(x.slot / 2 == i && x.slot != e.slot &&
      x.kind == e.kind && s.pcOf c x.slot x.id == s.pcOf c e.slot e.id)) then { e with solo := true } else e) })

/-- A restart condition finds the region of every slot that it concerns open, and restarted fewer than eight times (18 R384). -/
def State.restarts (s : State) (c sl : Nat) : Bool :=
  (s.pairOf c sl).all (fun x => (s.thr c x).iep.getLsbD 32 && ((s.thr c x).iep.extractLsb' 36 4).toNat < 8)

/-- The restart condition of R384: detail 1 poison consumed, 2 a pair's mismatch; one record for the slot, or for the pair.  The
record carries the count as the restart has raised it. -/
def State.restart (s : State) (c sl detail : Nat) (pc : Word) (late : Bool) (issued : Nat := 0) : State :=
  let t := s.thr c sl
  if !(s.pairOf c sl).all (fun x => (s.thr c x).iep.getLsbD 32) then
    if detail = 2 then s.deliver c sl (det cRedundancyMismatch 0) 0 0 pc late issued
    else s.deliver c sl (det cPoisonConsumed (if t.handler then 3 else 1)) 0 0 pc late issued
  else if !s.restarts c sl then s.deliver c sl (det cRestartLimit 0) 0 0 pc late issued
  else
    let s1 := (s.pairOf c sl).foldl (fun s x => s.restartThread c x) s
    let s2 := s1.record c ((s.pairOf c sl).headD sl) (det cRegionRestart detail) 0 false t.handler pc
    if (s.core c).redundant && sl < 12 then s2.clearPair c (sl / 2) else s2

/-! ### The wrapper -/

/-- What the body of an instruction answers at its attempted issue. -/
inductive Act where
  /-- it issues: the state, the short-latency writes, the next PC where it is not the next word -/
  | ret (s : State) (ws : List (Opnd × Val)) (next : Option Word)
  /-- it issues as a pending long-latency instruction -/
  | pend (s : State) (kind : PKind) (due : Nat)
  | park (w : Wait)
  /-- it parks, and its parking leaves a claim (11 R228) -/
  | parkIn (s : State) (w : Wait)
  /-- a precise fault: code, tinfo, address concerned -/
  | trap (code : BitVec 16) (info addr : Word)
  /-- it consumes poison (18 R384) -/
  | poison
  /-- a trap after which the thread resumes behind the instruction (18 R379) -/
  | trapAfter (code : BitVec 16) (info : Word)
  /-- the trailing slot of a pair finds another instruction's values (18 R385) -/
  | mismatch

/-- A fault that concerns an address. -/
def faultAt (code : BitVec 16) (a : Word) : Act := .trap code a a
/-- A fault with detail and no address. -/
def fault0 (code : BitVec 16) : Act := .trap code 0 0

/-- The operand form of an instruction. -/
structure Form where
  /-- sources in the order they are read -/
  srcs : List Opnd
  dsts : List Opnd
  /-- further registers the instruction names (02 R39) -/
  more : List Opnd := []
  /-- lookahead of a long-latency instruction (02 R25) -/
  la : Option (BitVec 4) := none
  /-- an ordering point (02 R28) -/
  ordering : Bool := false
  /-- a FENCE: it waits as a stall (16 R333) -/
  fence : Bool := false
  /-- ends an idempotent region (18 R383) -/
  ends : Bool := false
  /-- a MOV form: passes poison on (18 R384) -/
  passes : Bool := false
  /-- slots it may issue in (02 R34 check 8), and whether a user handler of slot 13 may issue it -/
  slots : BitVec 16 := 0xFFFF
  inHandler : Bool := true
  /-- it takes a value from outside the pair (18 R385); it gives an effect that leaves the pair (18 R386) -/
  takes : Bool := false
  gives : Bool := false
  /-- local bytes it touches, and whether it reads or writes them (19 R400) -/
  touch : List Val → List (Word × Nat) := fun _ => []
  rd : Bool := false
  wr : Bool := false

/-- The registers a form names: sources, then destinations, then the rest. -/
def Form.names (f : Form) : List Opnd := f.srcs ++ f.dsts ++ f.more

/-- A scalar or vector port window. -/
def Opnd.port? : Opnd → Option Nat
  | .g n => if 56 ≤ n.toNat && n.toNat ≤ 60 then some (n.toNat - 56) else none
  | .v n => if 56 ≤ n.toNat && n.toNat ≤ 60 then some (n.toNat - 51) else none
  | .m _ => none
/-- A window: anything an instruction reaches that is not one of the thread's own registers (18 R383). -/
def Opnd.isQueue : Opnd → Bool
  | .g n => 56 ≤ n.toNat
  | .v n => 56 ≤ n.toNat
  | .m _ => false
/-- A shared register. -/
def Opnd.isShared : Opnd → Bool
  | .g n => 48 ≤ n.toNat && n.toNat ≤ 55
  | _ => false

/-- An instruction of the form ends an open region (18 R383): by itself, or as a pop or push of a window; a read of cq, which pops
nothing, does not. -/
def Form.endsRegion (f : Form) : Bool := f.ends || f.srcs.any (fun o => o.isQueue && o != .g 63) || f.dsts.any Opnd.isQueue

/-- The slot rules of window operands (07 R144, R153; 10 R208; 14 R284). -/
def windowSlotOk (sl : Nat) (handler : Bool) (src : Bool) : Opnd → Bool
  | .g n =>
    if 56 ≤ n.toNat && n.toNat ≤ 61 then sl < 12
    else if n = 62 then (if src then sl == 15 else sl ≤ 12 || (sl == 13 && handler))
    else if n = 63 then src || sl ≤ 12 || sl == 15 || (sl == 13 && handler)
    else true
  | .v n => if 56 ≤ n.toNat then sl < 12 else true
  | .m _ => true

/-- Check 8 of R34. -/
def Form.slotOk (f : Form) (sl : Nat) (handler : Bool) : Bool :=
  f.slots.getLsbD sl && (sl != 13 || !handler || f.inHandler) &&
  f.srcs.all (windowSlotOk sl handler true) && f.dsts.all (windowSlotOk sl handler false)

/-- Check 9 of R34: the first register beyond the declaration, as the detail names it (02 R39, 18 R372). -/
def State.undeclared (s : State) (c : Nat) : List Opnd → Option Nat
  | [] => none
  | .g n :: rest => if s.gDecl c < n.toNat && n.toNat < 48 then some n.toNat else s.undeclared c rest
  | .v n :: rest => if s.vDecl c ≤ n.toNat && n.toNat < 48 then some (64 + n.toNat) else s.undeclared c rest
  | .m _ :: rest => s.undeclared c rest

/-- A named port that is an edge port (07 R147). -/
def State.edgePort (s : State) (c sl : Nat) : List Opnd → Option Nat
  | [] => none
  | o :: rest =>
    match o.port? with
    | some p => match s.binding c sl p with
      | .edge => some (p % 5 + (if 5 ≤ p then 16 else 0))
      | _ => s.edgePort c sl rest
    | none => s.edgePort c sl rest

/-- A remote instruction whose answer has been accepted is complete; its register is full in the next cycle (14 R277, R281). -/
def Pend.answered (p : Pend) : Bool :=
  p.served && (match p.kind with | .remote .. | .ratom | .send .. | .ctxalloc | .ldxRemote .. => true | _ => false)

/-- The instruction lies within the window of every pending instruction (02 R26), and an ordering point waits for all
of them (02 R28): the wait of the first that holds it back. -/
def Thread.windowWait (t : Thread) (ordering : Bool) : Option Wait :=
  (t.pend.find? (fun p => !p.answered && (ordering || p.la ≤ p.issued))).map Pend.wait

/-- A destination of the thread's own whose producer is pending (07 R134). -/
def Thread.dstWait (t : Thread) : List Opnd → Option Wait
  | [] => none
  | o :: rest =>
    let busy : Bool := match o with
      | .g n => n.toNat < 48 && ((t.g[n.toNat]?).getD (Reg.zero 64)).fe == .pending
      | .v n => n.toNat < 48 && ((t.v[n.toNat]?).getD (Reg.zero 512)).fe == .pending
      | .m n => ((t.m[n.toNat]?).getD (Reg.zero 16)).fe == .pending
    if busy then some (t.waitFor o) else t.dstWait rest

/-- The bookkeeping of an issue: older windows count it, a region it ends closes, a handler's count rises
(02 R26, 18 R382, R383, 14 R285). -/
def Thread.counted (t : Thread) (before : List Nat) (ends : Bool) : Thread :=
  { t with
    pend := t.pend.map (fun p => if before.contains p.id then { p with issued := p.issued + 1 } else p)
    iep := if ends then t.iep &&& ~~~(0x100000000#64) else t.iep
    invocation := t.invocation.map (fun v => { v with count := v.count + 1 })
    seen := false
    parkSeen := false
    dirWait := false
    skipAt := none
    replays := 0 }

/-- A pair's queues. -/
def Core.pair (k : Core) (i : Nat) : Pair := (k.pairs[i]?).getD Pair.reset
/-- Replace a pair's queues. -/
def State.setPair (s : State) (c i : Nat) (p : Pair) : State :=
  s.modCore c (fun k => { k with pairs := k.pairs.setIfInBounds i p })
/-- The slot belongs to a redundant pair. -/
def State.isPair (s : State) (c sl : Nat) : Bool := (s.core c).redundant && decide (sl < 12)
/-- The slot is the trailing slot of a pair. -/
def State.isTrailing (s : State) (c sl : Nat) : Bool := s.isPair c sl && sl % 2 == 1

/-- One slot of a pair has issued an instruction. -/
def State.stepPair (s : State) (c sl : Nat) : State :=
  if s.isPair c sl then
    let p := (s.core c).pair (sl / 2)
    s.setPair c (sl / 2) (if sl % 2 = 0 then { p with lead := p.lead + 1 } else { p with trail := p.trail + 1 })
  else s
/-- A slot of a pair that has issued fewer instructions than its twin (18 R390 step 1; log 33). -/
def Pair.behind (p : Pair) (sl : Nat) : Bool := if sl % 2 = 0 then p.lead < p.trail else p.trail < p.lead
/-- What a pair has deposited and not released is withdrawn (19 R401). -/
def Pair.withdraw (p : Pair) : Pair := { p with cmp := p.cmp.filter (fun e => 2 ≤ e.kind || e.matched) }
/-- The slots of a pair stand at one place, and no value and no matched deposit waits (18 R390 step 1). -/
def Pair.met (p : Pair) : Bool := p.lvq.isEmpty && p.lead == p.trail && p.withdraw.cmp.isEmpty

/-- A debug stop of a slot (19 R401): in a redundant pair both stop, and one that is behind issues on until it has reached the
other; the instruction stopped at is that of the one that is not (19 R402). -/
def State.debugStop (s : State) (c sl cause n : Nat) : State :=
  let x := (s.pairOf c sl).headD sl
  let at' := (s.thr c (if s.isPair c sl && ((s.core c).pair (sl / 2)).behind x then x + 1 else x)).pc
  let s1 := if s.isPair c sl then s.setPair c (sl / 2) ((s.core c).pair (sl / 2)).withdraw else s
  ((s.pairOf c sl).foldl (fun s x => ((s.unclaim c x).modCore c (fun k => k.dropClaims x)).modThr c x (fun t =>
    { t with stopped := true, stepping := false, dirWait := false, skipAt := some at' })) s1).trace c
    x 5 (s.thr c x).pc [BitVec.ofNat 8 cause, BitVec.ofNat 8 n]

/-- A stepped thread stops again after the instruction it issues (19 R402). -/
def State.stepped (s : State) (c sl : Nat) : State :=
  if (s.thr c sl).ebrk then (s.modThr c sl (fun t => { t with ebrk := false })).debugStop c sl 2 0
  else if (s.thr c sl).stepping then s.debugStop c sl 0 0 else s

/-- An instruction has issued: count it and go to the next PC. -/
def State.issued (s : State) (c sl : Nat) (before : List Nat) (ends : Bool) (next : Word) : State :=
  let t := s.thr c sl
  ((((s.trace c sl 1 t.pc (leBytes t.word.toNat 4)).modThr c sl (fun t => { t.counted before ends with pc := next })).stepPair c sl).stepped
    c sl).account c sl .issued

/-- A user handler waits only for its own local reads: an LDX.wait counts among them once its tag is sealed (14 R285; 15
R305, R306). -/
def State.stalls (s : State) (c : Nat) (w : Wait) : Bool :=
  w == .stall || w == .directory ||
    (w == .message && (s.thr c 13).pend.all (fun p => match p.kind with
      | .ldx 1 _ tag => tag == 0 || (s.core c).tagState tag == .sealed
      | .ldx 3 _ _ => true
      | k => !k.isMessage) && (s.thr c 13).pend.any (fun p => match p.kind with | .ldx 1 .. | .ldx 3 .. => true | _ => false))

/-- An attempt that parks: only the account changes; a user handler may only stall (14 R285). -/
def State.parked (s : State) (c sl : Nat) (w : Wait) : State :=
  if sl = 13 ∧ (s.thr c 13).invocation.isSome ∧ s.stalls c w = false then
    (s.deliver c 13 (det cHandlerBlock 1) 0 0 (s.thr c 13).pc false 0).account c sl .issued
  else if w = .sleep then (s.modThr c sl (fun t => { t with life := .asleep })).account c sl .vacant
  else
    let t := s.thr c sl
    let s1 := if t.parkSeen then s else s.trace c sl 2 t.pc [if w.cls == .message then 2 else 1]
    (s1.modThr c sl (fun t => { t with parkSeen := true, dirWait := w == .directory })).account c sl w.cls

/-- What the comparator answers to an arrival (18 R386). -/
inductive Meet where
  /-- no twin yet: the arrival waits -/
  | wait (p : Pair)
  /-- its twin has arrived: the entries that are spent are gone -/
  | same (p : Pair)
  | differ

/-- An arrival at the comparator: first its own deposit, then the oldest one of the other side. -/
def Pair.meet (p : Pair) (e : CmpEntry) : Meet :=
  match p.cmp.find? (fun x => x.leading == e.leading && x.kind < 2) with
  | some own =>
    if own.matched then .same { p with cmp := p.cmp.erase own } else .wait p
  | none =>
    match p.cmp.find? (fun x => x.leading != e.leading && !x.matched && x.kind < 2) with
    | some o =>
      if o.pc == e.pc && o.kind == e.kind && o.data == e.data then
        .same { p with cmp := replaceFirst (fun x => x == o) (fun x => { x with matched := true }) p.cmp }
      else .differ
    | none => if 8 ≤ p.cmp.length then .wait p else .wait { p with cmp := p.cmp ++ [e] }

/-- A trap at an attempted issue of a slot of a pair: both slots must take it; it is delivered once, and a user handler
is entered by both (18 R386). -/
def State.pairTrap (s : State) (c sl : Nat) (code : BitVec 16) (info addr pc : Word) : State :=
  let e : CmpEntry := { leading := sl % 2 == 0, pc := pc, kind := 1, data := [code.setWidth 64, info, addr],
                        at' := s.now c, matched := false }
  match ((s.core c).pair (sl / 2)).meet e with
  | .wait p => (s.setPair c (sl / 2) p).parked c sl .memory
  | .differ => (s.restart c sl 2 pc false).account c sl .issued
  | .same _ =>
    let lead := sl / 2 * 2
    let p := (s.core c).pair (sl / 2)
    let s1 := s.setPair c (sl / 2) { p with cmp := p.cmp.filter (fun x => 2 ≤ x.kind) }
    let s2 := s1.deliver c lead code info addr pc false 0
    let s3 := if (s2.thr c lead).handler && !(s.thr c lead).handler then s2.deliver c (lead + 1) code info addr pc false 0
      else s2
    s3.account c sl .issued

/-- A trap at an attempted issue. -/
def State.trappedAt (s : State) (c sl : Nat) (code : BitVec 16) (info addr pc : Word) : State :=
  if s.isPair c sl then s.pairTrap c sl code info addr pc
  else (s.deliver c sl code info addr pc false 0).account c sl .issued
/-- A precise fault of the instruction at the PC. -/
def State.trapped (s : State) (c sl : Nat) (code : BitVec 16) (info addr : Word) : State :=
  s.trappedAt c sl code info addr (s.thr c sl).pc

/-- An attempt consumes poison (18 R384). -/
def State.poisoned' (s : State) (c sl : Nat) : State := (s.restart c sl 1 (s.thr c sl).pc false).account c sl .issued

/-- Add a pending instruction. -/
def State.addPend (s : State) (c sl : Nat) (f : Form) (kind : PKind) (due : Nat) (pc : Word) : State :=
  let p : Pend := { id := s.fresh, kind := kind, pc := pc, word := (s.thr c sl).word, la := ((f.la).getD 0).toNat, issued := 0,
                    dst := f.dsts, due := due, served := false, start := s.now c }
  { s.modThr c sl (fun t => { t with pend := t.pend ++ [p] }) with fresh := s.fresh + 1 }

/-- Carry out what the body of an instruction answers.  DESIGN CHOICE: a jump whose target is bad traps even where its link window has no
room (R190, R191; 02 R40; log 115). -/
def State.perform (s : State) (c sl : Nat) (f : Form) (a : Act) : State :=
  let t := s.thr c sl
  let before := t.pend.map (·.id)
  let ends := f.endsRegion
  match a with
  | .park w => s.parked c sl w
  | .parkIn s1 w => s1.parked c sl w
  | .trap code info addr => s.trapped c sl code info addr
  | .poison => s.poisoned' c sl
  | .mismatch => (s.restart c sl 2 t.pc false).account c sl .issued
  | .trapAfter code info => s.trappedAt c sl code info 0 (t.pc + 4)
  | .ret s1 ws next =>
    match s1.putAll c sl ws with
    | .ok s2 => s2.issued c sl before ends (next.getD (t.pc + 4))
    | .park w => s.parked c sl w
    | .trap code addr => s.trapped c sl code addr addr
  | .pend s1 kind due =>
    match s1.reserveAll c sl f.dsts with
    | .ok s2 => (s2.addPend c sl f kind due t.pc).issued c sl before ends (t.pc + 4)
    | .park w => s.parked c sl w
    | .trap code addr => s.trapped c sl code addr addr

/-! ### Redundant pairs (18 R385-R387; log 33) -/

/-- An operand whose value comes from outside the pair. -/
def Opnd.isOutside (o : Opnd) : Bool := o.isQueue || o.isShared
/-- Some source of a form comes from outside the pair. -/
def Form.srcsIn (f : Form) : Bool := f.srcs.any Opnd.isOutside
/-- A form takes a value from outside the pair. -/
def Form.takesIn (f : Form) : Bool := f.takes || f.srcsIn
/-- A form gives an effect that leaves the pair. -/
def Form.givesOut (f : Form) : Bool := f.gives || f.dsts.any Opnd.isOutside

/-- A value in 64-bit pieces. -/
def words8 (v : Vec) : List Word := (List.range 8).map (fun i => v.extractLsb' (64 * i) 64)
/-- The sources a slot reads itself: the trailing slot of a pair never pops a queue or reads a shared register (18 R385). -/
def Form.ownSrcs (f : Form) (trailing : Bool) : List Opnd :=
  if trailing then f.srcs.filter (fun o => !o.isOutside) else f.srcs
/-- The values of all the sources: those of the slot's own registers, and those passed to it, in the order of the sources. -/
def mergeSrcs : List Opnd → List Val → List Val → List Val
  | [], _, _ => []
  | o :: rest, own, outs =>
    if o.isOutside then outs.headD ⟨0, false⟩ :: mergeSrcs rest own outs.tail
    else own.headD ⟨0, false⟩ :: mergeSrcs rest own.tail outs
/-- The values among those of all the sources that come from outside, or from the slot's own registers. -/
def pickSrcs (outside : Bool) (srcs : List Opnd) (xs : List Val) : List Val :=
  ((srcs.zip xs).filter (fun x => x.1.isOutside == outside)).map (·.2)
/-- The operands an attempt compares: those of the slot's own registers.  What comes from outside is read once, and is the same for
both slots (18 R385). -/
def ownData (own : List Val) : List Word := own.flatMap (fun v => words8 v.x)

/-- An entry of the leading slot's for its trailing one. -/
def State.passOn (s : State) (c sl : Nat) (e : LvEntry) : State :=
  let p := (s.core c).pair (sl / 2)
  s.setPair c (sl / 2) { p with lvq := p.lvq ++ [e] }
/-- Values as an entry holds them. -/
def Val.entry (v : Val) : Vec × Bool := (v.x, v.poison)

/-- A completing instruction of the leading slot fills the entry its issue reserved. -/
def State.supply (s : State) (c sl id : Nat) (vals : List Val) : State :=
  if s.isPair c sl && sl % 2 == 0 then
    let p := (s.core c).pair (sl / 2)
    let q := replaceFirst (fun (e : LvEntry) => e.id == id && !e.ready) (fun e => { e with vals := vals.map Val.entry, ready := true }) p.lvq
    s.setPair c (sl / 2) { p with lvq := q }
  else s

/-- Entries of the load-value queue that an instruction of a form needs: one for what it reads, one for what it receives. -/
def Form.entries (f : Form) : Nat := (if f.srcsIn then 1 else 0) + (if f.takes then 1 else 0)

/-- The leading slot's attempt, its effect matched or needing no match, s1 being s with the sources read: what it takes from outside is
passed on, at its issue or when it completes. -/
def State.leadIssue (s s1 : State) (c sl : Nat) (f : Form) (xs : List Val) (body : State → Nat → Nat → List Val → Act) : State :=
  let e : LvEntry := { pc := (s.thr c sl).pc, ops := ownData (pickSrcs false f.srcs xs), id := 0, vals := [], ready := true }
  let s2 := if f.srcsIn then s1.passOn c sl { e with vals := (pickSrcs true f.srcs xs).map Val.entry } else s1
  match body s2 c sl xs with
  | .ret s3 ws next =>
    s.perform c sl f (.ret (if f.takes then s3.passOn c sl { e with vals := ws.map (fun x => x.2.entry) } else s3) ws next)
  | .pend s3 kind due =>
    s.perform c sl f (.pend (if f.takes then s3.passOn c sl { e with id := s3.fresh, ready := false } else s3) kind due)
  | .parkIn .. => s.perform c sl f (body s1 c sl xs)
  | a => s.perform c sl f a

/-- The trailing slot's own vmq loses the entries its leading slot popped (11 R241; log 33). -/
def State.dropVmq (s : State) (c sl : Nat) (f : Form) : State :=
  let n := (f.srcs.filter (fun o => o == .v 62)).length
  if n = 0 then s else s.modThr c sl (fun t => { t with vmq := t.vmq.drop n })

/-- What the trailing slot finds in the load-value queue for the sources of a form (18 R385). -/
inductive Found where
  /-- all its operands, and the entries that follow -/
  | ok (xs : List Val) (rest : List LvEntry)
  /-- its entry is absent -/
  | absent
  /-- the entry is another instruction's -/
  | differ
/-- The entry at the head of a pair's queue, for an instruction with these operands of its own. -/
def headEntry (q : List LvEntry) (pc : Word) (ops : List Word) : Option (Option LvEntry) :=
  match q with
  | [] => none
  | e :: _ => if e.pc != pc || e.ops != ops then some none else if e.ready then some (some e) else none
/-- The sources of a trailing slot's instruction. -/
def Form.found (f : Form) (q : List LvEntry) (pc : Word) (own : List Val) : Found :=
  if !f.srcsIn then .ok own q
  else match headEntry q pc (ownData own) with
    | none => .absent
    | some none => .differ
    | some (some e) => .ok (mergeSrcs f.srcs own (e.vals.map (fun x => ⟨x.1, x.2⟩))) q.tail

/-- The trailing slot's own push to cq, which its leading one has made for both: it stages the word too, so that it knows the committing
push of a register fill; that one takes what the fill has supplied, and waits for it (05 R93; 18 R385, R386; log 33). -/
def State.trailCq (s : State) (c sl : Nat) (x : Word) : Option State :=
  let t := s.thr c sl
  let ws := t.staging ++ [x]
  if 4 ≤ ws.length ∧ reqWords ((ws[2]?).getD 0) ≤ ws.length then
    let s1 := s.modThr c sl (fun t => { t with staging := [] })
    if !lfReg ((ws[2]?).getD 0) then some s1
    else
      let p := (s.core c).pair (sl / 2)
      match p.lvq with
      | e :: rest =>
        if e.pc == t.pc && e.ready then
          some ((s1.setPair c (sl / 2) { p with lvq := rest }).modThr c sl (fun t =>
            match e.vals with
            | (v, po) :: _ => t.setG ((ws[1]?).getD 0).toNat { val := v.setWidth 64, fe := .full, poison := po }
            | [] => t))
        else none
      | [] => none
  else some (s.modThr c sl (fun t => { t with staging := ws }))
/-- The trailing slot's pushes to cq, among what an instruction writes. -/
def State.trailPushes (s : State) (c sl : Nat) (ws : List (Opnd × Val)) : Option State :=
  match ws.find? (fun x => x.1 == .g 63) with
  | some (_, v) => s.trailCq c sl v.w
  | none => some s

/-- The trailing slot goes on with an instruction whose effect, if it leaves the pair, has been released; base: what it leaves where it
must wait.  It writes only what stays in its registers. -/
def State.trailDone (base s2 : State) (c sl : Nat) (f : Form) (xs : List Val) (body : State → Nat → Nat → List Val → Act) : State :=
  let t := base.thr c sl
  let before := t.pend.map (·.id)
  match body s2 c sl xs with
  | .ret s3 ws next =>
    match (if f.gives then s2 else s3).trailPushes c sl ws with
    | none => base.parked c sl .memory
    | some s4 =>
      match s4.putAll c sl (ws.filter (fun x => !x.1.isOutside)) with
      | .ok s5 => s5.issued c sl before f.endsRegion (next.getD (t.pc + 4))
      | _ => base.parked c sl .memory
  | .pend s3 kind due => if f.gives then s2.issued c sl before f.endsRegion (t.pc + 4) else base.perform c sl f (.pend s3 kind due)
  | .park w => if f.gives then s2.issued c sl before f.endsRegion (t.pc + 4) else base.parked c sl w
  | .parkIn _ w =>
    if f.gives then s2.issued c sl before f.endsRegion (t.pc + 4)
    else match body base c sl xs with
      | .parkIn s3 w => s3.parked c sl w
      | _ => base.parked c sl w
  | a => base.perform c sl f a

/-- The trailing slot takes its load-value entries, compares them, and goes on. -/
def State.trailTake (base s1 : State) (c sl : Nat) (f : Form) (own : List Val) (body : State → Nat → Nat → List Val → Act) : State :=
  let t := base.thr c sl
  let p := (s1.core c).pair (sl / 2)
  match f.found p.lvq t.pc own with
  | .absent => base.parked c sl .memory
  | .differ => (base.restart c sl 2 t.pc false).account c sl .issued
  | .ok xs rest =>
    if xs.any (·.poison) && !f.passes then (base.restart c sl 1 t.pc false).account c sl .issued
    else if f.takes then
      match headEntry rest t.pc (ownData own) with
      | none => base.parked c sl .memory
      | some none => (base.restart c sl 2 t.pc false).account c sl .issued
      | some (some e) =>
        let s2 := (s1.setPair c (sl / 2) { p with lvq := rest.tail }).dropVmq c sl f
        let vs : List (Opnd × Val) := f.dsts.zip (e.vals.map (fun x => ⟨x.1, x.2⟩))
        (s2.fillAll c sl (vs.filter (fun x => !x.1.isOutside))).issued c sl (t.pend.map (·.id)) f.endsRegion (t.pc + 4)
    else base.trailDone ((s1.setPair c (sl / 2) { p with lvq := rest }).dropVmq c sl f) c sl f xs body

/-- An attempt of the leading slot of a pair; s1 is s with the sources read.  The checks of the body come before the comparison. -/
def State.leadAttempt (s s1 : State) (c sl : Nat) (f : Form) (xs : List Val) (body : State → Nat → Nat → List Val → Act) : State :=
  let t := s.thr c sl
  let p := (s.core c).pair (sl / 2)
  if 32 < p.lvq.length + f.entries then s.parked c sl .memory
  else if !f.givesOut then s.leadIssue s1 c sl f xs body
  else match body s1 c sl xs with
  | .ret .. | .pend .. =>
    match p.meet { leading := true, pc := t.pc, kind := 0, data := ownData (pickSrcs false f.srcs xs), at' := s.now c, matched := false } with
    | .wait p' => (s.setPair c (sl / 2) p').parked c sl .memory
    | .differ => (s.restart c sl 2 t.pc false).account c sl .issued
    | .same p' => s.leadIssue (s1.setPair c (sl / 2) p') c sl f xs body
  | a => s.perform c sl f a

/-- The leading slot has met a trap at the trailing slot's instruction. -/
def Pair.leadTrap (p : Pair) (pc : Word) : Option CmpEntry :=
  p.cmp.find? (fun x => x.leading && x.kind == 1 && x.pc == pc && !x.matched)
/-- The leading slot has deposited an effect that has no twin yet. -/
def Pair.leadWaits (p : Pair) : Bool := p.cmp.any (fun x => x.leading && x.kind < 2 && !x.matched)

/-- An attempt of the trailing slot of a pair; s1 is s with its own sources read.  Where an operand comes from outside, or its result,
it waits for its leading slot: a trap that one meets on what it has read is the pair's. -/
def State.trailAttempt (s s1 : State) (c sl : Nat) (f : Form) (own : List Val) (body : State → Nat → Nat → List Val → Act) : State :=
  let t := s.thr c sl
  let p := (s.core c).pair (sl / 2)
  let done := p.cmp.any (fun x => !x.leading && x.matched && x.pc == t.pc && x.kind == 0)
  match (if f.takesIn && !done then p.leadTrap t.pc else none) with
  | some e => s.pairTrap c sl (((e.data[0]?).getD 0).setWidth 16) ((e.data[1]?).getD 0) ((e.data[2]?).getD 0) t.pc
  | none =>
  if !f.givesOut then s.trailTake s1 c sl f own body
  else
    let check : Act := if done || f.srcsIn then .park .memory else body s1 c sl own
    match check with
    | .trap code info addr => s.perform c sl f (.trap code info addr)
    | .trapAfter code info => s.perform c sl f (.trapAfter code info)
    | .poison => s.perform c sl f .poison
    | _ =>
      if f.srcsIn && !done && !p.leadWaits then s.parked c sl .memory
      else
        let e : CmpEntry := { leading := false, pc := t.pc, kind := 0, data := ownData own, at' := s.now c, matched := false }
        match p.meet e with
        | .wait p' => (s.setPair c (sl / 2) p').parked c sl .memory
        | .differ => (s.restart c sl 2 t.pc false).account c sl .issued
        | .same p' => (s.setPair c (sl / 2) { p' with cmp := p'.cmp ++ [{ e with matched := true }] }).trailTake
            (s1.setPair c (sl / 2) p') c sl f own body

/-- An issue attempt of a slot of a redundant pair whose form takes or gives something outside the pair; s1 is s with the
sources read. -/
def State.pairIssue (s s1 : State) (c sl : Nat) (f : Form) (xs : List Val)
    (body : State → Nat → Nat → List Val → Act) : State :=
  if sl % 2 = 0 then s.leadAttempt s1 c sl f xs body else s.trailAttempt s1 c sl f xs body

/-- The comparators of kinds 1 and 2 that a local access matches: its bytes touch the line, which a value of 42 bits can name (19
R400). -/
def State.accessHits (s : State) (c sl : Nat) (f : Form) (xs : List Val) : List Nat :=
  let d := (s.core c).dbg
  (f.touch xs).flatMap (fun (a, n) =>
    (List.range ((a.toNat + n - 1) / 64 + 1 - a.toNat / 64)).flatMap (fun i =>
      let x := a.toNat + 64 * i
      if 2 ^ 42 ≤ x then [] else
      (if f.rd then d.hits 1 sl x 0x3FFFFFFFFC0 else []) ++ (if f.wr then d.hits 2 sl x 0x3FFFFFFFFC0 else [])))

/-- A thread ignores the breakpoints of the instruction it stopped at when it goes on (19 R402). -/
def Thread.skips (t : Thread) : Bool := t.skipAt == some t.pc
/-- The first of some comparators that stops its thread (19 R400, R401). -/
def State.stopHit (s : State) (c sl : Nat) (ns : List Nat) : Option Nat :=
  if 12 ≤ sl && sl ≤ 14 || (s.thr c sl).stopped then none
  else ns.find? (fun n => (((s.core c).dbg.bkpt[n]?).getD 0).getLsbD 43)

/-- All sources of an attempt that has read its own: a trailing slot's others stand in the load-value queue, if they are there (18
R385). -/
def State.allSrcs (s : State) (c sl : Nat) (f : Form) (xs : List Val) : List Val :=
  if !s.isTrailing c sl then xs
  else match f.found ((s.core c).pair (sl / 2)).lvq (s.thr c sl).pc xs with
    | .ok ys _ => ys
    | _ => []

/-- Issue an instruction in the slot whose opportunity it is: the checks in the order of R34, R26 and R28, R147, R134
and R40, then its body.  DESIGN CHOICE: poison is consumed before a body makes its own checks, so for a predicate after check 5 of 12
R249 and before checks 6 and 7 (log 118); the room of a jump's link is looked at after its body (log 115). -/
def State.issue (s : State) (f : Form) (body : State → Nat → Nat → List Val → Act) : State :=
  let c := s.curCore
  let sl := s.curSlot
  let t := s.thr c sl
  let trailing := s.isTrailing c sl
  if !f.slotOk sl t.invocation.isSome then s.trapped c sl (det cIllegalInstruction 7) 0 0
  else match s.undeclared c f.names with
  | some d => s.trapped c sl (det cIllegalRegister d) 0 0
  | none =>
  match t.invocation with
  | some ⟨_, 256, _, _⟩ => s.trapped c sl (det cHandlerBlock 2) 0 0
  | _ =>
  match t.windowWait f.ordering with
  | some w => s.parked c sl (if f.fence then .stall else w)
  | none =>
  match s.edgePort c sl f.names with
  | some d => s.trapped c sl (det cPortEdge d) 0 0
  | none =>
  match s.readAll c sl (f.ownSrcs trailing) with
  | .park w => s.parked c sl w
  | .trap code => s.trapped c sl code 0 0
  | .ok s1 xs =>
  let all := s.allSrcs c sl f xs
  let ns := if t.skips || all.isEmpty then [] else s.accessHits c sl f all
  let s := s.offer c ns
  let s1 := s1.offer c ns
  match s.stopHit c sl ns with
  | some n => (s.debugStop c sl 1 n).account c sl .vacant
  | none =>
  match t.dstWait f.dsts with
  | some w => s.parked c sl w
  | none =>
    if xs.any (·.poison) && !f.passes then s.poisoned' c sl
    else if s.isPair c sl && (f.takesIn || f.givesOut) then s.pairIssue s1 c sl f xs body
    else s.perform c sl f (body s1 c sl xs)

/-- An issue as the outcome of a step. -/
def State.issueStep (s : State) (f : Form) (body : State → Nat → Nat → List Val → Act) :
    Host.Outcome State Fault Refusal :=
  .next (s.issue f body)

/-! ### Completions -/

/-- A pending instruction by its name. -/
def State.pend? (s : State) (c sl id : Nat) : Option Pend := (s.thr c sl).pend.find? (fun p => p.id == id)
/-- Remove a pending instruction. -/
def State.dropPend (s : State) (c sl id : Nat) : State :=
  s.modThr c sl (fun t => { t with pend := t.pend.filter (fun p => p.id != id) })
/-- A pending instruction completes: its destinations are filled with the values given, in order. -/
def State.finish (s : State) (c sl : Nat) (p : Pend) (vs : List Val) : State :=
  let s1 := ((s.trace c sl 3 p.pc (leBytes p.word.toNat 4)).dropPend c sl p.id).fillAll c sl (p.dst.zip vs)
  s1.supply c sl p.id vs
/-- A pending instruction consumes poison at its completion (18 R384): it has no effect. -/
def State.consumed (s : State) (c sl : Nat) (p : Pend) : State :=
  ((s.dropPend c sl p.id).freeAll c sl p.dst).restart c sl 1 p.pc true p.issued
/-- A pending instruction takes a late fault (02 R29): its window's count is reported, its destinations stay empty.  In a pair the
leading slot makes every access, and its late fault is the pair's; a fault of the trailing slot alone is a mismatch (18 R386; log 33). -/
def State.lateFault (s : State) (c sl : Nat) (p : Pend) (code : BitVec 16) (info addr : Word) : State :=
  let s1 := (s.dropPend c sl p.id).freeAll c sl p.dst
  if s.isTrailing c sl then s1.restart c sl 2 p.pc true p.issued else s1.deliver c sl code info addr p.pc true p.issued

end Sys2Proof.Machine
end

