-- ==== Sys2Proof/Machine/Flags.lean ====
section
/-! DEFINITION. Number formats, rounding and flags (08 R159-R179): every result is rounded from an exact value. -/

namespace Sys2Proof.Machine
open Sys2Proof

/-! ### Exact values -/

/-- An exact value: NaN (signalling or not), an infinity, or ±n/d with d > 0 (zero keeps its sign). -/
inductive Num where
  | nan (signalling : Bool)
  | inf (neg : Bool)
  | fin (neg : Bool) (n d : Nat)
  deriving DecidableEq, Repr

/-- The value is a NaN. -/
def Num.isNan : Num → Bool | .nan _ => true | _ => false
/-- The value is a signalling NaN. -/
def Num.isSig : Num → Bool | .nan b => b | _ => false
/-- The value is a zero. -/
def Num.isZero : Num → Bool | .fin _ n _ => n == 0 | _ => false
/-- The sign. -/
def Num.neg? : Num → Bool | .nan _ => false | .inf b => b | .fin b _ _ => b
/-- The value with the other sign. -/
def Num.negate : Num → Num | .nan b => .nan b | .inf b => .inf (!b) | .fin b n d => .fin (!b) n d
/-- An integer. -/
def Num.ofInt (i : Int) : Num := .fin (decide (i < 0)) i.natAbs 1

/-- A binary format (08 R159): precision, emin, emax and width. -/
structure Fmt where
  p : Nat
  emin : Int
  emax : Int
  bits : Nat
  deriving DecidableEq, Repr

def f64 : Fmt := ⟨53, -1022, 1023, 64⟩
def f32 : Fmt := ⟨24, -126, 127, 32⟩
def f16 : Fmt := ⟨11, -14, 15, 16⟩
def bf16 : Fmt := ⟨8, -126, 127, 16⟩

/-- The exponent field of infinities and NaNs. -/
def Fmt.expMax (f : Fmt) : Nat := 2 ^ (f.bits - f.p) - 1
/-- Positive infinity. -/
def Fmt.infBits (f : Fmt) : Nat := f.expMax * 2 ^ (f.p - 1)
/-- The canonical NaN (08 R160). -/
def Fmt.nanBits (f : Fmt) : Nat := f.infBits + 2 ^ (f.p - 2)
/-- The largest finite magnitude. -/
def Fmt.maxBits (f : Fmt) : Nat := f.infBits - 1
/-- The sign bit. -/
def Fmt.sign (f : Fmt) (neg : Bool) : Nat := if neg then 2 ^ (f.bits - 1) else 0

/-- m × 2^e as an exact value. -/
def Num.scaled (neg : Bool) (m : Nat) (e : Int) : Num :=
  match e with
  | .ofNat k => .fin neg (m * 2 ^ k) 1
  | .negSucc k => .fin neg m (2 ^ (k + 1))

/-- The exact value of the bits of a format (08 R159, R160). -/
def Fmt.decode (f : Fmt) (x : Nat) : Num :=
  let x := x % 2 ^ f.bits
  let neg := decide (2 ^ (f.bits - 1) ≤ x)
  let e := x / 2 ^ (f.p - 1) % 2 ^ (f.bits - f.p)
  let m := x % 2 ^ (f.p - 1)
  if e = f.expMax then
    if m = 0 then .inf neg else .nan (decide (m < 2 ^ (f.p - 2)))
  else if e = 0 then Num.scaled neg m (f.emin - (f.p - 1))
  else Num.scaled neg (m + 2 ^ (f.p - 1)) (f.emin - (f.p - 1) + (e - 1))

/-! ### Rounding (08 R161-R163) -/

/-- Rounding modes. -/
inductive Rm where
  | rne | rtz | rup | rdn
  deriving DecidableEq, Repr

/-- fcsr bits 7:6. -/
def Rm.of (b : Nat) : Rm := match b with | 0 => .rne | 1 => .rtz | 2 => .rup | _ => .rdn

/-- Flags in the bit order of fcsr: nv 4, dz 3, of 2, uf 1, nx 0. -/
abbrev Flg := BitVec 5
def fNone : Flg := 0
def fNv : Flg := 16
def fDz : Flg := 8
def fOf : Flg := 4
def fUf : Flg := 2
def fNx : Flg := 1

/-- Round the magnitude n/d to an integer in the direction of the mode. -/
def roundNat (mode : Rm) (neg : Bool) (n d : Nat) : Nat :=
  let m := n / d
  let r := n % d
  match mode with
  | .rne => if 2 * r < d then m else if d < 2 * r then m + 1 else m + m % 2
  | .rtz => m
  | .rup => if r = 0 || neg then m else m + 1
  | .rdn => if r = 0 || !neg then m else m + 1

/-- floor(log2(n/d)) for n, d > 0. -/
def ilog2 (n d : Nat) : Int :=
  let e : Int := (Nat.log2 n : Int) - (Nat.log2 d : Int)
  match e with
  | .ofNat k => if d * 2 ^ k ≤ n then e else e - 1
  | .negSucc k => if d ≤ n * 2 ^ (k + 1) then e else e - 1

/-- n/d divided by 2^q, as a numerator and a denominator. -/
def scaleDown (n d : Nat) (q : Int) : Nat × Nat :=
  match q with
  | .ofNat k => (n, d * 2 ^ k)
  | .negSucc k => (n * 2 ^ (k + 1), d)

/-- The result on overflow (08 R163). -/
def Fmt.overflow (f : Fmt) (mode : Rm) (neg : Bool) : Nat :=
  f.sign neg + (match mode with
    | .rne => f.infBits
    | .rtz => f.maxBits
    | .rup => if neg then f.maxBits else f.infBits
    | .rdn => if neg then f.infBits else f.maxBits)

/-- 2^k ≤ m. -/
def powLe (k : Int) (m : Nat) : Bool := match k with | .ofNat j => decide (2 ^ j ≤ m) | .negSucc _ => decide (0 < m)

/-- n/d rounded to a multiple of 2^q: the multiple, and whether it is inexact. -/
def roundAt (mode : Rm) (neg : Bool) (n d : Nat) (q : Int) : Nat × Bool :=
  let ab := scaleDown n d q
  (roundNat mode neg ab.1 ab.2, ab.1 % ab.2 != 0)

/-- round_ieee (08 R163). -/
def roundIeee (v : Num) (f : Fmt) (mode : Rm) : Nat × Flg :=
  match v with
  | .nan sg => (f.nanBits, if sg then fNv else fNone)
  | .inf neg => (f.sign neg + f.infBits, fNone)
  | .fin neg n d =>
    if n = 0 then (f.sign neg, fNone)
    else
      let e := ilog2 n d
      let q := max e f.emin - (f.p - 1)
      let m := roundAt mode neg n d q
      if powLe (f.emax + 1 - q) m.1 then (f.overflow mode neg, fOf ||| fNx)
      else
        let u := roundAt mode neg n d (e - (f.p - 1))
        let tiny := !powLe (f.emin - (e - (f.p - 1))) u.1
        (f.sign neg + (q - (f.emin - (f.p - 1))).toNat * 2 ^ (f.p - 1) + m.1,
         if m.2 then (if tiny then fUf ||| fNx else fNx) else fNone)

/-! ### Exact arithmetic (09 R192) -/

/-- The product; 0 × ∞ is invalid. -/
def Num.mul : Num → Num → Num
  | .nan a, .nan b => .nan (a || b)
  | .nan a, _ => .nan a
  | _, .nan b => .nan b
  | .inf a, .inf b => .inf (a != b)
  | .inf a, .fin b n _ => if n = 0 then .nan true else .inf (a != b)
  | .fin a n _, .inf b => if n = 0 then .nan true else .inf (a != b)
  | .fin a n d, .fin b m e => .fin (a != b) (n * m) (d * e)

/-- The sum; ∞ - ∞ is invalid; an exact zero sum takes the sign of IEEE 754. -/
def Num.add (mode : Rm) : Num → Num → Num
  | .nan a, .nan b => .nan (a || b)
  | .nan a, _ => .nan a
  | _, .nan b => .nan b
  | .inf a, .inf b => if a = b then .inf a else .nan true
  | .inf a, _ => .inf a
  | _, .inf b => .inf b
  | .fin a n d, .fin b m e =>
    if n = 0 ∧ m = 0 then .fin (if a = b then a else mode == .rdn) 0 1
    else
      let x := n * e
      let y := m * d
      if a = b then .fin a (x + y) (d * e)
      else if x = y then .fin (mode == .rdn) 0 1
      else if y < x then .fin a (x - y) (d * e)
      else .fin b (y - x) (d * e)

/-- The quotient with its dz flag; 0/0 and ∞/∞ are invalid. -/
def Num.div : Num → Num → Num × Flg
  | .nan a, .nan b => (.nan (a || b), fNone)
  | .nan a, _ => (.nan a, fNone)
  | _, .nan b => (.nan b, fNone)
  | .inf _, .inf _ => (.nan true, fNone)
  | .inf a, .fin b _ _ => (.inf (a != b), fNone)
  | .fin a _ _, .inf b => (.fin (a != b) 0 1, fNone)
  | .fin a n d, .fin b m e =>
    if m = 0 then (if n = 0 then (.nan true, fNone) else (.inf (a != b), fDz))
    else (.fin (a != b) (n * e) (d * m), fNone)

/-- The integer square root of n, bit by bit from 2^k. -/
def isqrt : Nat → Nat → Nat → Nat
  | 0, r, n => if (r + 1) * (r + 1) ≤ n then r + 1 else r
  | k + 1, r, n => isqrt k (if (r + 2 ^ (k + 1)) * (r + 2 ^ (k + 1)) ≤ n then r + 2 ^ (k + 1) else r) n

/-- The square root of a value whose denominator is a power of two, exact, or off by less than half of a place far below
any rounding place (so that it rounds as the exact root does). -/
def Num.sqrt : Num → Num
  | .nan a => .nan a
  | .inf a => if a then .nan true else .inf false
  | .fin a n d =>
    if n = 0 then .fin a 0 1
    else if a then .nan true
    else
      let y := n * d * 2 ^ 256
      let r := isqrt (Nat.log2 y / 2 + 1) 0 y
      if r * r = y then .fin false r (d * 2 ^ 128) else .fin false (2 * r + 1) (2 * d * 2 ^ 128)

/-- x < y of two values that are no NaN. -/
def Num.lt : Num → Num → Bool
  | .nan _, _ | _, .nan _ => false
  | .inf a, .inf b => a && !b
  | .inf a, .fin _ _ _ => a
  | .fin _ _ _, .inf b => !b
  | .fin a n d, .fin b m e =>
    if n = 0 ∧ m = 0 then false
    else if a && !b then true
    else if !a && b then false
    else if a then m * d < n * e else n * e < m * d
/-- x = y of two values that are no NaN; zeros are equal. -/
def Num.eq (x y : Num) : Bool := !x.isNan && !y.isNan && !x.lt y && !y.lt x

/-- A conversion to an integer of a range (08 R170).  Every NaN source raises nv here, as R170 says; R165 and 09 R198 say that a D8 NaN
and a quiet one raise none, which the model reads as speaking of conversions to other formats (log 95). -/
def toInteger (v : Num) (mode : Rm) (lo hi : Int) : Int × Flg :=
  match v with
  | .nan _ => (0, fNv)
  | .inf neg => (if neg then lo else hi, fNv)
  | .fin neg n d =>
    let m := roundNat mode neg n d
    let i : Int := if neg then -(m : Int) else m
    if i < lo then (lo, fNv) else if hi < i then (hi, fNv)
    else (i, if n % d = 0 then fNone else fNx)

/-! ### D8 (08 R165-R168) -/

/-- The finite magnitudes of D8 in rising order, times 32 × 10^11, with payload and k (08 R165, R166). -/
def d8Decade (e : Nat) : List (Nat × Nat × Nat) :=
  let one := 32 * 10 ^ e
  let z3 (p : Nat) := [(one, p, 0)]
  let z2 (p : Nat) := (List.range 2).map (fun k => (one + 9 * k * (one / 2), p + k, k))
  let z1 (p : Nat) := (List.range 8).map (fun k => (one + 9 * k * (one / 8), p + k, k))
  let z0 (p : Nat) := (List.range 32).map (fun k => (one + 9 * k * (one / 32), p + k, k))
  match e with
  | 0 => z3 0x0B | 1 => z3 0x0A | 2 => z3 0x09 | 3 => z3 0x08
  | 4 => z2 0x16 | 5 => z2 0x14 | 6 => z2 0x12 | 7 => z2 0x10
  | 8 => z1 0x20 | 9 => z1 0x28
  | 10 => z0 0x40 | 11 => z0 0x60
  | 12 => z1 0x30 | 13 => z1 0x38
  | 14 => z2 0x18 | 15 => z2 0x1A | 16 => z2 0x1C | 17 => z2 0x1E
  | 18 => z3 0x0C | 19 => z3 0x0D | 20 => z3 0x0E | 21 => z3 0x0F
  | _ => []

/-- The ladder of the finite magnitudes, then 10^11, which no code holds. -/
def d8Ladder : List (Nat × Nat × Nat) :=
  (List.range 22).flatMap d8Decade ++ [(32 * 10 ^ 22, 0x80, 0)]

/-- The exact value of a D8 code (08 R165). -/
def d8Exact (c : Nat) : Num :=
  let c := c % 256
  let neg := decide (128 ≤ c)
  let p := c % 128
  if p = 0 then .fin neg 0 1
  else if p = 4 then .inf neg
  else match d8Ladder.find? (fun (_, q, _) => q == p) with
    | some (m, _, _) => .fin neg m (32 * 10 ^ 11)
    | none => .nan false

/-- d8_dec: the binary32 value nearest a code's exact value (08 R167). -/
def d8Dec (c : Nat) : Num := f32.decode (roundIeee (d8Exact c) f32 .rne).1

/-- The steps at and above a magnitude of n/d: the greatest step not above it and the next. -/
def d8Steps (n d : Nat) : List (Nat × Nat × Nat) → Option ((Nat × Nat × Nat) × (Nat × Nat × Nat))
  | x :: y :: rest =>
    if n * (32 * 10 ^ 11) < y.1 * d then some (x, y) else d8Steps n d (y :: rest)
  | _ => none

/-- What rounding to D8 gives: a code and flags, or NARROW_RANGE. -/
inductive D8r where
  | ok (code : Nat) (f : Flg)
  | trap
  deriving DecidableEq, Repr

/-- d8_round (08 R168). -/
def d8Round (v : Num) (mode : Rm) : D8r :=
  match v with
  | .nan sg => .ok 0x05 (if sg then fNv else fNone)
  | .inf neg => .ok (if neg then 0x84 else 0x04) fNone
  | .fin neg n d =>
    let s := if neg then 0x80 else 0
    if n = 0 then .ok s fNone
    else if n * 10 ^ 11 < d then .ok s (fUf ||| fNx)
    else match d8Steps n d d8Ladder with
      | none => .trap
      | some (x, y) =>
        let unitN := 32 * 10 ^ 11
        if x.1 * d = n * unitN then .ok (s + x.2.1) fNone
        else
          let up : Bool := match mode with
            | .rne =>
              let mid := (x.1 + y.1) * d
              let two := 2 * n * unitN
              if two < mid then false else if mid < two then true
              else !(x.2.2 % 2 == 0 && y.2.2 % 2 == 1)
            | .rtz => false
            | .rup => !neg
            | .rdn => neg
          let r := if up then y else x
          if r.2.1 = 0x80 then .trap else .ok (s + r.2.1) fNx

/-- floor(log10(n/d)) of a magnitude of at least 1, saturating at 127 (08 R171). -/
def ilog10 : Nat → Nat → Nat
  | 0, _ => 0
  | k + 1, m => if m < 10 then 0 else ilog10 k (m / 10) + 1
/-- xexp of a trapping magnitude. -/
def xexp (v : Num) : Nat := match v with | .fin _ n d => ilog10 127 (n / d) | _ => 0

/-! ### fcsr (08 R161, R162, R164) -/

/-- The rounding mode of a thread. -/
def Thread.rm (t : Thread) : Rm := Rm.of (t.fcsr.extractLsb' 6 2).toNat
/-- The rounding mode of the slot. -/
def State.rm (s : State) (c sl : Nat) : Rm := (s.thr c sl).rm

/-- Record the first raise of each flag for rflags (08 R164). -/
def raise (now : Nat) (f : Flg) (xs : List (Nat × Nat)) : List (Nat × Nat) :=
  (List.range 5).foldl (fun acc b =>
    if f.getLsbD b && acc.all (fun x => x.1 != b) then acc ++ [(b, now)] else acc) xs

/-- OR flags into the thread's fcsr, and into the ridge's union (08 R162, R164). -/
def State.orFlags (s : State) (c sl : Nat) (f : Flg) : State :=
  if f = 0 then s
  else
    let s1 := s.modThr c sl (fun t => { t with fcsr := t.fcsr ||| f.setWidth 64 })
    match (s.core c).ridge with
    | some r => s1.modRidge r (fun x => { x with raised := raise s.rtime f x.raised })
    | none => s1

/-! ### Formats of the general registers (09 R181) -/

/-- The result of a binary32 operation in a general register. -/
def wide32 (x : Nat) : Word := BitVec.ofNat 64 (x % 2 ^ 32)
/-- A format by its code in R197. -/
def fmtOf : Nat → Option Fmt | 0 => some f64 | 1 => some f32 | 2 => some f16 | 3 => some bf16 | _ => none
/-- The exact value of a general register in the format of a code of R197. -/
def valueOf (code : Nat) (x : Word) : Num :=
  match code with
  | 0 => f64.decode x.toNat
  | 1 => f32.decode x.toNat
  | 2 => f16.decode x.toNat
  | 3 => bf16.decode x.toNat
  | 4 => d8Exact x.toNat
  | 5 => Num.ofInt x.toInt
  | 6 => Num.ofInt x.toNat
  | _ => Num.ofInt (x.setWidth 32).toInt

/-! ### Matrix accumulation (08 R175, R176) -/

/-- The exact sum of signed integers as (negative, magnitude). -/
def sumInts (xs : List Int) : Int := xs.foldl (· + ·) 0

/-- mma_group over its exact terms, the element's value first; nv from the products (08 R175). -/
def mmaGroup (t : List Num) (nv : Bool) : Nat × Flg :=
  let f := if nv then fNv else fNone
  if t.any Num.isNan then (f32.nanBits, f)
  else
    let pi := t.any (fun x => x == .inf false)
    let ni := t.any (fun x => x == .inf true)
    if pi && ni then (f32.nanBits, f ||| fNv)
    else if pi then (f32.infBits, f)
    else if ni then (f32.sign true + f32.infBits, f)
    else if t.all Num.isZero then (f32.sign (t.all Num.neg?), f)
    else
      let logs := t.filterMap (fun x => match x with | .fin _ n d => if n = 0 then none else some (ilog2 n d) | _ => none)
      let top := logs.foldl max (logs.headD 0)
      let q := top - 40
      let cut := t.map (fun x => match x with
        | .fin neg n d => let (a, b) := scaleDown n d q
                          ((if neg then -((a / b : Nat) : Int) else ((a / b : Nat) : Int)), a % b != 0)
        | _ => (0, false))
      let f := if cut.any (·.2) then f ||| fNx else f
      let s := sumInts (cut.map (·.1))
      if s = 0 then (0, f)
      else
        let (r, g) := roundIeee (Num.scaled (decide (s < 0)) s.natAbs q) f32 .rne
        (r, f ||| g)

end Sys2Proof.Machine
end

