-- ==== Sys2Proof/Machine/Scalar.lean ====
section
/-! DEFINITION. Scalar integer instructions, branches, jumps and scalar floating point (09 R180-R198). -/

namespace Sys2Proof.Machine
open Sys2Proof

/-- What a meaning answers. -/
abbrev Out := Host.Outcome State Fault Refusal
/-- The body of an instruction: the state with its sources read, the core, the slot, the values. -/
abbrev Body := State → Nat → Nat → List Val → Act

/-- Operands d, a, b. -/
def fRR (d a b : BitVec 6) : Form := { srcs := [.g a, .g b], dsts := [.g d] }
/-- Operands d, a. -/
def fR (d a : BitVec 6) : Form := { srcs := [.g a], dsts := [.g d] }

/-- A result of one general register. -/
def ret1 (s : State) (d : BitVec 6) (x : Word) : Act := .ret s [(.g d, Val.of x)] none

/-- A short-latency instruction of two sources. -/
def alu2 (d a b : BitVec 6) (op : Word → Word → Word) (s : State) : Out :=
  s.issueStep (fRR d a b) (fun s1 _ _ xs => ret1 s1 d (op (arg xs 0) (arg xs 1)))
/-- A short-latency instruction of one source. -/
def alu1 (d a : BitVec 6) (op : Word → Word) (s : State) : Out :=
  s.issueStep (fR d a) (fun s1 _ _ xs => ret1 s1 d (op (arg xs 0)))

/-- 1 or 0. -/
def bit (b : Bool) : Word := if b then 1 else 0
/-- The low 32 bits, sign-extended. -/
def sext32 (x : Word) : Word := (x.setWidth 32).signExtend 64
/-- A signed value saturated to 64 bits. -/
def sat64 (i : Int) : Word :=
  BitVec.ofInt 64 (if i < -2 ^ 63 then -2 ^ 63 else if 2 ^ 63 ≤ i then 2 ^ 63 - 1 else i)
/-- The shift amount: bits 5:0. -/
def sh6 (y : Word) : Nat := y.toNat % 64
/-- imm13, sign-extended. -/
def imm13 (i : BitVec 13) : Word := i.signExtend 64
/-- imm19, sign-extended. -/
def imm19 (i : BitVec 19) : Word := i.signExtend 64

/-! ### Op 0x01 (R182) -/

def execAdd (d a b : BitVec 6) (s : State) : Out := alu2 d a b (fun x y => x + y) s
def execSub (d a b : BitVec 6) (s : State) : Out := alu2 d a b (fun x y => x - y) s
def execAnd (d a b : BitVec 6) (s : State) : Out := alu2 d a b (fun x y => x &&& y) s
def execOr (d a b : BitVec 6) (s : State) : Out := alu2 d a b (fun x y => x ||| y) s
def execXor (d a b : BitVec 6) (s : State) : Out := alu2 d a b (fun x y => x ^^^ y) s
def execAndn (d a b : BitVec 6) (s : State) : Out := alu2 d a b (fun x y => x &&& ~~~y) s
def execSll (d a b : BitVec 6) (s : State) : Out := alu2 d a b (fun x y => x <<< sh6 y) s
def execSrl (d a b : BitVec 6) (s : State) : Out := alu2 d a b (fun x y => x >>> sh6 y) s
def execSra (d a b : BitVec 6) (s : State) : Out := alu2 d a b (fun x y => x.sshiftRight (sh6 y)) s
def execRor (d a b : BitVec 6) (s : State) : Out := alu2 d a b (fun x y => x.rotateRight (sh6 y)) s
def execSlt (d a b : BitVec 6) (s : State) : Out := alu2 d a b (fun x y => bit (x.slt y)) s
def execSltu (d a b : BitVec 6) (s : State) : Out := alu2 d a b (fun x y => bit (x.ult y)) s
def execMin (d a b : BitVec 6) (s : State) : Out := alu2 d a b (fun x y => if x.slt y then x else y) s
def execMinu (d a b : BitVec 6) (s : State) : Out := alu2 d a b (fun x y => if x.ult y then x else y) s
def execMax (d a b : BitVec 6) (s : State) : Out := alu2 d a b (fun x y => if x.slt y then y else x) s
def execMaxu (d a b : BitVec 6) (s : State) : Out := alu2 d a b (fun x y => if x.ult y then y else x) s
def execAddW (d a b : BitVec 6) (s : State) : Out := alu2 d a b (fun x y => sext32 (x + y)) s
def execSubW (d a b : BitVec 6) (s : State) : Out := alu2 d a b (fun x y => sext32 (x - y)) s
def execAdds (d a b : BitVec 6) (s : State) : Out := alu2 d a b (fun x y => sat64 (x.toInt + y.toInt)) s
def execSubs (d a b : BitVec 6) (s : State) : Out := alu2 d a b (fun x y => sat64 (x.toInt - y.toInt)) s

/-! ### Immediate forms (R183) and upper immediates (R184) -/

def execAddImmediate (d a : BitVec 6) (i : BitVec 13) (s : State) : Out := alu1 d a (fun x => x + imm13 i) s
def execAndImmediate (d a : BitVec 6) (i : BitVec 13) (s : State) : Out := alu1 d a (fun x => x &&& imm13 i) s
def execOrImmediate (d a : BitVec 6) (i : BitVec 13) (s : State) : Out := alu1 d a (fun x => x ||| imm13 i) s
def execXorImmediate (d a : BitVec 6) (i : BitVec 13) (s : State) : Out := alu1 d a (fun x => x ^^^ imm13 i) s
def execSllImmediate (d a n : BitVec 6) (s : State) : Out := alu1 d a (fun x => x <<< n.toNat) s
def execSrlImmediate (d a n : BitVec 6) (s : State) : Out := alu1 d a (fun x => x >>> n.toNat) s
def execSraImmediate (d a n : BitVec 6) (s : State) : Out := alu1 d a (fun x => x.sshiftRight n.toNat) s
def execRorImmediate (d a n : BitVec 6) (s : State) : Out := alu1 d a (fun x => x.rotateRight n.toNat) s
def execSltImmediate (d a : BitVec 6) (i : BitVec 13) (s : State) : Out := alu1 d a (fun x => bit (x.slt (imm13 i))) s
def execSltuImmediate (d a : BitVec 6) (i : BitVec 13) (s : State) : Out := alu1 d a (fun x => bit (x.ult (imm13 i))) s

/-- sext(imm19) × 2^13 + 2^12. -/
def upper (i : BitVec 19) : Word := imm19 i * 0x2000#64 + 0x1000#64
def execMovhi (d : BitVec 6) (i : BitVec 19) (s : State) : Out :=
  s.issueStep { srcs := [], dsts := [.g d] } (fun s1 _ _ _ => ret1 s1 d (upper i))
def execAdrhi (d : BitVec 6) (i : BitVec 19) (s : State) : Out :=
  s.issueStep { srcs := [], dsts := [.g d] } (fun s1 c sl _ => ret1 s1 d ((s1.thr c sl).pc + upper i))

/-! ### Multiply (R185) -/

/-- The exact product: s bit 1 is the signedness of x, bit 0 that of y. -/
def product (sg : BitVec 2) (x y : Word) : Int :=
  (if sg.getLsbD 1 then x.toInt else (x.toNat : Int)) * (if sg.getLsbD 0 then y.toInt else (y.toNat : Int))
/-- Its bits 127:64. -/
def productHigh (sg : BitVec 2) (x y : Word) : Word := (BitVec.ofInt 128 (product sg x y)).extractLsb' 64 64
/-- Its bits 63:0. -/
def productLow (sg : BitVec 2) (x y : Word) : Word := BitVec.ofInt 64 (product sg x y)

def execMul (d a b : BitVec 6) (s : State) : Out := alu2 d a b (fun x y => x * y) s
def execMulW (d a b : BitVec 6) (s : State) : Out := alu2 d a b (fun x y => sext32 (x * y)) s
def execMulh (d a b : BitVec 6) (sg : BitVec 2) (s : State) : Out := alu2 d a b (productHigh sg) s
def execMulp (d a b : BitVec 6) (sg : BitVec 2) (s : State) : Out :=
  s.issueStep { srcs := [.g a, .g b], dsts := [.g d, .g (d + 1)] } (fun s1 _ _ xs =>
    .ret s1 [(.g d, Val.of (productLow sg (arg xs 0) (arg xs 1))),
             (.g (d + 1), Val.of (productHigh sg (arg xs 0) (arg xs 1)))] none)

/-! ### Divide and remainder (R186) -/

/-- Quotient and remainder, signed. -/
def sdivrem (x y : Word) : Word × Word :=
  if y = 0 then (-1, x)
  else (BitVec.ofInt 64 (x.toInt.tdiv y.toInt), BitVec.ofInt 64 (x.toInt.tmod y.toInt))
/-- Quotient and remainder, unsigned. -/
def udivrem (x y : Word) : Word × Word :=
  if y = 0 then (-1, x) else (BitVec.ofNat 64 (x.toNat / y.toNat), BitVec.ofNat 64 (x.toNat % y.toNat))

/-- A divide: the result is full 36 cc after issue. -/
def divider (d a b : BitVec 6) (l : BitVec 4) (op : Word → Word → Word) (s : State) : Out :=
  s.issueStep { fRR d a b with la := some l } (fun s1 c _ xs =>
    .pend s1 (.divide (op (arg xs 0) (arg xs 1))) (s1.now c + 36))

def execDiv (d a b : BitVec 6) (l : BitVec 4) (s : State) : Out := divider d a b l (fun x y => (sdivrem x y).1) s
def execDivu (d a b : BitVec 6) (l : BitVec 4) (s : State) : Out := divider d a b l (fun x y => (udivrem x y).1) s
def execRem (d a b : BitVec 6) (l : BitVec 4) (s : State) : Out := divider d a b l (fun x y => (sdivrem x y).2) s
def execRemu (d a b : BitVec 6) (l : BitVec 4) (s : State) : Out := divider d a b l (fun x y => (udivrem x y).2) s

/-- A completion event of a pending instruction whose due cycle has come; otherwise nothing happens (log 5). -/
def State.onPend (s : State) (c sl id : Nat) (f : Pend → State) : State :=
  match s.pend? c sl id with
  | some p => if p.due ≤ s.now c then f p else s
  | none => s

def execDivideCompletion (c sl id : Nat) (s : State) : Out :=
  .next (s.onPend c sl id (fun p => match p.kind with
    | .divide v => s.finish c sl p [Val.of v]
    | _ => s))

/-! ### Bits (R187) -/

/-- Zero bits above the most significant 1. -/
def clz64 (x : Word) : Nat := if x = 0 then 64 else 63 - Nat.log2 x.toNat
/-- Bits of x in reverse order. -/
def brev64 (x : Word) : Word :=
  (List.range 64).foldl (fun acc i => if x.getLsbD i then acc ||| (1#64 <<< (63 - i)) else acc) 0
/-- Zero bits below the least significant 1. -/
def ctz64 (x : Word) : Nat := clz64 (brev64 x)
/-- Number of 1 bits among the low n. -/
def popcount {w : Nat} (x : BitVec w) (n : Nat) : Nat := ((List.range n).filter (fun i => x.getLsbD i)).length
/-- Bytes in reverse order. -/
def rev8 (x : Word) : Word := BitVec.ofNat 64 (leNat (leBytes x.toNat 8).reverse)

def execClz (d a : BitVec 6) (s : State) : Out := alu1 d a (fun x => BitVec.ofNat 64 (clz64 x)) s
def execCtz (d a : BitVec 6) (s : State) : Out := alu1 d a (fun x => BitVec.ofNat 64 (ctz64 x)) s
def execPopc (d a : BitVec 6) (s : State) : Out := alu1 d a (fun x => BitVec.ofNat 64 (popcount x 64)) s
def execRev8 (d a : BitVec 6) (s : State) : Out := alu1 d a rev8 s
def execBrev (d a : BitVec 6) (s : State) : Out := alu1 d a brev64 s
def execExtBS (d a : BitVec 6) (s : State) : Out := alu1 d a (fun x => (x.setWidth 8).signExtend 64) s
def execExtHS (d a : BitVec 6) (s : State) : Out := alu1 d a (fun x => (x.setWidth 16).signExtend 64) s
def execExtWS (d a : BitVec 6) (s : State) : Out := alu1 d a sext32 s
def execExtBZ (d a : BitVec 6) (s : State) : Out := alu1 d a (fun x => x &&& 0xFF#64) s
def execExtHZ (d a : BitVec 6) (s : State) : Out := alu1 d a (fun x => x &&& 0xFFFF#64) s
def execExtWZ (d a : BitVec 6) (s : State) : Out := alu1 d a (fun x => x &&& 0xFFFFFFFF#64) s

/-! ### Branches and jumps (R188-R191) -/

/-- CODE_RANGE for a target below the header or at or beyond code_size (R191). -/
def State.outsideCode (s : State) (c : Nat) (target : Word) : Bool :=
  target.toNat < 64 || s.codeSize c ≤ target.toNat

/-- A branch. -/
def branch (a b : BitVec 6) (i : BitVec 13) (taken : Word → Word → Bool) (s : State) : Out :=
  s.issueStep { srcs := [.g a, .g b], dsts := [] } (fun s1 c sl xs =>
    if taken (arg xs 0) (arg xs 1) then
      let target := (s1.thr c sl).pc + imm13 i * 4
      if s1.outsideCode c target then faultAt (det cCodeRange 1) target else .ret s1 [] (some target)
    else .ret s1 [] none)

def execBeq (a b : BitVec 6) (i : BitVec 13) (s : State) : Out := branch a b i (fun x y => x == y) s
def execBne (a b : BitVec 6) (i : BitVec 13) (s : State) : Out := branch a b i (fun x y => x != y) s
def execBlt (a b : BitVec 6) (i : BitVec 13) (s : State) : Out := branch a b i (fun x y => x.slt y) s
def execBge (a b : BitVec 6) (i : BitVec 13) (s : State) : Out := branch a b i (fun x y => !x.slt y) s
def execBltu (a b : BitVec 6) (i : BitVec 13) (s : State) : Out := branch a b i (fun x y => x.ult y) s
def execBgeu (a b : BitVec 6) (i : BitVec 13) (s : State) : Out := branch a b i (fun x y => !x.ult y) s

/-- A jump to a target, with its link. -/
def jumpTo (s : State) (c sl : Nat) (d : BitVec 6) (target : Word) : Act :=
  if s.outsideCode c target then faultAt (det cCodeRange 1) target
  else .ret s [(.g d, Val.of ((s.thr c sl).pc + 4))] (some target)

def execJlk (d : BitVec 6) (i : BitVec 19) (s : State) : Out :=
  s.issueStep { srcs := [], dsts := [.g d] } (fun s1 c sl _ => jumpTo s1 c sl d ((s1.thr c sl).pc + imm19 i * 4))

def execJlkr (d a : BitVec 6) (i : BitVec 13) (s : State) : Out :=
  s.issueStep (fR d a) (fun s1 c sl xs =>
    let target := arg xs 0 + imm13 i * 4
    if target &&& 3 != 0 then faultAt (det cMisaligned 4) target else jumpTo s1 c sl d target)

/-! ### Scalar floating point (R192-R198) -/

/-- The format of the width bit: 0 binary64, 1 binary32. -/
def fmtW (w : BitVec 1) : Fmt := if w = 1 then f32 else f64
/-- The operand bits of a format (R181). -/
def fbits (f : Fmt) (x : Word) : Nat := x.toNat % 2 ^ f.bits
/-- The result bits of a format in a general register (R181). -/
def fres (x : Nat) : Word := BitVec.ofNat 64 x

/-- A floating result and its flags. -/
def retF (s : State) (c sl : Nat) (d : BitVec 6) (r : Nat × Flg) : Act := ret1 (s.orFlags c sl r.2) d (fres r.1)

/-- An operation on two values, rounded once in the thread's mode. -/
def fp2 (d a b : BitVec 6) (w : BitVec 1) (op : Rm → Num → Num → Num) (s : State) : Out :=
  s.issueStep (fRR d a b) (fun s1 c sl xs =>
    let f := fmtW w
    let m := s1.rm c sl
    retF s1 c sl d (roundIeee (op m (f.decode (arg xs 0).toNat) (f.decode (arg xs 1).toNat)) f m))

/-- x - y. -/
def Num.sub (m : Rm) (x y : Num) : Num := Num.add m x y.negate

def execFadd (d a b : BitVec 6) (w : BitVec 1) (s : State) : Out := fp2 d a b w Num.add s
def execFsub (d a b : BitVec 6) (w : BitVec 1) (s : State) : Out := fp2 d a b w Num.sub s
def execFmul (d a b : BitVec 6) (w : BitVec 1) (s : State) : Out := fp2 d a b w (fun _ => Num.mul) s

/-- The smaller or larger of two operands, on their bits; -0 is below +0 (R193). -/
def minmax (f : Fmt) (wantMax : Bool) (x y : Nat) : Nat × Flg :=
  let u := f.decode x
  let v := f.decode y
  let fl := if u.isSig || v.isSig then fNv else fNone
  let xIsLess := u.lt v || (u.eq v && u.neg? && !v.neg?)
  (if u.isNan && v.isNan then f.nanBits
   else if u.isNan then y else if v.isNan then x
   else if xIsLess != wantMax then x else y, fl)

/-- An operation on the operand bits. -/
def fpBits (d a b : BitVec 6) (w : BitVec 1) (op : Fmt → Nat → Nat → Nat × Flg) (s : State) : Out :=
  s.issueStep (fRR d a b) (fun s1 c sl xs =>
    retF s1 c sl d (op (fmtW w) (fbits (fmtW w) (arg xs 0)) (fbits (fmtW w) (arg xs 1))))

def execFmin (d a b : BitVec 6) (w : BitVec 1) (s : State) : Out := fpBits d a b w (fun f => minmax f false) s
def execFmax (d a b : BitVec 6) (w : BitVec 1) (s : State) : Out := fpBits d a b w (fun f => minmax f true) s

/-- The sign bit of operand bits. -/
def signOf (f : Fmt) (x : Nat) : Bool := decide (2 ^ (f.bits - 1) ≤ x)
/-- x with a sign. -/
def withSign (f : Fmt) (x : Nat) (neg : Bool) : Nat := x % 2 ^ (f.bits - 1) + f.sign neg
/-- The sign forms: the new sign from both signs. -/
def signForm (g : Bool → Bool → Bool) (f : Fmt) (x y : Nat) : Nat × Flg :=
  (withSign f x (g (signOf f x) (signOf f y)), fNone)

def execFsgn (d a b : BitVec 6) (w : BitVec 1) (s : State) : Out := fpBits d a b w (signForm (fun _ q => q)) s
def execFsgnn (d a b : BitVec 6) (w : BitVec 1) (s : State) : Out := fpBits d a b w (signForm (fun _ q => !q)) s
def execFsgnx (d a b : BitVec 6) (w : BitVec 1) (s : State) : Out := fpBits d a b w (signForm (fun p q => p != q)) s

/-- ±(x × y) ± z, rounded once (R194). -/
def fused (f : Fmt) (m : Rm) (np nz : Bool) (x y z : Num) : Nat × Flg :=
  let p := x.mul y
  roundIeee (Num.add m (if np then p.negate else p) (if nz then z.negate else z)) f m

/-- A fused multiply-add that accumulates into g[d]. -/
def fma3 (d a b : BitVec 6) (w : BitVec 1) (np nz : Bool) (s : State) : Out :=
  s.issueStep { srcs := [.g a, .g b, .g d], dsts := [.g d] } (fun s1 c sl xs =>
    let f := fmtW w
    retF s1 c sl d (fused f (s1.rm c sl) np nz (f.decode (arg xs 0).toNat) (f.decode (arg xs 1).toNat)
      (f.decode (arg xs 2).toNat)))

def execFma (d a b : BitVec 6) (w : BitVec 1) (s : State) : Out := fma3 d a b w false false s
def execFms (d a b : BitVec 6) (w : BitVec 1) (s : State) : Out := fma3 d a b w false true s
def execFnma (d a b : BitVec 6) (w : BitVec 1) (s : State) : Out := fma3 d a b w true false s
def execFnms (d a b : BitVec 6) (w : BitVec 1) (s : State) : Out := fma3 d a b w true true s

/-- FDIV (R195): 28 cc in binary64, 16 cc in binary32. -/
def execFdiv (d a b : BitVec 6) (l : BitVec 4) (w : BitVec 1) (s : State) : Out :=
  s.issueStep { fRR d a b with la := some l } (fun s1 c sl xs =>
    let f := fmtW w
    let q := (f.decode (arg xs 0).toNat).div (f.decode (arg xs 1).toNat)
    let r := roundIeee q.1 f (s1.rm c sl)
    .pend s1 (.fdiv (fres r.1) (r.2 ||| q.2)) (s1.now c + (if w = 1 then 16 else 28)))
/-- FSQRT (R195): 30 cc in binary64, 16 cc in binary32. -/
def execFsqrt (d a : BitVec 6) (l : BitVec 4) (w : BitVec 1) (s : State) : Out :=
  s.issueStep { fR d a with la := some l } (fun s1 c sl xs =>
    let f := fmtW w
    let r := roundIeee (f.decode (arg xs 0).toNat).sqrt f (s1.rm c sl)
    .pend s1 (.fdiv (fres r.1) r.2) (s1.now c + (if w = 1 then 16 else 30)))
def execFdivCompletion (c sl id : Nat) (s : State) : Out :=
  .next (s.onPend c sl id (fun p => match p.kind with
    | .fdiv v fl => (s.finish c sl p [Val.of v]).orFlags c sl fl
    | _ => s))

/-- A compare: the relation, and whether a quiet NaN is invalid too (R196). -/
def fcmp (d a b : BitVec 6) (w : BitVec 1) (quietToo : Bool) (rel : Num → Num → Bool) (s : State) : Out :=
  fpBits d a b w (fun f x y =>
    let u := f.decode x
    let v := f.decode y
    ((if rel u v then 1 else 0),
     if u.isSig || v.isSig || (quietToo && (u.isNan || v.isNan)) then fNv else fNone)) s

def execFeq (d a b : BitVec 6) (w : BitVec 1) (s : State) : Out := fcmp d a b w false Num.eq s
def execFlt (d a b : BitVec 6) (w : BitVec 1) (s : State) : Out := fcmp d a b w true Num.lt s
def execFle (d a b : BitVec 6) (w : BitVec 1) (s : State) : Out :=
  fcmp d a b w true (fun x y => x.lt y || x.eq y) s

/-- The class word (R196). -/
def classOf (f : Fmt) (x : Nat) : Nat :=
  let neg := signOf f x
  let e := x / 2 ^ (f.p - 1) % 2 ^ (f.bits - f.p)
  match f.decode x with
  | .nan sg => if sg then 2 ^ 9 else 2 ^ 8
  | .inf n => if n then 2 ^ 7 else 2 ^ 3
  | .fin _ n _ =>
    if n = 0 then (if neg then 2 ^ 4 else 1)
    else if e = 0 then (if neg then 2 ^ 5 else 2) else (if neg then 2 ^ 6 else 2 ^ 2)
def execFclass (d a : BitVec 6) (w : BitVec 1) (s : State) : Out :=
  alu1 d a (fun x => BitVec.ofNat 64 (classOf (fmtW w) (fbits (fmtW w) x))) s

/-- What a conversion gives: result bits and flags, or NARROW_RANGE with the exact value. -/
inductive Cvt where
  | ok (r : Word) (f : Flg)
  | narrow (v : Num)
  deriving DecidableEq, Repr

/-- The conversion of an exact product to a destination format code (R198). -/
def convert (dst : Nat) (v : Num) (m : Rm) : Cvt :=
  match fmtOf dst with
  | some f => let r := roundIeee v f m; .ok (fres r.1) r.2
  | none =>
    if dst = 4 then
      match d8Round v m with
      | .ok c f => .ok (BitVec.ofNat 64 c) f
      | .trap => .narrow v
    else
      let r := if dst = 5 then toInteger v m (-2 ^ 63) (2 ^ 63 - 1)
        else if dst = 6 then toInteger v m 0 (2 ^ 64 - 1)
        else toInteger v m (-2 ^ 31) (2 ^ 31 - 1)
      .ok (BitVec.ofInt 64 r.1) r.2

/-- The scale of a conversion (R169, R198): a register's binary32 value, fmtd.oscale or fmtd.iscale, or 1. -/
def scaleOf (t : Thread) (reg : Option Word) (dst src : Nat) : Num :=
  if dst = 4 ∨ src = 4 then
    match reg with
    | some x => f32.decode x.toNat
    | none => f32.decode (if dst = 4 then bitsN t.fmtd 63 32 else bitsN t.fmtd 31 0)
  else .fin false 1 1

/-- x × s, exact; a conversion without a scale keeps x. -/
def scaled (t : Thread) (reg : Option Word) (dst src : Nat) (x : Num) : Num :=
  if dst = 4 ∨ src = 4 then x.mul (scaleOf t reg dst src) else x

/-- FCVT (R197, R198; NARROW_RANGE R171). -/
def execFcvt (d a b : BitVec 6) (x : BitVec 1) (y z : BitVec 3) (s : State) : Out :=
  s.issueStep { srcs := if x = 1 then [.g a, .g b] else [.g a], dsts := [.g d] } (fun s1 c sl xs =>
    let dst := y.toNat
    let src := z.toNat
    let reg := if x = 1 then some (arg xs 1) else none
    match convert dst (scaled (s1.thr c sl) reg dst src (valueOf src (arg xs 0))) (s1.rm c sl) with
    | .ok r f => ret1 (s1.orFlags c sl f) d r
    | .narrow v => .trap (det cNarrowRange 1) (BitVec.ofNat 64 (xexp v * 2 ^ 16 + 1)) 0)

end Sys2Proof.Machine
end

