-- ==== Sys2Proof/Machine/Moves.lean ====
section
/-! DEFINITION. Register moves, full/empty bits and port binding (07 R133-R151). -/

namespace Sys2Proof.Machine
open Sys2Proof

/-- MOV.TAKE (R138, R141): a full shared register, seen under R137 and past the change guard, gives its value and becomes
empty and free. -/
def execMovTake (d a : BitVec 6) (s : State) : Out :=
  s.issueStep { srcs := [.g a], dsts := [.g d], ends := true, passes := true, gives := true } (fun s1 c sl xs =>
    let i := a.toNat - 48
    let v := (xs[0]?).getD ⟨0, false⟩
    if s1.isTrailing c sl then .ret s1 [(.g d, v)] none
    else if shGuard ((s1.core c).shOf i) (s1.now c) then .park .memory
    else .ret (s1.setSh c i { shNow ((s1.core c).shOf i) with fe := .free }) [(.g d, v)] none)

/-- MOV.PUT (R138, R141): an empty, free shared register receives the value and becomes full. -/
def execMovPut (d a : BitVec 6) (s : State) : Out :=
  s.issueStep { srcs := [.g a], dsts := [], more := [.g d], ends := true, passes := true, gives := true }
    (fun s1 c sl xs =>
      let i := d.toNat - 48
      let v := (xs[0]?).getD ⟨0, false⟩
      if s1.isTrailing c sl then .ret s1 [] none
      else if shGuard ((s1.core c).shOf i) (s1.now c) then .park .memory
      else match (shView ((s1.core c).shOf i) (s1.now c)).fe with
        | .free => .ret (s1.setSh c i { val := v.w, fe := .full, poison := v.poison }) [] none
        | _ => .park (s1.waitFor c sl (.g d)))

/-- A move of one operand to another, poison included (R139). -/
def move (o i : Opnd) (s : State) : Out :=
  s.issueStep { srcs := [i], dsts := [o], passes := true } (fun s1 _ _ xs =>
    .ret s1 [(o, (xs[0]?).getD ⟨0, false⟩)] none)

def execMovV (d a : BitVec 6) (s : State) : Out := move (.v d) (.v a) s
def execMovMg (d : BitVec 3) (a : BitVec 6) (s : State) : Out := move (.m d) (.g a) s
def execMovGm (d : BitVec 6) (a : BitVec 3) (s : State) : Out := move (.g d) (.m a) s
def execMovM (d a : BitVec 3) (s : State) : Out := move (.m d) (.m a) s

/-- The register that FEMPTY and FETEST name (R142). -/
def feOpnd (f : BitVec 2) (a : BitVec 6) : Opnd :=
  if f = 0 then .g a else if f = 1 then .v a else .m (a.setWidth 3)

/-- The full/empty state of a register as the slot sees it (R133, R137); g0 and m0 are full. -/
def State.feOf (s : State) (c sl : Nat) : Opnd → FE
  | .g n =>
    if n = 0 then .full
    else if n.toNat < 48 then (((s.thr c sl).g[n.toNat]?).getD (Reg.zero 64)).fe
    else (shView ((s.core c).shOf (n.toNat - 48)) (s.now c)).fe
  | .v n => (((s.thr c sl).v[n.toNat]?).getD (Reg.zero 512)).fe
  | .m n => if n = 0 then .full else (((s.thr c sl).m[n.toNat]?).getD (Reg.zero 16)).fe

/-- FEMPTY (R143). -/
def execFempty (a : BitVec 6) (f : BitVec 2) (s : State) : Out :=
  let o := feOpnd f a
  s.issueStep { srcs := [], dsts := [], more := [o], gives := o.isShared } (fun s1 c sl _ =>
    if o = .g 0 ∨ o = .m 0 then .ret s1 [] none
    else if o.isShared && shGuard ((s1.core c).shOf (a.toNat - 48)) (s1.now c) then .park .memory
    else match s1.feOf c sl o with
      | .pending => .park (s1.waitFor c sl o)
      | _ => .ret (s1.freeReg c sl o) [] none)

/-- FETEST (R143). -/
def execFetest (d a : BitVec 6) (f : BitVec 2) (s : State) : Out :=
  let o := feOpnd f a
  s.issueStep { srcs := [], dsts := [.g d], more := [o], takes := o.isShared } (fun s1 c sl _ =>
    ret1 s1 d (bit (s1.feOf c sl o == .full)))

/-! ### PBIND and PQRY (R148-R151) -/

/-- The dimension's edge ports of a core in its ridge: directions 1, 3 for X and 0, 2 for Y. -/
def State.edgesOf (s : State) (c : Nat) (inX : Bool) : List Nat :=
  match s.ridge? c with
  | none => []
  | some r =>
    let k := s.core c
    if inX then (if k.col + 1 = r.w then [1] else []) ++ (if k.col = 0 then [3] else [])
    else (if k.row + 1 = r.h then [0] else []) ++ (if k.row = 0 then [2] else [])

/-- A port is quiet: its receive queue is empty and its sender, the far end of a wrapped binding, holds every credit
(R150). -/
def State.quiet (s : State) (c sl p : Nat) : Bool :=
  ((s.thr c sl).port p).queue.isEmpty &&
  (match s.binding c sl p with
   | .link far fsl fp _ _ _ _ => ((s.thr far fsl).port fp).credits == (if p < 5 then 8 else 4)
   | .edge => true)

/-- Both kinds of a dimension's edge ports are quiet. -/
def State.dimQuiet (s : State) (c sl : Nat) (inX : Bool) : Bool :=
  (s.edgesOf c inX).all (fun p => s.quiet c sl p && s.quiet c sl (p + 5))

/-- PBIND (R148, R150). -/
def execPbind (a : BitVec 6) (s : State) : Out :=
  s.issueStep { srcs := [.g a], dsts := [] } (fun s1 c sl xs =>
    let w := arg xs 0
    let t := s1.thr c sl
    if w >>> 2 != 0 then fault0 (det cPortForm 1)
    else if w.getLsbD 0 != t.wrapX && !s1.dimQuiet c sl true then .park .message
    else if w.getLsbD 1 != t.wrapY && !s1.dimQuiet c sl false then .park .message
    else .ret (s1.setThr c sl { t with wrapX := w.getLsbD 0, wrapY := w.getLsbD 1 }) [] none)

/-- The word of PQRY (R151). -/
def State.pqryWord (s : State) (c sl p : Nat) (vec : Bool) : Word :=
  let i := p + (if vec then 5 else 0)
  let q := (s.thr c sl).port i
  let low := q.queue.length * 2 ^ 24 + (if vec then 4 else 0)
  BitVec.ofNat 64 (match s.binding c sl i with
    | .edge => low
    | .link _ _ _ h x wrapped live =>
      low + (if p = 4 then 0 else h * 2 ^ 40 + (if x = 0 then 0 else 2 ^ 39))
        + (if live then q.credits else 0) * 2 ^ 32 + (if !wrapped then 1 else if live then 2 else 3))

/-- PQRY (R151). -/
def execPqry (d a : BitVec 6) (s : State) : Out :=
  s.issueStep { fR d a with takes := true } (fun s1 c sl xs =>
    let w := arg xs 0
    if 5 ≤ bitsN w 2 0 || w &&& ~~~0x107#64 != 0 then fault0 (det cPortForm 2)
    else ret1 s1 d (s1.pqryWord c sl (bitsN w 2 0) (w.getLsbD 8)))

end Sys2Proof.Machine
end

