-- ==== Sys2Proof/Machine/Sector.lean ====
section
/-! DEFINITION. The code of 64-byte sectors (03 R54, R55; 04 R77) and of bank words (06 R113), worked out on the bits that soft
errors have flipped.

Both codes are linear and start from 0, so a sector fails its CRC exactly when the CRC of its flipped bits is not 0, and a
rebuild returns the sector as written with the bits that the rebuild of the flipped bits alone gives (log 84). -/

namespace Sys2Proof.Machine
open Sys2Proof

/-! ### CRC-16 (R54) -/

/-- Steps of the CRC-16 with polynomial 0x8BB7, no reflection. -/
def crc16Bits : Nat → BitVec 16 → BitVec 16
  | 0, w => w
  | n + 1, w => crc16Bits n (if w.getLsbD 15 then (w <<< 1) ^^^ 0x8BB7#16 else w <<< 1)
/-- The CRC-16 of bytes: initial value 0, no final inversion (R54). -/
def crc16 (bs : List Byte) : BitVec 16 := bs.foldl (fun (w : BitVec 16) (b : Byte) => crc16Bits 8 (w ^^^ (b.setWidth 16 <<< 8))) 0
/-- The CRC of a sector. -/
def sectorCrc (v : Vec) : BitVec 16 := crc16 (leBytes v.toNat 64)

/-! ### The Reed-Solomon code (R55; log 84) -/

/-- Multiplication in GF(2^8) with field polynomial x^8 + x^4 + x^3 + x^2 + 1. -/
def gfMulBits : Nat → BitVec 8 → BitVec 8 → BitVec 8 → BitVec 8
  | 0, _, _, acc => acc
  | n + 1, a, b, acc =>
    gfMulBits n (if a.getLsbD 7 then (a <<< 1) ^^^ 0x1D#8 else a <<< 1) (b >>> 1) (if b.getLsbD 0 then acc ^^^ a else acc)
def gfMul (a b : BitVec 8) : BitVec 8 := gfMulBits 8 a b 0
/-- A power of an element. -/
def gfPow (a : BitVec 8) : Nat → BitVec 8
  | 0 => 1
  | n + 1 => gfMul a (gfPow a n)
/-- The inverse of an element that is not 0. -/
def gfInv (a : BitVec 8) : BitVec 8 := gfPow a 254
/-- Every byte of a sector times a constant. -/
def gfScale (k : BitVec 8) (v : Vec) : Vec := BitVec.ofNat 512 (leNat ((leBytes v.toNat 64).map (gfMul k)))

/-- The parity sectors of the 16 data sectors of a group: their sum, and their sum weighted by the powers of x (log 84). -/
def parityOf (data : List Vec) : Vec × Vec :=
  (data.zipIdx).foldl (fun acc (x : Vec × Nat) => (acc.1 ^^^ x.1, acc.2 ^^^ gfScale (gfPow 2 x.2) x.1)) (0, 0)

/-- The erased sectors of a group, rebuilt from the others and the parity sectors: one from the first parity sector, two from
both (log 84). -/
def rebuildSectors (data : List Vec) (p q : Vec) (erased : List Nat) : List (Nat × Vec) :=
  let kept := (data.zipIdx).map (fun (x : Vec × Nat) => if erased.contains x.2 then 0 else x.1)
  let s0 := p ^^^ (parityOf kept).1
  let s1 := q ^^^ (parityOf kept).2
  match erased with
  | [a] => [(a, s0)]
  | [a, b] =>
    let x := gfScale (gfInv (gfPow 2 a ^^^ gfPow 2 b)) (s1 ^^^ gfScale (gfPow 2 a) s0)
    [(a, s0 ^^^ x), (b, x)]
  | _ => []

/-! ### Sectors with errors -/

/-- A soft error lies in a unit itself and has not been dealt with. -/
def Soft.fresh (e : Soft) (u : Nat) : Bool := e.parity == 0 && e.unit == u && !e.seen
/-- The bits of a unit that soft errors have flipped since it was last written or dealt with. -/
def State.flipsOf (s : State) (u : Nat) : Vec := (s.soft.filter (fun e => e.fresh u)).foldl (fun v e => v ^^^ e.flip) 0
/-- The flipped bits of a parity sector of a 1 KiB group: the first or the second. -/
def State.parityFlips (s : State) (g n : Nat) : Vec :=
  (s.soft.filter (fun e => e.parity == n && e.unit / 16 == g)).foldl (fun v e => v ^^^ e.flip) 0

/-- The flipped bits of the metadata of a 256-byte block, numbered by its units (R54). -/
def State.metaFlips (s : State) (b : Nat) : Vec :=
  (s.soft.filter (fun e => e.parity == 3 && e.unit / 4 == b)).foldl (fun v e => v ^^^ e.flip) 0
/-- The flipped bits of the CRC field of a sector. -/
def State.crcFlips (s : State) (u : Nat) : BitVec 16 := ((s.metaFlips (u / 4)) >>> (16 * (u % 4))).setWidth 16
/-- Some bit of the tag field of a block has flipped. -/
def State.tagFlipped (s : State) (b : Nat) : Bool := ((s.metaFlips b) >>> 64).setWidth 64 != (0 : Word)
/-- A sector with these flipped bits passes the CRC that its field holds. -/
def State.passes (s : State) (u : Nat) (v : Vec) : Bool := sectorCrc v == s.crcFlips u

/-- A sector fails its CRC (R54, R77); one whose rebuild has failed fails until it is written whole (log 84). -/
def State.crcFails (s : State) (u : Nat) : Bool :=
  s.soft.any (fun e => e.parity == 0 && e.unit == u && e.seen) || !s.passes u (s.flipsOf u)
/-- The sectors of a group that fail their CRC, by their place in it. -/
def State.erasures (s : State) (g : Nat) : List Nat := (List.range 16).filter (fun i => s.crcFails (16 * g + i))

/-- The rebuild of a group (R55): the flipped bits that each failed sector keeps, where at most two fail and every rebuilt
sector passes its CRC. -/
def State.rebuilt? (s : State) (g : Nat) : Option (List (Nat × Vec)) :=
  let er := s.erasures g
  let xs := rebuildSectors ((List.range 16).map (fun i => s.flipsOf (16 * g + i))) (s.parityFlips g 1) (s.parityFlips g 2) er
  if er.length ≤ 2 && xs.all (fun x => s.passes (16 * g + x.1) x.2) then some xs else none

/-- The bits of a unit change in memory, or in the cell that the unit names (15 R297; log 109). -/
def State.flipBytes (s : State) (u : Nat) (v : Vec) : State :=
  let off := u * 64 % Config.homeSpan
  if inCells off then
    s.modCore (u * 64 / Config.homeSpan) (fun k => { k with
      cells := k.cells.map (fun x => if x.k = cellAt off then { x with bytes := x.bytes ^^^ v } else x) })
  else s.setBytes (u * 64 / Config.homeSpan) (u * 64 % Config.homeSpan)
    (((s.bytes (u * 64 / Config.homeSpan) (u * 64 % Config.homeSpan) 64).zip (leBytes v.toNat 64)).map (fun (x : Byte × Byte) => x.1 ^^^ x.2))
/-- The unit's bits change in memory, and its open errors are gone, with those of its code: what an error that no code shows, and a
sector whose rebuild failed, are read as (R77, R78). -/
def State.flipUnit (s : State) (u : Nat) (v : Vec) : State :=
  State.flipBytes { s with soft := (s.soft.filter (fun (e : Soft) => !e.fresh u)).map (Soft.recode (· == u)) } u v

/-- A unit is poisoned. -/
def State.unitBad (s : State) (u : Nat) : Bool :=
  s.poison.contains u || (inCells (u * 64 % Config.homeSpan) &&
    (s.core (u * 64 / Config.homeSpan)).cells.any (fun x => x.k == cellAt (u * 64 % Config.homeSpan) && x.poison))
/-- A unit becomes poisoned: in memory, or the cell that the unit names. -/
def State.spoil (s : State) (u : Nat) : State :=
  let off := u * 64 % Config.homeSpan
  if inCells off then
    s.modCore (u * 64 / Config.homeSpan) (fun k => { k with
      cells := k.cells.map (fun x => if x.k = cellAt off then { x with poison := true } else x) })
  else { s with poison := sinsert s.poison u }

/-- A rebuilt sector is written back: it keeps the flipped bits that the rebuild left it (R77). -/
def State.writeRebuilt (s : State) (u : Nat) (left : Vec) : State :=
  let s1 := s.flipUnit u left
  { s1 with soft := s1.soft.filter (fun e => !(e.parity == 0 && e.unit == u)) }

/-- A rebuild failed: the data bits stay as read, and the unit is poisoned; a vault sector and a far sector go on failing
(R77, R78; 03 R57). -/
def State.giveUp (s : State) (u : Nat) : State :=
  let s1 := (s.flipUnit u (s.flipsOf u)).spoil u
  { s1 with soft := s1.soft.filter (fun e => !(e.parity == 0 && e.unit == u)) ++ [{ unit := u, flip := 0, parity := 0, seen := true }] }

/-- Bits set in the low n bits of a value. -/
def ones (v : Vec) : Nat → Nat
  | 0 => 0
  | n + 1 => (if v.getLsbD n then 1 else 0) + ones v n

/-! ### Bank words of the scratchpad (06 R113) -/

/-- The bits of a 32-byte half of a bank word. -/
def halfMask (i : Nat) : Vec := (BitVec.ofNat 512 (2 ^ 256 - 1)) <<< (256 * i)
/-- The flipped bits of a half, those among them that are corrected at each read until they have been written back. -/
def State.halfFlips (s : State) (u i : Nat) : Vec :=
  (s.soft.filter (fun e => e.parity == 0 && e.unit == u)).foldl (fun v e => v ^^^ e.flip) 0 &&& halfMask i
/-- The soft errors of a unit lose the bits of a half; those that have none left are gone. -/
def State.halfClean (s : State) (u i : Nat) : State :=
  let mine (e : Soft) : Bool := e.parity == 0 && e.unit == u
  let cut (e : Soft) : Soft := if mine e then { e with flip := e.flip &&& ~~~(halfMask i) } else e
  { s with soft := (s.soft.map cut).filter (fun e => !(mine e && e.flip == 0)) }

end Sys2Proof.Machine
end

