-- ==== Sys2Proof/Machine/Vault.lean ====
section
/-! DEFINITION. Vault banks: their queues, rows, refresh, repair, thermal state, soft errors (04 R67-R78, R85-R87;
06 R113).

Every access to a vault is a request in the queue of its bank.  The bank begins the command of a scalar access, whose beat then
takes the bus; a tile, copy or agent transfer takes the bus for a beat whenever its row is open and no scalar beat is ready.  The
access is performed at its beat, by this file for an access of a thread and by the party itself, which finds the beat in
`Core.granted`, for the rest. -/

namespace Sys2Proof.Machine
open Sys2Proof

/-- Bank of a vault offset (R64). -/
def bankOf (off : Nat) : Nat := off / 2048 % 32
/-- Row of a vault offset (R64). -/
def rowOf (off : Nat) : Nat := off / 65536 % 16384
/-- A bank. -/
def Core.bank (k : Core) (b : Nat) : Bank := (k.banks[b]?).getD Bank.reset
/-- Replace a bank. -/
def Core.setBank (k : Core) (b : Nat) (x : Bank) : Core := { k with banks := k.banks.setIfInBounds b x }

/-! ### Entering a queue (R68, R69; 15 R297) -/

/-- The bank and row that serve an access of a tag to a vault offset: those of its cell where it has one (15 R297). -/
def State.place (s : State) (c off : Nat) (tag : BitVec 16) : Nat × RowName :=
  match (if tag != 0 && s.taggedPage c off then (s.core c).cell? (s.domain c) (lineOf off) tag else none) with
  | some x => (x.k % 32, ⟨x.k / 1024, true⟩)
  | none => (bankOf off, ⟨rowOf off, false⟩)

/-- The bytes that one beat of a read under a tag covers (R64; 15 R297; 06 R109): an aligned 128 bytes of the vault, one line where
the tag has a cell of it, a bank word of the scratchpad. -/
def State.beatUnit (s : State) (c : Nat) (tag : BitVec 16) (a : Nat) : Nat :=
  if !inVault a then 4 * (a / 64) + 2
  else if tag != 0 && s.taggedPage c a && ((s.core c).cell? (s.domain c) (lineOf a) tag).isSome then 4 * (a / 64) + 1
  else 4 * (a / 128)

/-- A queue stands in the order in which its accesses reached the bank: by cycle, then by slot (R68). -/
def insertReq : List BankReq → BankReq → List BankReq
  | [], r => [r]
  | x :: rest, r =>
    if r.arrived < x.arrived || (r.arrived == x.arrived && r.slot < x.slot) then r :: x :: rest else x :: insertReq rest r

/-- The party on whose behalf an access is made: that of its message, of its handler, of its posted store or of its copy (19 R409). -/
def Core.actorOf (k : Core) (c : Nat) : BankRef → Nat
  | .agent | .agentRun => match k.inbuf with | m :: _ => m.actor | [] => c
  | .pend sl _ _ => k.actorIn c sl
  | .posted sl id => (((k.thread sl).psq.find? (fun e => e.id == id)).bind (·.actor)).getD c
  | .copy id | .post id => ((k.copies.find? (fun r => r.id == id)).bind (·.actor)).getD c
  | _ => c
/-- The access of a remote operation waits at its home for the pre-image of a page: so does its thread (19 R409). -/
def State.imageWait (s : State) (m : Msg) (page : Nat) : State :=
  if m.dev = 0 ∧ m.slot < 16 then
    s.modThr m.core m.slot (fun t => { t with pend := t.pend.map (fun p => if p.id = m.pend then { p with imaged := some page } else p) })
  else s
/-- Queue an access at a bank; the first touch of a page by a captured launch waits there for its pre-image (19 R409). -/
def State.enqueue (s : State) (c b : Nat) (r : BankReq) : State :=
  let actor := (s.core c).actorOf c r.ref
  let pre := r.bytes != 0 && !(s.lacking actor c r.off).isEmpty
  let s := if pre then s.preBegin actor c r.off else s
  let s := match r.ref, (s.core c).inbuf with
    | .agent, m :: _ => if pre then s.imageWait m (pageKey c r.off) else s
    | _, _ => s
  s.modCore c (fun k => k.setBank b { k.bank b with queue := insertReq (k.bank b).queue { r with pre := pre } })

/-- The 64-byte units that a write of n bytes covers only in part. -/
def partUnits (off n : Nat) : List Nat :=
  ([off / 64 * 64, (off + n - 1) / 64 * 64].eraseDups).filter (fun u => !(off ≤ u && u + 64 ≤ off + n))
/-- A request by a slot for n bytes at a vault offset under a tag, which reaches the bank in a cycle: a write of less than a
whole sector reads first (R68), and a write to a line of which the tag has no cell reads the base line to make it (15 R297). -/
def State.bankReq (s : State) (c sl : Nat) (ref : BankRef) (off n : Nat) (rd wr : Bool) (tag : BitVec 16) (at' began : Nat) :
    Nat × BankReq :=
  let mat := wr && s.lacksCell c tag off
  let p := s.place c off tag
  (p.1, { ref := ref, row := p.2, arrived := at', slot := sl, began := began, off := off, bytes := n,
          rd := rd || mat || (wr && !(partUnits off n).isEmpty), wr := wr, tag := tag, mat := mat })
/-- An access of a slot reaches its bank in the current cycle (R68). -/
def State.request (s : State) (c sl : Nat) (ref : BankRef) (off n : Nat) (rd wr : Bool) (tag : BitVec 16) : State :=
  let r := s.bankReq c sl ref off n rd wr tag (s.now c) (s.now c)
  s.enqueue c r.1 r.2

/-- An access waits at a bank or for its beat. -/
def Core.queued (k : Core) (ref : BankRef) : Bool :=
  vecAny (fun b => b.queue.any (fun r => r.ref == ref)) k.banks || k.beats.any (fun e => e.req.ref == ref)
/-- A request leaves every queue. -/
def Core.unqueue (k : Core) (ref : BankRef) : Core :=
  { k with banks := vecMap (fun b => { b with queue := b.queue.filter (fun r => r.ref != ref) }) k.banks
           beats := k.beats.filter (fun e => e.req.ref != ref) }

/-- A test of a value that may be absent, with the answer for an absent one. -/
def ifSome (o : Option Nat) (d : Bool) (p : Nat → Bool) : Bool := match o with | some a => p a | none => d

/-- The bank is under refresh or repair. -/
def Bank.busy (b : Bank) : Bool := match b.state with | .refreshing | .repairing => true | _ => false

/-- Core cycles that begin after the current one up to router cycle t. -/
def Core.ccUntil (k : Core) (rt t : Nat) : Nat := if t ≤ rt then 0 else (k.phase + k.freq * (t - rt)) / Config.routerMhz

/-! ### Refresh (R70-R74) -/

/-- The first start of a bank's refresh schedule at or after a router cycle (R70). -/
def nextStart (c b therm r : Nat) : Nat :=
  let period := if therm = 0 then 8192 else 4096
  let o := if therm = 0 then 256 * b + 8 * (c % 32) else 128 * b + 4 * (c % 32)
  r + (o % period + period - r % period) % period

/-- The notice of a bank's refresh: 64 cc before its start (R72); it carries a repair if a row is marked and a spare is
left (R74).  The spec does not say when REPAIR_EXHAUSTED is logged: the model logs it once for each bank, at the first notice that
finds a marked row and no spare.  A row first marked after the notice has begun is not repaired by that refresh, whose rrep has
been shown as 0, but by the next (log 15).  A start of a changed schedule that falls while the bank is still held by a refresh at its
old start is not performed where the hold outlasts it; where the hold ends before it, its notice begins then (log 14). -/
def State.refreshNotice (s : State) (c b : Nat) : Option State :=
  let k := s.core c
  let x := k.bank b
  let t := nextStart c b k.therm (max s.rtime k.schedFrom)
  if x.notice.isNone && !x.busy && k.ccUntil s.rtime t ≤ 64 then
    let exhausted := !x.marked.isEmpty && x.spares == 0
    let s1 := if exhausted && !x.exhaustedLogged then s.record c 12 cRepairExhausted 0 false false 0 else s
    some (s1.modCore c (fun k => k.setBank b { x with
      notice := some t, repair := !x.marked.isEmpty && x.spares != 0,
      exhaustedLogged := x.exhaustedLogged || exhausted }))
  else none

/-- The refresh begins in the core cycle that holds its start: the row closes, the bank is held for 160 cc, and the accesses whose
beats have not been made wait in its queue again (R70, R71). -/
def State.refreshStart (s : State) (c b : Nat) : Option State :=
  let k := s.core c
  let x := k.bank b
  match x.notice with
  | some t =>
    if !x.busy && k.ccUntil s.rtime t = 0 then
      some (s.modCore c (fun k => { k.setBank b { x with
          state := .refreshing, row := ⟨0, false⟩, notice := none, heldTo := k.cycle + 160,
          queue := (k.beats.filter (fun e => e.bank == b)).foldl (fun q e => insertReq q e.req) x.queue } with
        beats := k.beats.filter (fun e => e.bank != b) }))
    else none
  | none => none

/-- A refresh ends, or goes on as a repair for 240 cc; a repair redirects one marked row to a spare (R74). -/
def State.refreshEnd (s : State) (c b : Nat) : Option State :=
  let k := s.core c
  let x := k.bank b
  if x.busy && x.heldTo ≤ k.cycle then
    if x.state == .refreshing && x.repair then
      some (s.modCore c (fun k => k.setBank b { x with state := .repairing, heldTo := k.cycle + 240 }))
    else if x.state == .repairing then
      some (s.modCore c (fun k => { k.setBank b { x with
          state := .closed, repair := false, marked := x.marked.tail, spares := x.spares - 1 } with
        rpcnt := Nat.min 255 (k.rpcnt + 1) }))
    else some (s.modCore c (fun k => k.setBank b { x with state := .closed }))
  else none

/-- An optional change as the outcome of an event: where it is not enabled, nothing happens (log 5). -/
def orSame (s : State) (x : Option State) : Out := .next (x.getD s)

def execRefreshNotice (c b : Nat) (s : State) : Out := orSame s (s.refreshNotice c b)
def execRefreshStart (c b : Nat) (s : State) : Out := orSame s (s.refreshStart c b)
def execRefreshEnd (c b : Nat) (s : State) : Out := orSame s (s.refreshEnd c b)

/-- Core cycles until the noticed refresh of a bank, 0 if none (R73, R87): after a change to a faster clock a start more than 64 cc
away is no longer within notice (R72). -/
def Core.rwait (k : Core) (rt b : Nat) : Nat :=
  match (k.bank b).notice with
  | some t => if (k.bank b).busy || 64 < k.ccUntil rt t then 0 else k.ccUntil rt t
  | none => 0

/-- The bank whose noticed refresh begins first, of equal starts the lowest (R73). -/
def Core.pendingRefresh (k : Core) (rt : Nat) : Option (Nat × Nat) :=
  (List.range 32).foldl (fun acc b =>
    match (k.bank b).notice with
    | some t =>
      if k.rwait rt b = 0 then acc
      else match acc with
        | some (_, t') => if t < t' then some (b, t) else acc
        | none => some (b, t)
    | none => acc) none

/-- vevt (R73). -/
def Core.vevt (k : Core) (rt : Nat) : Word :=
  let busy := (List.range 32).filter (fun b => (k.bank b).busy)
  BitVec.ofNat 64 (k.rpcnt * 2 ^ 40 + k.therm * 2 ^ 32
    + (match busy with | b :: _ => 2 ^ 23 + b * 2 ^ 18 | [] => 0)
    + (match k.pendingRefresh rt with
       | some (b, _) => (if (k.bank b).repair then 2 ^ 17 else 0) + 2 ^ 15 + b * 2 ^ 10 + k.rwait rt b
       | none => 0))

/-! ### Soft errors (R77, R78; 06 R113) -/

/-- A 32-byte half of a scratchpad word is read (06 R113): one flipped bit is corrected, and counted the first time; more poison the
word, whose bits stay as read. -/
def State.senseHalf (s : State) (home u i : Nat) : State :=
  let said (s1 : State) (code : BitVec 16) : State := s1.record home 12 code (BitVec.ofNat 64 (u * 64 % Config.homeSpan)) false false 0
  let v := s.halfFlips u i
  if ones v 512 = 0 then s
  else if ones v 512 = 1 then
    if s.soft.any (fun e => e.fresh u && e.flip &&& halfMask i != 0) then
      let s1 := s.halfClean u i
      said { s1 with soft := s1.soft ++ [{ unit := u, flip := v, parity := 0, seen := true }] } (det cScratchCorrected 0)
    else s
  else
    let s1 := (s.halfClean u i).flipBytes u v
    if s.poison.contains u then s1 else said { s1 with poison := sinsert s1.poison u } (det cUncorrectable 0x11)

/-- A read meets the open errors of one unit.  A vault sector that passes its CRC is read as it stands; one that fails it is
rebuilt and written back, or poisoned, and its row is marked for repair, a cell row by the number 16,384 above its own (log 109).  The
halves of a scratchpad word have codes of their own. -/
def State.senseUnit (s : State) (home u : Nat) : State :=
  let off := u * 64 % Config.homeSpan
  let said (s1 : State) (code : BitVec 16) : State := s1.record home 12 code (BitVec.ofNat 64 off) false false 0
  let row := rowOf off + (if inCells off then 16384 else 0)
  if inVault off || inCells off then
    if s.passes u (s.flipsOf u) then s.flipUnit u (s.flipsOf u)
    else
      let s1 := s.modCore home (fun k =>
        let b := k.bank (bankOf off)
        k.setBank (bankOf off) { b with marked := if b.marked.contains row then b.marked else b.marked ++ [row] })
      match (s.rebuilt? (u / 16)).bind (fun xs => xs.find? (fun x => x.1 == u % 16)) with
      | some x => said (s1.writeRebuilt u x.2) (det cVaultCorrected 0)
      | none => if s.unitBad u then s1.giveUp u else said (s1.giveUp u) (det cUncorrectable 0x10)
  else (s.senseHalf home u 0).senseHalf home u 1

/-- The units of n bytes with open errors, in themselves or in their CRC fields. -/
def State.softUnits (s : State) (home off n : Nat) : List Nat :=
  ((s.soft.flatMap (fun e =>
      if e.parity = 3 then ((List.range 4).map (fun i => e.unit / 4 * 4 + i)).filter (fun u => s.crcFlips u != 0)
      else if e.fresh e.unit then [e.unit] else [])).filter
    (fun u => unit home off ≤ u && u ≤ unit home (off + n - 1))).eraseDups
/-- A read of n bytes of a core on behalf of a core meets every open error of its units. -/
def State.sense (s0 : State) (home off n : Nat) (actor : Nat := home) : State :=
  let s := s0.touch actor home off n false
  (s.softUnits home off n).foldl (fun s u => s.senseUnit home u) s

/-- A write of n bytes reads the units that it covers only in part (R68, R77; 06 R113). -/
def State.senseParts (s : State) (home off n : Nat) (actor : Nat := home) : State :=
  (partUnits off n).foldl (fun s u => s.sense home u 64 actor) s
/-- A read of n bytes finds a sector that fails its CRC: it takes 48 cc more (R77). -/
def State.mustRebuild (s : State) (home off n : Nat) : Bool :=
  (inVault off || inCells off) && (s.softUnits home off n).any (fun u => !s.passes u (s.flipsOf u))
/-- The cell whose bytes serve an access (15 R297). -/
def State.cellOf (s : State) (c : Nat) (r : BankReq) : Option Cell :=
  if r.row.cell then (s.core c).cell? (s.domain c) (lineOf r.off) r.tag else none
/-- The bytes that a beat reads: of a cell its line; for a transfer's write the sectors that it covers in part (R68, R77). -/
def State.readsAt (s : State) (c : Nat) (r : BankReq) (parts : Bool) : List (Nat × Nat) :=
  let base := if parts then (partUnits r.off r.bytes).map (fun u => (u, 64)) else [(r.off, r.bytes)]
  if r.row.cell then (if base.isEmpty then [] else ((s.cellOf c r).map (fun x => (cellOff x.k, 64))).toList) else base
/-- The sectors that a beat reads are met on behalf of a party, and those of its pages by the captures (R77; 19 R409). -/
def State.senseAt (s : State) (c : Nat) (r : BankReq) (parts : Bool) (actor : Nat) : State :=
  (s.readsAt c r parts).foldl (fun s x => s.sense c x.1 x.2 actor) (if r.row.cell then s.touch actor c r.off r.bytes false else s)

/-- The bytes of flipped bits from an offset. -/
def flippedBytes (off : Nat) (flip : Vec) : List (Nat × Byte) :=
  ((List.range 64).map (fun i => (off + i, flip.extractLsb' (8 * i) 8))).filter (fun x => x.2 != 0)
/-- Bits that flip in the pools of save images and cairns, which have no address of their own: the model names the image that was saved on
core n by the home 1,040 + n, and the cairn n by the home 2,064 + n (18 R395; 19 R411; log 36). -/
def State.poolError (s : State) (home off : Nat) (flip : Vec) : State :=
  let fs := flippedBytes off flip
  if home < 2064 then
    { s with ridges := s.ridges.map (fun r => { r with image := r.image.map (fun x => if x.num = home - 1040 then { x with flips := x.flips ++ fs } else x) }) }
  else { s with cairns := s.cairns.map (fun k => if k.id = home - 2064 then { k with flips := k.flips ++ fs } else k) }
/-- SOFT_ERROR: bits of a 64-byte unit, by its global key, or of the parity sectors (1 and 2) or the parity word (1) of its group,
or of the metadata of its 256-byte block (3), flip (03 R54, R57; 04 R77; 06 R113). -/
def execSoftError (addr : Nat) (flip : BitVec 512) (parity : Nat) (s : State) : Out :=
  .next (if 1040 * Config.homeSpan ≤ addr then s.poolError (addr / Config.homeSpan) (addr / 64 * 64 % Config.homeSpan) flip
    else { s with soft := s.soft ++ [{ unit := addr / 64, flip := flip, parity := parity, seen := false }] })

/-- SCRATCH_SCRUB: the corrected half is written back, in a cycle after its read (06 R113; log 4). -/
def execScratchScrub (c addr : Nat) (s : State) : Out :=
  .next { s with soft := s.soft.filter (fun e => !(e.unit == unit c addr && e.parity == 0 && e.seen && inScratch addr)) }

/-! ### What a beat does (R68, R78, R80-R84; 16 R315, R334; 15 R295, R306) -/

/-- Two ranges of bytes share a byte. -/
def overlap (a n b m : Nat) : Bool := a < b + m && b < a + n
/-- Two entries of the queue touch a common byte. -/
def Posted.meets (e f : Posted) : Bool :=
  e.parts.any (fun x => f.parts.any (fun y => overlap x.1.toNat x.2.1 y.1.toNat y.2.1))

/-- The value an atomic operation writes over old, if it writes: a cas that would leave the bytes as they are writes nothing (16 R334; 14
R282).  R336 has a local cas whose comparison holds write g[b+1] even then: see `AtomOp.newHere`. -/
def AtomOp.new (op : AtomOp) (old x y : Word) : Option Word :=
  match op with
  | .swap => some x
  | .add => some (old + x)
  | .and => some (old &&& x)
  | .or => some (old ||| x)
  | .xor => some (old ^^^ x)
  | .max => some (if old.slt x then x else old)
  | .min => some (if x.slt old then x else old)
  | .cas => if old = x ∧ y ≠ old then some y else none

/-- The value a local AMO writes over old, if it writes: a cas whose comparison holds writes whatever the value is (16 R336). -/
def AtomOp.newHere (op : AtomOp) (old x y : Word) : Option Word :=
  match op with
  | .cas => if old = x then some y else none
  | op => op.new old x y

/-- The word LDX returns for a line (15 R306): .now and .wait the sealed cell's or the base's 8 bytes, .probe the state code. -/
def State.ldxNow (s : State) (c sl off form : Nat) (tag : BitVec 16) (ownStores : Bool) : Word × Bool :=
  let cell := if tag != 0 && s.taggedPage c off then (s.core c).cell? (s.domain c) (lineOf off) tag else none
  if form = 2 then
    let code := match cell with | none => 0 | some x => if x.isSealed then 2 else 1
    (BitVec.ofNat 64 (if tag = 0 then 0 else code + (if (s.core c).tagState tag == .sealed then 4 else 0)), false)
  else
    match cell with
    | some x =>
      if x.isSealed then (x.bytes.extractLsb' (8 * (off % 64)) 64, x.poison)
      else if ownStores then let (v, po) := s.load c sl off 8 0; (BitVec.ofNat 64 v, po) else s.tagged8 c off 0
    | none => if ownStores then let (v, po) := s.load c sl off 8 0; (BitVec.ofNat 64 v, po) else s.tagged8 c off 0

/-- What a read of some lanes of a pending instruction returns now: lane, value, poison. -/
def State.sampled (s : State) (c sl : Nat) (p : Pend) (lanes : List Nat) : List (Nat × Nat × Bool) :=
  match p.kind with
  | .load ea size _ tag => [(0, s.load c sl ea.toNat size tag)]
  | .vload addrs size _ tag _ => (addrs.filter (fun x => lanes.contains x.1)).map (fun x => (x.1, s.load c sl x.2.toNat size tag))
  | .ctrwait ea _ tag _ _ => [(0, s.load c sl ea.toNat 8 tag)]
  | .ldx form ea tag => let v := s.ldxNow c sl ea.toNat form tag true; [(0, v.1.toNat, v.2)]
  | .launch _ ea _ 0 => [(0, s.load c sl ea.toNat 128 0)]
  | .amo _ ea _ _ tag _ | .ctradd ea _ tag _ => let v := s.tagged8 c ea.toNat tag; [(0, v.1.toNat, v.2)]
  | .ldec _ w => lanes.map (fun i => (i, s.load c sl (bitsN w 41 0 + 16 * i) 16 0))
  | _ => []
/-- The lanes a pending instruction reads. -/
def PKind.lanes : PKind → List Nat
  | .vload addrs .. => addrs.map (·.1)
  | .ldec _ w => List.range (bitsN w 50 48 + 1)
  | _ => [0]
/-- Every read of a pending instruction has been made. -/
def Pend.allRead (p : Pend) : Bool := p.kind.lanes.all (fun i => p.got.any (fun g => g.1 == i))
/-- The value that a lane's read returned. -/
def Pend.gotOf (p : Pend) (i : Nat) : Option (Nat × Bool) := (p.got.find? (fun g => g.1 == i)).map (·.2)

/-- Change a pending instruction of a slot. -/
def State.modPend (s : State) (c sl id : Nat) (f : Pend → Pend) : State :=
  s.modThr c sl (fun t => { t with pend := replaceFirst (fun p => p.id == id) f t.pend })

/-- Some lanes of a pending instruction are read in this cycle: its completion is due some cycles after the last of them, and no
earlier than what the lanes read before it need. -/
def State.readLanes (s : State) (c sl : Nat) (p : Pend) (lanes : List Nat) (after : Nat) : State :=
  let q := { p with got := p.got ++ (s.before c).sampled c sl p lanes, due := max p.due (s.now c + after) }
  s.modPend c sl p.id (fun _ => if q.allRead then { q with served := true } else q)

/-- The read half of a beat. -/
def State.beatRead (s : State) (c : Nat) (r : BankReq) : State :=
  match r.ref with
  | .pend sl id lanes => match s.pend? c sl id with
    | some p => if r.wr then s.modPend c sl id (fun p => { p with got := s.sampled c sl p lanes }) else s.readLanes c sl p lanes 2
    | none => s
  | .posted .. => s
  | ref => if r.wr then s else s.modCore c (fun k => { k with granted := some ref })

/-- A tag that has been sealed or retired since its access was accepted refuses it when it is performed (15 R302, R303; log 19). -/
def State.lateTag (s : State) (c sl : Nat) (p : Pend) (ea : Word) (tag : BitVec 16) (go : State) : State :=
  match s.tagRefusal c ea.toNat tag with
  | some code => s.lateFault c sl p code (tagInfo tag c (lineOf ea.toNat)) ea
  | none => go

/-- The write of a pending STL, AMO or CTRADD, which is then performed: its completion is due some cycles later (R84; 05 R108; 16 R336). -/
def State.pendWrite (s : State) (c sl : Nat) (p : Pend) (after : Nat) : State :=
  let old := ((p.gotOf 0).map (fun g => (BitVec.ofNat 64 g.1, g.2))).getD (0, false)
  let done (s1 : State) : State := s1.modPend c sl p.id (fun q => { q with got := p.got, served := true, due := s.now c + after })
  match p.kind with
  | .stl ea size v tag _ _ => s.lateTag c sl p ea tag (done (s.store c ea.toNat (leBytes v.toNat size) tag ((s.core c).actorIn c sl)))
  | .amo op ea x y tag _ => s.lateTag c sl p ea tag (match (if old.2 then none else op.newHere old.1 x y) with
    | some v => done (s.store c ea.toNat (leBytes v.toNat 8) tag ((s.core c).actorIn c sl))
    | none => done s)
  | .ctradd ea x tag _ => s.lateTag c sl p ea tag (done (s.store c ea.toNat (leBytes (old.1 + x).toNat 8) tag ((s.core c).actorIn c sl)))
  | _ => s

/-- The parts of an entry that are performed together: the first, and with it those of a unit-stride vector store that lie in the same
64-byte line (10 R224). -/
def Posted.head (e : Posted) : List (Word × Nat × Vec) :=
  match e.parts with
  | [] => []
  | x :: rest => x :: (if e.joined then rest.takeWhile (fun y => y.1.toNat / 64 == x.1.toNat / 64) else [])
/-- The parts that are left when those have been performed. -/
def Posted.later (e : Posted) : List (Word × Nat × Vec) := e.parts.drop e.head.length

/-- The first part of a posted store reaches its bank in a cycle; the scratchpad has no queue. -/
def State.headToBank (s : State) (c sl : Nat) (e : Posted) (at' : Nat) : State :=
  match e.parts with
  | (ea, n, _) :: _ =>
    if inVault ea.toNat then
      let r := s.bankReq c sl (.posted sl e.id) ea.toNat n false true e.tag at' at'
      s.enqueue c r.1 r.2
    else s
  | [] => s
/-- The first part of a posted store is performed: the entry leaves the queue with its last part, else its next part goes to its
bank (R82; 10 R224). -/
def State.performHead (s : State) (c sl : Nat) (e : Posted) : State :=
  if e.parts.isEmpty then s
  else
    let s1 := s.storeLine c e.head e.tag (e.actor.getD c)
    if e.later.isEmpty then s1.modThr c sl (fun t => { t with psq := t.psq.filter (fun x => x.id != e.id) })
    else
      let e1 : Posted := { e with parts := e.later, due := s.now c + 1 }
      (s1.modThr c sl (fun t => { t with psq := replaceFirst (fun x => x.id == e.id) (fun _ => e1) t.psq })).headToBank c sl e1
        (s.now c + 1)
/-- The entry's first part may be performed: it is due, and no older entry touches its bytes (R82). -/
def Thread.mayPerform (t : Thread) (e : Posted) (now : Nat) : Bool :=
  e.due ≤ now && (t.psq.takeWhile (fun x => x.id != e.id)).all (fun x => !x.meets { e with parts := e.head })
/-- A posted store of a thread by its name. -/
def Thread.posted? (t : Thread) (id : Nat) : Option Posted := t.psq.find? (fun e => e.id == id)

/-- The write beat of an access. -/
def State.beatWrite (s : State) (c : Nat) (r : BankReq) : State :=
  match r.ref with
  | .pend sl id _ => match s.pend? c sl id with
    | some p => s.pendWrite c sl p 1
    | none => s
  | .posted sl id => match (s.thr c sl).posted? id with
    | some e => s.performHead c sl e
    | none => s
  | ref => s.modCore c (fun k => { k with granted := some ref })

/-! ### Serving a bank's queue (R67-R69) -/

/-- Activations the vault has begun in the last 16 cycles (R68). -/
def Core.recentActs (k : Core) : Nat :=
  (k.banks.toList.filter (fun b => ifSome b.actAt false (fun a => k.cycle < a + 16))).length

/-- The access a bank serves next (R69): one that has waited 256 cc, else the oldest to the open row, else the oldest. -/
def Bank.pick (b : Bank) (now : Nat) : Option BankReq :=
  match b.queue.find? (fun r => r.arrived + 256 ≤ now) with
  | some r => some r
  | none =>
    match (if b.state == .opened then b.queue.find? (fun r => r.ref != .rowpre && r.row == b.row) else none) with
    | some r => some r
    | none => b.queue.head?

/-- A transfer of many beats, which takes the bus behind scalar beats and needs no command (R68, R69). -/
def BankRef.streams : BankRef → Bool
  | .xfer _ | .copy _ | .agentRun => true
  | _ => false
/-- A write of another access to the line is filling a cell of the tag: one occupancy, in which no other write under the tag
intervenes (15 R295; 16 R336). -/
def Core.filling (k : Core) (r : BankReq) : Bool :=
  let mine (y : BankReq) : Bool := y.made && y.tag == r.tag && lineOf y.off == lineOf r.off && y.ref != r.ref
  vecAny (fun b => b.queue.any mine) k.banks || k.beats.any (fun e => mine e.req)
/-- An access that its bank may serve: a part of a posted store waits for older stores to its bytes (R82), and a write under a tag for
the cell that another is filling. -/
def State.mayServe (s : State) (c : Nat) (r : BankReq) : Bool :=
  !r.pre && r.arrived ≤ s.now c && !(r.wr && r.tag != 0 && (s.core c).filling r) && (match r.ref with
    | .posted sl id => match (s.thr c sl).posted? id with
      | some e => (s.thr c sl).mayPerform e (s.now c)
      | none => true
    | _ => true)

/-- A beat falls in this cycle or the next: in a hot vault only even cycles carry one (R75). -/
def Core.evenFrom (k : Core) (t : Nat) : Nat := if 2 ≤ k.therm && t % 2 = 1 then t + 1 else t
/-- The vault's bus may carry a beat in this cycle: it is free, and in a hot vault the cycle is even (R64, R75). -/
def Core.busFree (k : Core) : Bool := k.bus ≤ k.cycle && (k.therm < 2 || k.cycle % 2 == 0)
/-- The last beat of an access whose command begins now, if the bus is free when it is ready (R68). -/
def Core.lastBeat (k : Core) (r : BankReq) : Nat :=
  if r.rd && r.wr then k.evenFrom (k.evenFrom (k.cycle + 4) + 1) else k.evenFrom (k.cycle + 4)
/-- A read-modify-write occupies its bank until its write beat (R68). -/
def Core.occupied (k : Core) (b : Nat) : Bool := k.beats.any (fun e => e.bank == b && e.req.rd && e.req.wr)

/-- The scalar beat that takes the bus now: of those that are ready, the one whose access reached the controller first (R69). -/
def Core.nextBeat (k : Core) : Option Beat :=
  if !k.busFree then none
  else (k.beats.filter (fun e => e.ready ≤ k.cycle && (k.bank e.bank).heldTo ≤ k.cycle)).foldl (fun acc e =>
    match acc with
    | none => some e
    | some m => if e.req.arrived < m.req.arrived || (e.req.arrived == m.req.arrived && e.req.slot < m.req.slot) then some e else some m)
    none

/-- The eight bytes of an access are poisoned, or their value satisfies p. -/
def State.poisonOr (s : State) (c : Nat) (r : BankReq) (p : Word → Bool) : Bool :=
  let old := s.tagged8 c r.off r.tag
  old.2 || p old.1
/-- An access that would make a cell turns out to write nothing, so that it makes none: an AMO or RATOM whose cas fails, or whose
bytes are poisoned (16 R336; 14 R278). -/
def State.writesNothing (s : State) (c : Nat) (r : BankReq) : Bool :=
  match r.ref with
  | .pend sl id _ => match s.pend? c sl id with
    | some p => match p.kind with
      | .amo op _ x y _ _ => s.poisonOr c r (fun old => (op.newHere old x y).isNone)
      | _ => false
    | none => false
  | .agent => match (s.core c).inbuf with
    | m :: _ => match m.kind with
      | .ratom op x y => s.poisonOr c r (fun old => (op.new old x y).isNone)
      | _ => false
    | [] => false
  | _ => false

/-- A scalar access takes its beat.  A read of a sector that fails its CRC is made again after the rebuild, 48 cc later (R77); a
read that makes a cell goes on as a write to the cell (15 R297), unless its tag has been sealed or retired meanwhile, which makes none
(15 R295); the read half of a write is followed by the write (R68). -/
def State.takeBeat (s : State) (c : Nat) (e : Beat) : State :=
  let r := e.req
  let s0 := s.modCore c (fun k => { k.setBank e.bank { k.bank e.bank with lastBeat := k.cycle } with
    bus := k.cycle + 1, beats := k.beats.erase e })
  if r.rd && !e.second then
    let actor := (s.core c).actorOf c r.ref
    if (s.readsAt c r false).any (fun x => s.mustRebuild c x.1 x.2) then
      (s0.senseAt c r false actor).modCore c (fun k => { k.setBank e.bank { k.bank e.bank with heldTo := k.cycle + 48 } with
        beats := k.beats ++ [{ e with ready := k.cycle + 48, again := true }] })
    else
      let s1 := (s0.senseAt c r false actor).beatRead c r
      if r.mat && (s.tagRefusal c r.off r.tag).isSome then s1.beatWrite c r
      else if r.mat && !s1.writesNothing c r then
        let s2 := s1.materialise c (lineOf r.off) r.tag
        let p := s2.place c r.off r.tag
        s2.enqueue c p.1 { r with row := p.2, rd := false, mat := false, made := true }
      else if r.wr then s1.modCore c (fun k => { k with beats := k.beats ++ [{ e with second := true, ready := k.cycle + 1 }] })
      else s1
  else s0.beatWrite c r

/-- The bank carries the scalar beat that takes the bus now. -/
def State.bankBeat (s : State) (c b : Nat) : Option State :=
  match (s.core c).nextBeat with
  | some e => if e.bank = b then some (s.takeBeat c e) else none
  | none => none

/-- The access that a bank serves in this cycle, if it serves one. -/
def State.picked (s : State) (c b : Nat) : Option BankReq :=
  let x := (s.core c).bank b
  { x with queue := x.queue.filter (s.mayServe c) }.pick (s.now c)

/-- A bank has accepted an access: the entry of a posted store whose last part it is leaves its queue (R82). -/
def State.takePosted (s : State) (c : Nat) (r : BankReq) : State :=
  match r.ref with
  | .posted sl id => s.modThr c sl (fun t => { t with
      psq := replaceFirst (fun e => e.id == id) (fun e => { e with taken := e.taken || e.later.isEmpty }) t.psq })
  | _ => s

/-- A bank closes its open row. -/
def Bank.precharge (x : Bank) (now : Nat) : Bank := { x with state := .precharging, preAt := now, row := ⟨0, false⟩ }
/-- A bank begins to open a row, which serves every ROWACT to it (R86). -/
def Bank.activate (x : Bank) (now : Nat) (row : RowName) : Bank :=
  { x with state := .activating, row := row, actAt := some now, opening := none,
           queue := x.queue.filter (fun r => !(r.ref == .rowact && r.row == row)) }

/-- A closed bank may begin an activation (R68, R72). -/
def State.mayActivate (s : State) (c b : Nat) : Bool :=
  let k := s.core c
  let x := k.bank b
  x.state == .closed && x.heldTo ≤ k.cycle && ifSome x.actAt true (fun a => a + 60 ≤ k.cycle) && k.recentActs < 8 &&
    ifSome (x.notice.map (fun t => k.ccUntil s.rtime t)) true (fun m => 18 < m)

/-- The command of a bank for the access that it serves: of a hit, a precharge or an activation, as R68, R69, R71 and R72 allow. -/
def State.bankGo (s : State) (c b : Nat) (r : BankReq) : Option State :=
  let k := s.core c
  let x := k.bank b
  let now := k.cycle
  let put (x : Bank) : State := s.modCore c (fun k => k.setBank b x)
  if now < x.heldTo || k.occupied b then none
  else match x.state with
  | .opened =>
    if r.ref != .rowpre && r.row == x.row then
      match (if r.ref.streams then x.queue.find? (fun y => s.mayServe c y && y.ref != .rowpre && y.row == x.row && !y.ref.streams)
        else some r) with
      | none => none
      | some r =>
        if ifSome (x.notice.map (fun t => k.ccUntil s.rtime t)) false (fun m => now + m ≤ k.lastBeat r) then none
        else some (((put { x with queue := x.queue.erase r }).modCore c (fun k =>
          { k with beats := k.beats ++ [{ req := r, bank := b, ready := now + 4, second := false }] })).takePosted c r)
    else if ifSome x.actAt true (fun a => a + 42 ≤ now) && x.lastBeat < now && k.beats.all (fun e => e.bank != b) then
      let y := x.precharge now
      some (put (if r.ref == .rowpre then { y with queue := x.queue.erase r }
        else if r.ref == .rowact then { y with queue := x.queue.erase r, opening := some r.row } else y))
    else none
  | .closed => if s.mayActivate c b then some (put (x.activate now r.row)) else none
  | _ => none

/-- A bank serves an access: a ROWPRE on a bank without an open row, and a ROWACT to the open row, do nothing (R86); a write whose tag
has a cell by now goes to the cell's bank (15 R297). -/
def State.bankTake (s : State) (c b : Nat) (r : BankReq) : Option State :=
  let x := (s.core c).bank b
  let dropped : State := s.modCore c (fun k => k.setBank b { x with queue := x.queue.erase r })
  if r.ref == .rowpre && x.state != .opened && x.state != .activating then some dropped
  else if r.ref == .rowact && x.state == .opened && r.row == x.row then
    some (match dropped.picked c b with | some y => (dropped.bankGo c b y).getD dropped | none => dropped)
  else if r.mat && !s.lacksCell c r.tag r.off then
    let p := s.place c r.off r.tag
    some (dropped.enqueue c p.1 { r with row := p.2, mat := false, rd := r.bytes != 64 })
  else s.bankGo c b r

/-- One step of a bank: the activation that a ROWACT has begun by its precharge goes on (R86), else it serves the access that R69
chooses. -/
def State.bankCommand (s : State) (c b : Nat) : Option State :=
  let x := (s.core c).bank b
  match x.opening with
  | some row => if s.mayActivate c b then some (s.modCore c (fun k => k.setBank b (x.activate k.cycle row))) else none
  | none => (s.picked c b).bind (s.bankTake c b)

/-- One cycle of a bank: the beat that takes the bus, then its command. -/
def State.bankServe (s : State) (c b : Nat) : Option State :=
  match s.bankBeat c b with
  | some s1 => some ((s1.bankCommand c b).getD s1)
  | none => s.bankCommand c b

def execBankServe (c b : Nat) (s : State) : Out := orSame s (s.bankServe c b)

/-- A row is open 18 cc after its activation began (R68). -/
def State.activationDone (s : State) (c b : Nat) : Option State :=
  let k := s.core c
  let x := k.bank b
  if x.state == .activating && ifSome x.actAt true (fun a => a + 18 ≤ k.cycle) then
    some (s.modCore c (fun k => k.setBank b { x with state := .opened }))
  else none
/-- A bank is closed 18 cc after its precharge began (R68). -/
def State.prechargeDone (s : State) (c b : Nat) : Option State :=
  let k := s.core c
  let x := k.bank b
  if x.state == .precharging && x.preAt + 18 ≤ k.cycle then
    some (s.modCore c (fun k => k.setBank b { x with state := .closed }))
  else none

def execActivationComplete (c b : Nat) (s : State) : Out := orSame s (s.activationDone c b)
def execPrechargeComplete (c b : Nat) (s : State) : Out := orSame s (s.prechargeDone c b)

/-! ### Transfers of many beats (R69, R71) -/

/-- The request of a transfer, with its bank. -/
def Core.streamOf (k : Core) (ref : BankRef) : Option (Nat × BankReq) :=
  (List.range 32).findSome? (fun b => ((k.bank b).queue.find? (fun r => r.ref == ref)).map (fun r => (b, r)))
/-- The row of a transfer's next beat is open, and its bank is not held (R68, R71). -/
def Core.streamOpen (k : Core) (b : Nat) (r : BankReq) : Bool :=
  let x := k.bank b
  !r.pre && r.arrived ≤ k.cycle && x.state == .opened && x.row == r.row && x.heldTo ≤ k.cycle && !k.occupied b
/-- The copy requests by turn: behind the one that took the last beat, in commit order (05 R441). -/
def Core.copyOrder (k : Core) : List Nat :=
  let ids := k.copies.map (·.id)
  ids.filter (fun i => k.copyTurn < i) ++ ids.filter (fun i => i ≤ k.copyTurn)
/-- The copy request to which the movement thread gives this cycle: the first whose next beat can take the bus, or needs none (R69;
05 R441). -/
def Core.copyOffer (k : Core) : Option Nat :=
  k.copyOrder.find? (fun i => match k.streamOf (.copy i) with
    | some (b, r) => k.streamOpen b r && k.busFree
    | none => k.copies.any (fun r => r.id == i && r.ready))
/-- The transfer that takes the bus in a cycle that no scalar beat takes: the one that began first (R69). -/
def Core.streamNext (k : Core) : Option (Nat × BankReq) :=
  if !k.busFree then none
  else
    let offers := (List.range 32).flatMap (fun b => (k.bank b).queue.filterMap (fun r =>
      if r.ref.streams && k.streamOpen b r && (match r.ref with | .copy i => k.copyOffer == some i | _ => true) then some (b, r) else none))
    offers.foldl (fun acc x => match acc with
      | none => some x
      | some m => if x.2.began < m.2.began || (x.2.began == m.2.began && x.2.slot < m.2.slot) then some x else some m) none
/-- A transfer takes the bus; where its beat meets a sector that fails its CRC, the beat is made 48 cc later (R77).  A beat that the
movement thread has offered and that loses the bus to it is its only one in the cycle (R69). -/
def State.streamBeat (s : State) (c : Nat) : State :=
  match (s.core c).streamNext with
  | none => s
  | some (b, r) =>
    let s1 := s.modCore c (fun k =>
      let x := k.bank b
      let q := x.queue.map (fun y => if y == r then { y with arrived := k.cycle } else y)
      { k.setBank b { x with lastBeat := k.cycle, queue := q } with bus := k.cycle + 1 })
    let offered := match (s.core c).copyOffer with | some i => !(s.core c).copies.any (fun x => x.id == i && x.ready) | none => false
    if (s.readsAt c r r.wr).any (fun x => s.mustRebuild c x.1 x.2) then
      (s1.senseAt c r r.wr ((s.core c).actorOf c r.ref)).modCore c (fun k =>
        { k.setBank b { k.bank b with heldTo := k.cycle + 48 } with copyNext := if offered then k.cycle + 1 else k.copyNext })
    else s1.modCore c (fun k => { k with
      granted := some r.ref
      copyNext := match r.ref with | .copy _ => k.copyNext | _ => if offered then k.cycle + 1 else k.copyNext })
/-- A transfer asks for the row of its next beat, which moves n bytes at an offset (R71); it asks for nothing where it is asking
already, or where the bytes lie in the scratchpad. -/
def State.wantRow (s : State) (c sl : Nat) (ref : BankRef) (off n : Nat) (rd wr : Bool) (tag : BitVec 16) (at' began : Nat) : State :=
  if !inVault off then s.modCore c (fun k => k.unqueue ref)
  else
    let want := s.bankReq c sl ref off n rd wr tag at' began
    match (s.core c).streamOf ref with
    | some (b, r) =>
      if b = want.1 ∧ r.row = want.2.row then
        s.modCore c (fun k => k.setBank b { k.bank b with
          queue := (k.bank b).queue.map (fun y => if y == r then { want.2 with arrived := r.arrived, pre := r.pre } else y) })
      else (s.modCore c (fun k => k.unqueue ref)).enqueue c want.1 want.2
    | none => s.enqueue c want.1 want.2
/-- The bus carries a beat of this party in this cycle. -/
def State.hasBeat (s : State) (c : Nat) (ref : BankRef) : Bool := (s.core c).granted == some ref

/-- A read-modify-write of a party has made its read beat, or a write to a tag's line has read the base, or the beat is made again behind
a rebuild: it is completed (R76). -/
def Core.halfDone (k : Core) (ref : BankRef) : Bool :=
  k.beats.any (fun e => e.req.ref == ref && (e.second || e.again || e.req.made)) || vecAny (fun b => b.queue.any (fun r => r.ref == ref && r.made)) k.banks

/-! ### ROWACT, ROWPRE and VQRY (R85-R87) -/

/-- The checks of the row-control instructions (R85). -/
def State.rowCheck (s : State) (c : Nat) (ea : Word) : Option (BitVec 16) :=
  if inScratch ea.toNat then some (det cLeaseMiss 6) else (s.core c).check ea 1 0 false false true

/-- A body that runs only where the row checks pass. -/
def rowBody (f : State → Nat → Nat → Word → Act) : Body := fun s c sl xs =>
  let ea := arg xs 0
  match s.rowCheck c ea with
  | some code => faultAt code ea
  | none => f s c sl ea

/-- Queue a row-control instruction. -/
def State.enqueueRow (s : State) (c sl : Nat) (ref : BankRef) (b : Nat) (row : RowName) : State :=
  s.enqueue c b { ref := ref, row := row, arrived := s.now c, slot := sl, began := s.now c, off := 0, bytes := 0, rd := false,
                  wr := false, tag := 0, mat := false }

/-- An access waits on a row of a bank. -/
def Bank.waitsOn (x : Bank) (row : RowName) : Bool := x.opening == some row || x.queue.any (fun r => r.ref != .rowpre && r.row == row)

/-- ROWACT (R86).  One whose row an access is already waiting for adds nothing; the spec does not say whether it still stands in the
queue, and so in VQRY's count: the model does not queue it (log 85). -/
def execRowact (a : BitVec 6) (l : BitVec 4) (s : State) : Out :=
  s.issueStep { srcs := [.g a], dsts := [], la := some l } (rowBody (fun s c sl ea =>
    let row : RowName := ⟨rowOf ea.toNat, false⟩
    if ((s.core c).bank (bankOf ea.toNat)).waitsOn row then .ret s [] none
    else .ret (s.enqueueRow c sl .rowact (bankOf ea.toNat) row) [] none))

/-- ROWPRE (R86). -/
def execRowpre (a : BitVec 6) (l : BitVec 4) (s : State) : Out :=
  s.issueStep { srcs := [.g a], dsts := [], la := some l } (rowBody (fun s c sl ea =>
    .ret (s.enqueueRow c sl .rowpre (bankOf ea.toNat) ⟨0, false⟩) [] none))

/-- The state code of a bank (R67). -/
def BankState.code : BankState → Nat
  | .closed => 0 | .activating => 1 | .opened => 2 | .precharging => 3 | .refreshing => 4 | .repairing => 5

/-- A bank after its own events of the current cycle, in the order in which they happen (log 2). -/
def State.bankNow (s : State) (c b : Nat) : State :=
  let try1 (f : State → Nat → Nat → Option State) (s : State) : State := (f s c b).getD s
  try1 State.bankCommand (try1 State.activationDone (try1 State.prechargeDone
    (try1 State.refreshStart (try1 State.refreshNotice (try1 State.refreshEnd s)))))

/-- vevt as it is sampled in a cycle: the refreshes that begin, end or are noticed in that cycle are in it (R73; log 2). -/
def State.vevtNow (s : State) (c : Nat) : Word :=
  let s1 := (List.range 32).foldl (fun s b =>
    let try1 (f : State → Nat → Nat → Option State) (s : State) : State := (f s c b).getD s
    try1 State.refreshStart (try1 State.refreshNotice (try1 State.refreshEnd s))) s
  (s1.core c).vevt s1.rtime

/-- The word of VQRY (R87), which samples the bank with the events of its cycle (log 2). -/
def State.vqryWord (s0 : State) (c off : Nat) : Word :=
  let b := bankOf off
  let s := s0.bankNow c b
  let k := s.core c
  let x := k.bank b
  let named := x.state == .opened || x.state == .activating
  BitVec.ofNat 64 ((if named then x.row.row * 2 ^ 26 + (if x.row.cell then 2 ^ 24 else 0) else 0)
    + k.rwait s.rtime b * 2 ^ 16 + Nat.min 255 x.queue.length * 2 ^ 8 + b * 8 + x.state.code)

/-- VQRY (R87): sampled at issue, written two cycles later. -/
def execVqry (d a : BitVec 6) (l : BitVec 4) (s : State) : Out :=
  s.issueStep { fR d a with la := some l, takes := true } (rowBody (fun s c _ ea =>
    .pend s (.vqry (s.vqryWord c ea.toNat)) (s.now c + 2)))
def execVqryCompletion (c sl id : Nat) (s : State) : Out :=
  .next (s.onPend c sl id (fun p => match p.kind with
    | .vqry w => s.finish c sl p [Val.of w]
    | _ => s))

end Sys2Proof.Machine
end

