-- ==== Sys2Proof/Machine/Local.lean ====
section
/-! DEFINITION. Local loads and stores: LD, ST, LDA, STL (04 R79-R84), the posted-store queue (04 R82) and the
completions of local reads (04 R80, R84; 05 R107; 10 R220). -/

namespace Sys2Proof.Machine
open Sys2Proof

/-- Cycles from issue to a filled destination: a vault access to an open row of an idle bank, a scratchpad word without
conflict (04 R68, 06 R112). -/
def latency (ea : Nat) : Nat := if inVault ea then 6 else 3

/-- The read of n bytes by the instruction that becomes pending reaches its bank in the issue cycle (04 R68); the scratchpad has no
queue. -/
def State.toBank (s : State) (c sl : Nat) (ea : Word) (n : Nat) (tag : BitVec 16) : State :=
  if inVault ea.toNat then s.request c sl (.pend sl s.fresh [0]) ea.toNat n true false tag else s

/-- A local read of size bytes at issue: the checks of R66, then pending. -/
def loadAt (s : State) (c sl : Nat) (ea : Word) (size : Nat) (kind : BitVec 16 → PKind) : Act :=
  match s.checkAt c ea size true false with
  | some code => faultAt code ea
  | none =>
    let tag := (s.thr c sl).tag
    .pend (s.toBank c sl ea size tag) (kind tag) (s.now c + latency ea.toNat)

/-- LD (R80): size bytes at g[a] plus the scaled offset. -/
def load (d a : BitVec 6) (l : BitVec 4) (off : Word) (size : Nat) (zext : Bool) (s : State) : Out :=
  s.issueStep { fR d a with la := some l, takes := true, touch := fun xs => [(arg xs 0 + off, size)], rd := true }
    (fun s1 c sl xs => loadAt s1 c sl (arg xs 0 + off) size (fun tag => .load (arg xs 0 + off) size zext tag))

/-- The 8-bit offset of LD, in units of the size. -/
def imm8 (i : BitVec 8) (size : Word) : Word := i.signExtend 64 * size

def execLdB (d a : BitVec 6) (l : BitVec 4) (i : BitVec 8) (x : BitVec 1) (s : State) : Out :=
  load d a l (imm8 i 1) 1 (x == 1) s
def execLdH (d a : BitVec 6) (l : BitVec 4) (i : BitVec 8) (x : BitVec 1) (s : State) : Out :=
  load d a l (imm8 i 2) 2 (x == 1) s
def execLdW (d a : BitVec 6) (l : BitVec 4) (i : BitVec 8) (x : BitVec 1) (s : State) : Out :=
  load d a l (imm8 i 4) 4 (x == 1) s
def execLdD (d a : BitVec 6) (l : BitVec 4) (i : BitVec 8) (s : State) : Out := load d a l (imm8 i 8) 8 false s

/-- The bytes of a size code. -/
def sizeOf2 (sz : BitVec 2) : Nat := 2 ^ sz.toNat

/-- LDA (R84): a load at g[a]; it completes with its destination full and then acquires at its scope (log 4). -/
def execLda (d a _b : BitVec 6) (l : BitVec 4) (x : BitVec 1) (sz : BitVec 2) (s : State) : Out :=
  load d a l 0 (sizeOf2 sz) (x == 1) s

/-- The value a load writes (R80): size bytes, zero- or sign-extended. -/
def loadValue (v size : Nat) (zext : Bool) : Word :=
  match size with
  | 1 => if zext then BitVec.ofNat 64 (v % 2 ^ 8) else (BitVec.ofNat 8 v).signExtend 64
  | 2 => if zext then BitVec.ofNat 64 (v % 2 ^ 16) else (BitVec.ofNat 16 v).signExtend 64
  | 4 => if zext then BitVec.ofNat 64 (v % 2 ^ 32) else (BitVec.ofNat 32 v).signExtend 64
  | _ => BitVec.ofNat 64 v

/-- The bytes of a word in scratchpad lanes of a pending read that are read in this cycle: every lane of a scalar or unit-stride
read at once, one lane a cycle of a strided or indexed one (06 R112; 10 R222). -/
def Pend.scratchLanes (p : Pend) (now : Nat) : List Nat :=
  let fresh (i : Nat) : Bool := (p.gotOf i).isNone
  match p.kind with
  | .load ea .. | .ctrwait ea _ _ false _ | .ldx 0 ea _ | .ldx 2 ea _ | .ldx 3 ea _ | .launch _ ea _ 0 => if inScratch ea.toNat && fresh 0 then [0] else []
  | .vload addrs _ _ _ step =>
    ((addrs.zipIdx).filter (fun (x : (Nat × Word) × Nat) => inScratch x.1.2.toNat && fresh x.1.1 && p.start + step * x.2 ≤ now)).map
      (fun x => x.1.1)
  | .ldec _ w => if inScratch (bitsN w 41 0) then p.kind.lanes.filter fresh else []
  | _ => []
/-- The bytes a pending read touches in some lanes. -/
def PKind.touched (k : PKind) (lanes : List Nat) : List (Nat × Nat) :=
  match k with
  | .load ea n _ _ => [(ea.toNat, n)]
  | .ctrwait ea .. | .ldx _ ea _ => [(ea.toNat, 8)]
  | .launch _ ea _ 0 => [(ea.toNat, 128)]
  | .vload addrs n .. => (addrs.filter (fun x => lanes.contains x.1)).map (fun x => (x.2.toNat, n))
  | .ldec _ w => lanes.map (fun i => (bitsN w 41 0 + 16 * i, 16))
  | _ => []
/-- The scratchpad words of a slot's pending reads that are read in this cycle, before any write of the cycle: the destination is
full three cycles after the last of them (06 R112; 16 R315). -/
def State.scratchReads (s : State) (c sl : Nat) : State :=
  (s.thr c sl).pend.foldl (fun s p =>
    let lanes := p.scratchLanes (s.now c)
    if lanes.isEmpty then s
    else ((p.kind.touched lanes).foldl (fun s x => s.sense c x.1 x.2) s).readLanes c sl p lanes 3) s

/-- Put a value into lane i of a vector. -/
def intoLane (size i x : Nat) (v : Vec) : Vec :=
  let w := 8 * size
  (v &&& ~~~((BitVec.ofNat 512 (2 ^ w - 1)) <<< (w * i))) ||| (BitVec.ofNat 512 (x % 2 ^ w) <<< (w * i))
/-- The lanes of a vector load (10 R220): what each touched lane's read returned over the old value, and whether any is poisoned.
A lane that has not been read is read now. -/
def State.gatherLanes (s : State) (c sl size : Nat) (tag : BitVec 16) (p : Pend) : List (Nat × Word) → Vec → Bool → Vec × Bool
  | [], v, po => (v, po)
  | (i, ea) :: rest, v, po =>
    let x := (p.gotOf i).getD (s.load c sl ea.toNat size tag)
    s.gatherLanes c sl size tag p rest (intoLane size i x.1 v) (po || x.2)

/-- The reads of a pending local access have been made, or its bytes lie in the scratchpad. -/
def Pend.ready (p : Pend) (ea : Word) : Bool := p.served || !inVault ea.toNat
/-- What a pending read of one value returned; one that has not been made is made now. -/
def State.valueOf (s : State) (c sl : Nat) (p : Pend) (ea : Word) (size : Nat) (tag : BitVec 16) : Nat × Bool :=
  (p.gotOf 0).getD (s.load c sl ea.toNat size tag)

/-- LOAD_COMPLETION: the destination is filled with what the read returned (R80, 10 R220); a CTRWAIT compares, and waits on
when it is not satisfied (05 R107). -/
def execLoadCompletion (c sl id : Nat) (s : State) : Out :=
  .next (s.onPend c sl id (fun p => match p.kind with
    | .load ea size zext tag =>
      if p.ready ea then
        let (v, po) := s.valueOf c sl p ea size tag
        s.finish c sl p [⟨(loadValue v size zext).setWidth 512, po⟩]
      else s
    | .vload addrs size old tag _ =>
      if addrs.all (fun x => p.ready x.2) then
        let (v, po) := s.gatherLanes c sl size tag p addrs old false
        s.finish c sl p [⟨v, po⟩]
      else s
    | .ctrwait ea thr tag armed got =>
      if p.ready ea then
        match (if armed then got else some (let x := s.valueOf c sl p ea 8 tag; (BitVec.ofNat 64 x.1, x.2))) with
        | some (v, po) =>
          if po then s.consumed c sl p
          else if thr.toNat ≤ v.toNat then s.finish c sl p [Val.of v]
          else s.modPend c sl p.id (fun q => { q with kind := .ctrwait ea thr tag true none })
        | none => s
      else s
    | _ => s))

/-! ### Stores -/

/-- Why a thread's write to an offset is refused, if it is: by the tag's state (15 R295), or because a handler's tag belongs to
another ridge instance (15 R296). -/
def State.refusal (s : State) (c sl off : Nat) : Option (BitVec 16) :=
  if (s.thr c sl).foreign then some (det cCtxForm 6) else s.tagRefusal c off (s.thr c sl).tag
/-- The fault of a refused write (15 R309). -/
def State.refused (s : State) (c sl off : Nat) (code : BitVec 16) : Act :=
  .trap code (tagInfo (s.thr c sl).ctx c (lineOf off)) (BitVec.ofNat 64 off)
/-- The refusals of a tagged write, for every line touched, in order (15 R295). -/
def State.tagCheck (s : State) (c sl : Nat) (offs : List Nat) : Option Act :=
  offs.findSome? (fun off => (s.refusal c sl off).map (s.refused c sl off))

/-- The posted-store queue is full: eight entries that their banks have not accepted yet (R82). -/
def Thread.psqFull (t : Thread) : Bool := 8 ≤ (t.psq.filter (fun e => !e.taken)).length

/-- What stops a store at issue after the checks of R66: a refusal of its tag, a full directory, a full queue
(15 R295, R298; R82). -/
def State.storeStop (s : State) (c sl : Nat) (tag : BitVec 16) (offs : List Nat) (posted : Bool) : Option Act :=
  match s.tagCheck c sl offs with
  | some act => some act
  | none =>
    if s.directoryFull c tag offs then
      let off := (offs.find? (fun off => s.taggedPage c off && ((s.core c).cell? (s.domain c) (lineOf off) tag).isNone)).getD 0
      if 2 ^ 20 ≤ (s.core c).fullCount then
        some (.trap (det cCellStoreFull 1) (tagInfo tag c (lineOf off)) (BitVec.ofNat 64 off))
      else some (.park .directory)
    else if posted && (s.thr c sl).psqFull then some (.park .memory)
    else none

/-- Put an entry into the thread's posted-store queue: its first part reaches its bank in the issue cycle, and the
scratchpad performs it from the next cycle on, for which the spec names no first cycle (R68, R81, R82; log 9). -/
def State.post (s : State) (c sl : Nat) (parts : List (Word × Nat × Vec)) (tag : BitVec 16) (joined : Bool := false) : State :=
  let vault : Bool := match parts with | (ea, _, _) :: _ => inVault ea.toNat | [] => false
  let owner := if sl = 13 then ((s.thr c 13).invocation).bind (·.actor) else none
  let e : Posted := { id := s.fresh, parts := parts, tag := tag, due := s.now c + (if vault then 0 else 1), joined := joined, actor := owner }
  let s1 := { s.modThr c sl (fun t => { t with psq := t.psq ++ [e] }) with fresh := s.fresh + 1 }
  s1.headToBank c sl e (s.now c)

/-- ST (R81): off is in units of the size. -/
def execSt (a b : BitVec 6) (sz : BitVec 2) (o : BitVec 11) (s : State) : Out :=
  let size := sizeOf2 sz
  let off := o.signExtend 64 * BitVec.ofNat 64 size
  s.issueStep { srcs := [.g a, .g b], dsts := [], gives := true, touch := fun xs => [(arg xs 0 + off, size)], wr := true }
    (fun s1 c sl xs =>
      let ea := arg xs 0 + off
      let tag := (s1.thr c sl).tag
      match s1.checkAt c ea size false true with
      | some code => faultAt code ea
      | none => match s1.storeStop c sl tag [ea.toNat] true with
        | some act => act
        | none => .ret (s1.post c sl [(ea, size, argV xs 1)] tag) [] none)

/-- POSTED_STORE_PERFORMED: the first part of a posted store to the scratchpad is performed (R82, 06 R112; 10 R224); a part to
the vault is performed at its beat. -/
def execPostedStorePerformed (c sl id : Nat) (s : State) : Out :=
  .next (match (s.thr c sl).posted? id with
    | some e => match e.parts with
      | (ea, n, _) :: _ =>
        if inVault ea.toNat || !(s.thr c sl).mayPerform e (s.now c) then s
        else (if n < 64 then s.sense c ea.toNat n else s).performHead c sl e
      | [] => s
    | none => s)

/-- A pending STL, AMO or CTRADD whose release wait is over goes to its bank, where its beats perform it, or is performed in the
scratchpad: an STL in one cycle, an AMO or CTRADD with the read of its bank word in one cycle and the write in the next.  Another
source's write to the word between the two, which the hold of the bank would have put off, counts as made before (R84; 05 R108; 06 R112;
16 R336; log 4). -/
def State.startWrite (s : State) (c sl : Nat) (p : Pend) (ea : Word) (n : Nat) (rd : Bool) (tag : BitVec 16) (waits : List Nat) :
    State :=
  if !s.waitsOver c sl waits || (s.core c).queued (.pend sl p.id [0]) then s
  else if inVault ea.toNat then s.request c sl (.pend sl p.id [0]) ea.toNat n rd true tag
  else
    let s1 := s.sense c ea.toNat n
    if rd && p.got.isEmpty then s1.modPend c sl p.id (fun q => { q with got := (s1.before c).sampled c sl p [0], due := s.now c + 1 })
    else s1.pendWrite c sl { p with got := s1.sampled c sl p [0] } (if rd then 2 else 1)

/-- STL (R84): the checks of a write, then pending until its release wait is over. -/
def execStl (d a b : BitVec 6) (l : BitVec 4) (sz : BitVec 2) (s : State) : Out :=
  let size := sizeOf2 sz
  s.issueStep { srcs := [.g a, .g b], dsts := [], la := some l, gives := true, touch := fun xs => [(arg xs 0, size)],
                wr := true }
    (fun s1 c sl xs =>
      let ea := arg xs 0
      let tag := (s1.thr c sl).tag
      match s1.checkAt c ea size false true with
      | some code => faultAt code ea
      | none => match s1.storeStop c sl tag [ea.toNat] false with
        | some act => act
        | none => .pend s1 (.stl ea size (arg xs 1) tag d (s1.releaseIds c sl d.toNat)) (s1.now c))

/-- STL_COMPLETION: the write has been performed at its scope, and the instruction completes; before, its write begins when its
release wait is over (R84). -/
def execStlCompletion (c sl id : Nat) (s : State) : Out :=
  .next (s.onPend c sl id (fun p => match p.kind with
    | .stl ea size _ tag _ waits =>
      if p.served then s.finish c sl p [] else s.startWrite c sl p ea size false tag waits
    | _ => s))

end Sys2Proof.Machine
end

