-- ==== Sys2Proof/Machine/Atomics.lean ====
section
/-! DEFINITION. Local atomics and fences (16 R332-R336), CTRWAIT and CTRADD (05 R106-R108). -/

namespace Sys2Proof.Machine
open Sys2Proof

/-- An AMO at issue (R335, R336): the checks of R66 as a read and a write of 8 bytes, then the refusals of a tagged write,
then pending behind its release at core scope. -/
def amo (op : AtomOp) (d a b : BitVec 6) (l : BitVec 4) (s : State) : Out :=
  s.issueStep
    { srcs := if op == .cas then [.g a, .g b, .g (b + 1)] else [.g a, .g b], dsts := [.g d], la := some l, ends := true,
      takes := true, gives := true, touch := fun xs => [(arg xs 0, 8)], rd := true, wr := true }
    (fun s1 c sl xs =>
      let ea := arg xs 0
      let tag := (s1.thr c sl).tag
      match s1.checkAt c ea 8 true true with
      | some code => faultAt code ea
      | none => match s1.storeStop c sl tag [ea.toNat] false with
        | some act => act
        | none =>
          .pend s1 (.amo op ea (arg xs 1) (arg xs 2) tag (s1.releaseIds c sl 2)) (s1.now c))

def execAmoSwap (d a b : BitVec 6) (l : BitVec 4) (s : State) : Out := amo .swap d a b l s
def execAmoAdd (d a b : BitVec 6) (l : BitVec 4) (s : State) : Out := amo .add d a b l s
def execAmoAnd (d a b : BitVec 6) (l : BitVec 4) (s : State) : Out := amo .and d a b l s
def execAmoOr (d a b : BitVec 6) (l : BitVec 4) (s : State) : Out := amo .or d a b l s
def execAmoXor (d a b : BitVec 6) (l : BitVec 4) (s : State) : Out := amo .xor d a b l s
def execAmoMax (d a b : BitVec 6) (l : BitVec 4) (s : State) : Out := amo .max d a b l s
def execAmoMin (d a b : BitVec 6) (l : BitVec 4) (s : State) : Out := amo .min d a b l s
def execAmoCas (d a b : BitVec 6) (l : BitVec 4) (s : State) : Out := amo .cas d a b l s

/-- AMO_COMPLETION: the read and the write of one occupancy of the bank have been made; poisoned bytes are consumed and nothing
has been written (R336).  Before, they begin when the release wait is over. -/
def execAmoCompletion (c sl id : Nat) (s : State) : Out :=
  .next (s.onPend c sl id (fun p => match p.kind with
    | .amo _ ea _ _ tag waits =>
      if p.served then
        let old := (p.gotOf 0).getD (0, false)
        if old.2 then s.consumed c sl p else s.finish c sl p [Val.of (BitVec.ofNat 64 old.1)]
      else s.startWrite c sl p ea 8 true tag waits
    | _ => s))

/-! ### FENCE (R332, R333) -/

def execFence (b : BitVec 6) (s : State) : Out :=
  s.issueStep { srcs := [], dsts := [], ordering := true, fence := true } (fun s1 c sl _ =>
    if s1.writesDone c sl b.toNat then .ret s1 [] none else .park .stall)
def execFenceAcq (_b : BitVec 6) (s : State) : Out :=
  s.issueStep { srcs := [], dsts := [], ordering := true, fence := true } (fun s1 _ _ _ => .ret s1 [] none)

/-! ### CTRWAIT and CTRADD (05 R106-R108) -/

/-- CTRWAIT: the read of its comparison at issue is a load of 8 bytes. -/
def execCtrwait (d a b : BitVec 6) (l : BitVec 4) (s : State) : Out :=
  s.issueStep { fRR d a b with la := some l, takes := true, touch := fun xs => [(arg xs 0, 8)], rd := true }
    (fun s1 c sl xs => loadAt s1 c sl (arg xs 0) 8 (fun tag => .ctrwait (arg xs 0) (arg xs 1) tag false none))

/-- CTRADD: pending behind its release at core scope. -/
def execCtradd (d a b : BitVec 6) (l : BitVec 4) (s : State) : Out :=
  s.issueStep { fRR d a b with la := some l, ends := true, takes := true, gives := true,
                               touch := fun xs => [(arg xs 0, 8)], rd := true, wr := true }
    (fun s1 c sl xs =>
      let ea := arg xs 0
      let tag := (s1.thr c sl).tag
      match s1.checkAt c ea 8 true true with
      | some code => faultAt code ea
      | none => match s1.storeStop c sl tag [ea.toNat] false with
        | some act => act
        | none => .pend s1 (.ctradd ea (arg xs 1) tag (s1.releaseIds c sl 2)) (s1.now c))

/-- CTRADD_COMPLETION: the counter's atomic read-modify-write has been made (05 R108); the old value carries the poison of the
bytes read (04 R78).  Before, it begins when the release wait is over. -/
def execCtraddCompletion (c sl id : Nat) (s : State) : Out :=
  .next (s.onPend c sl id (fun p => match p.kind with
    | .ctradd ea _ tag waits =>
      if p.served then
        let old := (p.gotOf 0).getD (0, false)
        s.finish c sl p [⟨BitVec.ofNat 512 old.1, old.2⟩]
      else s.startWrite c sl p ea 8 true tag waits
    | _ => s))

end Sys2Proof.Machine
end

