-- ==== Sys2Proof/Machine/Vector.lean ====
section
/-! DEFINITION. Vector and mask instructions (10 R204-R224). -/

namespace Sys2Proof.Machine
open Sys2Proof

/-! ### Lanes and masks (R204-R207) -/

/-- Lanes of a width: 0 .w, 1 .d. -/
def lanesOf (w : BitVec 1) : Nat := if w = 1 then 8 else 16
/-- Bits of a lane. -/
def laneBits (w : BitVec 1) : Nat := if w = 1 then 64 else 32
/-- Floating format of a lane width: 0 binary32, 1 binary64 (R209). -/
def fmtL (w : BitVec 1) : Fmt := if w = 1 then f64 else f32
/-- Element i of b bits. -/
def lane (b : Nat) (v : Vec) (i : Nat) : Nat := v.toNat / 2 ^ (b * i) % 2 ^ b
/-- The value of elements from element i on. -/
def packFrom (b : Nat) : Nat → List Nat → Nat
  | _, [] => 0
  | i, x :: rest => x % 2 ^ b * 2 ^ (b * i) + packFrom b (i + 1) rest
/-- A register of elements of b bits, the rest 0. -/
def pack (b : Nat) (xs : List Nat) : Vec := BitVec.ofNat 512 (packFrom b 0 xs)
/-- Lane i of a mask. -/
def active (m : Word) (i : Nat) : Bool := m.getLsbD i

/-- The old destination is a source: a governing mask and a register destination (R206). -/
def readsOld (d : BitVec 6) (m : BitVec 3) : Bool := m != 0 && d.toNat ≤ 47

/-- The form of a masked instruction: its own sources, the mask, then the old destination (R205, R206). -/
def maskedForm (srcs : List Opnd) (d : BitVec 6) (m : BitVec 3) : Form :=
  { srcs := srcs ++ [.m m] ++ (if readsOld d m then [.v d] else []), dsts := [.v d] }

/-- Union of flags. -/
def unionFlags (fs : List Flg) : Flg := fs.foldl (· ||| ·) fNone

/-- The lanes of a masked result: active lanes computed, the others old, or 0 for a port (R206). -/
def maskLanes (b n : Nat) (m : Word) (old : Vec) (op : Nat → Nat × Flg) : Vec × Flg :=
  let rs := (List.range n).map (fun i => if active m i then op i else (lane b old i, fNone))
  (pack b (rs.map (·.1)), unionFlags (rs.map (·.2)))

/-- A vector result and its flags. -/
def retV (s : State) (c sl : Nat) (d : BitVec 6) (r : Vec × Flg) : Act :=
  .ret (s.orFlags c sl r.2) [(.v d, ⟨r.1, false⟩)] none

/-- A masked lanewise instruction of two vectors. -/
def lanewise (d a b : BitVec 6) (m : BitVec 3) (w : BitVec 1) (op : Rm → Nat → Nat → Nat × Flg) (s : State) : Out :=
  s.issueStep (maskedForm [.v a, .v b] d m) (fun s1 c sl xs =>
    let bits := laneBits w
    retV s1 c sl d (maskLanes bits (lanesOf w) (arg xs 2) (argV xs 3) (fun i =>
      op (s1.rm c sl) (lane bits (argV xs 0) i) (lane bits (argV xs 1) i))))

/-! ### Ops 0x30 and 0x31 (R209) -/

/-- A floating lane operation, rounded once. -/
def vfp (d a b : BitVec 6) (m : BitVec 3) (w : BitVec 1) (op : Rm → Num → Num → Num) (s : State) : Out :=
  lanewise d a b m w (fun r x y => roundIeee (op r ((fmtL w).decode x) ((fmtL w).decode y)) (fmtL w) r) s
/-- A lane operation on the operand bits of a format. -/
def vfpBits (d a b : BitVec 6) (m : BitVec 3) (w : BitVec 1) (op : Fmt → Nat → Nat → Nat × Flg) (s : State) : Out :=
  lanewise d a b m w (fun _ x y => op (fmtL w) x y) s
/-- An integer lane operation. -/
def vint (d a b : BitVec 6) (m : BitVec 3) (w : BitVec 1)
    (op : {n : Nat} → BitVec n → BitVec n → BitVec n) (s : State) : Out :=
  lanewise d a b m w (fun _ x y => ((op (BitVec.ofNat (laneBits w) x) (BitVec.ofNat (laneBits w) y)).toNat, fNone)) s

def execVfadd (d a b : BitVec 6) (m : BitVec 3) (w : BitVec 1) (s : State) : Out := vfp d a b m w Num.add s
def execVfsub (d a b : BitVec 6) (m : BitVec 3) (w : BitVec 1) (s : State) : Out := vfp d a b m w Num.sub s
def execVfmul (d a b : BitVec 6) (m : BitVec 3) (w : BitVec 1) (s : State) : Out := vfp d a b m w (fun _ => Num.mul) s
def execVfmin (d a b : BitVec 6) (m : BitVec 3) (w : BitVec 1) (s : State) : Out := vfpBits d a b m w (fun f => minmax f false) s
def execVfmax (d a b : BitVec 6) (m : BitVec 3) (w : BitVec 1) (s : State) : Out := vfpBits d a b m w (fun f => minmax f true) s
def execVfsgn (d a b : BitVec 6) (m : BitVec 3) (w : BitVec 1) (s : State) : Out := vfpBits d a b m w (signForm (fun _ q => q)) s
def execVfsgnn (d a b : BitVec 6) (m : BitVec 3) (w : BitVec 1) (s : State) : Out := vfpBits d a b m w (signForm (fun _ q => !q)) s
def execVfsgnx (d a b : BitVec 6) (m : BitVec 3) (w : BitVec 1) (s : State) : Out := vfpBits d a b m w (signForm (fun p q => p != q)) s
def execVand (d a b : BitVec 6) (m : BitVec 3) (s : State) : Out := vint d a b m 0 (fun x y => x &&& y) s
def execVor (d a b : BitVec 6) (m : BitVec 3) (s : State) : Out := vint d a b m 0 (fun x y => x ||| y) s
def execVxor (d a b : BitVec 6) (m : BitVec 3) (s : State) : Out := vint d a b m 0 (fun x y => x ^^^ y) s
def execVandn (d a b : BitVec 6) (m : BitVec 3) (s : State) : Out := vint d a b m 0 (fun x y => x &&& ~~~y) s

/-! ### Op 0x32 (R209) -/

/-- The shift amount of a lane. -/
def shLane {n : Nat} (y : BitVec n) : Nat := y.toNat % n
def execVadd (d a b : BitVec 6) (m : BitVec 3) (w : BitVec 1) (s : State) : Out := vint d a b m w (fun x y => x + y) s
def execVsub (d a b : BitVec 6) (m : BitVec 3) (w : BitVec 1) (s : State) : Out := vint d a b m w (fun x y => x - y) s
def execVmul (d a b : BitVec 6) (m : BitVec 3) (w : BitVec 1) (s : State) : Out := vint d a b m w (fun x y => x * y) s
def execVmin (d a b : BitVec 6) (m : BitVec 3) (w : BitVec 1) (s : State) : Out := vint d a b m w (fun x y => if x.slt y then x else y) s
def execVmax (d a b : BitVec 6) (m : BitVec 3) (w : BitVec 1) (s : State) : Out := vint d a b m w (fun x y => if x.slt y then y else x) s
def execVsll (d a b : BitVec 6) (m : BitVec 3) (w : BitVec 1) (s : State) : Out := vint d a b m w (fun x y => x <<< shLane y) s
def execVsrl (d a b : BitVec 6) (m : BitVec 3) (w : BitVec 1) (s : State) : Out := vint d a b m w (fun x y => x >>> shLane y) s
def execVsra (d a b : BitVec 6) (m : BitVec 3) (w : BitVec 1) (s : State) : Out := vint d a b m w (fun x y => x.sshiftRight (shLane y)) s

/-! ### Op 0x33: fused multiply-add (R210) -/

/-- Accumulates into v[d], which is read whatever the mask. -/
def vfma3 (d a b : BitVec 6) (m : BitVec 3) (w : BitVec 1) (np nz : Bool) (s : State) : Out :=
  s.issueStep { srcs := [.v a, .v b, .m m, .v d], dsts := [.v d] } (fun s1 c sl xs =>
    let f := fmtL w
    let bits := laneBits w
    let dec (v : Vec) (i : Nat) : Num := f.decode (lane bits v i)
    retV s1 c sl d (maskLanes bits (lanesOf w) (arg xs 2) (argV xs 3) (fun i =>
      fused f (s1.rm c sl) np nz (dec (argV xs 0) i) (dec (argV xs 1) i) (dec (argV xs 3) i))))

def execVfma (d a b : BitVec 6) (m : BitVec 3) (w : BitVec 1) (s : State) : Out := vfma3 d a b m w false false s
def execVfms (d a b : BitVec 6) (m : BitVec 3) (w : BitVec 1) (s : State) : Out := vfma3 d a b m w false true s
def execVfnma (d a b : BitVec 6) (m : BitVec 3) (w : BitVec 1) (s : State) : Out := vfma3 d a b m w true false s
def execVfnms (d a b : BitVec 6) (m : BitVec 3) (w : BitVec 1) (s : State) : Out := vfma3 d a b m w true true s

/-! ### Op 0x34: compare into mask (R211) -/

/-- The bits of a mask result. -/
def maskBits (n : Nat) (p : Nat → Bool) : Nat := (List.range n).foldl (fun acc i => if p i then acc + 2 ^ i else acc) 0
/-- A mask result. -/
def retM (s : State) (d : BitVec 3) (x : Nat) : Act := .ret s [(.m d, ⟨BitVec.ofNat 512 (x % 2 ^ 16), false⟩)] none

/-- A compare of lanes into a mask; the old mask is never read. -/
def vcompare (d : BitVec 3) (a b : BitVec 6) (m : BitVec 3) (w : BitVec 1) (op : Nat → Nat → Bool × Flg) (s : State) : Out :=
  s.issueStep { srcs := [.v a, .v b, .m m], dsts := [.m d] } (fun s1 c sl xs =>
    let bits := laneBits w
    let r (i : Nat) : Bool × Flg :=
      if active (arg xs 2) i then op (lane bits (argV xs 0) i) (lane bits (argV xs 1) i) else (false, fNone)
    retM (s1.orFlags c sl (unionFlags ((List.range (lanesOf w)).map (fun i => (r i).2)))) d
      (maskBits (lanesOf w) (fun i => (r i).1)))

/-- A floating compare. -/
def vfcompare (d : BitVec 3) (a b : BitVec 6) (m : BitVec 3) (w : BitVec 1) (quietToo : Bool) (rel : Num → Num → Bool)
    (s : State) : Out :=
  vcompare d a b m w (fun x y =>
    let u := (fmtL w).decode x
    let v := (fmtL w).decode y
    (rel u v, if u.isSig || v.isSig || (quietToo && (u.isNan || v.isNan)) then fNv else fNone)) s

def execVfeq (d : BitVec 3) (a b : BitVec 6) (m : BitVec 3) (w : BitVec 1) (s : State) : Out := vfcompare d a b m w false Num.eq s
def execVflt (d : BitVec 3) (a b : BitVec 6) (m : BitVec 3) (w : BitVec 1) (s : State) : Out := vfcompare d a b m w true Num.lt s
def execVfle (d : BitVec 3) (a b : BitVec 6) (m : BitVec 3) (w : BitVec 1) (s : State) : Out :=
  vfcompare d a b m w true (fun x y => x.lt y || x.eq y) s
def execVeq (d : BitVec 3) (a b : BitVec 6) (m : BitVec 3) (w : BitVec 1) (s : State) : Out := vcompare d a b m w (fun x y => (x == y, fNone)) s
def execVlt (d : BitVec 3) (a b : BitVec 6) (m : BitVec 3) (w : BitVec 1) (s : State) : Out :=
  vcompare d a b m w (fun x y => ((BitVec.ofNat (laneBits w) x).slt (BitVec.ofNat (laneBits w) y), fNone)) s
def execVltu (d : BitVec 3) (a b : BitVec 6) (m : BitVec 3) (w : BitVec 1) (s : State) : Out := vcompare d a b m w (fun x y => (decide (x < y), fNone)) s

/-! ### Op 0x35: mask operations (R212) -/

/-- A mask operation of two masks. -/
def mask2 (d a b : BitVec 3) (op : BitVec 16 → BitVec 16 → BitVec 16) (s : State) : Out :=
  s.issueStep { srcs := [.m a, .m b], dsts := [.m d] } (fun s1 _ _ xs =>
    retM s1 d (op ((arg xs 0).setWidth 16) ((arg xs 1).setWidth 16)).toNat)
/-- A number from a mask. -/
def maskG (d : BitVec 6) (a : BitVec 3) (op : BitVec 16 → Nat) (s : State) : Out :=
  s.issueStep { srcs := [.m a], dsts := [.g d] } (fun s1 _ _ xs =>
    ret1 s1 d (BitVec.ofNat 64 (op ((arg xs 0).setWidth 16))))

def execMand (d a b : BitVec 3) (s : State) : Out := mask2 d a b (fun x y => x &&& y) s
def execMor (d a b : BitVec 3) (s : State) : Out := mask2 d a b (fun x y => x ||| y) s
def execMxor (d a b : BitVec 3) (s : State) : Out := mask2 d a b (fun x y => x ^^^ y) s
def execMandn (d a b : BitVec 3) (s : State) : Out := mask2 d a b (fun x y => x &&& ~~~y) s
def execMnot (d a : BitVec 3) (s : State) : Out :=
  s.issueStep { srcs := [.m a], dsts := [.m d] } (fun s1 _ _ xs => retM s1 d (~~~((arg xs 0).setWidth 16 : BitVec 16)).toNat)
def execMpopc (d : BitVec 6) (a : BitVec 3) (s : State) : Out := maskG d a (fun x => popcount x 16) s
def execMfirst (d : BitVec 6) (a : BitVec 3) (s : State) : Out :=
  maskG d a (fun x => ((List.range 16).find? (fun i => x.getLsbD i)).getD 16) s
def execMlast (d : BitVec 6) (a : BitVec 3) (s : State) : Out :=
  maskG d a (fun x => ((List.range 16).reverse.find? (fun i => x.getLsbD i)).getD 16) s
def execMlen (d : BitVec 3) (a : BitVec 6) (s : State) : Out :=
  s.issueStep { srcs := [.g a], dsts := [.m d] } (fun s1 _ _ xs => retM s1 d (2 ^ (Nat.min (arg xs 0).toNat 16) - 1))

/-! ### Op 0x36: select, broadcast, insert, extract (R213) -/

def execVsel (d a b : BitVec 6) (m : BitVec 3) (w : BitVec 1) (s : State) : Out :=
  s.issueStep { srcs := [.v a, .v b, .m m], dsts := [.v d] } (fun s1 c sl xs =>
    let bits := laneBits w
    retV s1 c sl d (maskLanes bits (lanesOf w) (arg xs 2) (argV xs 1) (fun i => (lane bits (argV xs 0) i, fNone))))
def execVbcast (d a : BitVec 6) (m : BitVec 3) (w : BitVec 1) (s : State) : Out :=
  s.issueStep (maskedForm [.g a] d m) (fun s1 c sl xs =>
    let bits := laneBits w
    retV s1 c sl d (maskLanes bits (lanesOf w) (arg xs 1) (argV xs 2) (fun _ => ((arg xs 0).toNat % 2 ^ bits, fNone))))

/-- Lane i of a vector replaced. -/
def setLane (b n : Nat) (v : Vec) (i x : Nat) : Vec :=
  pack b ((List.range n).map (fun j => if j = i then x else lane b v j))

def execVins (d a b : BitVec 6) (w : BitVec 1) (s : State) : Out :=
  s.issueStep { srcs := [.g a, .g b, .v d], dsts := [.v d] } (fun s1 c sl xs =>
    if lanesOf w ≤ (arg xs 1).toNat then fault0 (det cVectorIndex 1)
    else retV s1 c sl d (setLane (laneBits w) (lanesOf w) (argV xs 2) (arg xs 1).toNat (arg xs 0).toNat, fNone))

/-- Extract a lane into a general register. -/
def vext (d a b : BitVec 6) (w : BitVec 1) (signed : Bool) (s : State) : Out :=
  s.issueStep { srcs := [.v a, .g b], dsts := [.g d] } (fun s1 _ _ xs =>
    if lanesOf w ≤ (arg xs 1).toNat then fault0 (det cVectorIndex 1)
    else
      let x := BitVec.ofNat 64 (lane (laneBits w) (argV xs 0) (arg xs 1).toNat)
      ret1 s1 d (if signed then sext32 x else x))

def execVextWZ (d a b : BitVec 6) (s : State) : Out := vext d a b 0 false s
def execVextWS (d a b : BitVec 6) (s : State) : Out := vext d a b 0 true s
def execVextD (d a b : BitVec 6) (s : State) : Out := vext d a b 1 false s

/-! ### Op 0x37: permute and rotate (R214) -/

def execVperm (d a b : BitVec 6) (m : BitVec 3) (w : BitVec 1) (s : State) : Out :=
  s.issueStep (maskedForm [.v a, .v b] d m) (fun s1 c sl xs =>
    let bits := laneBits w
    let n := lanesOf w
    retV s1 c sl d (maskLanes bits n (arg xs 2) (argV xs 3) (fun i =>
      (lane bits (argV xs 0) (lane bits (argV xs 1) i % n), fNone))))
def execVrot (d a b : BitVec 6) (m : BitVec 3) (w : BitVec 1) (s : State) : Out :=
  s.issueStep (maskedForm [.v a, .g b] d m) (fun s1 c sl xs =>
    let bits := laneBits w
    let n := lanesOf w
    retV s1 c sl d (maskLanes bits n (arg xs 2) (argV xs 3) (fun i =>
      (lane bits (argV xs 0) ((i + (arg xs 1).toNat) % n), fNone))))

/-! ### Op 0x38: reductions (R215, R216) -/

/-- One combination of the tree. -/
def comb (op : Nat → Nat → Nat × Flg) (p q : Option Nat) : Option Nat × Flg :=
  match p, q with
  | none, y => (y, fNone)
  | x, none => (x, fNone)
  | some x, some y => (some (op x y).1, (op x y).2)
/-- One level of the tree. -/
def treeLevel (op : Nat → Nat → Nat × Flg) : List (Option Nat) → List (Option Nat) × Flg
  | p :: q :: rest =>
    let (r, f) := comb op p q
    let (rs, g) := treeLevel op rest
    (r :: rs, f ||| g)
  | xs => (xs, fNone)
/-- k levels of the tree. -/
def tree (op : Nat → Nat → Nat × Flg) : Nat → List (Option Nat) → Option Nat × Flg
  | 0, xs => (xs.headD none, fNone)
  | k + 1, xs =>
    let (ys, f) := treeLevel op xs
    let (r, g) := tree op k ys
    (r, f ||| g)

/-- A reduction of the active lanes in the fixed tree. -/
def reduce (d a : BitVec 6) (m : BitVec 3) (w : BitVec 1) (empty : Nat) (op : Rm → Nat → Nat → Nat × Flg)
    (out : Nat → Word) (s : State) : Out :=
  s.issueStep { srcs := [.v a, .m m], dsts := [.g d] } (fun s1 c sl xs =>
    let bits := laneBits w
    let leaves := (List.range (lanesOf w)).map (fun i =>
      if active (arg xs 1) i then some (lane bits (argV xs 0) i) else none)
    let (r, f) := tree (op (s1.rm c sl)) (if w = 1 then 3 else 4) leaves
    ret1 (s1.orFlags c sl f) d (out (r.getD empty)))

def execVfredsum (d a : BitVec 6) (m : BitVec 3) (w : BitVec 1) (s : State) : Out :=
  reduce d a m w 0 (fun r x y => roundIeee (Num.add r ((fmtL w).decode x) ((fmtL w).decode y)) (fmtL w) r) fres s
def execVfredmin (d a : BitVec 6) (m : BitVec 3) (w : BitVec 1) (s : State) : Out :=
  reduce d a m w (fmtL w).nanBits (fun _ => minmax (fmtL w) false) fres s
def execVfredmax (d a : BitVec 6) (m : BitVec 3) (w : BitVec 1) (s : State) : Out :=
  reduce d a m w (fmtL w).nanBits (fun _ => minmax (fmtL w) true) fres s

/-- An integer reduction: a word result is sign-extended. -/
def intReduce (d a : BitVec 6) (m : BitVec 3) (w : BitVec 1) (op : {n : Nat} → BitVec n → BitVec n → BitVec n) (s : State) :
    Out :=
  let bits := laneBits w
  reduce d a m w 0 (fun _ x y => ((op (BitVec.ofNat bits x) (BitVec.ofNat bits y)).toNat, fNone))
    (fun x => if w = 1 then BitVec.ofNat 64 x else sext32 (BitVec.ofNat 64 x)) s

def execVredadd (d a : BitVec 6) (m : BitVec 3) (w : BitVec 1) (s : State) : Out :=
  intReduce d a m w (fun x y => x + y) s
def execVredmin (d a : BitVec 6) (m : BitVec 3) (w : BitVec 1) (s : State) : Out :=
  intReduce d a m w (fun x y => if x.slt y then x else y) s
def execVredmax (d a : BitVec 6) (m : BitVec 3) (w : BitVec 1) (s : State) : Out :=
  intReduce d a m w (fun x y => if x.slt y then y else x) s

/-! ### Op 0x39: conversions (R217-R219) -/

/-- Elements, source format and destination format of a code (R217), formats by the codes of 09 R197. -/
def vcvtCode (code : BitVec 4) : Nat × Nat × Nat :=
  match code.toNat with
  | 0 => (16, 1, 4) | 1 => (16, 4, 1) | 2 => (16, 1, 3) | 3 => (16, 3, 1) | 4 => (16, 1, 2) | 5 => (16, 2, 1)
  | 6 => (8, 1, 0) | 7 => (8, 0, 1) | 8 => (16, 1, 7) | 9 => (16, 7, 1) | 10 => (8, 0, 5) | _ => (8, 5, 0)
/-- Bits of an element of a format code. -/
def codeBits (f : Nat) : Nat :=
  match f with | 0 => 64 | 1 => 32 | 2 => 16 | 3 => 16 | 4 => 8 | 5 => 64 | 6 => 64 | _ => 32

/-- VCVT: each active element as the scalar conversion; NARROW_RANGE names the trapping lanes (R219, 08 R171). -/
def execVcvt (d a b : BitVec 6) (m : BitVec 3) (code : BitVec 4) (s : State) : Out :=
  s.issueStep
    { srcs := [.v a] ++ (if b = 0 then [] else [.g b]) ++ [.m m] ++ (if readsOld d m then [.v d] else []), dsts := [.v d] }
    (fun s1 c sl xs =>
      let (n, src, dst) := vcvtCode code
      let k := if b = 0 then 0 else 1
      let reg := if b = 0 then none else some (arg xs 1)
      let mask := arg xs (1 + k)
      let old := argV xs (2 + k)
      let cv (i : Nat) : Cvt :=
        convert dst (scaled (s1.thr c sl) reg dst src (valueOf src (BitVec.ofNat 64 (lane (codeBits src) (argV xs 0) i))))
          (s1.rm c sl)
      let bad := (List.range n).filter (fun i => active mask i && (match cv i with | .narrow _ => true | _ => false))
      if bad.isEmpty then
        retV s1 c sl d (maskLanes (codeBits dst) n mask old (fun i =>
          match cv i with | .ok r f => (r.toNat, f) | .narrow _ => (0, fNone)))
      else
        let x := bad.foldl (fun acc i => match cv i with | .narrow v => Nat.max acc (xexp v) | _ => acc) 0
        .trap (det cNarrowRange 2) (BitVec.ofNat 64 (x * 2 ^ 16 + bad.foldl (fun acc i => acc + 2 ^ i) 0)) 0)

/-! ### Ops 0x3A and 0x3B: loads (R220-R222) -/

/-- Bytes of a lane. -/
def laneBytes (w : BitVec 1) : Nat := if w = 1 then 8 else 4
/-- Lane addresses of a base with a stride, for the lanes of a mask. -/
def strided (w : BitVec 1) (base stride : Word) (mask : Word) : List (Nat × Word) :=
  ((List.range (lanesOf w)).filter (fun i => active mask i)).map (fun i => (i, base + BitVec.ofNat 64 i * stride))
/-- Lane addresses of a base with an index vector. -/
def indexed (w : BitVec 1) (base : Word) (idx : Vec) : List (Nat × Word) :=
  (List.range (lanesOf w)).map (fun i => (i, base + BitVec.ofNat 64 (lane (laneBits w) idx i)))
/-- The bytes of the lanes touched. -/
def touchLanes (w : BitVec 1) (as : List (Nat × Word)) : List (Word × Nat) := as.map (fun x => (x.2, laneBytes w))

/-- The fault of the lowest-numbered failing lane (R221). -/
def State.laneFault (s : State) (c size : Nat) (rd wr : Bool) : List (Nat × Word) → Option (BitVec 16 × Word)
  | [] => none
  | (_, ea) :: rest => match s.checkAt c ea size rd wr with
    | some code => some (code, ea)
    | none => s.laneFault c size rd wr rest

/-- The reads of a vector load at its vault (R222): a unit-stride load makes one for each aligned 128 bytes, or each line of a
tagged page, that it touches; a strided or indexed one makes a scalar read for each lane, one a cycle. -/
def State.laneReads (s : State) (c sl size : Nat) (tag : BitVec 16) (as : List (Nat × Word)) (unitStride : Bool) : State :=
  let ref (lanes : List Nat) : BankRef := .pend sl s.fresh lanes
  if unitStride then
    let own := as.filter (fun x => inVault x.2.toNat)
    let block (a : Word) : Nat := s.beatUnit c tag a.toNat
    ((own.map (fun x => block x.2)).eraseDups).foldl (fun s1 u =>
      let here := own.filter (fun x => block x.2 == u)
      match here with
      | (_, a) :: _ => s1.request c sl (ref (here.map (·.1))) a.toNat (((here.getLastD (0, a)).2 - a).toNat + size) true false tag
      | [] => s1) s
  else
    (as.zipIdx).foldl (fun s1 (x : (Nat × Word) × Nat) =>
      if inVault x.1.2.toNat then
        let r := s1.bankReq c sl (ref [x.1.1]) x.1.2.toNat size true false tag (s1.now c + x.2) (s1.now c)
        s1.enqueue c r.1 r.2
      else s1) s

/-- A vector load of some lanes: the checks, then pending; a load of no lane completes at issue (R222). -/
def vectorLoad (s : State) (c sl : Nat) (w : BitVec 1) (as : List (Nat × Word)) (old : Vec) (unitStride : Bool) : Act :=
  match s.laneFault c (laneBytes w) true false as with
  | some (code, ea) => faultAt code ea
  | none =>
    if as.isEmpty then .ret s [] none
    else
      let tag := (s.thr c sl).tag
      .pend (s.laneReads c sl (laneBytes w) tag as unitStride) (.vload as (laneBytes w) old tag (if unitStride then 0 else 1))
        (s.now c + 3 + (if unitStride then 0 else as.length - 1))

def execVld (d a : BitVec 6) (b : BitVec 3) (l : BitVec 4) (w : BitVec 1) (s : State) : Out :=
  let addrs (xs : List Val) : List (Nat × Word) := strided w (arg xs 0) (BitVec.ofNat 64 (laneBytes w)) (arg xs 1)
  s.issueStep { maskedForm [.g a] d b with la := some l, takes := true, touch := fun xs => touchLanes w (addrs xs), rd := true }
    (fun s1 c sl xs => vectorLoad s1 c sl w (addrs xs) (argV xs 2) true)
def execVlds (d a b : BitVec 6) (l : BitVec 4) (w : BitVec 1) (s : State) : Out :=
  let addrs (xs : List Val) : List (Nat × Word) := strided w (arg xs 0) (arg xs 1) 0xFFFF
  s.issueStep { srcs := [.g a, .g b], dsts := [.v d], la := some l, takes := true,
                touch := fun xs => touchLanes w (addrs xs), rd := true }
    (fun s1 c sl xs => vectorLoad s1 c sl w (addrs xs) 0 false)
def execVldx (d a b : BitVec 6) (l : BitVec 4) (w : BitVec 1) (s : State) : Out :=
  let addrs (xs : List Val) : List (Nat × Word) := indexed w (arg xs 0) (argV xs 1)
  s.issueStep { srcs := [.g a, .v b], dsts := [.v d], la := some l, takes := true,
                touch := fun xs => touchLanes w (addrs xs), rd := true }
    (fun s1 c sl xs => vectorLoad s1 c sl w (addrs xs) 0 false)

/-! ### Op 0x3C: stores (R223, R224) -/

/-- Join a unit-stride lane to the part before it, where they are neighbours of one 64-byte line. -/
def joinPart (size : Nat) (ea : Word) (x : Nat) : List (Word × Nat × Vec) → List (Word × Nat × Vec)
  | (a, n, v) :: rest =>
    if ea + BitVec.ofNat 64 size = a ∧ ea.toNat / 64 = a.toNat / 64 then
      (ea, n + size, (v <<< (8 * size)) ||| BitVec.ofNat 512 (x % 2 ^ (8 * size))) :: rest
    else (ea, size, BitVec.ofNat 512 x) :: (a, n, v) :: rest
  | [] => [(ea, size, BitVec.ofNat 512 x)]

/-- The parts of a vector store, in the order performed (R224): a part a lane, neighbouring lanes of a line together in a
unit-stride store. -/
def storeParts (w : BitVec 1) (v : Vec) (as : List (Nat × Word)) (unitStride : Bool) : List (Word × Nat × Vec) :=
  if unitStride then as.foldr (fun x parts => joinPart (laneBytes w) x.2 (lane (laneBits w) v x.1) parts) []
  else as.map (fun x => (x.2, laneBytes w, BitVec.ofNat 512 (lane (laneBits w) v x.1)))

/-- The lane checks of a vector store (R224): for each lane in order the checks of R66, then the refusals of its line (15 R295): the
fault of the first lane that fails. -/
def State.laneStop (s : State) (c sl size : Nat) : List (Nat × Word) → Option Act
  | [] => none
  | (_, ea) :: rest => match s.checkAt c ea size false true with
    | some code => some (faultAt code ea)
    | none => match s.refusal c sl ea.toNat with
      | some code => some (s.refused c sl ea.toNat code)
      | none => s.laneStop c sl size rest

/-- A vector store of some lanes: the lane checks, then one entry of the queue.  The spec does not say whether a store without an active
lane takes an entry: it parks where the queue is full as another does, and takes none (R224; log 9). -/
def vectorStore (s : State) (c sl : Nat) (w : BitVec 1) (v : Vec) (as : List (Nat × Word)) (unitStride : Bool) : Act :=
  let tag := (s.thr c sl).tag
  match s.laneStop c sl (laneBytes w) as with
  | some act => act
  | none =>
    match s.storeStop c sl tag (as.map (fun x => x.2.toNat)) true with
    | some act => act
    | none => .ret (if as.isEmpty then s else s.post c sl (storeParts w v as unitStride) tag unitStride) [] none

def execVst (a b : BitVec 6) (w : BitVec 1) (m : BitVec 3) (s : State) : Out :=
  let addrs (xs : List Val) : List (Nat × Word) := strided w (arg xs 0) (BitVec.ofNat 64 (laneBytes w)) (arg xs 2)
  s.issueStep { srcs := [.g a, .v b, .m m], dsts := [], gives := true, touch := fun xs => touchLanes w (addrs xs), wr := true }
    (fun s1 c sl xs => vectorStore s1 c sl w (argV xs 1) (addrs xs) true)
def execVsts (r a b : BitVec 6) (w : BitVec 1) (s : State) : Out :=
  let addrs (xs : List Val) : List (Nat × Word) := strided w (arg xs 0) (arg xs 2) 0xFFFF
  s.issueStep { srcs := [.g a, .v b, .g r], dsts := [], gives := true, touch := fun xs => touchLanes w (addrs xs), wr := true }
    (fun s1 c sl xs => vectorStore s1 c sl w (argV xs 1) (addrs xs) false)
def execVstx (r a b : BitVec 6) (w : BitVec 1) (s : State) : Out :=
  let addrs (xs : List Val) : List (Nat × Word) := indexed w (arg xs 0) (argV xs 2)
  s.issueStep { srcs := [.g a, .v b, .v r], dsts := [], gives := true, touch := fun xs => touchLanes w (addrs xs), wr := true }
    (fun s1 c sl xs => vectorStore s1 c sl w (argV xs 1) (addrs xs) false)

end Sys2Proof.Machine
end

