-- ==== Sys2Proof/Machine/Csr.lean ====
section
/-! DEFINITION. CSR access (09 R199-R203) and the CSRs' read values. -/

namespace Sys2Proof.Machine
open Sys2Proof

/-- place (R202). -/
def State.placeWord (s : State) (c sl : Nat) : Word :=
  let k := s.core c
  BitVec.ofNat 64 ((if sl < 12 then sl else 0) * 2 ^ 48 + k.row * 2 ^ 40 + k.col * 2 ^ 32 + s.devNum * 2 ^ 20
    + sl * 2 ^ 16 + c)

/-- slotcap (07 R132). -/
def Core.slotcapWord (k : Core) : Word :=
  BitVec.ofNat 64 (k.redmask.toNat * 2 ^ 16 + k.vcap * 2 ^ 8 + k.gcap)

/-- rflags: the flags raised 512 rc ago or earlier, in the supervisor slot of the origin core; 0 elsewhere (08 R164). -/
def State.rflagsWord (s : State) (c sl : Nat) : Word :=
  let k := s.core c
  match s.ridge? c with
  | some r =>
    if sl = 12 ∧ k.col = 0 ∧ k.row = 0 then
      BitVec.ofNat 64 ((r.raised.filter (fun x => x.2 + 512 ≤ s.rtime)).foldl (fun acc x => acc ||| 2 ^ x.1) 0)
    else 0
  | none => 0

/-- gfrn of the core's ASID (15 R311). -/
def State.gfrnOf (s : State) (c : Nat) : Word :=
  match s.asids.find? (fun a => a.id == s.asidOf c) with | some a => a.gfrn | none => 0

/-- A CSR as a slot reads it (R200). -/
def State.csr (s : State) (c sl n : Nat) : Word :=
  let t := s.thr c sl
  let k := s.core c
  match n with
  | 0x001 => t.fcsr
  | 0x002 => t.fmtd
  | 0x003 => t.sclp
  | 0x004 => t.fcsr &&& 0x1F#64
  | 0x005 => (t.fcsr >>> 6) &&& 3#64
  | 0x010 => t.ctx.setWidth 64
  | 0x011 => k.frn
  | 0x012 => s.gfrnOf c
  | 0x020 => t.iep
  | 0x030 => t.tpc
  | 0x031 => t.tcause
  | 0x032 => t.tinfo
  | 0x040 => BitVec.ofNat 64 (s.asidOf c)
  | 0x041 => k.slotcapWord
  | 0x042 => s.placeWord c sl
  | 0x050 => s.vevtNow c
  | 0x060 => t.gstat
  | 0x070 => s.rflagsWord c sl
  | 0x0F0 => BitVec.ofNat 64 k.cycle
  | 0x0F1 => BitVec.ofNat 64 s.rtime
  | _ => 0

/-- A CSR write under its field map: only fcsr, its two views and fmtd hold writable fields (R199-R201; 08 R161, R173). -/
def Thread.writeCsr (t : Thread) (n : Nat) (v : Word) : Thread :=
  match n with
  | 0x001 => { t with fcsr := v &&& 0xDF#64 }
  | 0x002 => { t with fmtd := v }
  | 0x004 => { t with fcsr := (t.fcsr &&& 0xC0#64) ||| (v &&& 0x1F#64) }
  | 0x005 => { t with fcsr := (t.fcsr &&& 0x1F#64) ||| ((v &&& 3#64) <<< 6) }
  | _ => t

/-- The CSRs whose value comes from outside a pair (18 R385). -/
def csrOutside (n : Nat) : Bool := n == 0x0F0 || n == 0x0F1 || n == 0x042 || n == 0x012 || n == 0x050

/-- CSRRD. -/
def execCsrrd (d : BitVec 6) (n : BitVec 12) (s : State) : Out :=
  s.issueStep { srcs := [], dsts := [.g d], takes := csrOutside n.toNat } (fun s1 c sl _ => ret1 s1 d (s1.csr c sl n.toNat))

/-- A CSR write: an ordering point; the old value goes to g[d]. -/
def csrWrite (d a : BitVec 6) (n : BitVec 12) (op : Word → Word → Word) (s : State) : Out :=
  s.issueStep { srcs := [.g a], dsts := [.g d], ordering := true, takes := csrOutside n.toNat } (fun s1 c sl xs =>
    let old := s1.csr c sl n.toNat
    ret1 (s1.modThr c sl (fun t => t.writeCsr n.toNat (op old (arg xs 0)))) d old)

def execCsrwr (d a : BitVec 6) (n : BitVec 12) (s : State) : Out := csrWrite d a n (fun _ x => x) s
def execCsrset (d a : BitVec 6) (n : BitVec 12) (s : State) : Out := csrWrite d a n (fun old x => old ||| x) s
def execCsrclr (d a : BitVec 6) (n : BitVec 12) (s : State) : Out := csrWrite d a n (fun old x => old &&& ~~~x) s

end Sys2Proof.Machine
end

