-- ==== Sys2Proof/Machine/Barriers.lean ====
section
/-! DEFINITION. Barriers: arrivals, byte counts, reports and releases, and the barrier instructions (17 R366-R369). -/

namespace Sys2Proof.Machine
open Sys2Proof

/-- Barrier n of a core. -/
def Core.barrier (k : Core) (n : Nat) : Barrier := (assocGet k.barriers n).getD Barrier.reset
/-- Replace barrier n. -/
def State.setBarrier (s : State) (c n : Nat) (b : Barrier) : State :=
  s.modCore c (fun k => { k with barriers := assocSet k.barriers n b })

/-- Arrivals a form expects on a core: 1 .thread, 2 .core, 3 .ridge (R366). -/
def State.expected (s : State) (c form : Nat) : Nat :=
  if form = 1 then 1 else if (s.core c).redundant then s.crew c / 2 else s.crew c

/-- A generation completes: gen rises, the arrivals, the form and reported clear, and the carry counts towards the next
(R366); carried arrivals are .ridge arrivals. -/
def Barrier.next (b : Barrier) : Barrier :=
  { b with gen := b.gen + 1, form := if b.carryArr = 0 then 0 else 3, arrived := b.carryArr,
           pending := b.pending + b.carryBytes, carryArr := 0, carryBytes := 0, reported := false }

/-- A change may complete the generation locally: .thread and .core complete at once; .ridge reports to the origin core
(R366). -/
def State.settle (s : State) (c n : Nat) : State :=
  let b := (s.core c).barrier n
  if b.form = 0 ∨ b.arrived < s.expected c b.form ∨ b.pending ≠ 0 ∨ b.reported = true then s
  else if b.form = 3 then
    let origin := match s.ridge? c with | some r => r.coreAt 0 0 | none => c
    (s.setBarrier c n { b with reported := true }).send (.barReport n) c 12 0 origin 0 0 0
  else s.setBarrier c n b.next

/-- An arrival of a form: counted now, or carried after a report (R366). -/
def State.arrive (s : State) (c n form : Nat) : State :=
  let b := (s.core c).barrier n
  if b.reported then s.setBarrier c n { b with carryArr := b.carryArr + 1 }
  else (s.setBarrier c n { b with form := form, arrived := b.arrived + 1 }).settle c n

/-- A change of the pending byte count: now, or carried after a report (R366, R100). -/
def State.addBytes (s : State) (c n : Nat) (x : Word) : State :=
  let b := (s.core c).barrier n
  if b.reported then s.setBarrier c n { b with carryBytes := b.carryBytes + x }
  else (s.setBarrier c n { b with pending := b.pending + x }).settle c n

/-- The message goes to another device or to the host: a request of this device, an answer to another device, or a message of
others on its way through (20 R423). -/
def State.offDevice (s : State) (m : Msg) : Bool :=
  match m.kind with
  | .transit _ => true
  | k => if k.isAnswer then m.dev != 0 else m.dev == 0 && isGlobal m.va && !s.thisDev m.va
/-- The message waits at the edge router of a link: it has come there, and goes to a device that is reached by it (20 R423, R445). -/
def State.forLink (s : State) (l : Nat) (m : Msg) : Bool :=
  !m.refused && m.due.over s.rtime && s.offDevice m &&
    (if m.kind.isAnswer then s.linkTo m.dev == some l else gaDev m.va != 2047 && s.linkTo (gaDev m.va) == some l)
/-- The mesh channels to an address stand still: its link trains, or holds back what waits at its edge router (20 R445). -/
def State.heldBack (s : State) (a : Word) : Bool :=
  isGlobal a && !s.thisDev a && (match s.linkTo (gaDev a) with
    | some l => (match s.links[l]? with | some k => k.state == .training | none => false) || s.msgs.any (s.forLink l)
    | none => false)
/-- The core at which a message, or the refusal that travels back for one, is accepted; none for what leaves the cores, and for a
message that waits to be sent again (14 R273, R276). -/
def State.landsAt (s : State) (m : Msg) : Option Nat :=
  if m.refused then (if m.retry = 1 && m.slot < 17 then some m.core else none)
  else if s.offDevice m || 1024 ≤ m.home || ((m.slot == 17 || 20 ≤ m.slot) && m.kind.isAnswer) then none
  else some m.home
/-- A message has come: it has been accepted at its core, or has reached what it goes to outside the cores (14 R273). -/
def State.hasCome (s : State) (m : Msg) : Bool :=
  match s.landsAt m with | some h => s.accepted h m.due | none => m.due.over s.rtime
/-- A message by its name, once it has come. -/
def State.arrived? (s : State) (id : Nat) : Option Msg := s.msgs.find? (fun m => m.id == id && s.hasCome m)
/-- Remove a message. -/
def State.dropMsg (s : State) (id : Nat) : State := { s with msgs := s.msgs.filter (fun m => m.id != id) }
/-- A message of the mesh that a core has accepted, for the trace (19 R407). -/
def State.traceIn (s : State) (c : Nat) (m : Msg) : State :=
  s.trace c 0xFF 8 0 (s.tracedAddr m.home m.off m.va ++ [BitVec.ofNat 8 (m.kind.channel (chanHome m.home m.va))])
/-- An answer has been accepted at its issuer, and is gone. -/
def State.takeAnswer (s : State) (m : Msg) : State :=
  let s1 := s.dropMsg m.id
  if m.dev == 0 && m.slot < 17 then s1.traceIn m.core m else s1

/-- BARRIER_REPORT: a core's report reaches the origin core; when every core has reported, the release goes out (R366). -/
def execBarrierReport (id : Nat) (s : State) : Out :=
  .next (match s.arrived? id with
    | some m => match m.kind with
      | .barReport n =>
        let s1 := (s.dropMsg id).traceIn m.home m
        let o := m.home
        let b := (s1.core o).barrier n
        let cores := match s1.ridge? o with | some r => r.cores | none => [o]
        if b.reports + 1 < cores.length then s1.setBarrier o n { b with reports := b.reports + 1 }
        else cores.foldl (fun s c => s.send (.barRelease n) o 12 0 c 0 0 0) (s1.setBarrier o n { b with reports := 0 })
      | _ => s
    | none => s)

/-- BARRIER_RELEASE: the release reaches a core, and its generation completes (R366). -/
def execBarrierRelease (id : Nat) (s : State) : Out :=
  .next (match s.arrived? id with
    | some m => match m.kind with
      | .barRelease n =>
        let s1 := (s.dropMsg id).traceIn m.home m
        (s1.setBarrier m.home n ((s1.core m.home).barrier n).next).settle m.home n
      | _ => s
    | none => s)

/-- Checks 1 and 2 of R367. -/
def State.barrierCheck (s : State) (c : Nat) (a : Word) : Option (BitVec 16) :=
  if a >>> 8 != 0 then some (det cBarrierForm 3)
  else if (match s.header? c with | some h => h.barriers | none => 0) ≤ a.toNat then some (det cBarrierRange a.toNat)
  else none

/-- The body of a barrier instruction after its first two checks. -/
def barrierBody (f : State → Nat → Nat → Nat → List Val → Act) : Body := fun s c sl xs =>
  match s.barrierCheck c (arg xs 0) with
  | some code => fault0 code
  | none => f s c sl (arg xs 0).toNat xs

/-- The number of a form: 1 .thread, 2 .core, 3 .ridge. -/
def formOf (scope : BitVec 6) : Nat := if scope = 0 then 1 else if scope = 2 then 2 else 3

/-- BARARR (R367, R368). -/
def execBararr (d a b : BitVec 6) (l : BitVec 4) (s : State) : Out :=
  s.issueStep { fR d a with la := some l, ordering := true, ends := true, takes := true, gives := true,
                            slots := if b = 0 then 0x8FFF else 0x0FFF }
    (barrierBody (fun s1 c sl n _ =>
      let k := (s1.core c).barrier n
      if k.form ≠ 0 ∧ k.form ≠ formOf b then fault0 (det cBarrierForm 1)
      else if !s1.releaseReady c sl (if b.toNat < 4 then 2 else 4) then .park .memory
      else .pend (s1.arrive c n (formOf b)) (.bar (k.gen.setWidth 64)) (s1.now c + 2)))

/-- BARWAIT: satisfied at once when the generation already differs (R368). -/
def execBarwait (a b : BitVec 6) (l : BitVec 4) (s : State) : Out :=
  s.issueStep { srcs := [.g a, .g b], dsts := [], la := some l, takes := true, slots := 0x9FFF }
    (barrierBody (fun s1 c _ n xs => .pend s1 (.barwait n (arg xs 1)) (s1.now c)))

/-- BARBYTES (R368). -/
def execBarbytes (a b : BitVec 6) (l : BitVec 4) (s : State) : Out :=
  s.issueStep { srcs := [.g a, .g b], dsts := [], la := some l, gives := true, slots := 0x9FFF }
    (barrierBody (fun s1 c _ n xs => .pend (s1.addBytes c n (arg xs 1)) (.bar 0) (s1.now c + 2)))

/-- The status word of BARQRY (R369). -/
def Barrier.word (b : Barrier) : Word :=
  BitVec.ofNat 64 (b.gen.toNat * 2 ^ 32 + b.form * 2 ^ 30 + (if b.reported then 2 ^ 29 else 0) + b.arrived % 16 * 2 ^ 20
    + (if b.pending.msb then 1 else 0))

/-- BARQRY (R367-R369). -/
def execBarqry (d a b : BitVec 6) (l : BitVec 4) (s : State) : Out :=
  s.issueStep { fRR d a b with la := some l, takes := true, slots := 0x9FFF }
    (barrierBody (fun s1 c _ n xs =>
      let k := (s1.core c).barrier n
      if 2 ≤ (arg xs 1).toNat then fault0 (det cBarrierForm 2)
      else .pend s1 (.bar (if arg xs 1 = 1 then k.pending else k.word)) (s1.now c + 2)))

/-- BARRIER_INSTRUCTION_COMPLETION: the result two cycles after issue; BARWAIT once the generation differs (R368). -/
def execBarrierInstructionCompletion (c sl id : Nat) (s : State) : Out :=
  .next (s.onPend c sl id (fun p => match p.kind with
    | .bar w => s.finish c sl p [Val.of w]
    | .barwait n gen => if ((s.core c).barrier n).gen != gen.setWidth 32 then s.finish c sl p [] else s
    | _ => s))

end Sys2Proof.Machine
end

