-- ==== Sys2Proof/Machine/Control.lean ====
section
/-! DEFINITION. TRAP, TRET, IDEM, EBRK (18 R378-R382), TEXIT and WLQRY (17 R363-R365), SPAWN (07 R155-R157) and the
transform thread's life (13 R254). -/

namespace Sys2Proof.Machine
open Sys2Proof

/-- The slots of TRAP, TRET and IDEM. -/
def userSlots : BitVec 16 := 0x8FFF

/-- TRAP (R379): SOFT_TRAP with detail g[a][7:0] and tinfo g[a]; tpc is the next instruction. -/
def execTrap (a : BitVec 6) (s : State) : Out :=
  s.issueStep { srcs := [.g a], dsts := [], ordering := true, slots := userSlots } (fun _ _ _ xs =>
    .trapAfter (det cSoftTrap (arg xs 0).toNat) (arg xs 0))

/-- TRET (R380). -/
def execTret (s : State) : Out :=
  s.issueStep { srcs := [], dsts := [], ordering := true, slots := userSlots } (fun s1 c sl _ =>
    if (s1.thr c sl).handler then .ret (s1.trapReturn c sl) [] (some (s1.thr c sl).returnPc)
    else fault0 (det cIllegalInstruction 8))

/-- IDEM (R382): opens a region at the next instruction; in a user trap handler it traps (R377). -/
def execIdem (s : State) : Out :=
  s.issueStep { srcs := [], dsts := [], ordering := true, slots := userSlots } (fun s1 c sl _ =>
    if (s1.thr c sl).handler then fault0 (det cIllegalInstruction 8)
    else .ret (s1.modThr c sl (fun t => { t with
      iep := (t.iep &&& 0x400000000#64) ||| 0x100000000#64 ||| ((t.pc + 4) &&& 0xFFFFFFFF#64) })) [] none)

/-- A comparator is armed: en and stop (19 R400). -/
def Debug.armed (d : Debug) : Bool := vecAny (fun w => w.getLsbD 63 && w.getLsbD 43) d.bkpt

/-- EBRK (R381): it completes, and the thread stops behind it when a comparator is armed or dbgctl bit 0 is set. -/
def execEbrk (s : State) : Out :=
  s.issueStep { srcs := [], dsts := [], ordering := true, slots := 0xAFFF } (fun s1 c sl _ =>
    let d := (s1.core c).dbg
    if (d.armed || d.dbgctl.getLsbD 0) && sl != 13 && !s1.isTrailing c sl then
      .ret (s1.modThr c sl (fun t => { t with ebrk := true })) [] none
    else .ret s1 [] none)

/-! ### TEXIT -/

/-- A thread at launch in a compute member or in slot 15 (17 R349, 13 R254): args in g1, the instance number in g2. -/
def Ridge.launchThread (r : Ridge) : Thread :=
  { Thread.reset with
    pc := BitVec.ofNat 64 r.header.entry, fmtd := r.packet.fmtd, sclp := r.packet.sclp,
    g := (Thread.reset.g.setIfInBounds 1 { val := r.packet.args, fe := .full, poison := false }).setIfInBounds 2
      { val := BitVec.ofNat 64 r.inst, fe := .full, poison := false } }

/-- The compute members of an instance as (core, slot). -/
def Ridge.members (r : Ridge) : List (Nat × Nat) :=
  r.cores.flatMap (fun c => (List.range r.header.crew).map (fun sl => (c, sl)))

/-- A thread has not executed TEXIT. -/
def Thread.alive (t : Thread) : Bool := match t.life with | .live | .claimed => true | _ => false

/-- No member of the instance other than these slots of the core is still live, and a request committed by its threads is
still outstanding: the last TEXIT waits (05 R103). -/
def State.lastWaits (s : State) (c : Nat) (slots : List Nat) : Bool :=
  match s.ridge? c with
  | none => false
  | some r => r.members.all (fun x => (x.1 == c && slots.contains x.2) || !(s.thr x.1 x.2).alive) &&
      r.cores.any (fun x => !(s.core x).copies.isEmpty)

/-- A member becomes dormant (17 R364); its posted stores are still performed, and are no later thread's own (16 R316). -/
def State.exit (s : State) (c sl : Nat) : State :=
  (s.modCore c (fun k => k.dropClaims sl)).modThr c sl (fun t => { t with life := .dormant, psq := t.psq.map (fun e => { e with left := true }) })

/-- Slot 15 returns to sleep with its launch values; posted stores and what debug and power hold stay (13 R254). -/
def State.transformSleep (s : State) (c : Nat) : State :=
  match s.ridge? c with
  | none => s
  | some r => s.modThr c 15 (fun t => { r.launchThread with
      life := .asleep, psq := t.psq, stopped := t.stopped, stepping := t.stepping, removed := t.removed })

/-- TEXIT (R364). -/
def execTexit (s : State) : Out :=
  s.issueStep { srcs := [], dsts := [], ordering := true, ends := true, gives := true, slots := userSlots, inHandler := false }
    (fun s1 c sl _ =>
      if sl = 15 then
        match s1.ridge? c with
        | some r => .ret (s1.transformSleep c) [] (some (BitVec.ofNat 64 r.header.entry))
        | none => .ret (s1.exit c sl) [] none
      else
        let both := s1.pairOf c sl
        if s1.lastWaits c both then .park .memory
        else
          let s2 := both.foldl (fun s x => s.exit c x) s1
          .ret (if s1.isPair c sl then s2.setPair c (sl / 2) Pair.reset else s2) [] none)

/-- TRANSFORM_WAKE: slot 15 wakes four cycles after tq became non-empty (13 R254). -/
def execTransformWake (c : Nat) (s : State) : Out :=
  .next (if (s.thr c 15).life == .asleep && (s.core c).tq.any (fun x => x.2 + 4 ≤ s.now c) then
      s.modThr c 15 (fun t => { t with life := .live })
    else s)

/-! ### WLQRY (R365) -/

/-- The word of WLQRY: no push and no removal of the last three cycles is shown (07 R137). -/
def Core.wlWord (k : Core) : Word :=
  let len := (k.wl.filter (fun x => x.2 + 4 ≤ k.cycle)).length +
    (k.wlGone.filter (fun t => t.1 + 4 ≤ k.cycle && k.cycle < t.2 + 4)).length
  BitVec.ofNat 64 (k.wlInflight * 2 ^ 32 + len)

def execWlqry (d : BitVec 6) (s : State) : Out :=
  s.issueStep { srcs := [], dsts := [.g d], takes := true, slots := 0x0FFF } (fun s1 c _ _ => ret1 s1 d (s1.core c).wlWord)

/-! ### SPAWN (07 R155-R157) -/

/-- The checks of R156, in order. -/
def State.spawnCheck (s : State) (c sl first : Nat) (start w : Word) : Option (BitVec 16) :=
  match s.ridge? c with
  | none => some (det cSpawnForm 2)
  | some r =>
    let count := bitsN w 29 24
    let member := bitsN w 19 16
    let row := bitsN w 15 8
    let col := bitsN w 7 0
    if w >>> 30 != 0 || bitsN w 23 20 != 0 then some (det cSpawnForm 1)
    else if r.w ≤ col || r.h ≤ row || r.header.crew ≤ member then some (det cSpawnForm 2)
    else if r.coreAt col row = c ∧ member = (if s.isPair c sl then sl / 2 * 2 else sl) then some (det cSpawnForm 3)
    else if start.toNat % 4 ≠ 0 ∨ r.header.codeSize ≤ start.toNat ∨ start.toNat < 64 then some (det cSpawnForm 4)
    else if (0 < count && first == 0) || (count == 0 && first != 0) || 48 < first + count then some (det cSpawnForm 5)
    else if 0 < count ∧ r.header.regs < first + count - 1 then some (det cIllegalRegister (max first (r.header.regs + 1)))
    else if r.header.redundant && member % 2 == 1 then some (det cSpawnForm 6)
    else none

/-- What a SPAWN sends: the child's state, made from its parent's, its copied registers empty and pending (R133, R157). -/
def childOf (parent : Thread) (start : Word) (regs : List (Nat × Word)) : Thread :=
  { Thread.reset with
    pc := start
    g := regs.foldl (fun g x => g.setIfInBounds x.1 { val := x.2, fe := .pending, poison := false }) Thread.reset.g
    fcsr := parent.fcsr, ctx := parent.ctx, fmtd := parent.fmtd, sclp := parent.sclp, td := parent.td
    mxcfg := parent.mxcfg, gpcfg := parent.gpcfg, life := .claimed }
/-- A member takes the child's state; its ports, wrap bits, posted stores and what debug and power hold are its own (R157). -/
def Thread.become (member child : Thread) : Thread :=
  { child with ports := member.ports, wrapX := member.wrapX, wrapY := member.wrapY, psq := member.psq
               stopped := member.stopped, stepping := member.stepping, removed := member.removed }
/-- The copied registers have come: they are full. -/
def Thread.filled (t : Thread) : Thread :=
  { t with g := vecMap (fun r => if r.fe == .pending then { r with fe := .full } else r) t.g }

/-- The slots a SPAWN starts: the member, or its pair. -/
def State.spawnSlots (s : State) (c member : Nat) : List Nat := s.pairOf c member
/-- Every slot of a SPAWN is dormant. -/
def State.spawnFree (s : State) (c member : Nat) : Bool := (s.spawnSlots c member).all (fun x => (s.thr c x).life == .dormant)
/-- A claim takes its slots: they are dormant no more. -/
def State.claim (s : State) (c member : Nat) : State :=
  (s.spawnSlots c member).foldl (fun s x => s.modThr c x (fun t => { t with life := .claimed })) s
/-- The set-up of the claimed slots begins. -/
def State.setUp (s : State) (c member : Nat) (child : Thread) : State :=
  (s.spawnSlots c member).foldl (fun s x => s.modThr c x (fun t =>
    match t.life with | .claimed => t.become child | _ => t)) s

/-- The claimed slots are set up and start; the first opportunity is from a core cycle. -/
def State.startMembers (s : State) (c : Nat) (slots : List Nat) (at' : Nat) : State :=
  let s1 := slots.foldl (fun s sl => s.modThr c sl (fun t =>
    match t.life with | .claimed => { t.filled with life := .live, wakeAt := at' } | _ => t)) s
  if s1.isPair c (slots.headD 0) then s1.setPair c (slots.headD 0 / 2) Pair.reset else s1

/-- Flits of a set-up after the first: four registers each (R157). -/
def Thread.moreFlits (t : Thread) : Nat := ((t.g.toList.filter (fun r => r.fe == .pending)).length - 1) / 4

/-- The member that a SPAWN names is its own now: the slots are dormant no more for anyone else (R157). -/
def State.holds (s : State) (c sl far member : Nat) : Bool := (s.thr c sl).claiming == some (far, member, 1)
/-- A SPAWN asks for its member and parks: of the issuing core it sees the member itself; to another core the claim travels, the first
one to reach a dormant member wins, and one that has lost is made again (R157; log 86). -/
def State.seek (s : State) (c sl far member : Nat) : Act :=
  if far = c then .park .message
  else if (s.thr c sl).claiming == some (far, member, 0) then .park .message
  else .parkIn ((s.send (.claim member) c sl member far 0 0 0).modThr c sl (fun t => { t with claiming := some (far, member, 0) })) .message
/-- A SPAWN that holds its member releases the thread's earlier writes, then sends the child's state (R157). -/
def State.spawnGo (s : State) (c sl far member : Nat) (child : Thread) : Act :=
  if !s.writesDone c sl (s.smallestScope c far) then .parkIn s .memory
  else
    let own : Msg :=
      { id := 0, kind := .spawn member child true, core := c, slot := sl, pend := s.fresh + 1, home := c, off := 0, va := 0,
        asid := s.asidOf c, tag := 0, due := { num := 0, den := 1 }, refused := false }
    let s1 := s.modThr c sl (fun t => { t with claiming := none })
    let s2 := if far = c then (s1.setUp c member child).reply own 0 false none 2 else s1.sendFor (.spawn member child false) c sl far 0 0 0
    .pend s2 (.spawn far member) (s.now c)

/-- SPAWN (R155-R157): the checks, the copied registers, the claim, the release, and the child's start. -/
def execSpawn (d a b : BitVec 6) (l : BitVec 4) (s : State) : Out :=
  s.issueStep { fRR 0 a b with dsts := [], more := [.g d], la := some l, ordering := true, ends := true, gives := true,
                               slots := 0x1FFF, inHandler := false }
    (fun s1 c sl xs =>
      let w := arg xs 1
      match s1.spawnCheck c sl d.toNat (arg xs 0) w, s1.ridge? c with
      | some code, _ => fault0 code
      | none, none => fault0 (det cSpawnForm 2)
      | none, some r =>
        let nums := (List.range (bitsN w 29 24)).map (fun i => d.toNat + i)
        match s1.readAll c sl (nums.map (fun n => .g (BitVec.ofNat 6 n))) with
        | .park wt => .park wt
        | .trap code => fault0 code
        | .ok s2 vs =>
          let far := r.coreAt (bitsN w 7 0) (bitsN w 15 8)
          let member := bitsN w 19 16
          let child := childOf (s2.thr c sl) (arg xs 0) (nums.zip (vs.map Val.w))
          if vs.any (·.poison) then .poison
          else if s2.holds c sl far member then s2.spawnGo c sl far member child
          else if far = c && s2.spawnFree c member then
            ((s2.claim c member).modThr c sl (fun t => { t with claiming := some (c, member, 1) })).spawnGo c sl c member child
          else s2.seek c sl far member)

end Sys2Proof.Machine
end

