-- ==== Sys2Proof/Machine/Remote.lean ====
section
/-! DEFINITION. Remote operations and messages: issue, acceptance, the vault agent, user handlers, mailboxes (14). -/

namespace Sys2Proof.Machine
open Sys2Proof

/-! ### Issue (R272, R277) -/

/-- Checks 1 to 3 of R277. -/
def State.remoteCheck (s : State) (c : Nat) (a : Word) (n : Nat) : Option (BitVec 16) :=
  if !isGlobal a then some (det cRemoteForm 1)
  else match s.badHome (s.asidOf c) a n with
    | some code => some code
    | none => s.farBad a n

/-- Check 7 of R277 after checks 1 to 3. -/
def State.accessCheck (s : State) (c : Nat) (a : Word) (n : Nat) : Option (BitVec 16) :=
  match s.remoteCheck c a n with
  | some code => some code
  | none => if a.toNat % n ≠ 0 then some (det cMisaligned n) else none

/-- Checks 1 to 4 of R277 for AMSEND and MSEND, which reach no host window (20 R418). -/
def State.sendCheck (s : State) (c : Nat) (a : Word) : Option (BitVec 16) :=
  if isGlobal a && gaDev a == 2047 then some (det cNonlocal 4)
  else match s.remoteCheck c a 0 with
    | some code => some code
    | none => if 1024 ≤ gaHome a then some (det cRemoteForm 2) else none

/-- The tag a message to an address carries: the thread's ctx; off this device only that of an AMSEND, which its handler receives (15
R296; R284). -/
def State.msgTag (s : State) (kind : MsgKind) (c sl : Nat) (a : Word) : BitVec 16 :=
  if s.thisDev a || (match kind with | .amsend .. => true | _ => false) then (s.thr c sl).ctx else 0

/-- Send the message of a remote instruction. -/
def State.sendTo (s : State) (kind : MsgKind) (c sl : Nat) (a : Word) : State :=
  s.sendFor kind c sl (gaHome a) (gaOff a) a (s.msgTag kind c sl a)

/-- The queue pair that serves a host address of an ASID. -/
def State.qpOf (s : State) (asid : Nat) (a : Word) : Nat := match s.hostWin? asid a with | some w => w.qp | none => 0
/-- A READ or an atomic request to the host on a queue pair (20 R416). -/
def State.readsHost (s : State) (qp : Nat) (m : Msg) : Bool :=
  isGlobal m.va && gaDev m.va == 2047 && s.qpOf m.asid m.va == qp &&
    (match m.kind with | .copyRead .. | .rget _ | .ratom .. => true | _ => false)
/-- READ and atomic requests that are outstanding on a queue pair (05 R96; 20 R416). -/
def State.hostReads (s : State) (qp : Nat) : Nat := (s.msgs.filter (s.readsHost qp)).length
/-- An address of the host whose queue pair has 16 READ and atomic requests outstanding: another waits (20 R416; log 110). -/
def State.hostFull (s : State) (c : Nat) (a : Word) : Bool :=
  isGlobal a && gaDev a == 2047 && 16 ≤ s.hostReads (s.qpOf (s.asidOf c) a)

/-- Slots of the remote operations (R280). -/
def remoteSlots : BitVec 16 := 0x9FFF

/-- RGET (R280, R281). -/
def rget (dst : Opnd) (a : BitVec 6) (l : BitVec 4) (n : Nat) (signed : Bool) (s : State) : Out :=
  s.issueStep { srcs := [.g a], dsts := [dst], la := some l, takes := true, slots := remoteSlots, inHandler := false }
    (fun s1 c sl xs =>
      match s1.accessCheck c (arg xs 0) n with
      | some code => faultAt code (arg xs 0)
      | none =>
        if s1.hostFull c (arg xs 0) then .park .message
        else .pend (s1.sendTo (.rget n) c sl (arg xs 0)) (.remote n signed) (s1.now c))

def execRget (d a : BitVec 6) (l : BitVec 4) (sz : BitVec 2) (s : State) : Out := rget (.g d) a l (sizeOf2 sz) false s
def execRgetS (d a : BitVec 6) (l : BitVec 4) (sz : BitVec 2) (s : State) : Out := rget (.g d) a l (sizeOf2 (sz - 1)) true s
def execRgetV (d a : BitVec 6) (l : BitVec 4) (s : State) : Out := rget (.v d) a l 64 false s

/-- RPUT (R280, R281). -/
def rput (src : Opnd) (a : BitVec 6) (l : BitVec 4) (n : Nat) (s : State) : Out :=
  s.issueStep { srcs := [.g a, src], dsts := [], la := some l, gives := true, slots := remoteSlots, inHandler := false }
    (fun s1 c sl xs =>
      match s1.accessCheck c (arg xs 0) n with
      | some code => faultAt code (arg xs 0)
      | none => .pend (s1.sendTo (.rput n (argV xs 1) false) c sl (arg xs 0)) (.remote 0 false) (s1.now c))

def execRput (a b : BitVec 6) (l : BitVec 4) (sz : BitVec 2) (s : State) : Out := rput (.g b) a l (sizeOf2 sz) s
def execRputV (a b : BitVec 6) (l : BitVec 4) (s : State) : Out := rput (.v b) a l 64 s

/-- The operation of f3 (R282). -/
def atomOf (o : BitVec 3) : AtomOp :=
  match o.toNat with
  | 0 => .swap | 1 => .add | 2 => .and | 3 => .or | 4 => .xor | 5 => .max | 6 => .min | _ => .cas

/-- RATOM (R282); the host takes only add and cas (20 R418). -/
def execRatom (d a b : BitVec 6) (l : BitVec 4) (o : BitVec 3) (s : State) : Out :=
  let op := atomOf o
  s.issueStep { srcs := if op == .cas then [.g a, .g b, .g (b + 1)] else [.g a, .g b], dsts := [.g d], la := some l,
                ends := true, takes := true, gives := true, slots := remoteSlots, inHandler := false }
    (fun s1 c sl xs =>
      match s1.accessCheck c (arg xs 0) 8 with
      | some code => faultAt code (arg xs 0)
      | none =>
        if gaDev (arg xs 0) == 2047 && op != .add && op != .cas then faultAt (det cRemoteTarget 3) (arg xs 0)
        else if s1.hostFull c (arg xs 0) then .park .message
        else .pend (s1.sendTo (.ratom op (arg xs 1) (arg xs 2)) c sl (arg xs 0)) .ratom (s1.now c))

/-- AMSEND (R283): a release at the smallest scope of both cores (R279). -/
def execAmsend (d a b : BitVec 6) (l : BitVec 4) (s : State) : Out :=
  s.issueStep { srcs := [.g a, .g b, .g (b + 1)], dsts := [.g d], la := some l, ends := true, takes := true, gives := true,
                slots := remoteSlots, inHandler := false }
    (fun s1 c sl xs =>
      let ga := arg xs 0
      match s1.sendCheck c ga with
      | some code => faultAt code ga
      | none =>
        if arg xs 2 >>> 8 != 0 then faultAt (det cRemoteForm 4) ga
        else if !s1.releaseReady c sl (s1.scopeTo c ga) then .park .memory
        else .pend (s1.sendTo (.amsend (arg xs 2).toNat (arg xs 1)) c sl ga) (.send false (gaHome ga) 0) (s1.now c))

/-- The core a global address names: a device field of 0 and the device's own number name one device (R272). -/
def State.coreKey (s : State) (ga : Word) : Nat := gaHome ga + 2048 * (if s.thisDev ga then 0 else gaDev ga)
/-- MSEND (R288): one unacknowledged message a priority and core; a release as AMSEND (R279). -/
def execMsend (d a b : BitVec 6) (l : BitVec 4) (p : BitVec 2) (s : State) : Out :=
  s.issueStep { srcs := [.g a, .g b, .g d], dsts := [], la := some l, ends := true, gives := true, slots := remoteSlots,
                inHandler := false }
    (fun s1 c sl xs =>
      let ga := arg xs 0
      match s1.sendCheck c ga with
      | some code => faultAt code ga
      | none =>
        if gaOff ga ≠ 0 then faultAt (det cRemoteForm 3) ga
        else if (s1.thr c sl).pend.any (fun q => q.kind == .send true (s1.coreKey ga) p.toNat) then .park .message
        else if !s1.releaseReady c sl (s1.scopeTo c ga) then .park .memory
        else .pend (s1.sendTo (.msend p.toNat (arg xs 1) (arg xs 2)) c sl ga) (.send true (s1.coreKey ga) p.toNat) (s1.now c))

/-! ### Mailboxes (R287-R290) -/

/-- Queue p of the mailbox. -/
def Core.mailQ (k : Core) (p : Nat) : List MailMsg := (k.mail[p]?).getD []
/-- Skip count of priority p. -/
def Core.skip (k : Core) (p : Nat) : Nat := (k.skips[p]?).getD 0
/-- A priority is accepted by a selector: 0 accepts all. -/
def selects (sel : Word) (p : Nat) : Bool := sel == 0 || sel.getLsbD p

/-- The queue that is served among some priorities (R289). -/
def Core.mailFirst (k : Core) (ready : List Nat) : Option Nat :=
  match ready.find? (fun p => 64 ≤ k.skip p) with
  | some p => some p
  | none => ready.head?
/-- The accepted queues that hold a message. -/
def Core.mailHeld (k : Core) (sel : Word) : List Nat := (List.range 4).filter (fun p => selects sel p && !(k.mailQ p).isEmpty)
/-- The accepted queues whose oldest message can be received (R287). -/
def Core.mailReady (k : Core) (sel : Word) : List Nat :=
  (k.mailHeld sel).filter (fun p => match k.mailQ p with | m :: _ => m.visible ≤ k.cycle | [] => false)
/-- The queue an MRECV with a selector takes from now (R289). -/
def Core.mailPick (k : Core) (sel : Word) : Option Nat := k.mailFirst (k.mailReady sel)
/-- The queue an MPROBE with a selector names: the one an MRECV would take now, or, while every message held is still to become
receivable, the one it will take (R290). -/
def Core.mailNext (k : Core) (sel : Word) : Option Nat := (k.mailPick sel).orElse (fun _ => k.mailFirst (k.mailHeld sel))

/-- Deliver the oldest message of a queue and count the skips (R289). -/
def Core.mailTake (k : Core) (q : Nat) : Core :=
  { k with
    mail := k.mail.setIfInBounds q (k.mailQ q).tail
    skips := (List.range 4).foldl (fun v p =>
      v.setIfInBounds p (if p = q then 0 else if q < p ∧ k.mailQ p ≠ [] then k.skip p + 1
        else if k.mailQ p = [] then 0 else k.skip p)) k.skips }

/-- MRECV (R289): takes one message at issue; its three words are full two cycles later. -/
def execMrecv (d a : BitVec 6) (l : BitVec 4) (s : State) : Out :=
  s.issueStep { srcs := [.g a], dsts := [.g d, .g (d + 1), .g (d + 2)], la := some l, ends := true, takes := true,
                slots := remoteSlots, inHandler := false }
    (fun s1 c _ xs =>
      let sel := arg xs 0
      if sel >>> 4 != 0 then fault0 (det cRemoteForm 5)
      else match (s1.core c).mailPick sel with
        | none => .park .message
        | some q => match (s1.core c).mailQ q with
          | m :: _ => .pend (s1.modCore c (fun k => k.mailTake q)) (.mrecv m.w0 m.w1 m.sender) (s1.now c + 2)
          | [] => .park .message)
def execMrecvCompletion (c sl id : Nat) (s : State) : Out :=
  .next (s.onPend c sl id (fun p => match p.kind with
    | .mrecv x y z => s.finish c sl p [Val.of x, Val.of y, Val.of z]
    | _ => s))

/-- The word of MPROBE (R290). -/
def Core.mprobeWord (k : Core) (sel : Word) : Word :=
  BitVec.ofNat 64 ((match k.mailNext sel with | some q => 2 ^ 34 + q * 2 ^ 32 | none => 0)
    + (k.mailQ 3).length * 2 ^ 24 + (k.mailQ 2).length * 2 ^ 16 + (k.mailQ 1).length * 2 ^ 8 + (k.mailQ 0).length)
/-- MPROBE (R290). -/
def execMprobe (d a : BitVec 6) (s : State) : Out :=
  s.issueStep { fR d a with takes := true } (fun s1 c _ xs =>
    if arg xs 0 >>> 4 != 0 then fault0 (det cRemoteForm 5) else ret1 s1 d ((s1.core c).mprobeWord (arg xs 0)))

/-! ### Translation at the home (R274, R278; 17 R343; 04 R65) -/

/-- The leases of an ASID that pin n bytes at a virtual offset of a home, mapped to a physical offset: the permissions of
each. -/
def State.leases (s : State) (asid home voff phome phys n : Nat) : List (Bool × Bool) :=
  let pins := s.pins.filter (fun p => p.home == home && p.off ≤ voff && voff + n ≤ p.off + p.bytes &&
    s.launches.any (fun l => l.id == p.launch && l.asid == asid))
  let windows := if phome < 1024 && s.asidOf phome == asid && (s.core phome).ridge.isSome then
      (s.core phome).windows.filter (fun w => w.base ≤ phys && phys + n ≤ w.base + w.len)
    else []
  pins.map (fun p => (p.read, p.write)) ++ windows.map (fun w => (w.read, w.write))

/-- The page of an ASID that maps n bytes of a home's virtual offset. -/
def State.page? (s : State) (asid home off n : Nat) : Option Page :=
  (s.asids.find? (fun a => a.id == asid)).bind (fun a => a.pages.find? (fun p =>
    p.resident && p.va ≤ home * Config.homeSpan + off && home * Config.homeSpan + off + n ≤ p.va + p.bytes))

/-- What translating gives. -/
inductive Tr where
  | ok (home off : Nat)
  | fault (code : BitVec 16)
  deriving DecidableEq, Repr

/-- Translate n bytes of a home's offset for an ASID through a pinned translation. -/
def State.translate (s : State) (asid home off n : Nat) (rd wr : Bool) : Tr :=
  match s.page? asid home off n with
  | none => .fault (det cLeaseMiss 8)
  | some p =>
    let phys := p.off + (home * Config.homeSpan + off - p.va)
    let ls := s.leases asid home off p.home phys n
    if ls.isEmpty then .fault (det cLeaseMiss 8)
    else if (rd && !(p.read && ls.any (·.1))) || (wr && !(p.write && ls.any (·.2))) then .fault (det cLeaseMiss 9)
    else if p.home < 1024 && Config.vaultBytes < phys + n then .fault (det cLeaseMiss 8)
    else .ok p.home phys

/-- Where code lies: a resident page of the ASID that may be read; code pages are leased by their launch (R291). -/
def State.codeAt (s : State) (asid home off n : Nat) : Tr :=
  match s.page? asid home off n with
  | none => .fault (det cLeaseMiss 8)
  | some p => if p.read then .ok p.home (p.off + (home * Config.homeSpan + off - p.va)) else .fault (det cLeaseMiss 9)

/-- The home that the message's address names. -/
def Msg.virt (m : Msg) : Nat := m.vhome.getD m.home
/-- The migration under way of the page that holds a virtual address of an ASID. -/
def State.moving (s : State) (asid v : Nat) : Option Migration :=
  s.migrations.find? (fun g => g.asid == asid && !g.waiting && g.va ≤ v && v < g.va + g.bytes)
/-- Where an RDMA request lies, by a pinned or resident translation alike (20 R417); a line of a moving page that has been copied lies at
the page's new home (R292). -/
def State.rdmaTr (s : State) (m : Msg) (n : Nat) (wr : Bool) : Tr :=
  match s.page? m.asid m.virt m.off n with
  | none => .fault (det cLeaseMiss 8)
  | some p =>
    let v := m.virt * Config.homeSpan + m.off
    if !(if wr then p.write else p.read) then .fault (det cLeaseMiss 9)
    else match s.moving m.asid v with
    | some g => if (v - g.va) / 64 < g.copied then .ok g.newHome (g.newOff + (v - g.va)) else .ok p.home (p.off + (v - p.va))
    | none => .ok p.home (p.off + (v - p.va))
/-- The message names a place in the home's vault itself: a line copy of a moving page (slot 19), the scheduler's data blocks and vault
windows (slot 21). -/
def Msg.physical (m : Msg) : Bool := m.slot == 19 || m.slot == 21
/-- Where a built-in access lies at its home: RDMA (slot 17) and the scheduler's accesses (slot 20; log 38) go to resident pages, and so
do the refills of the instruction store (slot 16); every other goes through a pinned translation. -/
def State.homeAt (s : State) (m : Msg) (n : Nat) (rd wr : Bool) : Tr :=
  if m.physical then .ok m.home m.off
  else if m.slot = 17 || m.slot = 20 then s.rdmaTr m n wr
  else if m.slot = 16 then s.codeAt m.asid m.virt m.off n
  else s.translate m.asid m.virt m.off n rd wr


/-- The vault offset of a message's line at its home, for tinfo (15 R309): where its page lies, or the offset as sent where no page
maps it. -/
def State.homeLine (s : State) (m : Msg) : Nat :=
  match (if gaDev m.va = 0 || s.thisDev m.va then s.codeAt m.asid m.virt m.off 1 else .ok m.home m.off) with
  | .ok _ off => lineOf off
  | .fault _ => lineOf m.off

/-! ### Acceptance, refusal and retry (R273-R276) -/

/-- Where the agent of a message's home forwards it when it starts: to where the line lies now, the new home of one that has been copied,
or the home of its page (R292). -/
def State.forwardTo (s : State) (m : Msg) : Option Nat :=
  if m.physical then none
  else
    let v := m.virt * Config.homeSpan + m.off
    match s.page? m.asid m.virt m.off 1 with
    | none => none
    | some p =>
      let h := match s.moving m.asid v with | some g => if (v - g.va) / 64 < g.copied then g.newHome else p.home | none => p.home
      if h = m.home then none else some h
/-- A message goes on to another home, behind everything its old home has sent there (R273, R292). -/
def State.forward (s0 : State) (m : Msg) (h : Nat) : State :=
  let s := if m.home < 1024 then s0.trace m.home 0xFF 7 0 (s0.tracedAddr h m.off m.va ++ [2]) else s0
  { s.listCore h with
    msgs := s.msgs ++ [{ m with id := s.fresh, home := h, vhome := some m.virt, via := some m.home, due := s.msgDue m.home h 3 }]
    fresh := s.fresh + 1 }

/-- The home belongs to a pre-empted instance of the message's ASID (R276), once its agent has run every message accepted
before (18 R390); the broadcasts of tags in progress complete first (15 R310); what the scheduler places in the vault itself is no message
of an ASID's (17 R349, R352). -/
def State.preempted (s : State) (m : Msg) : Bool :=
  m.slot != 21 && s.ridges.any (fun r => r.asid == m.asid && r.cores.contains m.home &&
    (r.state == .saved || (r.state == .resuming && s.jobs.any (fun j => j.obj == r.id && j.fn == .resume)) || (r.state == .saving && (s.core m.home).inbuf.isEmpty && (s.thr m.home 13).invocation.isNone &&
      (match m.kind with | .seal _ | .retire _ | .merge _ => false | _ => true))))

/-- A remote operation of a thread (R279). -/
def MsgKind.threadOp : MsgKind → Bool
  | .rget _ | .rput .. | .ratom .. | .amsend .. => true
  | _ => false
/-- What a home keeps of an operation of another device that it refuses (R279). -/
def Msg.heldOp (m : Msg) : HeldOp := { dev := m.dev, core := m.core, slot := m.slot, home := m.home, off := m.off, kind := m.kind }
/-- Of one thread on one home. -/
def HeldOp.sameThread (a b : HeldOp) : Bool := a.dev == b.dev && a.core == b.core && a.slot == b.slot && a.home == b.home

/-- The home refuses a message, and its refusal travels back (R276); the sender of another device gets a refusal without a fault
code (20 R444; log 50). -/
def State.refuse (s : State) (m : Msg) : State :=
  let s1 := { s with msgs := s.msgs.filter (fun x => x.id != m.id) }
  if m.dev ≠ 0 then
    { s1 with behind := if m.kind.threadOp && !s.behind.contains m.heldOp then s.behind ++ [m.heldOp] else s.behind }.reply m 0 false (some 0)
  else { s1.listCore m.core with
         msgs := s1.msgs ++ [{ m with refused := true, retry := 1, due := s.msgDue m.home m.core 3 }] }

/-- MESSAGE_RETRY: a refusal has been accepted at its sender; 64 rc later the message leaves the sender's router again (R276). -/
def execMessageRetry (id : Nat) (s : State) : Out :=
  .next (match s.arrived? id with
    | some m =>
      if !m.refused then s
      else
        let next : Msg := if m.retry = 1 then { m with retry := 2, due := { num := s.rtime + 64, den := 1 } }
          else { m with refused := false, retry := 3, due := s.routed m.core (s.exitCore m.asid m.home m.va) }
        { s with msgs := replaceFirst (fun x => x.id == id) (fun _ => next) s.msgs }
    | none => s)

/-- The messages a vault agent runs (R275, 05 R96, 15 R302-R306, 17 R340). -/
def MsgKind.forAgent : MsgKind → Bool
  | .rget _ | .rput .. | .ratom .. | .amsend .. | .copyWrite _ | .copyRead .. | .seal _ | .retire _ | .merge _ | .ldx .. => true
  | _ => false

/-- The core from whose router a message has come: its issuer, or the home that forwarded it (R273, R292). -/
def Msg.source (m : Msg) : Nat := m.via.getD m.core
/-- No earlier message of the same source is still on its way to the same home on the agent's channel (R273). -/
def State.inOrder (s : State) (m : Msg) : Bool :=
  s.msgs.all (fun x => !(x.id < m.id && x.source == m.source && x.dev == m.dev && x.home == m.home && !x.refused && x.kind.forAgent &&
    !s.offDevice x))
/-- An earlier operation of the same thread on the same home has been refused and not accepted since: this one is refused behind it, so
that the two keep their order (R279; log 50).  Of another device's threads the home keeps what it has refused, in order, and takes each
again when it is the first.  What a home has forwarded stays behind a line copy of that home which has been refused (R292). -/
def State.behindRefused (s : State) (m : Msg) : Bool :=
  (m.via.isSome && s.msgs.any (fun x => x.slot == 19 && 0 < x.retry && x.home == m.home && x.kind.isWrite && some x.core == m.via)) ||
  m.kind.threadOp && if m.dev != 0 then
      (match s.behind.find? m.heldOp.sameThread with | some e => e != m.heldOp | none => false)
    else s.msgs.any (fun x => x.id < m.id && x.core == m.core && x.slot == m.slot && x.dev == m.dev && x.home == m.home &&
    0 < x.retry && x.kind.threadOp)

/-- A message enters the agent's input buffer; an idle agent starts it in the next cycle (R275). -/
def State.intoBuffer (s : State) (m : Msg) : State :=
  ({ s.dropMsg m.id with behind := s.behind.erase m.heldOp }.traceIn m.home m).modCore m.home (fun k =>
    { k with inbuf := k.inbuf ++ [m], agentFree := if k.inbuf.isEmpty then max k.agentFree (k.cycle + 1) else k.agentFree })

/-- The claim of a SPAWN reaches its member: it wins where the member is dormant (07 R157). -/
def State.claimArrives (s : State) (m : Msg) (member : Nat) : State :=
  let s1 := (s.dropMsg m.id).traceIn m.home m
  if s1.spawnFree m.home member then (s1.claim m.home member).sendBack m (.claimed true) else s1.sendBack m (.claimed false)
/-- The answer to the claim of a SPAWN reaches the thread that is parked at it; a member won for a SPAWN that has been withdrawn is dormant
again. -/
def State.claimAnswered (s : State) (m : Msg) (won : Bool) : State :=
  if won && (s.thr m.core m.slot).claiming != some (m.off, m.pend, 0) then (s.takeAnswer m).unhold m.off m.pend
  else (s.takeAnswer m).modThr m.core m.slot (fun t => { t with
    claiming := t.claiming.map (fun x => if x.1 = m.off ∧ x.2.2 = 0 then (x.1, x.2.1, if won then 1 else 2) else x) })
/-- The first flit of a SPAWN's set-up brings the child's state to the claimed member, its last one starts it (07 R157). -/
def State.spawnArrives (s : State) (m : Msg) (member : Nat) (child : Thread) (begun : Bool) : State :=
  if begun then
    let s1 := (s.dropMsg m.id).traceIn m.home m
    (s1.startMembers m.home (s1.spawnSlots m.home member) 0).reply m 0 false none
  else
    let last : Msg := { m with kind := .spawn member child true, due := { m.due with num := m.due.num + child.moreFlits * m.due.den } }
    let s1 := s.setUp m.home member child
    { s1 with msgs := replaceFirst (fun x => x.id == m.id) (fun _ => last) s1.msgs }

/-- MESSAGE_ACCEPT: a message for the agent enters its input buffer of 32; one for a pre-empted instance is refused; the
claim and the set-up of a SPAWN take and start its member (R275, R276; 07 R157). -/
def execMessageAccept (id : Nat) (s : State) : Out :=
  .next (match s.arrived? id with
    | some m =>
      if m.refused || (s.landsAt m).isNone then s
      else match m.kind with
        | .spawn member child begun => s.spawnArrives m member child begun
        | .claim member => s.claimArrives m member
        | .claimed won => s.claimAnswered m won
        | k =>
          if !k.forAgent || !s.inOrder m then s
          else if s.preempted m || s.behindRefused m then s.refuse m
          else if 32 ≤ (s.core m.home).inbuf.length then s
          else s.intoBuffer m
    | none => s)

/-! ### The vault agent (R275, R278, R281, R282) -/

/-- The message the agent of a core may run now. -/
def State.agentMsg? (s : State) (c : Nat) : Option Msg :=
  let k := s.core c
  if k.agentFree ≤ k.cycle && (k.thread 13).invocation.isNone then k.inbuf.head? else none

/-- The agent finishes its message; the next may start in the next cycle (R275). -/
def State.agentDone (s : State) (c : Nat) : State :=
  s.modCore c (fun k => { (k.unqueue .agent).unqueue .agentRun with
    inbuf := k.inbuf.tail, agentFree := k.cycle + 1, agentPos := 0, agentGot := [] })

/-- The agent finishes with a reply. -/
def State.answer (s : State) (c : Nat) (m : Msg) (val : Vec) (poison : Bool) : State := (s.agentDone c).reply m val poison none
/-- The agent finishes with a fault; the reply carries tinfo. -/
def State.answerFault (s : State) (c : Nat) (m : Msg) (code : BitVec 16) (info : Word) : State :=
  (s.agentDone c).reply m (info.setWidth 512) false (some code)

/-- The issuer's ridge instance is the home's: tags of the message belong to the home's domain (15 R296). -/
def State.sameDomain (s : State) (m : Msg) (home : Nat) : Bool :=
  m.dev == 0 && (s.core home).ridge.isSome && (s.core home).ridge == (s.core m.core).ridge

/-- What a built-in access meets at its home after translation: a fault with tinfo, a refusal to be retried, or the
physical offset (R278; 15 R295, R296, R298). -/
inductive Meets where
  | fault (code : BitVec 16) (info : Word)
  | again
  | ok (off : Nat) (tag : BitVec 16)
  deriving DecidableEq, Repr

def State.atHome (s : State) (m : Msg) (n : Nat) (rd wr : Bool) : Meets :=
  match s.homeAt m n rd wr with
  | .fault code => .fault code m.va
  | .ok _ off =>
    if (s.core m.home).therm = 3 then .fault (det cVaultThermal 4) m.va
    else
      let same := s.sameDomain m m.home
      let tag := if same then m.tag else 0
      if wr && m.tag != 0 && !same then .fault (det cCtxForm 6) (tagInfo m.tag m.home (lineOf off))
      else if wr then
        match s.tagRefusal m.home off tag with
        | some code => .fault code (tagInfo tag m.home (lineOf off))
        | none => if s.directoryFull m.home tag [off] then .again else .ok off tag
      else .ok off tag

/-- Run the agent's head message if it is of a kind f knows.  A message of a line that has gone on to another home is forwarded
when it starts (R292), and one behind which an earlier one of its thread has been refused is refused with it (R279). -/
def State.runAgent (s : State) (c : Nat) (f : Msg → Option State) : State :=
  match s.agentMsg? c with
  | none => s
  | some m => match f m with
    | none => s
    | some s1 => match s.forwardTo m with
      | some h => (s.agentDone c).forward m h
      | none => if s.behindRefused m then (s.agentDone c).refuse m else s1

/-- The bytes of an earlier posted store of the same thread are still on their way to this vault (16 R318). -/
def State.ownStore (s : State) (c : Nat) (m : Msg) (off n : Nat) : Bool :=
  m.dev == 0 && m.core == c && m.slot < 16 && (s.thr c m.slot).psq.any (fun e => e.id < m.pend &&
    e.parts.any (fun x => overlap x.1.toNat x.2.1 off n))

/-- The running message asks for its bank, from the cycle after its start on (R275). -/
def State.agentAsk (s : State) (c off n : Nat) (rd wr : Bool) (tag : BitVec 16) : State :=
  if (s.core c).agentFree < s.now c && !(s.core c).queued .agent then s.request c 13 .agent off n rd wr tag else s

/-- A built-in access of at most one line: it starts in the cycle after its acceptance and asks for its bank in the next (R275, R282);
it is performed at its beat.  An access that is refused or fails has no effect; a read-modify-write whose read has been made goes on
(04 R76). -/
def State.builtin (s : State) (c : Nat) (m : Msg) (n : Nat) (rd wr : Bool) (go : State → Nat → BitVec 16 → State) : State :=
  if s.hasBeat c .agent then
    match s.homeAt m n rd wr with
    | .ok _ off => go s off (if s.sameDomain m c then m.tag else 0)
    | .fault code => s.answerFault c m code m.va
  else if (s.core c).halfDone .agent then s
  else match s.atHome m n rd wr with
  | .fault code info => s.answerFault c m code info
  | .again => (s.agentDone c).refuse m
  | .ok off tag => if s.ownStore c m off n then s else s.agentAsk c off n rd wr tag

/-- n bytes of a core as a tag sees them, with poison: a 512-bit value. -/
def State.readTagged (s : State) (c off n : Nat) (tag : BitVec 16) : Vec × Bool :=
  let bs := (List.range n).map (fun i => s.taggedByte c (off + i) tag)
  (BitVec.ofNat 512 (leNat (bs.map (·.1))), bs.any (·.2))

/-- HOME_RGET (R281). -/
def execHomeRget (c : Nat) (s : State) : Out :=
  .next (s.runAgent c (fun m => match m.kind with
    | .rget n => some (s.builtin c m n true false (fun s1 off tag =>
        let (v, po) := s1.readTagged c off n tag
        s1.answer c m v po))
    | _ => none))

/-- HOME_RPUT (R281). -/
def execHomeRput (c : Nat) (s : State) : Out :=
  .next (s.runAgent c (fun m => match m.kind with
    | .rput n data _ => some (s.builtin c m n false true (fun s1 off tag =>
        (s1.store c off (vecBytes data n) tag m.actor).answer c m 0 false))
    | _ => none))

/-- HOME_RATOM (R282): poisoned bytes are not written over, and the reply carries the poison (R278). -/
def execHomeRatom (c : Nat) (s : State) : Out :=
  .next (s.runAgent c (fun m => match m.kind with
    | .ratom op x y => some (s.builtin c m 8 true true (fun s1 off tag =>
        let old := s1.tagged8 c off tag
        let s2 := match (if old.2 then none else op.new old.1 x y) with
          | some v => s1.store c off (leBytes v.toNat 8) tag m.actor
          | none => s1
        s2.answer c m (old.1.setWidth 512) old.2))
    | _ => none))

/-! ### User handlers (R284-R286) -/

/-- The sender word (R284, R287). -/
def State.senderWord (s : State) (m : Msg) (prio : Nat) : Word :=
  BitVec.ofNat 64 ((if m.dev = 0 then s.devNum else m.dev) * 2 ^ 53 + m.core * 2 ^ 42 + prio * 2 ^ 8 + m.slot)

/-- The state in which slot 13 enters a handler (R284): ctx is the message's tag where the home's kernel has tagged memory (15 R293); the
low two bits of a table entry are not part of a PC (02 R22; log 87); fmtd and sclp, which the entry table does not name, are 0 (log 20). -/
def State.handlerThread (s : State) (c : Nat) (m : Msg) (off entry : Nat) (x : Word) (t : Thread) : Thread :=
  let full (v : Word) : Reg 64 := { val := v, fe := .full, poison := false }
  { Thread.reset with
    life := .live, pc := BitVec.ofNat 64 (entry / 4 * 4)
    g := ((Thread.reset.g.setIfInBounds 1 (full (BitVec.ofNat 64 off))).setIfInBounds 2 (full x)).setIfInBounds 3 (full (s.senderWord m 0))
    ctx := match s.ridge? c with | some r => if r.header.tagged then m.tag else 0 | none => 0
    psq := t.psq, stopped := t.stopped, stepping := t.stepping, removed := t.removed
    invocation := some { msg := m.id, count := 0, foreign := !s.sameDomain m c, actor := some (s.partyOf m) } }

/-- HANDLER_START: a home without a ridge of the ASID refuses; otherwise the agent translates the address and starts the handler in
slot 13 (R276, R278, R284). -/
def execHandlerStart (c : Nat) (s : State) : Out :=
  .next (match s.agentMsg? c with
    | none => s
    | some m => match m.kind with
      | .amsend index x =>
        if !(s.thr c 13).pend.isEmpty then s
        else if s.behindRefused m then (s.agentDone c).refuse m
        else match s.ridge? c with
        | none => s.answerFault c m (det cRemoteTarget 1) m.va
        | some r =>
          if r.asid ≠ m.asid then s.answerFault c m (det cRemoteTarget 1) m.va
          else match s.translate m.asid m.virt m.off 1 false false with
          | .fault code => s.answerFault c m code m.va
          | .ok _ off =>
            match (r.header.amTable[index]?).getD none with
            | none => s.answerFault c m (det cRemoteTarget 2) m.va
            | some entry => s.modThr c 13 (s.handlerThread c m off entry x)
      | _ => s)

/-- The smallest scope that contains a handler's core and that of its message's sender (R279; 16 R320, R323). -/
def State.scopeOfMsg (s : State) (c : Nat) (m : Msg) : Nat :=
  if m.dev = 0 then s.smallestScope c m.core else ((List.range 12).find? (s.awayInScope m.dev)).getD 11

/-- AMRET (R286): the reply releases the handler's writes at the scope of its AMSEND (R279; 16 R323), and the handler ends. -/
def execAmret (a : BitVec 6) (s : State) : Out :=
  s.issueStep { srcs := [.g a], dsts := [], ordering := true, slots := 0x2000 } (fun s1 c sl xs =>
    match (s1.thr c sl).invocation with
    | none => fault0 (det cIllegalInstruction 7)
    | some inv =>
      match (s1.core c).inbuf.find? (fun m => m.id == inv.msg) with
      | none => if !s1.releaseReady c sl 11 then .park .stall else .ret (s1.setThr c 13 Thread.reset) [] none
      | some m =>
        if !s1.releaseReady c sl (s1.scopeOfMsg c m) then .park .stall
        else .ret ((s1.setThr c 13 Thread.reset).answer c m ((arg xs 0).setWidth 512) false) [] none)

/-! ### Mailbox deposit (R287, R288) -/

/-- MAILBOX_DEPOSIT: deposited in the cycle after acceptance and seen four cycles later, its acknowledgement injected from the cycle
after the deposit on; a full queue refuses. -/
def execMailboxDeposit (id : Nat) (s : State) : Out :=
  .next (match s.arrived? id with
    | some m =>
      if m.refused || (s.landsAt m).isNone then s
      else match m.kind with
        | .msend p x y =>
          let k := s.core m.home
          let gone := (s.dropMsg id).traceIn m.home m
          if s.preempted m then s.refuse m
          else match s.ridge? m.home with
            | none => gone.reply m (m.va.setWidth 512) false (some (det cRemoteTarget 1)) 4
            | some r =>
              if r.asid ≠ m.asid then gone.reply m (m.va.setWidth 512) false (some (det cRemoteTarget 1)) 4
              else if 16 ≤ (k.mailQ p).length then s.refuse m
              else
                let e : MailMsg := { w0 := x, w1 := y, sender := s.senderWord m p, visible := k.cycle + 5 }
                (gone.modCore m.home (fun k => { k with mail := k.mail.setIfInBounds p (k.mailQ p ++ [e]) })).reply m 0 false none 4
        | _ => s
    | none => s)

/-! ### RDMA at the mesh (R275; 20 R416, R417) -/

/-- An answer of the device to an RDMA request. -/
def State.answerHost (s : State) (a : Answer) : State := { s with hostAnswer := a }
/-- What of the first part of the oldest request goes now: one line of it where its page is moving or is to move (R292). -/
def State.rdmaCut (s : State) (r : Rdma) (a : Word) (n : Nat) (rest : List (Word × Nat)) : Nat × State :=
  let v := a.toNat % 2 ^ 53
  let k := min n (64 - v % 64)
  if k < n && s.migrations.any (fun g => g.asid == r.asid && g.va < v + n && v < g.va + g.bytes) then
    (k, { s with rdmas := { r with parts := (a, k) :: (a + BitVec.ofNat 64 k, n - k) :: rest } :: s.rdmas.tail })
  else (n, s)
/-- The message of the first part still to be performed of the oldest request: the Ethernet port sends it from its router (20 R416; log
40). -/
def State.rdmaSend (s : State) : State :=
  match s.rdmas with
  | [] => s
  | r :: _ => match (if r.kind < 3 then r.parts else []) with
    | [] => s
    | (a, n) :: rest =>
      let (n, s) := s.rdmaCut r a n rest
      let kind : MsgKind := if r.kind = 0 then .copyWrite ((r.data.take n).map (fun b => (b, false)))
        else if r.kind = 1 then .copyRead n 0 else .ratom r.op r.x r.y
      let m : Msg := { id := s.fresh, kind := kind, core := ethCore 0, slot := 17, pend := r.id, home := gaHome a, off := gaOff a,
                       va := a, asid := r.asid, tag := 0, due := s.routed (ethCore 0) (routerOf (gaHome a)), refused := false }
      { s.listCore (gaHome a) with msgs := s.msgs ++ [m], fresh := s.fresh + 1 }
/-- Take a request: it is begun when those before it have been answered (16 R330; log 96). -/
def State.rdmaTake (s : State) (r : Rdma) : State :=
  let s1 := { s with rdmas := s.rdmas ++ [r], hostAnswer := .none }
  if s.rdmas.isEmpty then s1.rdmaSend else s1
/-- A part of the oldest request has been performed at its home, or has failed there: the next part goes, or the request is answered
and the next one begins. -/
def State.rdmaAnswer (s : State) (m : Msg) (bytes : List Byte) (bad : Bool) : State :=
  let s1 := s.dropMsg m.id
  match s1.rdmas with
  | [] => s1
  | r :: rest =>
    if r.id ≠ m.pend then s1
    else if bad then ({ s1 with rdmas := rest }.answerHost .accessNak).rdmaSend
    else match r.parts with
      | (_, n) :: more@(_ :: _) =>
        { s1 with rdmas := { r with parts := more, data := r.data.drop n, got := r.got ++ bytes } :: rest }.rdmaSend
      | _ => ({ s1 with rdmas := rest }.answerHost (if r.kind = 0 then .ack else .data (r.got ++ bytes))).rdmaSend

/-! ### The scheduler's accesses (17 R344-R346, R349, R352, R362; log 38) -/

/-- The core at whose router the launch sequencer of a massif sends: the massif's lowest (log 38). -/
def seqCore (m : Nat) : Nat := 512 * (m / 2 % 2) + 16 * (m % 2)
/-- What of n bytes from an address one message carries: up to the next multiple of 2 KiB of a vault, of 1 KiB of a far agent, of a line
of a page that moves or is to move (05 R96; 14 R292). -/
def State.jobCut (s : State) (asid : Nat) (a : Word) (n : Nat) : Nat :=
  let unit := if gaDev a ≠ 2047 && 1024 ≤ gaHome a then 1024 else 2048
  let k := min n (unit - a.toNat % unit)
  let v := a.toNat % 2 ^ 53
  if s.migrations.any (fun g => g.asid == asid && g.va < v + k && v < g.va + g.bytes) then min n (64 - v % 64) else k
/-- The ASID under whose keys a far block was last written: none with number 512 (03 R56; log 92). -/
def State.keyOwner (s : State) (home off : Nat) : Nat :=
  match (assocGet s.farKeys (key home off / 256)).bind (fun k => s.asids.find? (fun a => a.keyName == k)) with | some a => a.id | none => 512
/-- The message of a job's first access: what it carries, its home, the offset there, its address, and whether it names a place in the
vault itself. -/
def State.jobMessage (s : State) (j : Job) : Option (MsgKind × Nat × Nat × Word × Bool) :=
  let named (k : MsgKind) (a : Word) : Option (MsgKind × Nat × Nat × Word × Bool) := some (k, gaHome a, gaOff a, a, false)
  let placed (k : MsgKind) (home off : Nat) : Option (MsgKind × Nat × Nat × Word × Bool) := some (k, home, off, 0, true)
  let plain (bs : List Byte) : List (Byte × Bool) := bs.map (fun b => (b, false))
  match j.ops with
  | [] => none
  | .read a n :: _ =>
    let b := a + BitVec.ofNat 64 j.part.length
    named (.copyRead (s.jobCut j.asid b (n - j.part.length)) 0) b
  | .write a data :: _ => named (.copyWrite (plain (data.take (s.jobCut j.asid a data.length)))) a
  | .add a x :: _ => named (.ratom .add (BitVec.ofNat 64 x) 0) a
  | .put home off data :: _ => placed (.copyWrite (plain (data.take (2048 - off % 2048)))) home off
  | .look home off n :: _ =>
    let o := off + j.part.length
    placed (.copyRead (min (n - j.part.length) (if home < 1024 then 2048 - o % 2048 else 256 - o % 256)) 0) home o
  | .move old new off n :: _ =>
    if j.part.isEmpty then placed (.copyRead (min n (2048 - off % 2048)) 0) old off else placed (.copyWrite j.part) new off
/-- A LAUNCH waits for the packets that were written to its queue before its own (17 R362). -/
def State.jobWaits (s : State) (j : Job) : Bool :=
  match j.fn with
  | .launch .. => s.jobs.any (fun x => x.id < j.id && x.obj == j.obj && (match x.fn with | .launch .. => true | _ => false))
  | _ => false
/-- The ASID of a job's first access: that of the job, or the one under whose keys the bytes that are looked at were written. -/
def Job.keyed (j : Job) (s : State) (home off : Nat) : Nat :=
  match j.ops with | .look .. :: _ => if home < 1024 then j.asid else s.keyOwner home off | _ => j.asid
/-- The message of a job's first access leaves. -/
def State.jobSend (s : State) (j : Job) : State :=
  match (if s.jobWaits j then none else s.jobMessage j) with
  | none => s
  | some (kind, home, off, a, phys) =>
    let s := match j.fn with
      | .launch c sl => s.trace c sl 7 0 (s.tracedAddr home off a ++ [BitVec.ofNat 8 (kind.channel (chanHome home a))])
      | _ => s
    let m : Msg := { id := s.fresh, kind := kind, core := j.core, slot := if phys then 21 else 20, pend := j.id, home := home, off := off,
                     va := a, asid := j.keyed s home off, tag := 0, due := s.routed j.core (s.exitCore j.asid home a), refused := false, forLaunch := j.launch }
    { s.listCore home with msgs := s.msgs ++ [m], fresh := s.fresh + 1 }

/-- Accesses of no bytes are over at once. -/
def JobOp.skip : List JobOp → List (List Byte) → List JobOp × List (List Byte)
  | .read _ 0 :: rest, got | .look _ _ 0 :: rest, got => JobOp.skip rest (got ++ [[]])
  | .write _ [] :: rest, got | .put _ _ [] :: rest, got | .move _ _ _ 0 :: rest, got => JobOp.skip rest got
  | ops, got => (ops, got)
/-- A job goes on with some accesses. -/
def Job.with (j : Job) (ops : List JobOp) : Job :=
  let x := JobOp.skip ops j.got
  { j with ops := x.1, got := x.2, part := [] }
/-- A job that is under way is over. -/
def Job.isOver (j : Job) : Bool := j.ops.isEmpty
/-- Replace a job, and send its next message. -/
def State.setJob (s : State) (j : Job) : State :=
  { s with jobs := replaceFirst (fun x => x.id == j.id) (fun _ => j) s.jobs }.jobSend j
/-- A job begins with its first message; one of no accesses is over at once. -/
def State.jobBegin (s : State) (asid core : Nat) (fn : JobFn) (obj : Nat) (launch : Option Nat) (ops : List JobOp) : State :=
  let j : Job := ({ id := s.fresh, asid := asid, core := core, fn := fn, obj := obj, launch := launch, ops := [], part := [], got := [], failed := false } : Job).with ops
  { s with jobs := s.jobs ++ [j], fresh := s.fresh + 1 }.jobSend j
/-- The job for an object. -/
def State.job? (s : State) (fn : JobFn) (obj : Nat) : Option Job := s.jobs.find? (fun j => j.fn == fn && j.obj == obj)
/-- A job is gone. -/
def State.dropJob (s : State) (id : Nat) : State := { s with jobs := s.jobs.filter (fun j => j.id != id) }

/-- A job is over.  The packet of a LAUNCH stands in its slot: the tail moves on, the instruction, the one LAUNCH that its thread can have
pending, completes in its core's next cycle, and the next one's packet goes (17 R362); the image of a captured launch's code goes into
its cairn (19 R409); status records and completion counts have no successor.  What waits for any other job takes it. -/
def State.jobOver (s : State) (j : Job) : State :=
  match j.fn with
  | .launch c sl =>
    let s1 := s.dropJob j.id
    let s2 := { s1 with queues := replaceFirst (fun (q : Queue) => q.id == j.obj) (fun q => { q with tail := q.tail + 1 }) s1.queues }
    let s3 := s2.modThr c sl (fun t => { t with pend := t.pend.map (fun x => match x.kind with
      | .launch seq ea q 1 => { x with kind := .launch seq ea q 2 }
      | _ => x) })
    match s3.jobs.find? (fun x => x.obj == j.obj && (match x.fn with | .launch .. => true | _ => false)) with
    | some x => s3.jobSend x
    | none => s3
  | .code => { s.dropJob j.id with cairns := replaceFirst (fun k => k.id == j.obj) (fun k => { k with code := j.got.headD [] }) s.cairns }
  | .status => s.dropJob j.id
  | _ => s

/-- The answer to a job's first access: bytes, or the acknowledgement of n bytes.  A read that fails, or whose bytes are poisoned, ends
the job; a write or an add that fails is left undone; what the scheduler itself places is tried until the vault takes it (log 38). -/
def Job.answered (j : Job) (data : List (Byte × Bool)) (n : Nat) (bad : Bool) : Job :=
  let took (k : Nat) (rest : List JobOp) : Job :=
    if bad || data.any (fun x => x.2) then { j with ops := [], part := [], failed := true }
    else
      let part := j.part ++ data
      if part.length < k then { j with part := part }
      else ({ j with got := j.got ++ [part.map (fun (x : Byte × Bool) => x.1)] } : Job).with rest
  match j.ops with
  | [] => j
  | .read _ k :: rest | .look _ _ k :: rest => took k rest
  | .write a bs :: rest => if bad then ({ j with failed := true } : Job).with rest else j.with (.write (a + BitVec.ofNat 64 n) (bs.drop n) :: rest)
  | .add _ _ :: rest => j.with rest
  | .put home off bs :: rest => if bad then j else j.with (.put home (off + n) (bs.drop n) :: rest)
  | .move old new off k :: rest =>
    if bad then j
    else if j.part.isEmpty then { j with part := data }
    else j.with (.move old new (off + j.part.length) (k - j.part.length) :: rest)
/-- An answer to a message of the scheduler has come. -/
def State.jobAnswer (s : State) (m : Msg) (data : List (Byte × Bool)) (n : Nat) (bad : Bool) : State :=
  let s1 := s.dropMsg m.id
  match s1.jobs.find? (fun j => j.id == m.pend) with
  | none => s1
  | some j =>
    let j1 := j.answered data n bad
    let s2 := s1.setJob j1
    if j1.isOver then s2.jobOver j1 else s2

end Sys2Proof.Machine
end

