-- ==== Sys2Proof/Machine/Context.lean ====
section
/-! DEFINITION. Context tags: the allocator, CTXALLOC, CTXSEAL, CTXRET, CTXMRG, LDX, CTXSET; the frontier and the saddle
tree (15); and the completion of remote instructions (14 R277). -/

namespace Sys2Proof.Machine
open Sys2Proof

/-! ### Checks (R300) -/

/-- The kernel's tagged-memory flag (R293). -/
def State.tagged (s : State) (c : Nat) : Bool := match s.header? c with | some h => h.tagged | none => false
/-- The tag pool's size P (R299). -/
def State.poolOf (s : State) (c : Nat) : Nat := match s.ridge? c with | some r => r.pool | none => 0
/-- A fault of this chapter without a line: tinfo holds the tag and the issuing core (R309). -/
def tagFault (code : BitVec 16) (tag : Word) (c : Nat) : Act := .trap code (tagInfo (tag.setWidth 16) c 0) 0
/-- Check 3: a tag out of range. -/
def State.badTag (s : State) (c : Nat) (x : Word) (zeroOk : Bool) : Bool :=
  x >>> 16 != 0 || (x == 0 && !zeroOk) || s.poolOf c < x.toNat
/-- Checks 1, 3 and 5 of CTXSEAL, CTXRET and CTXMRG; scopeBad is check 2. -/
def State.tagCheck3 (s : State) (c : Nat) (x : Word) (scopeBad : Bool) : Option (BitVec 16) :=
  if !s.tagged c then some (det cCtxForm 1)
  else if scopeBad then some (det cCtxForm 2)
  else if s.badTag c x false then some (det cCtxForm 3)
  else if (s.core c).tagState (x.setWidth 16) == .free then some (det cCtxRetired 2)
  else none

/-- The origin core of the core's ridge, where the allocator sits (R299). -/
def State.originOf (s : State) (c : Nat) : Nat := match s.ridge? c with | some r => r.coreAt 0 0 | none => c
/-- The cores of the core's ridge. -/
def State.ridgeCores (s : State) (c : Nat) : List Nat := match s.ridge? c with | some r => r.cores | none => [c]

/-- The cores a seal at a scope reaches: the core, its neighbours inside the ridge, or every core of the ridge (R302). -/
def State.sealHomes (s : State) (c scope : Nat) : List Nat :=
  if scope = 2 then [c] else if scope = 3 then (s.ridgeCores c).filter (fun h => h == c || hops c h == 1) else s.ridgeCores c

/-- Send one message of a pending instruction to each of some cores. -/
def State.sendAll (s : State) (kind : MsgKind) (c sl pend : Nat) (tag : BitVec 16) : List Nat → State
  | [] => s
  | h :: rest => (s.send kind c sl pend h 0 0 tag).sendAll kind c sl pend tag rest

/-! ### CTXALLOC, CTXSEAL, CTXRET, CTXMRG (R300-R304) -/

def execCtxalloc (d : BitVec 6) (l : BitVec 4) (s : State) : Out :=
  s.issueStep { srcs := [], dsts := [.g d], la := some l, ends := true, takes := true, gives := true, slots := userSlots }
    (fun s1 c sl _ =>
      if !s1.tagged c then tagFault (det cCtxForm 1) 0 c
      else if s1.poolOf c = 0 then tagFault (det cCtxForm 4) 0 c
      else .pend (s1.sendFor .ctxalloc c sl (s1.originOf c) 0 0 0) .ctxalloc (s1.now c))

/-- The body of a tag instruction that waits for the thread's earlier writes at a scope, then goes on. -/
def tagBody (scope : Nat) (scopeBad : Bool) (go : State → Nat → Nat → BitVec 16 → Act) : Body := fun s c sl xs =>
  let x := arg xs 0
  match s.tagCheck3 c x scopeBad with
  | some code => tagFault code x c
  | none => if !s.writesDone c sl scope then .park .memory else go s c sl (x.setWidth 16)

/-- The form of CTXSEAL, CTXRET and CTXMRG. -/
def tagForm (a : BitVec 6) (l : BitVec 4) : Form :=
  { srcs := [.g a], dsts := [], la := some l, ordering := true, ends := true, gives := true, takes := true, slots := userSlots }

def execCtxseal (a b : BitVec 6) (l : BitVec 4) (s : State) : Out :=
  s.issueStep (tagForm a l) (tagBody b.toNat (b.toNat < 2 || 5 ≤ b.toNat) (fun s1 c sl tag =>
    let homes := s1.sealHomes c b.toNat
    .pend (s1.sendAll (.seal tag) c sl (s1.fresh + homes.length) tag homes) (.ctxop tag homes.length 0) (s1.now c)))

def execCtxret (a : BitVec 6) (l : BitVec 4) (s : State) : Out :=
  s.issueStep (tagForm a l) (tagBody 4 false (fun s1 c sl tag =>
    .pend (s1.sendFor (.ctxretire tag false) c sl (s1.originOf c) 0 0 tag) (.ctxop tag 1 0) (s1.now c)))

def execCtxmrg (a : BitVec 6) (l : BitVec 4) (s : State) : Out :=
  s.issueStep (tagForm a l) (tagBody 4 false (fun s1 c sl tag =>
    let homes := s1.ridgeCores c
    .pend (s1.sendAll (.seal tag) c sl (s1.fresh + homes.length) tag homes) (.ctxop tag homes.length 1) (s1.now c)))

/-! ### The allocator (R299, R301, R303) -/

/-- A tag's state on a core. -/
def State.setTag (s : State) (c : Nat) (tag : BitVec 16) (st : TagState) : State :=
  s.modCore c (fun k => { k with tags := tblSet k.tags tag st })
/-- The reply of the allocator to a pending instruction. -/
def State.allocReply (s : State) (origin core slot pend : Nat) (val : Nat) (fault : Option (BitVec 16)) : State :=
  s.reply { id := 0, kind := .ctxalloc, core := core, slot := slot, pend := pend, home := origin, off := 0, va := 0,
            asid := s.asidOf core, tag := 0, due := { num := 0, den := 1 }, refused := false } (BitVec.ofNat 512 val) false fault
/-- The allocator gives a tag: open on every core of the ridge, then the reply (R301). -/
def State.grant (s : State) (origin tag core slot pend : Nat) : State :=
  ((s.ridgeCores origin).foldl (fun s h => s.setTag h (BitVec.ofNat 16 tag) .opened) s).allocReply origin core slot pend tag none

/-- Insert into the free set. -/
def State.allocatorServe (s : State) (m : Msg) : State :=
  match s.ridge? m.home with
  | none => s
  | some r =>
    match m.kind with
    | .ctxalloc =>
      match r.freeTags with
      | t :: rest => (s.modRidge r.id (fun x => { x with freeTags := rest })).grant m.home t m.core m.slot m.pend
      | [] => s.modRidge r.id (fun x => { x with waiting := x.waiting ++ [(m.core, m.slot, m.pend)] })
    | .ctxretire tag _ =>
      if r.freeTags.contains tag.toNat || r.retiring.any (fun x => x.tag == tag.toNat) then
        s.allocReply m.home m.core m.slot m.pend (tagInfo tag m.home 0).toNat (some (det cCtxRetired 3))
      else
        let e : Retiring := { tag := tag.toNat, left := r.cores.length, core := m.core, slot := m.slot, pend := m.pend }
        (s.modRidge r.id (fun x => { x with retiring := x.retiring ++ [e] })).sendAll (.retire tag) m.home 12 0 tag r.cores
    | .retired tag =>
      match r.retiring.find? (fun x => x.tag == tag.toNat) with
      | none => s
      | some e =>
        if 1 < e.left then
          let less (x : Retiring) : Retiring := { x with left := x.left - 1 }
          s.modRidge r.id (fun x => { x with retiring := replaceFirst (fun y => y.tag == tag.toNat) less x.retiring })
        else
          let s1 := s.modRidge r.id (fun x => { x with retiring := x.retiring.filter (fun y => y.tag != tag.toNat) })
          let s2 := match r.waiting with
            | (c, sl, p) :: rest => (s1.modRidge r.id (fun x => { x with waiting := rest })).grant m.home e.tag c sl p
            | [] => s1.modRidge r.id (fun x => { x with freeTags := sinsert x.freeTags e.tag })
          s2.allocReply m.home e.core e.slot e.pend 0 none
    | _ => s

/-- ALLOCATOR_REQUEST: a request or an acknowledgement reaches the allocator (R301, R303). -/
def execAllocatorRequest (id : Nat) (s : State) : Out :=
  .next (match s.arrived? id with
    | some m => match m.kind with
      | .ctxalloc | .ctxretire .. | .retired _ => ((s.dropMsg id).traceIn m.home m).allocatorServe m
      | _ => s
    | none => s)

/-! ### Seal, retire and merge at a home (R302-R304) -/

/-- The LDX.wait messages that wait at a home for a tag go back to the agent, to be run as .now behind the seal that it is running
(R306). -/
def State.wakeLdx (s : State) (c : Nat) (tag : BitVec 16) : State :=
  s.modCore c (fun k => { k with
    inbuf := k.inbuf.take 1 ++ k.ldxWaits.filter (fun m => m.tag == tag) ++ k.inbuf.drop 1
    ldxWaits := k.ldxWaits.filter (fun m => m.tag != tag) })
/-- The LDX.wait messages that wait at a home for a tag fail at its retirement (R303). -/
def State.failWaits (s : State) (c : Nat) (tag : BitVec 16) : State :=
  let s1 := s.modCore c (fun k => { k with ldxWaits := k.ldxWaits.filter (fun m => m.tag != tag) })
  ((s.core c).ldxWaits.filter (fun m => m.tag == tag)).foldl (fun s m =>
    s.reply m ((tagInfo tag c (s.homeLine m)).setWidth 512) false (some (det cCtxRetired 5))) s1

/-- A write with the tag waits at a bank. -/
def Core.tagQueued (k : Core) (tag : BitVec 16) : Bool :=
  vecAny (fun b => b.queue.any (fun r => r.wr && r.tag == tag)) k.banks || k.beats.any (fun e => e.req.wr && e.req.tag == tag)
/-- A posted store with the tag, or an STL, AMO or CTRADD with the tag at its bank, has been accepted at the home and is still to be
performed: a seal, a retirement or a merge comes after it (R302, R303; log 19). -/
def State.tagBusy (s : State) (c : Nat) (tag : BitVec 16) : Bool :=
  (s.core c).tagQueued tag ||
  vecAny (fun t => t.psq.any (fun e => e.tag == tag && e.parts.any (fun x => s.taggedPage c x.1.toNat))) (s.core c).threads
/-- The pending local LDX.wait on a tag that has been sealed go on as .now (R306). -/
def Thread.goesOn (t : Thread) (tag : BitVec 16) : Thread :=
  { t with pend := t.pend.map (fun p => match p.kind with
      | .ldx 1 ea u => if u == tag then { p with kind := .ldx 3 ea u } else p
      | _ => p) }

/-- The agent's head is one of these messages. -/
def State.agentRun (s : State) (c : Nat) (f : Msg → Option State) : State :=
  match s.agentMsg? c with
  | none => s
  | some m => (f m).getD s

/-- SEAL_MESSAGE (R302). -/
def execSealMessage (c : Nat) (s : State) : Out :=
  .next (s.agentRun c (fun m => match m.kind with
    | .seal tag =>
      if s.tagBusy c tag then some s
      else if (s.core c).tagState tag == .free then some (s.answerFault c m (det cCtxRetired 4) (tagInfo tag c 0))
      else
        let d := s.domain c
        let s1 := (s.setTag c tag .sealed).modCore c (fun k => { k with
          cells := k.cells.map (fun x => if x.domain == d && x.tag == tag then { x with isSealed := true } else x)
          threads := vecMap (fun t => t.goesOn tag) k.threads })
        some ((s1.wakeLdx c tag).answer c m 0 false)
    | _ => none))

/-- Pending local LDX.wait on a retired tag, which no seal has reached first, fail (R303). -/
def State.failLdx (s : State) (c : Nat) (tag : BitVec 16) : State :=
  (List.range 16).foldl (fun s sl =>
    (s.thr c sl).pend.foldl (fun s p => match p.kind with
      | .ldx 1 ea t => if t == tag then s.lateFault c sl p (det cCtxRetired 5) (tagInfo tag c (lineOf ea.toNat)) ea else s
      | _ => s) s) s

/-- RETIRE_MESSAGE (R303). -/
def execRetireMessage (c : Nat) (s : State) : Out :=
  .next (s.agentRun c (fun m => match m.kind with
    | .retire tag =>
      if s.tagBusy c tag then some s
      else
      let d := s.domain c
      let s1 := (s.setTag c tag .free).modCore c (fun k => { k with
        cells := k.cells.filter (fun x => !(x.domain == d && x.tag == tag))
        fullCount := if k.cells.any (fun x => x.domain == d && x.tag == tag) then 0 else k.fullCount })
      let s2 := (s1.failLdx c tag).failWaits c tag
      some ((s2.agentDone c).send (.retired tag) c 13 0 (s.originOf c) 0 0 tag)
    | _ => none))

/-- The masked bytes of a cell as a line write. -/
def Cell.lanes (x : Cell) : List (Option Byte) :=
  (List.range 64).map (fun i => if x.mask.getLsbD i then some (vbyte x.bytes i) else none)
/-- Write the bytes that are present. -/
def State.setLanes (s : State) (c : Nat) : Nat → List (Option Byte) → State
  | _, [] => s
  | off, none :: rest => s.setLanes c (off + 1) rest
  | off, some b :: rest => (s.setByte c off b).setLanes c (off + 1) rest

/-- One line write of a merge: only masked bytes, poison passed on (R304, 04 R78). -/
def State.mergeCell (s : State) (c : Nat) (x : Cell) : State :=
  if x.mask = 0 then s
  else
    let s1 := s.setLanes c x.line x.lanes
    let s2 := if x.mask = -1 then s1.clearCovered c x.line 64 else s1
    let s3 := if x.poison then s2.mark c x.line else s2
    (s3.hashed c x.line 0 x.lanes).wake c x.line 64

/-- The next written cell of a tag to be merged, in the order of directory numbers (R304). -/
def State.nextMerge (s : State) (c : Nat) (tag : BitVec 16) : Option Cell :=
  let d := s.domain c
  ((s.core c).cells.filter (fun x => x.domain == d && x.tag == tag && x.mask != 0 && (s.core c).agentPos ≤ x.k)).foldl (fun acc x =>
    match acc with | none => some x | some y => if x.k < y.k then some x else some y) none

/-- MERGE_MESSAGE (R304): the cells of the tag, one line write at a time; a critical vault refuses the next, and the lines merged stay (04
R76; 14 R278; log 91). -/
def execMergeMessage (c : Nat) (s : State) : Out :=
  .next (s.agentRun c (fun m => match m.kind with
    | .merge tag => match s.nextMerge c tag with
      | none => some (s.answer c m 0 false)
      | some x =>
        if s.hasBeat c .agent then some ((s.mergeCell c x).modCore c (fun k => { k with agentPos := x.k + 1 }))
        else if (s.core c).therm == 3 && !(s.core c).halfDone .agent then
          some (s.answerFault c m (det cVaultThermal 4) (tagInfo tag c x.line))
        else some (s.agentAsk c x.line 64 (x.mask != -1) true 0)
    | _ => none))

/-- A remote write has been refused at a home for want of a directory entry, and is being retried (R298). -/
def State.waitsEntry (s : State) (c : Nat) (m : Msg) : Bool :=
  m.home == c && 0 < m.retry && m.tag != 0 && !s.preempted m &&
    (match m.kind with
     | .rput n _ _ => s.atHome m n false true == .again
     | .ratom .. => s.atHome m 8 true true == .again
     | _ => false)

/-- CELL_STORE_FULL: the full-store counter has reached 2^20, and every remote write that waits for an entry at the home
fails (R298); a local store fails at its next attempt. -/
def execCellStoreFull (c : Nat) (s : State) : Out :=
  .next (if (s.core c).fullCount < 2 ^ 20 then s
    else
      (s.msgs.filter (s.waitsEntry c)).foldl (fun s m => (s.dropMsg m.id).reply m ((tagInfo m.tag c (s.homeLine m)).setWidth 512) false
        (some (det cCellStoreFull 1))) s)

/-! ### LDX (R305-R307) -/

/-- An LDX.wait is not satisfied yet: its tag is not sealed at the home (R306). -/
def State.ldxWaiting (s : State) (c form : Nat) (tag : BitVec 16) : Bool :=
  form == 1 && tag != 0 && (s.core c).tagState tag != .sealed
/-- The tag whose row an LDX reads: its own where its cell is sealed, else the base's (R297, R306). -/
def State.ldxTag (s : State) (c off : Nat) (tag : BitVec 16) : BitVec 16 :=
  match (if tag != 0 && s.taggedPage c off then (s.core c).cell? (s.domain c) (lineOf off) tag else none) with
  | some x => if x.isSealed then tag else 0
  | none => 0

/-- LDX at a local offset or a core-vault global address. -/
def ldx (form : Nat) (d a b : BitVec 6) (l : BitVec 4) (s : State) : Out :=
  s.issueStep { fRR d a b with la := some l, takes := true, gives := true, slots := 0xAFFF,
                               touch := fun xs => if isGlobal (arg xs 0) then [] else [(arg xs 0, 8)], rd := true }
    (fun s1 c sl xs =>
      let ga := arg xs 0
      let x := arg xs 1
      let tag : BitVec 16 := x.setWidth 16
      if !s1.tagged c then tagFault (det cCtxForm 1) x c
      else if s1.badTag c x true then tagFault (det cCtxForm 3) x c
      else if !isGlobal ga then
        match s1.checkAt c ga 8 true false with
        | some code => faultAt code ga
        | none =>
          if s1.ldxWaiting c form tag then .pend s1 (.ldx form ga tag) (s1.now c)
          else .pend (s1.toBank c sl ga 8 (s1.ldxTag c ga.toNat tag)) (.ldx (if form = 1 then 3 else form) ga tag) (s1.now c + latency ga.toNat)
      else match s1.badHome (s1.asidOf c) ga 8 with
        | some code => faultAt code ga
        | none =>
          if 1024 ≤ gaHome ga then .trap (det cCtxForm 5) (tagInfo tag c 0) ga
          else if ga.toNat % 8 ≠ 0 then faultAt (det cMisaligned 8) ga
          else if !s1.thisDev ga || !(s1.ridgeCores c).contains (gaHome ga) then
            let m : Msg := { id := 0, kind := .ldx form tag, core := c, slot := sl, pend := s1.fresh + 1, home := gaHome ga,
                             off := gaOff ga, va := ga, asid := s1.asidOf c, tag := tag, due := { num := 0, den := 1 }, refused := false }
            .pend (s1.reply m ((tagInfo tag (gaHome ga) (s1.homeLine m)).setWidth 512) false (some (det cCtxForm 6)))
              (.ldxRemote form ga tag) (s1.now c)
          else .pend (s1.sendFor (.ldx form tag) c sl (gaHome ga) (gaOff ga) ga tag) (.ldxRemote form ga tag) (s1.now c))

def execLdxNow (d a b : BitVec 6) (l : BitVec 4) (s : State) : Out := ldx 0 d a b l s
def execLdxWait (d a b : BitVec 6) (l : BitVec 4) (s : State) : Out := ldx 1 d a b l s
def execLdxProbe (d a b : BitVec 6) (l : BitVec 4) (s : State) : Out := ldx 2 d a b l s

/-- The message of a pending remote LDX runs at its home's agent (R306); a .wait that is not satisfied waits there without
holding the agent. -/
def State.runLdx (s : State) (home : Nat) (m : Msg) (form : Nat) (tag : BitVec 16) : State :=
  match s.homeAt m 8 true false with
  | .fault code => s.answerFault home m code m.va
  | .ok _ off =>
    if s.hasBeat home .agent then
      let (v, po) := s.ldxNow home 13 off form tag false
      s.answer home m (v.setWidth 512) po
    else if (s.core home).halfDone .agent then s
    else if (s.core home).therm = 3 then s.answerFault home m (det cVaultThermal 4) m.va
    else if s.ldxWaiting home form tag then
      (s.agentDone home).modCore home (fun k => { k with ldxWaits := k.ldxWaits ++ [m] })
    else if s.ownStore home m off 8 then s
    else s.agentAsk home off 8 true false (s.ldxTag home off tag)

/-- A pending local LDX: its word has come; or its read is still to be asked for, once its .wait is satisfied (R306). -/
def State.ldxGoes (s : State) (c sl : Nat) (p : Pend) (form : Nat) (ea : Word) (tag : BitVec 16) : State :=
  match p.gotOf 0 with
  | some g => s.finish c sl p [⟨BitVec.ofNat 512 g.1, g.2⟩]
  | none =>
    if s.ldxWaiting c form tag || (s.core c).queued (.pend sl p.id [0]) then s
    else if inVault ea.toNat then s.request c sl (.pend sl p.id [0]) ea.toNat 8 true false (s.ldxTag c ea.toNat tag)
    else (s.sense c ea.toNat 8).readLanes c sl p [0] 3

/-- The home whose agent has the message of an LDX at its head, with the message. -/
def State.ldxAt (s : State) (c sl id : Nat) : Option (Nat × Msg) :=
  s.cores.findSome? (fun x => match s.agentMsg? x.1 with
    | some m => if m.core == c && m.slot == sl && m.pend == id && m.dev == 0 then some (x.1, m) else none
    | none => none)
/-- LDX_COMPLETION: the message of a remote LDX runs at its home, one whose instruction a restart has abandoned too; a pending local LDX
goes on (R306; 18 R384). -/
def execLdxCompletion (c sl id : Nat) (s : State) : Out :=
  .next (match s.ldxAt c sl id with
    | some (home, m) => match m.kind with | .ldx form tag => s.runLdx home m form tag | _ => s
    | none => s.onPend c sl id (fun p => match p.kind with
      | .ldx form ea tag => s.ldxGoes c sl p form ea tag
      | _ => s))

/-! ### CTXSET (R308) and the frontier (R311-R314) -/

def execCtxset (a : BitVec 6) (s : State) : Out :=
  s.issueStep { srcs := [.g a], dsts := [], ordering := true, slots := userSlots } (fun s1 c sl xs =>
    let x := arg xs 0
    if !s1.tagged c then tagFault (det cCtxForm 1) x c
    else if s1.badTag c x true then tagFault (det cCtxForm 3) x c
    else .ret (s1.modThr c sl (fun t => { t with ctx := x.setWidth 16 })) [] none)

def execFrnset (d a : BitVec 6) (s : State) : Out :=
  s.issueStep { fR d a with ordering := true, takes := true, gives := true, slots := remoteSlots } (fun s1 c sl xs =>
    if !s1.writesDone c sl 7 then .park .memory
    else
      let old := (s1.core c).frn
      ret1 (s1.modCore c (fun k => { k with frn := if old.ult (arg xs 0) then arg xs 0 else old })) d old)
def execFrnget (d : BitVec 6) (s : State) : Out :=
  s.issueStep { srcs := [], dsts := [.g d], takes := true, slots := 0xBFFF } (fun s1 c _ _ => ret1 s1 d (s1.gfrnOf c))
def execFrngetWait (d a : BitVec 6) (s : State) : Out :=
  s.issueStep { fR d a with takes := true, slots := remoteSlots } (fun s1 c _ xs =>
    if (s1.gfrnOf c).ult (arg xs 0) then .park .message else ret1 s1 d (s1.gfrnOf c))

/-- The frontiers of an ASID's cores, resident or pre-empted (R311). -/
def State.frontiers (s : State) (asid : Nat) : List Word :=
  (s.ridges.filter (fun r => r.asid == asid && r.state != .ended)).flatMap (fun r =>
    if r.image.isEmpty then r.cores.map (fun c => (s.core c).frn) else r.image.map (·.core.frn))

/-- The smaller of the frontiers. -/
def minWord : List Word → Option Word
  | [] => none
  | x :: rest => match minWord rest with | some y => some (if x.ult y then x else y) | none => some x

/-- SADDLE_TREE_PUBLISH: at each multiple of 256 rc the last sample is published and a new one taken; gfrn never decreases
(R311). -/
def execSaddleTreePublish (s : State) : Out :=
  .next (if s.rtime % 256 = 0 ∧ s.saddleAt ≠ s.rtime then
      { s with saddleAt := s.rtime
               asids := s.asids.map (fun a => { a with gfrn := if a.gfrn.ult a.sample then a.sample else a.gfrn
                                                       sample := (minWord (s.frontiers a.id)).getD a.sample }) }
    else s)

/-! ### Completion of remote instructions (14 R277) -/

/-- The next stage of a tag instruction when all homes have acknowledged (R302-R304). -/
def State.ctxStep (s : State) (c sl : Nat) (p : Pend) (tag : BitVec 16) (left stage : Nat) : State :=
  let setKind (s : State) (k : PKind) : State := s.modThr c sl (fun t => { t with
    pend := replaceFirst (fun q => q.id == p.id) (fun q => { q with kind := k }) t.pend })
  if 1 < left then setKind s (.ctxop tag (left - 1) stage)
  else if stage = 1 then
    let homes := s.ridgeCores c
    setKind (s.sendAll (.merge tag) c sl p.id tag homes) (.ctxop tag homes.length 2)
  else if stage = 2 then
    setKind (s.send (.ctxretire tag true) c sl p.id (s.originOf c) 0 0 tag) (.ctxop tag 1 0)
  else s.finish c sl p []

/-- The value an RGET writes (R281). -/
def rgetValue (v : Vec) (n : Nat) (signed : Bool) : Vec :=
  if n = 64 then v else (loadValue (v.toNat % 2 ^ 64) n (!signed)).setWidth 512

/-- A reply without a fault completes its instruction. -/
def State.completed (s : State) (c sl : Nat) (p : Pend) (val : Vec) (poison : Bool) : State :=
  match p.kind with
  | .remote n signed => if n = 0 then s.finish c sl p [] else s.finish c sl p [⟨rgetValue val n signed, poison⟩]
  | .ratom => if poison then s.consumed c sl p else s.finish c sl p [⟨val, false⟩]
  | .send .. | .ctxalloc | .ldxRemote .. => s.finish c sl p [⟨val, poison⟩]
  | .ctxop tag left stage => s.ctxStep c sl p tag left stage
  | .spawn far member =>
    if far = c then (s.startMembers c (s.spawnSlots c member) (s.now c + 4)).finish c sl p [] else s.finish c sl p []
  | _ => s

/-- 512 bits from outside the machine: a value the spec does not give (20 R418; log 3). -/
def State.outside (s : State) : Vec × State :=
  (BitVec.ofNat 512 ((List.range 8).foldl (fun acc i => acc + (Config.freeWord (s.fresh + i)).toNat * 2 ^ (64 * i)) 0),
   { s with fresh := s.fresh + 8 })

/-- The Ethernet port that serves the message's queue pair is up (20 R425). -/
def State.hostUp (s : State) (m : Msg) : Bool :=
  (s.eth[portOfQp (match s.hostWin? m.asid m.va with | some w => w.qp | none => 0)]?).getD false

/-- The answer of a remote instruction that writes a register is accepted: the register is full in the next cycle (R281). -/
def State.answered (s : State) (c sl : Nat) (p : Pend) : State := s.modPend c sl p.id (fun q => { q with served := true, due := s.now c + 1 })

/-- An answer whose instruction a restart has abandoned (18 R384): poison and an uncorrectable block are still reported, and an
integrity violation still ends the ridge that asked (03 R58). -/
def State.lostAnswer (s : State) (m : Msg) (fault : Option (BitVec 16)) : State :=
  match fault with
  | none => s.recordBad m
  | some code =>
    if grade code = 6 && s.asidOf m.core == m.asid then
      (s.deliver m.core m.slot code m.va m.va (s.thr m.core m.slot).pc true 0).asFar s m
    else s

/-- REMOTE_COMPLETION: a reply or acknowledgement is accepted at the issuer, or the host has answered (R277, R278;
20 R418). -/
def execRemoteCompletion (id : Nat) (s : State) : Out :=
  .next (match s.arrived? id with
    | none => s
    | some m =>
      match m.kind with
      | .reply val poison fault =>
        if m.slot = 14 || m.dev != 0 then s
        else if 20 ≤ m.slot then s.jobAnswer m [] 8 fault.isSome
        else if m.slot = 17 then s.rdmaAnswer m (leBytes (val.toNat % 2 ^ 64) 8) (poison || fault.isSome)
        else match s.pend? m.core m.slot m.pend with
          | none => (s.takeAnswer m).lostAnswer m fault
          | some p =>
            if p.served && s.now m.core < p.due then s
            else if p.served then (s.dropMsg id).completed m.core m.slot p val poison
            else
              let s1 := (s.takeAnswer m).recordBad (if fault.isSome then { m with bad := [] } else m)
              match fault with
              | some code => (s1.lateFault m.core m.slot p code (val.setWidth 64) m.va).asFar s1 m
              | none =>
                if p.dst.isEmpty || (poison && p.kind == .ratom) then s1.completed m.core m.slot p val poison
                else { s1.answered m.core m.slot p with msgs := s.msgs }
      | _ =>
        if s.offDevice m && gaDev m.va == 2047 && m.slot != 14 then
          let s1 := s.dropMsg id
          if !s.hostUp m || Config.hostNak s1.fresh then { s1 with fresh := s1.fresh + 1 }.reply m (m.va.setWidth 512) false (some (det cLeaseMiss 0xA))
          else let (v, s2) := { s1 with fresh := s1.fresh + 1 }.outside; s2.reply m v false none
        else s)

end Sys2Proof.Machine
end

