-- ==== Sys2Proof/Machine/Copy.lean ====
section
/-! DEFINITION. The movement thread: starting copy requests, their beats and messages, performing their writes, their
completion and their failures (05 R96-R105, R441). -/

namespace Sys2Proof.Machine
open Sys2Proof

/-! ### The pieces of a request -/

/-- Word i of the request. -/
def CopyReq.w (r : CopyReq) (i : Nat) : Word := (r.words[i]?).getD 0
/-- Register fill (R93). -/
def CopyReq.fill (r : CopyReq) : Bool := lfReg (r.w 2)
/-- Bytes of a row: the length. -/
def CopyReq.len (r : CopyReq) : Nat := lfLen (r.w 2)
/-- Bytes of the request: every row has the length. -/
def CopyReq.total (r : CopyReq) : Nat := (if lfMode (r.w 2) = 0 then 1 else lfRows (r.w 2)) * r.len
/-- Every beat or message has issued: the request is no longer active (R441).  The writes of a reply are beats too. -/
def CopyReq.allIssued (r : CopyReq) : Bool :=
  r.total ≤ r.issued && r.gath.isEmpty && r.landing.isEmpty && (r.fill || !isGlobal (r.w 0) || r.outstanding == 0)
/-- Source and destination of row i (R94). -/
def CopyReq.row (r : CopyReq) (i : Nat) : Word × Word :=
  match (reqRows r.words)[i]? with | some (a, b, _) => (a, b) | none => (0, 0)

/-- A global address that names the core's own vault counts as its local offset in the comparison of ranges (R99). -/
def State.asLocal (s : State) (c : Nat) (a : Word) : Option Nat :=
  if !isGlobal a then some a.toNat
  else if s.thisDev a && gaHome a == c then some (gaOff a) else none
/-- A row whose destination lies above its source and overlaps it goes in decreasing address order (R99). -/
def State.decreasing (s : State) (c : Nat) (src dst : Word) (len : Nat) (fill : Bool) : Bool :=
  match s.asLocal c src, s.asLocal c dst with
  | some a, some b => !fill && a < b && b < a + len
  | _, _ => false

/-- The address whose boundaries cut the pieces, and the distance of the boundaries: a vault side's 128-byte beats, the
scratchpad's words, a message's 2 KiB, a far group's 1 KiB, a host request's 4 KiB (R96; 04 R68; log 34). -/
def cutOf (src dst : Word) (fill : Bool) : Word × Nat :=
  let far (a : Word) : Nat := if gaDev a = 2047 then 4096 else if 1024 ≤ gaHome a then 1024 else 2048
  if isGlobal src then (src, far src)
  else if !fill && isGlobal dst then (dst, far dst)
  else if inVault src.toNat then (src, 128)
  else if !fill && inVault dst.toNat then (dst, 128)
  else (src, 64)

/-- The next piece of a run of rem bytes at offset done of its row: offset in the row and bytes (R96, R99). -/
def nextPiece (cut : Nat) (unit len done : Nat) (down : Bool) : Nat × Nat :=
  let rem := len - done
  if down then
    let last := cut + rem - 1
    let start := last - last % unit
    if start ≤ cut then (0, rem) else (start - cut, rem - (start - cut))
  else (done, min rem (unit - (cut + done) % unit))

/-- The next piece of a request: source, destination, bytes. -/
def State.piece (s : State) (c : Nat) (r : CopyReq) : Word × Word × Nat :=
  let (src, dst) := r.row (r.issued / r.len)
  let (cut, unit) := cutOf src dst r.fill
  let (off, n) := nextPiece cut.toNat unit r.len (r.issued % r.len) (s.decreasing c src dst r.len r.fill)
  (src + BitVec.ofNat 64 off, dst + (if r.fill then 0 else BitVec.ofNat 64 off), n)
/-- Bytes that one beat moves at an address, of those that are left: up to the end of an aligned 128 bytes of the vault or of a word
of the scratchpad (04 R64; 06 R109). -/
def beatBytes (a left : Nat) : Nat :=
  let u := if inVault a then 128 else 64
  min left (u - a % u)

/-! ### Reading and writing -/

/-- Bytes of a core as the movement thread reads them, with tag 0, each with its poison (15 R296; 04 R78). -/
def State.copyBytes (s : State) (c off n : Nat) : List (Byte × Bool) :=
  let b := s.before c
  (List.range n).map (fun i => (b.byte c (off + i), b.poisoned c (off + i) 1))
/-- Write delivered bytes at a core with tag 0; poison goes with them (R102, 04 R78). -/
def State.deliverBytes (s : State) (c off : Nat) (data : List (Byte × Bool)) (actor : Nat := c) : State :=
  (s.senseParts c off data.length actor).store c off (data.map (·.1)) 0 actor (data.map (·.2))

/-- Change a request. -/
def State.modCopy (s : State) (c id : Nat) (f : CopyReq → CopyReq) : State :=
  s.modCore c (fun k => { k with copies := replaceFirst (fun (r : CopyReq) => r.id == id) f k.copies })
/-- A request by its name. -/
def State.copy? (s : State) (c id : Nat) : Option CopyReq := (s.core c).copies.find? (fun r => r.id == id)
/-- A request leaves the movement thread, with what it asks of the banks. -/
def State.dropCopy (s : State) (c id : Nat) : State :=
  s.modCore c (fun k => { (k.unqueue (.copy id)).unqueue (.post id) with copies := k.copies.filter (fun r => r.id != id) })

/-- A copy write of n bytes has been performed: a kind 2 completion decrements its barrier (R100). -/
def State.wrote (s : State) (c : Nat) (r : CopyReq) (n : Nat) : State :=
  let s1 := s.modCopy c r.id (fun r => { r with performed := r.performed + n })
  if cmpKind (r.w 3) = 2 ∧ r.fill = false then s1.addBytes c (cmpTarget (r.w 3)) (0 - BitVec.ofNat 64 n) else s1

/-- A failure after commit: the supervisor slot records it and acts on its grade; the request never posts (R102). -/
def State.failCopy (s : State) (c id : Nat) (code : BitVec 16) (addr : Word) : State :=
  let s1 := s.dropCopy c id
  (s1.record c 12 code addr true false 0).actByGrade c 12 code

/-- Fill gk of the pushing thread: zero-extended, poison marked; only a register still pending is filled (R93).  In a pair the value goes
to the trailing slot's committing push too (18 R386). -/
def State.fillReg (s : State) (c : Nat) (r : CopyReq) (data : List (Byte × Bool)) : State :=
  let k := (r.w 1).toNat
  let v : Val := ⟨BitVec.ofNat 512 (leNat (data.map (·.1))), data.any (·.2)⟩
  let s1 := s.supply c r.slot r.id [v]
  if (((s.thr c r.slot).g[k]?).getD (Reg.zero 64)).fe == .pending then s1.fill c r.slot (.g (BitVec.ofNat 6 k)) v else s1

/-- Delivered bytes reach their local destination, a register or memory. -/
def State.land (s : State) (c : Nat) (r : CopyReq) (dst : Word) (data : List (Byte × Bool)) : State :=
  if r.fill then (s.fillReg c r data).wrote c r data.length
  else (s.deliverBytes c dst.toNat data (r.actor.getD c)).wrote c r data.length

/-! ### COPY_REQUEST_START -/

/-- Requests that are started and still issue. -/
def Core.activeCopies (k : Core) : List CopyReq := k.copies.filter (fun r => r.active && !r.allIssued)

/-- The vault windows of the core's resumed instance are still being copied: no request of it is committed again yet, and nothing that was
pending is armed (18 R395). -/
def State.windowsMove (s : State) (c : Nat) : Bool :=
  match s.ridge? c with
  | some r => r.state == .resuming && s.jobs.any (fun j => j.obj == r.id && j.fn == .resume)
  | none => false
/-- COPY_REQUEST_START: the oldest waiting request starts when fewer than four are active and its release is over; its entry is freed (R97,
R101, R441).  None starts while the power controller has slot 14 out of the rotation (17 R358). -/
def execCopyRequestStart (c : Nat) (s : State) : Out :=
  .next (match (s.core c).copies.find? (fun r => !r.active) with
    | some r =>
      if (s.core c).activeCopies.length < 4 && r.due ≤ s.now c && s.waitsOver c r.slot r.waits && !(s.thr c 14).removed && !s.windowsMove c then
        s.modCopy c r.id (fun r => { r with active := true, due := s.now c })
      else s
    | none => s)

/-! ### COPY_BEAT -/

/-- The first piece of a row waits while writes of earlier rows that its source overlaps are still under way (R99). -/
def State.rowWaits (s : State) (c : Nat) (r : CopyReq) : Bool :=
  let i := r.issued / r.len
  r.outstanding != 0 && r.issued % r.len == 0 && (match s.asLocal c (r.row i).1 with
    | some a => (List.range i).any (fun j => match s.asLocal c (r.row j).2 with | some b => overlap a r.len b r.len | none => false)
    | none => false)

/-- The grace of the core's instance expires within the core's cycle under way, which ends before the router cycle in which the phase passes
that of the next one: nothing new begins in it (R104; 18 R390; 26 R443; log 123). -/
def State.graceOver (s : State) (c : Nat) : Bool :=
  match s.ridge? c with
  | some r => r.state == .grace && (s.core c).phase + (s.core c).freq * (r.graceEnd - s.rtime) < Config.routerMhz
  | none => false
/-- The core's ridge no longer issues: pre-emption stops new beats and messages; for a gather or scatter, every row
already begun goes on (R104). -/
def State.quiesced (s : State) (c : Nat) (r : CopyReq) : Bool :=
  match s.ridge? c with
  | some x => (x.state == .saving || x.state == .saved || s.graceOver c) && (lfMode (r.w 2) == 0 || (r.issued % r.len == 0 && r.gath.isEmpty))
  | none => true

/-- What a request does next: nothing, a beat of the vault, or a move or message that needs none. -/
inductive CopyStep where
  | wait
  | beat (off n : Nat) (wr : Bool)
  | move
  deriving DecidableEq, Repr

/-- The next step of a started request: bytes that have come are written before more are read.  A piece between the scratchpad and
the vault takes one vault beat; one between two vault places is read by a beat and then written (R96, R99; log 34).  Nothing goes
towards a link that holds its channels back (20 R445). -/
def State.copyStep (s : State) (c : Nat) (r : CopyReq) : CopyStep :=
  match r.landing with
  | (dst, data) :: _ => if r.fill || !inVault dst.toNat then .move else .beat dst.toNat (beatBytes dst.toNat data.length) true
  | [] =>
    if r.total ≤ r.issued || s.quiesced c r || s.rowWaits c r then .wait
    else
      let (src, dst, n) := s.piece c r
      let a := src.toNat + r.gath.length
      if s.heldBack src || (!r.fill && s.heldBack dst) then .wait
      else if isGlobal src then
        if s.hostFull c src then .wait else .move
      else if inVault a then .beat a (beatBytes a (n - r.gath.length)) false
      else if !r.fill && !isGlobal dst && inVault dst.toNat then .beat dst.toNat n true
      else .move

/-- Every started request asks for the row of its next vault beat; in a critical vault it fails instead (R102; 04 R69, R76). -/
def State.askCopies (s : State) (c : Nat) : State :=
  ((s.core c).copies.filter (·.active)).foldl (fun s r =>
    let s1 := fun (b : Bool) => s.modCopy c r.id (fun r => { r with ready := b })
    match s.copyStep c r with
    | .beat off n wr =>
      if (s.core c).therm = 3 then s.failCopy c r.id (det cVaultThermal 5) (BitVec.ofNat 64 off)
      else (s1 false).wantRow c 14 (.copy r.id) off n (!wr) wr 0 (s.now c) r.due
    | .move => (s1 true).modCore c (fun k => k.unqueue (.copy r.id))
    | .wait => (s1 false).modCore c (fun k => k.unqueue (.copy r.id))) s

/-- The bytes read for a piece are complete: they go to a home in a message, or to their local destination; the write of a vault
piece to the vault takes beats of its own. -/
def State.pieceRead (s : State) (c : Nat) (r : CopyReq) (src dst : Word) (data : List (Byte × Bool)) : State :=
  let s1 := s.modCopy c r.id (fun r => { r with issued := r.issued + data.length, gath := [] })
  if !r.fill && isGlobal dst then
    ((s1.modCopy c r.id (fun r => { r with outstanding := r.outstanding + 1 })).send (.copyWrite data) c 14 r.id
      (gaHome dst) (gaOff dst) dst 0).asParty r.actor
  else if !r.fill && inVault src.toNat && inVault dst.toNat then s1.modCopy c r.id (fun r => { r with landing := [(dst, data)] })
  else s1.land c r dst data

/-- One beat or message of a request: bytes that have come are written, a home is asked for bytes, or bytes of the source are
read. -/
def State.copyPiece (s : State) (c : Nat) (r : CopyReq) : State :=
  match r.landing with
  | (dst, data) :: rest =>
    let n := if r.fill then data.length else beatBytes dst.toNat data.length
    let more := if n < data.length then (dst + BitVec.ofNat 64 n, data.drop n) :: rest else rest
    (s.modCopy c r.id (fun r => { r with landing := more })).land c r dst (data.take n)
  | [] =>
    let (src, dst, n) := s.piece c r
    if isGlobal src then
      ((s.modCopy c r.id (fun r => { r with issued := r.issued + n, outstanding := r.outstanding + 1 })).send (.copyRead n dst) c 14
        r.id (gaHome src) (gaOff src) src 0).asParty r.actor
    else
      let a := src.toNat + r.gath.length
      let left := n - r.gath.length
      let k := if !inVault a && !r.fill && !isGlobal dst && inVault dst.toNat then left else beatBytes a left
      let s1 := s.sense c a k (r.actor.getD c)
      let data := r.gath ++ s1.copyBytes c a k
      if k < left then s1.modCopy c r.id (fun r => { r with gath := data }) else s1.pieceRead c r src dst data

/-- The request whose turn this cycle is: the one whose beat the bus carries, or the one to which the movement thread gives the cycle
and which needs no vault beat (R69; R441). -/
def Core.copyGoes (k : Core) : Option Nat :=
  match k.granted with
  | some (.copy i) => some i
  | _ => if k.cycle < k.copyNext then none
    else k.copyOffer.bind (fun i => if k.copies.any (fun r => r.id == i && r.ready) then some i else none)

/-- COPY_BEAT: the movement thread issues the next beat or message of its active requests, one each cycle (R97, R441). -/
def execCopyBeat (c : Nat) (s : State) : Out :=
  .next (match (s.core c).copyGoes.bind (s.copy? c) with
    | some r => (s.modCore c (fun k => { k with copyTurn := r.id, copyNext := k.cycle + 1, granted := none })).copyPiece c r
    | none => s)

/-! ### Messages at the home (R96; 14 R291) -/

/-- What a transfer at a home meets: a fault, or the offset in the vault (R102; 04 R76; 14 R274). -/
def State.copyAt (s : State) (m : Msg) (n : Nat) (rd wr : Bool) : Tr :=
  match s.homeAt m n rd wr with
  | .fault code => .fault code
  | .ok h off =>
    if (s.core m.home).therm = 3 then .fault (det cVaultThermal 5)
    else if Config.vaultBytes < off + n then .fault (det cLeaseMiss 8)
    else .ok h off

/-- The running transfer asks for the row of its next beat: it starts in the cycle after its acceptance, and its first access reaches
the bank in the next (14 R275). -/
def State.agentRow (s : State) (c off n : Nat) (wr : Bool) : State :=
  let k := s.core c
  if k.agentFree < k.cycle then s.wantRow c 13 .agentRun off n (!wr) wr 0 k.cycle k.agentFree else s

/-- HOME_COPY_TRANSFER: the agent writes a transfer message, a beat at a time, and acknowledges it. -/
def execHomeCopyTransfer (c : Nat) (s : State) : Out :=
  .next (s.runAgent c (fun m => match m.kind with
    | .copyWrite data => some (match s.copyAt m data.length false true with
        | .fault code => (s.agentDone c).sendBack m (.copyDone 0 [] data.length (some code))
        | .ok _ off =>
          let pos := (s.core c).agentPos
          let n := beatBytes (off + pos) (data.length - pos)
          if !s.hasBeat c .agentRun then s.agentRow c (off + pos) n true
          else
            let s1 := (s.deliverBytes c (off + pos) ((data.drop pos).take n) m.actor).modCore c (fun k =>
              { k with granted := none, agentPos := pos + n })
            if pos + n < data.length then s1 else (s1.agentDone c).sendBack m (.copyDone 0 [] data.length none))
    | _ => none))

/-- A line of a moving page has been read in the order of its old home's agent: it goes to the new home, and what comes for it from
now on follows it there (14 R291, R292). -/
def State.sendLine (s : State) (m : Msg) (data : List (Byte × Bool)) : State :=
  match s.migrations.find? (fun g => g.id == m.pend) with
  | none => s
  | some g =>
    let s1 := { s with migrations := replaceFirst (fun g => g.id == m.pend) (fun g => { g with copied := g.copied + 1 }) s.migrations }
    (s1.trace m.home 0xFF 7 0 (s1.tracedAddr g.newHome (g.newOff + 64 * g.copied) 0 ++ [BitVec.ofNat 8 ((MsgKind.copyWrite data).channel g.newHome)])).inject
      (.copyWrite data) m.home 19 m.pend g.newHome (g.newOff + 64 * g.copied) 0 m.asid 0

/-- A line of a moving page is left where it is: the copy goes on with the next line (03 R57; log 92). -/
def State.skipLine (s : State) (m : Msg) : State :=
  { s with migrations := replaceFirst (fun g => g.id == m.pend) (fun g => { g with copied := g.copied + 1, busy := false }) s.migrations }

/-- HOME_COPY_READ: the agent reads for a read message, a beat at a time, and replies. -/
def execHomeCopyRead (c : Nat) (s : State) : Out :=
  .next (s.runAgent c (fun m => match m.kind with
    | .copyRead n dst => some (match s.copyAt m n true false with
        | .fault code => (s.agentDone c).sendBack m (.copyDone dst [] n (some code))
        | .ok _ off =>
          let got := (s.core c).agentGot
          let k := beatBytes (off + got.length) (n - got.length)
          if !s.hasBeat c .agentRun then s.agentRow c (off + got.length) k false
          else
            let s1 := s.sense c (off + got.length) k m.actor
            let all := got ++ s1.copyBytes c (off + got.length) k
            if all.length < n then s1.modCore c (fun k => { k with granted := none, agentGot := all })
            else if m.slot = 19 then (s1.agentDone c).sendLine m all
            else (s1.agentDone c).sendBack m (.copyDone dst all n none))
    | _ => none))

/-! ### COPY_WRITE_PERFORMED and COPY_COMPLETION -/

/-- n bytes from outside the machine (20 R418; log 3). -/
def State.outsideBytes (s : State) (n : Nat) : List (Byte × Bool) × State :=
  ((List.range n).map (fun i => ((Config.freeWord (s.fresh + i)).setWidth 8, false)), { s with fresh := s.fresh + n })

/-- The host answers a message of a copy: a NAK, the bytes of a READ, or the acknowledgement of a WRITE (20 R418). -/
def State.hostCopy (s : State) (m : Msg) : State :=
  let s1 := { s with fresh := s.fresh + 1 }
  let nak := if !s.hostUp m || Config.hostNak s.fresh then some (det cLeaseMiss 0xA) else none
  match m.kind with
  | .copyRead n dst => let (data, s2) := s1.outsideBytes n; s2.sendBack m (.copyDone dst data n nak)
  | .copyWrite data => s1.sendBack m (.copyDone 0 [] data.length nak)
  | _ => s

/-- The answer to a message of a request has been accepted: a failure, the acknowledgement of a write, or bytes that the movement
thread writes next (R96, R100, R102); bytes for a register fill it. -/
def State.copyAnswer (s : State) (m : Msg) (r : CopyReq) (dst : Word) (data : List (Byte × Bool)) (n : Nat)
    (fault : Option (BitVec 16)) : State :=
  let s1 := s.modCopy m.core r.id (fun r => { r with outstanding := r.outstanding - 1 })
  match fault with
  | some code => (s1.failCopy m.core r.id code m.va).asFar s1 m
  | none =>
    if data.isEmpty then s1.wrote m.core r n
    else if r.fill then (s1.recordBad m).land m.core r dst data
    else (s1.recordBad m).modCopy m.core r.id (fun r => { r with landing := r.landing ++ [(dst, data)] })

/-- The answer to a request that has failed already: uncorrectable blocks are still recorded, and an integrity violation still ends the
ridge that asked (03 R58). -/
def State.lostCopyAnswer (s : State) (m : Msg) (fault : Option (BitVec 16)) : State :=
  match fault with
  | none => s.recordBad m
  | some code =>
    if grade code = 6 && s.asidOf m.core == m.asid then
      ((s.record m.core 12 code m.va true false 0).actByGrade m.core 12 code).asFar s m
    else s

/-- A line copy of a moving page is over: the next may go.  A line that its new home could not take is copied again (14 R291; 03 R63). -/
def State.lineDone (s : State) (m : Msg) (failed : Bool) : State :=
  let ended (g : Migration) : Migration :=
    { g with busy := false, copied := if failed && m.off == g.newHome then g.copied - 1 else g.copied }
  { s.dropMsg m.id with migrations := replaceFirst (fun g => g.id == m.pend) ended s.migrations }

/-- COPY_WRITE_PERFORMED: an answer to a transfer or read message has come to the movement thread, to the Ethernet port that sent an
RDMA request, or to the home that sent a line of a moving page; or the host answers (R96, R100, R102; 14 R291). -/
def execCopyWritePerformed (id : Nat) (s : State) : Out :=
  .next (match s.arrived? id with
    | none => s
    | some m =>
      match m.kind with
      | .copyDone dst data n fault =>
        if m.slot = 16 || m.dev != 0 then s
        else if 20 ≤ m.slot then s.jobAnswer m data n fault.isSome
        else if m.slot = 17 then s.rdmaAnswer m (data.map (·.1)) (fault.isSome || data.any (·.2))
        else if m.slot = 19 then
          s.lineDone m fault.isSome
        else match s.copy? m.core m.pend with
        | none => (s.takeAnswer m).lostCopyAnswer m fault
        | some r => (s.takeAnswer m).copyAnswer m r dst data n fault
      | .copyRead .. | .copyWrite .. => if s.offDevice m && gaDev m.va == 2047 then (s.dropMsg id).hostCopy m else s
      | _ => s)

/-- A counter add of a completion (R92, R100): in the scratchpad it is performed now; in the vault it goes to its bank under the
completion's name, and is performed at its beat.  Answers whether it has been performed. -/
def State.counterAdd (s : State) (c sl id : Nat) (cw : Word) (bytes : Nat) : State × Bool :=
  let a := cmpTarget cw
  if inVault a && !s.hasBeat c (.post id) then
    (if (s.core c).queued (.post id) then s else s.request c sl (.post id) a 8 true true 0, false)
  else
    let s1 := if inVault a then s.modCore c (fun k => { k with granted := none }) else s.sense c a 8
    (s1.store c a (leBytes (s1.readW c a 8 + (if cmpAmount cw = 0 then 1 else BitVec.ofNat 64 bytes)).toNat 8) 0 ((s.core c).actorOf c (.post id)), true)

/-- COPY_COMPLETION: every destination write has been performed; the counter add, or for a register fill the whole decrement, posts,
and the request is gone (R93, R100). -/
def execCopyCompletion (c id : Nat) (s : State) : Out :=
  .next (match s.copy? c id with
    | some r =>
      let a := cmpTarget (r.w 3)
      if !r.active || !r.allIssued || r.performed < r.total then s
      else if cmpKind (r.w 3) = 1 then
        if inVault a && (s.core c).therm == 3 && !s.hasBeat c (.post id) && !(s.core c).halfDone (.post id) then
          s.failCopy c id (det cVaultThermal 5) (BitVec.ofNat 64 a)
        else
          let x := s.counterAdd c 14 id (r.w 3) (r.before + r.total)
          if x.2 then x.1.dropCopy c id else x.1
      else if cmpKind (r.w 3) = 2 && r.fill then (s.dropCopy c id).addBytes c a (0 - BitVec.ofNat 64 (r.before + r.total))
      else s.dropCopy c id
    | none => s)

end Sys2Proof.Machine
end

