-- ==== Sys2Proof/Machine/Queues.lean ====
section
/-! DEFINITION. The queue windows as events of their own: ports, work list, transform queue, vmq and cq (07 R145, R153,
R437; 10 R208; 05 R88).  An instruction that names a window performs the same operation as it issues. -/

namespace Sys2Proof.Machine
open Sys2Proof

/-- A precise fault of a push or a pop of a live thread; a slot that runs no thread takes none. -/
def State.queueTrap (s : State) (c sl : Nat) (code : BitVec 16) (addr : Word) : State :=
  if (s.thr c sl).life = .live then s.trapped c sl code addr addr else s
/-- A push as an event: where it would park, nothing happens (log 5). -/
def pushed (s : State) (c sl : Nat) (p : Put) : Out :=
  .next (match p with | .ok t => t | .trap code addr => s.queueTrap c sl code addr | .park _ => s)
/-- A pop as an event. -/
def popped (s : State) (c sl : Nat) (g : Got) : Out :=
  .next (match g with | .ok t _ => t | .trap code => s.queueTrap c sl code 0 | .park _ => s)

/-- PORT_PUSH: one entry leaves on port 0-4 (scalar) or 5-9 (vector) with a credit (07 R145). -/
def execPortPush (c sl port : Nat) (v : BitVec 512) (s : State) : Out := pushed s c sl (s.pushPort c sl port ⟨v, false⟩)
/-- PORT_POP: the oldest entry leaves the receive queue; its credit goes back (07 R145). -/
def execPortPop (c sl port : Nat) (s : State) : Out := popped s c sl (s.popPort c sl port)
/-- WL_PUSH (07 R153). -/
def execWlPush (c sl : Nat) (v : BitVec 64) (s : State) : Out := pushed s c sl (s.pushWl c sl v)
/-- WL_POP (07 R153). -/
def execWlPop (c sl : Nat) (s : State) : Out := popped s c sl (s.readOp c sl (.g 61))
/-- TQ_PUSH (07 R153). -/
def execTqPush (c sl : Nat) (v : BitVec 64) (s : State) : Out := pushed s c sl (s.pushTq c sl v)
/-- TQ_POP: slot 15 takes the oldest entry, and sleeps while there is none (07 R153, 13 R254). -/
def execTqPop (c : Nat) (s : State) : Out :=
  .next (match s.readOp c 15 (.g 62) with
    | .ok t _ => t
    | .park .sleep => s.modThr c 15 (fun t => match t.life with | .live => { t with life := .asleep } | _ => t)
    | _ => s)
/-- VMQ_POP (10 R208). -/
def execVmqPop (c sl : Nat) (s : State) : Out := popped s c sl (s.readOp c sl (.v 62))
/-- CQ_PUSH: a word is staged, or commits its request; a refused request traps and empties the staging buffer (05 R88,
R89). -/
def execCqPush (c sl : Nat) (v : BitVec 64) (s : State) : Out :=
  match s.pushCq c sl v with
  | .trap code addr => .next ((s.modThr c sl (fun t => { t with staging := [] })).queueTrap c sl code addr)
  | p => pushed s c sl p

/-- A flight lands in this cycle of its core: on a lateral port in the cycle before the one from which it is seen, else as the two cycles
of its acceptance end (07 R145, R148, R437). -/
def State.lands (s : State) (f : Flight) : Bool :=
  if f.lateral then f.due.num ≤ s.now f.core + 1 else (s.core f.core).accepts s.rtime f.due
/-- A flight that has landed, behind those before it on its lane. -/
def State.landed? (s : State) (id : Nat) : Option Flight :=
  s.flights.find? (fun f => f.id == id && s.lands f &&
    (s.flights.takeWhile (fun x => x.id != id)).all (fun x => !(x.core == f.core && x.slot == f.slot && x.port == f.port && x.src == f.src)))
/-- Remove a flight. -/
def State.dropFlight (s : State) (id : Nat) : State := { s with flights := s.flights.filter (fun f => f.id != id) }

/-- What a landed entry or credit does at its port: an issue sees it from the next cycle on. -/
def State.landFlight (s : State) (f : Flight) : State :=
  let change (g : Port → Port) : State := s.modThr f.core f.slot (fun t => t.setPort f.port (g (t.port f.port)))
  match f.load with
  | .entry v po => change (fun q => { q with queue := q.queue ++ [(v, po, s.now f.core + 1)] })
  | .credit => change (fun q => { q with credits := q.credits + 1 })
  | _ => s

/-- PORT_ENTRY_ARRIVAL: an entry reaches its receive queue (07 R145, R437). -/
def execPortEntryArrival (id : Nat) (s : State) : Out :=
  .next (match s.landed? id with
    | some f => match f.load with | .entry _ _ => (s.dropFlight id).landFlight f | _ => s
    | none => s)
/-- PORT_CREDIT_RETURN: a credit reaches the sender (07 R145, R437). -/
def execPortCreditReturn (id : Nat) (s : State) : Out :=
  .next (match s.landed? id with
    | some f => match f.load with | .credit => (s.dropFlight id).landFlight f | _ => s
    | none => s)

end Sys2Proof.Machine
end

