-- ==== Sys2Proof/Machine/Tiles.lean ====
section
/-! DEFINITION. Rings, tensor descriptors, tile loads and stores (06 R114-R130). -/

namespace Sys2Proof.Machine
open Sys2Proof

/-! ### Descriptors and shapes (R120, R121) -/

/-- Bytes of an element format. -/
def fmtBytes (f : Nat) : Nat := match f with | 0 | 1 => 1 | 2 | 3 => 2 | _ => 4
def Desc.fmt (d : Desc) : Nat := bitsN d.form 3 0
def Desc.sc (d : Desc) : Bool := d.form.getLsbD 4
def Desc.padWord (d : Desc) : Word := d.form >>> 32
def Desc.dim0 (d : Desc) : Nat := bitsN d.dims 31 0
def Desc.dim1 (d : Desc) : Nat := bitsN d.dims 63 32
def Desc.stride0 (d : Desc) : Nat := bitsN d.strides 31 0
def Desc.stride1 (d : Desc) : Nat := bitsN d.strides 63 32

/-- The signed halves of a word. -/
def loInt (w : Word) : Int := (w.setWidth 32).toInt
def hiInt (w : Word) : Int := (w.extractLsb' 32 32).toInt

/-- Rows and columns of a shape with elements of esz bytes. -/
def tileRows (shapeB : Bool) (esz : Nat) : Nat := if shapeB then 64 / esz else 32
def tileCols (shapeB : Bool) (esz : Nat) : Nat := if shapeB then 64 else 64 / esz
/-- Bytes of a tile. -/
def tileBytes (shapeB : Bool) (esz : Nat) : Nat := tileRows shapeB esz * tileCols shapeB esz * esz

/-- Element (y, x) lies inside the tensor. -/
def Desc.inside (d : Desc) (y x : Int) : Bool := 0 ≤ y && y < d.dim1 && 0 ≤ x && x < d.dim0
/-- The address of an element inside the tensor, modulo 2^64. -/
def Desc.addr (d : Desc) (y x : Int) : Nat := (d.base.toNat + y.toNat * d.stride1 + x.toNat * d.stride0) % 2 ^ 64

/-- The elements of tile row ti inside the tensor: (address, slot offset, bytes) in order. -/
def Desc.row (d : Desc) (esz cols : Nat) (i j : Int) (ti : Nat) : List (Nat × Nat × Nat) :=
  (List.range cols).filterMap (fun (tj : Nat) =>
    if d.inside (i + ti) (j + tj) then some (d.addr (i + ti) (j + tj), (ti * cols + tj) * esz, esz) else none)
/-- All elements inside the tensor, by tile row. -/
def Desc.rows (d : Desc) (esz rows cols : Nat) (i j : Int) : List (List (Nat × Nat × Nat)) :=
  (List.range rows).map (d.row esz cols i j)
/-- The slot offsets of the elements outside the tensor. -/
def Desc.pads (d : Desc) (esz rows cols : Nat) (i j : Int) : List Nat :=
  (List.range rows).flatMap (fun (ti : Nat) => (List.range cols).filterMap (fun (tj : Nat) =>
    if d.inside (i + ti) (j + tj) then none else some ((ti * cols + tj) * esz : Nat)))

/-- Cut one tile row into its pieces: what one beat covers (R124). -/
def cutRow (unit : Nat → Nat) : List (Nat × Nat × Nat) → List Piece
  | [] => []
  | e :: rest => match cutRow unit rest with
    | p :: ps =>
      match p.moves with
      | f :: _ => if unit e.1 = unit f.1 then ⟨e :: p.moves⟩ :: ps else ⟨[e]⟩ :: p :: ps
      | [] => ⟨[e]⟩ :: ps
    | [] => [⟨[e]⟩]

/-! ### Checks (R123) -/

/-- Checks 1 and 2 of R123: the ring's number and its configuration. -/
def State.ringCheck (s : State) (c ring : Nat) : Option (BitVec 16) :=
  if (match s.header? c with | some h => h.rings | none => 0) ≤ ring then some (det cRingRange ring)
  else if ((s.core c).ring ring).count = 0 then some (det cRingForm 1)
  else none

/-- Check 5: the completion word. -/
def State.compCheck (s : State) (c : Nat) (w : Word) : Option (BitVec 16) :=
  if cmpReserved w then some (det cCopyForm 1) else s.cmpTargetBad c w

/-- Checks 6 and 7 over the elements inside the tensor. -/
def State.elemCheck (s : State) (c : Nat) (d : Desc) (esz : Nat) (rd wr : Bool) (es : List (Nat × Nat × Nat)) :
    Option (BitVec 16 × Word) :=
  if es.isEmpty then none
  else if d.base.toNat % esz ≠ 0 ∨ d.stride0 % esz ≠ 0 ∨ d.stride1 % esz ≠ 0 then some (det cMisaligned esz, d.base)
  else firstSome (es.map (fun e => (s.checkAt c (BitVec.ofNat 64 e.1) e.2.2 rd wr).map (fun code => (code, BitVec.ofNat 64 e.1))))

/-- The scale's address (R124). -/
def scaleAddr (d : Desc) (sclp : Word) (i j : Int) (rows cols : Nat) : Word :=
  sclp + BitVec.ofInt 64 (4 * (loInt d.scale + i / rows * hiInt d.scale + j / cols))

/-! ### TLD (R124) -/

/-- TLD. -/
def tld (shapeB : Bool) (ring : BitVec 4) (a b : BitVec 6) (l : BitVec 4) (t : BitVec 3) (s : State) : Out :=
  s.issueStep { srcs := [.g a, .g b], dsts := [], la := some l, takes := true, inHandler := false }
    (fun s1 c sl xs =>
      let th := s1.thr c sl
      let d := (th.td[t.toNat]?).getD Desc.reset
      let esz := fmtBytes d.fmt
      let cols := tileCols shapeB esz
      let rows := tileRows shapeB esz
      let tbytes := tileBytes shapeB esz
      let i := hiInt (arg xs 0)
      let j := loInt (arg xs 0)
      let r := (s1.core c).ring ring.toNat
      let es := d.rows esz rows cols i j
      let padonly := es.all (·.isEmpty)
      let sa := scaleAddr d th.sclp i j rows cols
      match s1.ringCheck c ring.toNat with
      | some code => fault0 code
      | none =>
      if r.size * 64 < tbytes then fault0 (det cRingForm 2)
      else match s1.compCheck c (arg xs 1) with
      | some code => fault0 code
      | none =>
      match s1.elemCheck c d esz true false es.flatten with
      | some (code, ea) => faultAt code ea
      | none =>
      match (if d.sc && !padonly then s1.checkAt c sa 4 true false else none) with
      | some code => faultAt code sa
      | none =>
      if (r.tile r.fp).state != .empty then .park .memory
      else
        let x : Xfer := { slot := sl, id := s1.fresh, ring := ring.toNat, rslot := r.fp, store := false,
                          pieces := es.flatMap (cutRow (s1.beatUnit c th.tag)), pad := (d.padWord, esz, d.pads esz rows cols i j),
                          scaleAt := if d.sc && !padonly then some sa else none, scale := 0x3F800000, comp := arg xs 1, tbytes := tbytes,
                          tag := th.tag, began := s1.now c, due := s1.now c + 1 }
        let e : Tile := { state := .filling, bytes := 0, scale := 0, fmt := d.fmt, shapeB := shapeB, poison := false,
                          padonly := padonly, readers := 0 }
        let s2 := s1.modCore c (fun k =>
          let k1 := k.modTile ring.toNat r.fp (fun _ => e)
          { k1 with
            rings := k1.rings.setIfInBounds ring.toNat { k1.ring ring.toNat with fp := (r.fp + 1) % r.count }
            xfers := k1.xfers ++ [x] })
        .pend s2 (.tile ring.toNat r.fp false) (s1.now c + 2))

def execTldA (r : BitVec 4) (a b : BitVec 6) (l : BitVec 4) (t : BitVec 3) (s : State) : Out := tld false r a b l t s
def execTldB (r : BitVec 4) (a b : BitVec 6) (l : BitVec 4) (t : BitVec 3) (s : State) : Out := tld true r a b l t s

/-! ### TST (R125) -/

/-- A consumer reads the slot at pp; one that pops moves it to draining and pp on (R115, R117). -/
def Core.consume (k : Core) (ring : Nat) (pop : Bool) (readers : Nat) : Core :=
  let r := k.ring ring
  let k1 := k.modTile ring r.pp (fun e => { e with readers := e.readers + readers, state := if pop then .draining else e.state })
  if pop then { k1 with rings := k1.rings.setIfInBounds ring { k1.ring ring with pp := (r.pp + 1) % r.count } } else k1

/-- TST. -/
def tst (pop : Bool) (ring : BitVec 4) (a b : BitVec 6) (l : BitVec 4) (t : BitVec 3) (s : State) : Out :=
  s.issueStep { srcs := [.g a, .g b], dsts := [], la := some l, gives := true, inHandler := false }
    (fun s1 c sl xs =>
      let th := s1.thr c sl
      let d := (th.td[t.toNat]?).getD Desc.reset
      let esz := fmtBytes d.fmt
      let i := hiInt (arg xs 0)
      let j := loInt (arg xs 0)
      let r := (s1.core c).ring ring.toNat
      let e := r.tile r.pp
      let rows := tileRows e.shapeB esz
      let cols := tileCols e.shapeB esz
      let es := d.rows esz rows cols i j
      match s1.ringCheck c ring.toNat with
      | some code => fault0 code
      | none =>
      let bad4 := e.state == .ready && fmtBytes e.fmt != esz
      if bad4 then fault0 (det cRingForm 3)
      else match s1.compCheck c (arg xs 1) with
      | some code => fault0 code
      | none =>
      if e.state != .ready then .park .memory
      else match s1.elemCheck c d esz false true es.flatten with
      | some (code, ea) => faultAt code ea
      | none =>
      if e.poison || s1.poisoned c (r.base.toNat + r.pp * r.size * 64) (tileBytes e.shapeB esz) then .poison
      else
        let x : Xfer := { slot := sl, id := s1.fresh, ring := ring.toNat, rslot := r.pp, store := true,
                          pieces := es.flatMap (cutRow (s1.beatUnit c 0)), pad := (0, esz, []), scaleAt := none, scale := 0x3F800000, comp := arg xs 1,
                          tbytes := tileBytes e.shapeB esz, tag := 0, began := s1.now c, due := s1.now c + 1 }
        let s2 := s1.modCore c (fun k =>
          let k1 := k.consume ring.toNat pop 1
          { k1 with xfers := k1.xfers ++ [x] })
        .pend s2 (.tile ring.toNat r.pp true) (s1.now c + 2))

def execTst (r : BitVec 4) (a b : BitVec 6) (l : BitVec 4) (t : BitVec 3) (s : State) : Out := tst true r a b l t s
def execTstKeep (r : BitVec 4) (a b : BitVec 6) (l : BitVec 4) (t : BitVec 3) (s : State) : Out := tst false r a b l t s

/-! ### The beats of a transfer (R124, R125) -/

/-- The scratchpad offset of a slot of a ring (R114). -/
def Ring.slotBase (r : Ring) (slot : Nat) : Nat := r.base.toNat + slot * r.size * 64

/-- A tile load has landed n bytes: the entry counts them, and a kind 2 completion decrements its barrier (R115, R124;
17 R366). -/
def State.tileLanded (s : State) (c : Nat) (x : Xfer) (n : Nat) (poison : Bool) : State :=
  let s1 := s.modCore c (fun k => k.modTile x.ring x.rslot (fun e =>
    { e with bytes := e.bytes + n, poison := e.poison || poison }))
  if cmpKind x.comp = 2 then s1.addBytes c (cmpTarget x.comp) (0 - BitVec.ofNat 64 n) else s1

/-- Bytes of an element come to a place of the slot: by the 64-byte words they go to. -/
def landElem (o n v : Nat) (poison : Bool) : List HeldWord → List HeldWord
  | [] => [{ word := o / 64, val := (BitVec.ofNat 512 (v % 2 ^ (8 * n))) <<< (8 * (o % 64)),
             got := (BitVec.ofNat 64 (2 ^ n - 1)) <<< (o % 64), poison := poison }]
  | h :: rest =>
    if h.word = o / 64 then
      { h with val := h.val ||| (BitVec.ofNat 512 (v % 2 ^ (8 * n))) <<< (8 * (o % 64)),
               got := h.got ||| (BitVec.ofNat 64 (2 ^ n - 1)) <<< (o % 64), poison := h.poison || poison } :: rest
    else h :: landElem o n v poison rest
/-- The runs of bytes that have come, each with its length. -/
def maskRuns (got : BitVec 64) : List (Nat × Nat) :=
  (List.range 64).foldr (fun i acc =>
    if got.getLsbD i then
      match acc with
      | (j, n) :: rest => if j = i + 1 then (i, n + 1) :: rest else (i, 1) :: (j, n) :: rest
      | [] => [(i, 1)]
    else acc) []

/-- Every byte of an aligned 32 has come. -/
def HeldWord.whole (h : HeldWord) : Bool := h.got == 0xFFFFFFFF
/-- Bytes of an aligned 32 of the slot come: what the unit held before the first of them is kept, for loads see the unit from before the
fill or from it (R118). -/
def State.keepUnit (s : State) (c base : Nat) (hs : List HeldWord) (o n : Nat) : List HeldWord :=
  let got : BitVec 64 := (BitVec.ofNat 64 (2 ^ n - 1)) <<< (o % 32)
  if hs.any (fun h => h.word == o / 32) then hs.map (fun h => if h.word = o / 32 then { h with got := h.got ||| got } else h)
  else
    let a := base + o / 32 * 32
    hs ++ [{ word := o / 32, val := BitVec.ofNat 512 (leNat (s.bytes c a 32)), got := got, poison := s.poisoned c a 32 }]
/-- A bank word of the slot takes bytes in one write: a whole word clears its poison and its errors, a smaller write merges (R113). -/
def State.pourWord (s : State) (c base : Nat) (h : HeldWord) : State :=
  let a := base + 64 * h.word
  if h.got = -1 then ((s.writeAt c a (vecBytes h.val 64)).markBad c a (List.replicate 64 h.poison)).wake c a 64
  else
    let s1 := (maskRuns h.got).foldl (fun s r => s.writeAt c (a + r.1) (vecBytes (h.val >>> (8 * r.1)) r.2)) (s.sense c a 64)
    (if h.poison then s1.mark c a else s1).wake c a 64
/-- Elements of a tile load come to their places of the slot, by offset, bytes, value and poison: they are written there, and what is kept
for loads is left (R118, R124). -/
def State.pour (s : State) (c base : Nat) (hs : List HeldWord) (es : List (Nat × Nat × Nat × Bool)) : State × List HeldWord :=
  let kept := es.foldl (fun hs e => s.keepUnit c base hs e.1 e.2.1) hs
  ((es.foldl (fun ws e => landElem e.1 e.2.1 e.2.2.1 e.2.2.2 ws) []).foldl (fun s h => s.pourWord c base h) s, kept.filter (fun h => !h.whole))

/-- The elements of a piece of a load as the thread reads them: with its tag and its own stores (R124). -/
def State.pieceIn (s : State) (c : Nat) (x : Xfer) (ms : List (Nat × Nat × Nat)) : List (Nat × Nat × Nat × Bool) :=
  ms.map (fun (m : Nat × Nat × Nat) =>
    let v := (s.before c).load c x.slot m.1 m.2.2 x.tag
    (m.2.1, m.2.2, v.1, v.2))

/-- The words of its slot that a piece of a tile store needs are read, each once (R125). -/
def State.slotWords (s : State) (c base : Nat) (hs : List HeldWord) : List Nat → State × List HeldWord
  | [] => (s, hs)
  | w :: rest =>
    if hs.any (fun h => h.word == w) then s.slotWords c base hs rest
    else
      let s1 := s.sense c (base + 64 * w) 64
      let b := s1.before c
      s1.slotWords c base (hs ++ [{ word := w, val := BitVec.ofNat 512 (leNat (b.bytes c (base + 64 * w) 64)), got := -1,
                                    poison := b.poisoned c (base + 64 * w) 64 }]) rest

/-- Bytes of a held word of the slot. -/
def heldBytes (hs : List HeldWord) (o n : Nat) : List Byte :=
  match hs.find? (fun h => h.word == o / 64) with
  | some h => vecBytes (h.val >>> (8 * (o % 64))) n
  | none => []

/-- Neighbouring elements of a piece of a store are written together. -/
def joinMoves (hs : List HeldWord) : List (Nat × Nat × Nat) → List (Nat × List Byte)
  | [] => []
  | (a, o, n) :: rest => match joinMoves hs rest with
    | (b, bs) :: more => if a + n = b then (a, heldBytes hs o n ++ bs) :: more else (a, heldBytes hs o n) :: (b, bs) :: more
    | [] => [(a, heldBytes hs o n)]

/-- Replace a transfer. -/
def State.setXfer (s : State) (c : Nat) (x : Xfer) : State :=
  s.modCore c (fun k => { k with xfers := replaceFirst (fun y => y.id == x.id) (fun _ => x) k.xfers })

/-- The bytes of a piece. -/
def Piece.bytes (p : Piece) : Nat := (p.moves.map (·.2.2)).sum
/-- The first address of a piece. -/
def Piece.at' (p : Piece) : Nat := (p.moves.head?.map (·.1)).getD 0

/-- The bytes a piece's beat covers. -/
def Piece.span (p : Piece) : Nat := (p.moves.foldl (fun m x => Nat.max m (x.1 + x.2.2)) 0) - p.at'

/-- An older posted store of the thread on a piece's bytes is performed before the piece of a tile store (R125; 16 R318). -/
def State.pieceFree (s : State) (c : Nat) (x : Xfer) (p : Piece) : Bool :=
  !x.store || (s.thr c x.slot).psq.all (fun e => x.id < e.id || e.parts.all (fun y =>
    p.moves.all (fun m => !overlap y.1.toNat y.2.1 m.1 m.2.2)))

/-- Every transfer asks for the row of its next vault beat, and a tile load with its bytes all read for its scale (R124; 04 R69). -/
def State.askRows (s : State) (c : Nat) : State :=
  (s.core c).xfers.foldl (fun s x =>
    match x.pieces with
    | p :: _ =>
      if s.pieceFree c x p then s.wantRow c x.slot (.xfer x.id) p.at' p.span (!x.store) x.store x.tag (s.now c) x.began
      else s.modCore c (fun k => k.unqueue (.xfer x.id))
    | [] =>
      let s1 := s.modCore c (fun k => k.unqueue (.xfer x.id))
      match x.scaleAt with
      | some a =>
        if inVault a.toNat && x.due ≤ s.now c && !(s1.core c).queued (.scale x.id) then
          s1.request c x.slot (.scale x.id) a.toNat 4 true false x.tag
        else s1
      | none => s1) s

/-- The base of a transfer's slot. -/
def State.xferBase (s : State) (c : Nat) (x : Xfer) : Nat := ((s.core c).ring x.ring).slotBase x.rslot

/-- The pad of a tile load comes in the cycle after its issue (R124). -/
def State.padIn (s : State) (c : Nat) (x : Xfer) : State :=
  let (w, esz, offs) := x.pad
  let (s1, hs) := s.pour c (s.xferBase c x) x.held (offs.map (fun o => (o, esz, w.toNat, false)))
  (s1.setXfer c { x with pad := (w, esz, []), due := max x.due (s.now c + 1), held := hs }).tileLanded c x (esz * offs.length) false

/-- A tile store reads a poisoned word of its slot: it consumes the poison (R117, R125; 18 R384).  DESIGN CHOICE: met only while it
transfers, the poison stops the store there, the pieces already written stay, its slot is given back and its region restarts late; met
at issue it leaves slot and pp as they are (log 98). -/
def State.slotPoison (s : State) (c : Nat) (x : Xfer) : State :=
  let s1 := s.modCore c (fun k =>
    { (k.modTile x.ring x.rslot Tile.release).unqueue (.xfer x.id) with xfers := k.xfers.filter (fun y => y.id != x.id) })
  match s1.pend? c x.slot x.id with
  | some p => s1.consumed c x.slot p
  | none => s1

/-- One piece of a transfer. -/
def State.pieceBeat (s : State) (c : Nat) (x : Xfer) (p : Piece) (ps : List Piece) : State :=
  let base := s.xferBase c x
  if x.store then
    let (s1, hs) := s.slotWords c base x.held ((p.moves.map (fun m => m.2.1 / 64)).eraseDups)
    if p.moves.any (fun m => hs.any (fun h => h.word == m.2.1 / 64 && h.poison)) then s1.slotPoison c x
    else
      (joinMoves hs p.moves).foldl (fun s y => (s.senseParts c y.1 y.2.length).store c y.1 y.2 0)
        (s1.setXfer c { x with pieces := ps, due := s.now c + 1, held := hs })
  else
    let s0 := s.sense c p.at' p.span
    let es := s0.pieceIn c x p.moves
    let (s1, hs) := s0.pour c base x.held es
    (s1.setXfer c { x with pieces := ps, due := s.now c + 1, held := hs }).tileLanded c x p.bytes (es.any (·.2.2.2))

/-- The transfer as it is now. -/
def State.xfer? (s : State) (c id : Nat) : Option Xfer := (s.core c).xfers.find? (fun x => x.id == id)

/-- The scale comes: 2 cc after its beat from the vault, 3 cc after its word is read from the scratchpad; the slot is ready in the
cycle after that (R124). -/
def State.scaleIn (s : State) (c : Nat) (x : Xfer) (a : Word) : State :=
  let s0 := s.sense c a.toNat 4
  let (v, po) := (s0.before c).load c x.slot a.toNat 4 x.tag
  (s0.setXfer c { x with scaleAt := none, scale := BitVec.ofNat 32 v, due := s.now c + (if inVault a.toNat then 3 else 4) }).modCore c
    (fun k => k.modTile x.ring x.rslot (fun e => { e with poison := e.poison || po }))

/-- What one transfer moves in a cycle: its pad, then a piece whose vault beat the bus carries, or up to two words of the
scratchpad, or its scale (R124, R125). -/
def State.transferMoves (s : State) (c id : Nat) : State :=
  let word (s : State) : State := match s.xfer? c id with
    | some x => match x.pieces with
      | p :: ps => if !inVault p.at' && s.pieceFree c x p then s.pieceBeat c x p ps else s
      | [] => s
    | none => s
  let s1 := match s.xfer? c id with
    | some x => if !x.pad.2.2.isEmpty && x.began < s.now c then s.padIn c x else s
    | none => s
  match s1.xfer? c id with
  | some x => match x.pieces with
    | p :: ps => if inVault p.at' then (if s1.hasBeat c (.xfer id) then s1.pieceBeat c x p ps else s1) else word (word s1)
    | [] => match x.scaleAt with
      | some a =>
        if x.due ≤ s1.now c && (if inVault a.toNat then s1.hasBeat c (.scale id) else true) then s1.scaleIn c x a else s1
      | none => s1
  | none => s1

/-- Remove a transfer. -/
def State.dropXfer (s : State) (c id : Nat) : State :=
  s.modCore c (fun k => { ((k.unqueue (.post id)).unqueue (.xfer id)).unqueue (.scale id) with
    xfers := k.xfers.filter (fun x => x.id != id) })
/-- The counter add of a complete tile: a transfer stays until the add to a counter in the vault has been made at its bank.  The spec
does not say what becomes of an add whose read a critical vault refuses: the model does not make it, as with a counter that no window
allows (log 35). -/
def State.postCounter (s : State) (c : Nat) (x : Xfer) : State :=
  if inVault (cmpTarget x.comp) && (s.core c).therm == 3 && !s.hasBeat c (.post x.id) &&
      !(s.core c).halfDone (.post x.id) then s.dropXfer c x.id
  else
  let y := s.counterAdd c x.slot x.id x.comp x.tbytes
  if y.2 then y.1.dropXfer c x.id else y.1.setXfer c { x with posting := true }
/-- The completion word of a complete tile posts (05 R92, R100; 06 R122), the transfer being done; a counter no window allows is not
written (log 35). -/
def State.postTile (s : State) (c : Nat) (x : Xfer) : State :=
  if cmpKind x.comp = 1 then
    match s.checkAt c (BitVec.ofNat 64 (cmpTarget x.comp)) 8 true true with
    | some _ => s.dropXfer c x.id
    | none => s.postCounter c x
  else if cmpKind x.comp = 2 && x.store then (s.dropXfer c x.id).addBytes c (cmpTarget x.comp) (0 - BitVec.ofNat 64 x.tbytes)
  else s.dropXfer c x.id

/-- TRANSFER_BEAT: the transfers of a core move what this cycle lets them move (R124, R125; 04 R69). -/
def execTransferBeat (c : Nat) (s : State) : Out :=
  .next ((s.core c).xfers.foldl (fun s x => if x.posting then s.postCounter c x else s.transferMoves c x.id) s)

/-- The transfer of a pending instruction, when nothing of it is left to move. -/
def State.xferDone (s : State) (c id : Nat) : Option Xfer :=
  (s.core c).xfers.find? (fun x => x.id == id && x.due ≤ s.now c && x.pad.2.2.isEmpty && x.pieces.isEmpty && x.scaleAt.isNone && !x.posting)

/-- TILE_LOAD_READY: the slot becomes ready, TLD completes and its completion posts (R124). -/
def execTileLoadReady (c sl id : Nat) (s : State) : Out :=
  .next (s.onPend c sl id (fun p => match s.xferDone c id with
    | some x =>
      if x.store then s
      else
        let s1 := s.modCore c (fun k => k.modTile x.ring x.rslot (fun e => { e with state := .ready, scale := x.scale }))
        (s1.postTile c x).finish c sl p []
    | none => s))

/-- TST_COMPLETION: every write has been performed; the completion posts and the slot is released (R125). -/
def execTstCompletion (c sl id : Nat) (s : State) : Out :=
  .next (s.onPend c sl id (fun p => match s.xferDone c id with
    | some x =>
      if !x.store then s
      else
        let s1 := s.modCore c (fun k => k.modTile x.ring x.rslot Tile.release)
        (s1.postTile c x).finish c sl p []
    | none => s))

/-! ### TDSET, RINGCFG, RINGQRY, TQRY (R126-R130) -/

/-- Word n of a descriptor, under the rule for reserved bits and values (R127; 00 R8). -/
def Desc.set (d : Desc) (n : Nat) (x : Word) : Desc :=
  match n with
  | 0 => { d with base := x }
  | 1 => { d with dims := x }
  | 2 => { d with strides := x }
  | 3 => { d with form := (x &&& 0xFFFFFFFF00000010#64) ||| (if bitsN x 3 0 < 6 then x &&& 0xF#64 else d.form &&& 0xF#64) }
  | _ => { d with scale := x }

/-- TDSET. -/
def tdset (n : Nat) (t : BitVec 3) (a : BitVec 6) (s : State) : Out :=
  s.issueStep { srcs := [.g a], dsts := [] } (fun s1 c sl xs =>
    .ret (s1.modThr c sl (fun th => { th with
      td := th.td.setIfInBounds t.toNat (((th.td[t.toNat]?).getD Desc.reset).set n (arg xs 0)) })) [] none)
def execTdsetBase (d : BitVec 3) (a : BitVec 6) (s : State) : Out := tdset 0 d a s
def execTdsetDims (d : BitVec 3) (a : BitVec 6) (s : State) : Out := tdset 1 d a s
def execTdsetStrides (d : BitVec 3) (a : BitVec 6) (s : State) : Out := tdset 2 d a s
def execTdsetForm (d : BitVec 3) (a : BitVec 6) (s : State) : Out := tdset 3 d a s
def execTdsetScale (d : BitVec 3) (a : BitVec 6) (s : State) : Out := tdset 4 d a s

/-- A ring that an issued TLD, TST or MMA still names, or with a slot filling or draining (R128). -/
def Core.ringBusy (k : Core) (ring : Nat) : Bool :=
  (k.ring ring).tiles.any (fun e => e.state == .filling || e.state == .draining) ||
  k.xfers.any (fun x => x.ring == ring && !x.posting) || k.engine.any (fun e => e.kind == 0 && (e.ringA == ring || e.ringB == ring))

/-- RINGCFG (R128): in a pair it is compared and performed once (log 33). -/
def execRingcfg (d : BitVec 4) (a b : BitVec 6) (s : State) : Out :=
  s.issueStep { srcs := [.g a, .g b], dsts := [], gives := true } (fun s1 c _ xs =>
    let base := arg xs 0
    let w := arg xs 1
    let size := bitsN w 8 0
    let count := bitsN w 20 16
    if (match s1.header? c with | some h => h.rings | none => 0) ≤ d.toNat then fault0 (det cRingRange d.toNat)
    else if !inScratch base.toNat || base.toNat % 64 != 0 || size == 0 || 256 < size || count == 0 || 16 < count
        || w &&& 0x1F01FF#64 != w then fault0 (det cRingForm 4)
    else if Config.scratchBase + (s1.core c).scratch < base.toNat + size * count * 64 then faultAt (det cScratchBound 0) base
    else if (s1.core c).ringBusy d.toNat then .park .memory
    else
      let r : Ring := { base := base, size := size, count := count, fp := 0, pp := 0, tiles := List.replicate count Tile.reset }
      .ret (s1.modCore c (fun k => { k with rings := k.rings.setIfInBounds d.toNat r })) [] none)

/-- The state code of a slot. -/
def SlotState.code : SlotState → Nat | .empty => 0 | .filling => 1 | .ready => 2 | .draining => 3

/-- The word of RINGQRY (R129). -/
def Ring.word (r : Ring) : Word :=
  BitVec.ofNat 64 ((r.tiles.zipIdx.foldl (fun acc (x : Tile × Nat) => acc + x.1.state.code * 4 ^ x.2) 0) * 2 ^ 32
    + r.size * 2 ^ 16 + r.count * 2 ^ 8 + r.pp * 2 ^ 4 + r.fp)
def execRingqry (d : BitVec 6) (a : BitVec 4) (s : State) : Out :=
  s.issueStep { srcs := [], dsts := [.g d], takes := true } (fun s1 c _ _ =>
    if (match s1.header? c with | some h => h.rings | none => 0) ≤ a.toNat then fault0 (det cRingRange a.toNat)
    else ret1 s1 d ((s1.core c).ring a.toNat).word)

/-- The word of TQRY (R130). -/
def Tile.word (e : Tile) : Word :=
  BitVec.ofNat 64 (e.scale.toNat * 2 ^ 32 + e.fmt * 2 ^ 28 + (if e.shapeB then 2 ^ 27 else 0) + (if e.poison then 2 ^ 26 else 0)
    + (if e.padonly then 2 ^ 25 else 0) + e.state.code * 2 ^ 16 + e.bytes)
def execTqry (d : BitVec 6) (a : BitVec 4) (b : BitVec 6) (s : State) : Out :=
  s.issueStep { srcs := [.g b], dsts := [.g d], takes := true } (fun s1 c _ xs =>
    let r := (s1.core c).ring a.toNat
    if (match s1.header? c with | some h => h.rings | none => 0) ≤ a.toNat then fault0 (det cRingRange a.toNat)
    else if arg xs 0 >>> 4 != 0 then fault0 (det cRingForm 5)
    else ret1 s1 d (if (arg xs 0).toNat < r.count then (r.tile (arg xs 0).toNat).word else 0))

end Sys2Proof.Machine
end

