-- ==== Sys2Proof/Machine/Matrix.lean ====
section
/-! DEFINITION. The matrix engine: MMA, ACCLD, ACCST, ACCDR, ACCZ, ACCQ, MXCFG, the command queue and the accumulators
(11; 08 R174-R179). -/

namespace Sys2Proof.Machine
open Sys2Proof

/-! ### Accumulators (R225, R226) -/

/-- An accumulator. -/
def Core.acc (k : Core) (i : Nat) : Acc := (k.accs[i]?).getD Acc.reset
/-- Change an accumulator. -/
def State.modAcc (s : State) (c i : Nat) (f : Acc → Acc) : State :=
  s.modCore c (fun k => { k with accs := k.accs.setIfInBounds i (f (k.acc i)) })
/-- The accumulator an instruction of a slot acts on: in a trailing slot, the one four numbers higher (R241). -/
def State.accOf (s : State) (c sl : Nat) (d : BitVec 3) : Nat := d.toNat % 8 + (if s.isTrailing c sl then 4 else 0)
/-- Redundant mode and accumulator 4-7. -/
def State.accBad (s : State) (c sl : Nat) (d : BitVec 3) : Bool := s.isPair c sl && 4 ≤ d.toNat

/-- Element i of the image: row-major, 32 bits (R225). -/
def Acc.elem (a : Acc) (i : Nat) : Nat := (a.image.extractLsb' (32 * i) 32).toNat
/-- The image from its elements, element 0 lowest. -/
def imageOf : List Nat → Nat
  | [] => 0
  | x :: rest => x % 2 ^ 32 + 2 ^ 32 * imageOf rest

/-! ### Issue of an engine command (R227, R228) -/

/-- Commands issued and not started. -/
def Core.waiting (k : Core) : Nat := (k.engine.filter (fun e => !e.started)).length
/-- Condition 2 of R228 for a slot. -/
def Acc.open? (a : Acc) (sl : Nat) : Bool :=
  if a.locked then a.owner == sl && a.claimant.isNone else a.claimant.isNone || a.claimant == some sl
/-- A slot that parks because another holds the lock claims an accumulator without claimant. -/
def Acc.claim (a : Acc) (sl : Nat) : Acc :=
  if a.locked && a.owner != sl && a.claimant.isNone then { a with claimant := some sl } else a
/-- The accumulator is locked by a slot, whose claim clears. -/
def Acc.lock (a : Acc) (sl : Nat) : Acc :=
  { a with locked := true, owner := sl, claimant := if a.claimant == some sl then none else a.claimant }

/-- An engine command under R228: it parks, perhaps with a claim, or enters the command queue. -/
def State.command (s : State) (c sl : Nat) (e : EngCmd) (room : Bool) (go : State → State) : Act :=
  let a := (s.core c).acc e.acc
  if a.open? sl && (s.core c).waiting < 4 && room then
    let s1 := (go s).modAcc c e.acc (fun a => a.lock sl)
    .pend (s1.modCore c (fun k => { k with engine := k.engine ++ [e] })) (.engine e.kind e.acc) (s.now c)
  else .parkIn (s.modAcc c e.acc (fun a => a.claim sl)) .memory

/-- A command of a slot with empty fields. -/
def cmdOf (sl id kind acc : Nat) : EngCmd :=
  { slot := sl, id := id, kind := kind, acc := acc, ringA := 0, slotA := 0, ringB := 0, slotB := 0, zero := false, addr := 0,
    count := 0, half := false, started := false, doneAt := 0 }

/-- The form of an engine command: slot 15 has none (13 R255), and neither has a user handler (14 R284). -/
def engForm (srcs : List Opnd) (l : BitVec 4) : Form :=
  { srcs := srcs, dsts := [], la := some l, slots := 0x7FFF, inHandler := false }

/-! ### MMA (R229-R233) -/

/-- Checks 1 to 3 of R230. -/
def State.mmaRings (s : State) (c ra rb : Nat) : Option (BitVec 16) :=
  let n := match s.header? c with | some h => h.rings | none => 0
  if n ≤ ra then some (det cRingRange ra)
  else if n ≤ rb then some (det cRingRange rb)
  else if ((s.core c).ring ra).count = 0 ∨ ((s.core c).ring rb).count = 0 then some (det cRingForm 1)
  else if ra = rb then some (det cMatrixForm 4)
  else none

/-- Checks 5 to 7 of R230 on the tiles at pp. -/
def mmaTiles (ea eb : Tile) : Option (BitVec 16) :=
  if ea.shapeB || !eb.shapeB then some (det cMatrixForm 1)
  else if 4 ≤ ea.fmt then some (det cMatrixForm 2)
  else if eb.fmt ≠ ea.fmt then some (det cMatrixForm 3)
  else none

/-- MMA in a slot that reads the tiles at pp itself. -/
def mmaLead (s : State) (c sl ra rb acc : Nat) (z kb ka : Bool) : Act :=
  let k := s.core c
  let rA := k.ring ra
  let rB := k.ring rb
  let ea := rA.tile rA.pp
  let eb := rB.tile rB.pp
  let pair := s.isPair c sl
  if ea.state != .ready || eb.state != .ready then .park .memory
  else match mmaTiles ea eb with
  | some code => fault0 code
  | none =>
    if ea.poison || eb.poison || s.poisoned c (rA.slotBase rA.pp) 2048 || s.poisoned c (rB.slotBase rB.pp) 4096 ||
        (!z && (k.acc acc).poison) then .poison
    else if pair && 32 ≤ (k.pair (sl / 2)).lvq.length then .park .memory
    else
      let n := if pair then 2 else 1
      let e : EngCmd := { cmdOf sl s.fresh 0 acc with ringA := ra, slotA := rA.pp, ringB := rb, slotB := rB.pp, zero := z,
                                                      half := (s.thr c sl).mxcfg.getLsbD 0 }
      s.command c sl e true (fun s =>
        let s1 := s.modCore c (fun k => (k.consume ra (!ka) n).consume rb (!kb) n)
        if pair then
          let p := (s1.core c).pair (sl / 2)
          let le : LvEntry := { pc := (s1.thr c sl).pc, ops := [], id := 0, vals := [], ready := true, tiles := some (ra, rA.pp, rb, rB.pp) }
          s1.setPair c (sl / 2) { p with lvq := p.lvq ++ [le] }
        else s1)

/-- MMA in the trailing slot of a pair: it reads the tiles its leading slot passed on (R241). -/
def mmaTrail (s : State) (c sl acc : Nat) (z : Bool) : Act :=
  let p := (s.core c).pair (sl / 2)
  match p.lvq with
  | le :: rest =>
    if le.pc != (s.thr c sl).pc then .mismatch
    else match le.tiles with
      | some (ra, sa, rb, sb) =>
        if !z && ((s.core c).acc acc).poison then .poison
        else
          let e : EngCmd := { cmdOf sl s.fresh 0 acc with ringA := ra, slotA := sa, ringB := rb, slotB := sb, zero := z,
                                                          half := (s.thr c sl).mxcfg.getLsbD 0 }
          s.command c sl e true (fun s => s.setPair c (sl / 2) { p with lvq := rest })
      | none => .mismatch
  | [] => .park .memory

def execMma (d : BitVec 3) (a b l : BitVec 4) (z y x : BitVec 1) (s : State) : Out :=
  s.issueStep (engForm [] l) (fun s1 c sl _ =>
    match s1.mmaRings c a.toNat b.toNat with
    | some code => fault0 code
    | none =>
      if s1.accBad c sl d then fault0 (det cMatrixForm 5)
      else if s1.isTrailing c sl then mmaTrail s1 c sl (s1.accOf c sl d) (z == 1)
      else mmaLead s1 c sl a.toNat b.toNat (s1.accOf c sl d) (z == 1) (y == 1) (x == 1))

/-! ### ACCLD, ACCST, ACCDR (R237-R239) -/

/-- The checks of R238. -/
def State.imageCheck (s : State) (c sl : Nat) (d : BitVec 3) (ea : Word) : Option (BitVec 16) :=
  if s.accBad c sl d then some (det cMatrixForm 5)
  else if isGlobal ea then some (det cNonlocal 0)
  else if !inScratch ea.toNat then some (det cMatrixForm 8)
  else if ea.toNat % 64 ≠ 0 then some (det cMisaligned 0x40)
  else if Config.scratchBase + (s.core c).scratch < ea.toNat + 8192 then some (det cScratchBound 0)
  else none

/-- The trailing ACCLD of a pair: a command of its own on its accumulator, which needs no port: it takes the image that its leading
command reads at the same address, and completes when that one has (R241; log 33). -/
def accldTrail (s : State) (c sl acc : Nat) (ea : Word) : Act :=
  let p := (s.core c).pair (sl / 2)
  match p.lvq with
  | le :: rest =>
    if le.pc != (s.thr c sl).pc || le.ops != [ea] then .mismatch
    else
      let e : EngCmd := { cmdOf sl s.fresh 1 acc with follows := true, got := le.vals, twin := if le.ready then none else some le.id }
      s.command c sl e true (fun s => s.setPair c (sl / 2) { p with lvq := rest })
  | [] => .park .memory

def execAccld (d : BitVec 3) (a : BitVec 6) (l : BitVec 4) (s : State) : Out :=
  s.issueStep { engForm [.g a] l with touch := fun xs => [(arg xs 0, 8192)], rd := true } (fun s1 c sl xs =>
    match s1.imageCheck c sl d (arg xs 0) with
    | some code => faultAt code (arg xs 0)
    | none =>
      let acc := s1.accOf c sl d
      if s1.isTrailing c sl then accldTrail s1 c sl acc (arg xs 0)
      else if s1.isPair c sl && 32 ≤ ((s1.core c).pair (sl / 2)).lvq.length then .park .memory
      else s1.command c sl { cmdOf sl s1.fresh 1 acc with addr := arg xs 0 } true (fun s =>
        if s.isPair c sl then
          let p := (s.core c).pair (sl / 2)
          s.setPair c (sl / 2) { p with lvq := p.lvq ++ [{ pc := (s.thr c sl).pc, ops := [arg xs 0], id := s.fresh, vals := [], ready := false }] }
        else s))

def execAccst (d : BitVec 3) (a : BitVec 6) (l : BitVec 4) (s : State) : Out :=
  s.issueStep { engForm [.g a] l with touch := fun xs => [(arg xs 0, 8192)], wr := true } (fun s1 c sl xs =>
    match s1.imageCheck c sl d (arg xs 0) with
    | some code => faultAt code (arg xs 0)
    | none => s1.command c sl { cmdOf sl s1.fresh 2 (s1.accOf c sl d) with addr := arg xs 0 } true id)

def execAccdr (d : BitVec 3) (a : BitVec 6) (l : BitVec 4) (s : State) : Out :=
  s.issueStep { engForm [.g a] l with slots := 0x0FFF } (fun s1 c sl xs =>
    let w := arg xs 0
    let e := bitsN w 6 0
    let n := bitsN w 10 8 + 1
    if w &&& 0x77F#64 != w || 128 < e + n then fault0 (det cMatrixForm 7)
    else if s1.accBad c sl d then fault0 (det cMatrixForm 5)
    else
      let t := s1.thr c sl
      s1.command c sl { cmdOf sl s1.fresh 3 (s1.accOf c sl d) with addr := BitVec.ofNat 64 e, count := n }
        (t.vmq.length + t.vmqReserved + n ≤ 8) (fun s => s.modThr c sl (fun t => { t with vmqReserved := t.vmqReserved + n })))

/-! ### The work of the commands -/

/-- The elements of a run of bytes: INT8, D8, bfloat16, binary16 (R120). -/
def elemsOf (esz : Nat) : Nat → List Byte → List Nat
  | 0, _ => []
  | n + 1, bs => leNat (bs.take esz) :: elemsOf esz n (bs.drop esz)
/-- Cut a list into n lists of m elements. -/
def chunks {α : Type} (m : Nat) : Nat → List α → List (List α)
  | 0, _ => []
  | n + 1, xs => xs.take m :: chunks m n (xs.drop m)

/-- The value of an operand element. -/
def operand (fmt x : Nat) : Num :=
  match fmt with | 1 => d8Dec x | 2 => bf16.decode x | _ => f16.decode x
/-- The exact product of factors, and whether it raises nv: an infinity by a zero, or a signalling NaN (08 R175). -/
def mmaProduct (xs : List Num) : Num × Bool :=
  (xs.foldl Num.mul (.fin false 1 1),
   xs.any Num.isSig || (xs.any Num.isZero && xs.any (fun x => match x with | .inf _ => true | _ => false)))
/-- One group of an element (08 R175). -/
def groupOf (fmt : Nat) (sc : List Num) (c : Nat) (as bs : List Nat) : Nat × Flg :=
  let ps := (as.zip bs).map (fun (x, y) => mmaProduct ([operand fmt x, operand fmt y] ++ (if fmt = 1 then sc else [])))
  let acc := f32.decode c
  mmaGroup (acc :: ps.map (·.1)) (acc.isSig || ps.any (·.2))
/-- All groups of an element, in increasing order. -/
def groups (fmt : Nat) (sc : List Num) : Nat → Nat → List Nat → List Nat → Flg → Nat × Flg
  | 0, c, _, _, f => (c, f)
  | n + 1, c, as, bs, f =>
    let (c', g) := groupOf fmt sc c (as.take 16) (bs.take 16)
    groups fmt sc n c' (as.drop 16) (bs.drop 16) (f ||| g)
/-- An element of an INT8 MMA, modulo 2^32 (08 R178). -/
def int8Elem (c : Nat) (as bs : List Nat) : Nat :=
  let s : Int := (as.zip bs).foldl (fun acc (x, y) => acc + (BitVec.ofNat 8 x).toInt * (BitVec.ofNat 8 y).toInt) (c : Int)
  (s % 2 ^ 32).toNat

/-- The words of a slot of a ring as the array reads them, met by their soft errors (06 R113). -/
def State.senseTile (s : State) (c ring slot n : Nat) : State := s.sense c (((s.core c).ring ring).slotBase slot) n
/-- A word of a slot that the array has read is poisoned (R117). -/
def State.tilePoisoned (s : State) (c ring slot n : Nat) : Bool := s.poisoned c (((s.core c).ring ring).slotBase slot) n

/-- The new elements of an MMA, row-major, with the union of the flags (R231). -/
def mmaElems (fmt : Nat) (sc : List Num) (rows cols : List (List Nat)) (old : Nat → Nat) : List (Nat × Flg) :=
  rows.zipIdx.flatMap (fun (as, i) => cols.zipIdx.map (fun (bs, j) =>
    let c := old (64 * i + j)
    if fmt = 0 then (int8Elem c as bs, fNone) else groups fmt sc (as.length / 16) c as bs fNone))

/-- Read the tiles of an MMA and compute its accumulator. -/
def State.mmaResult (s : State) (c : Nat) (e : EngCmd) : BitVec 65536 × Flg :=
  let k := s.core c
  let rA := k.ring e.ringA
  let rB := k.ring e.ringB
  let ta := rA.tile e.slotA
  let tb := rB.tile e.slotB
  let esz := fmtBytes ta.fmt
  let kk := 64 / esz
  let rows := chunks kk 32 (elemsOf esz (32 * kk) (s.bytes c (rA.slotBase e.slotA) 2048))
  let bRows := chunks 64 kk (elemsOf esz (kk * 64) (s.bytes c (rB.slotBase e.slotB) 4096))
  let cols := (List.range 64).map (fun j => bRows.map (fun r => (r[j]?).getD 0))
  let sc := [f32.decode ta.scale.toNat, f32.decode tb.scale.toNat]
  let els := mmaElems ta.fmt sc rows cols (fun i => if e.zero then 0 else (k.acc e.acc).elem i)
  (BitVec.ofNat 65536 (imageOf (els.map (·.1))), els.foldl (fun f x => f ||| x.2) fNone)

/-- The power controller gates and ungates rows only while the array runs no MMA (R233). -/
def Core.regate (k : Core) : Core :=
  if k.engine.any (fun e => e.started && e.kind == 0) then k else { k with gatedRows := k.steps.contains 16 }
/-- The trace record of a command's start (9) or completion (10) (19 R407). -/
def State.traceEngine (s : State) (c : Nat) (e : EngCmd) (kind : Nat) : State :=
  match s.pend? c e.slot e.id with
  | some p => s.trace c e.slot kind p.pc (leBytes p.word.toNat 4)
  | none => s

/-- The command leaves the engine; the lock goes with the last command on its accumulator (R226). -/
def State.engineDone (s : State) (c : Nat) (e : EngCmd) : State :=
  let s1 := (s.traceEngine c e 10).modCore c (fun k => { k with engine := k.engine.filter (fun x => x.id != e.id) }.regate)
  if (s1.core c).engine.any (fun x => x.acc == e.acc) then s1
  else s1.modAcc c e.acc (fun a => { a with locked := false, owner := 0 })

/-- The entries an ACCDR pushes (R225, R239). -/
def State.drained (s : State) (c : Nat) (e : EngCmd) : List Vec :=
  (List.range e.count).map (fun n => ((s.core c).acc e.acc).image.extractLsb' (512 * (e.addr.toNat + n)) 512)

/-- The unit of a command: the array, the accumulator port, or none for an ACCLD that follows its leading one (R227, R241). -/
def EngCmd.unit (e : EngCmd) : Nat := if e.kind = 0 then 0 else if e.follows then 2 else 1
/-- A running command holds up another: it has the same unit, or the same accumulator (R227). -/
def EngCmd.blocks (x e : EngCmd) : Bool := x.started && ((x.unit == e.unit && e.unit != 2) || x.acc == e.acc)

/-- ENGINE_COMMAND_START: the oldest command that has not started starts when its unit is free and no earlier command on
its accumulator runs (R227); a poisoned ACCST or ACCDR is consumed (R238, R239).
DESIGN CHOICE: a consumed one does not hold the port in that cycle (log 117). -/
def execEngineCommandStart (c : Nat) (s : State) : Out :=
  .next (
    let k := s.core c
    match k.engine.find? (fun e => !e.started) with
    | none => s
    | some e =>
      if k.engine.any (fun x => x.blocks e) then s
      else
        let start (at' : Nat) : State := (s.traceEngine c e 9).modCore c (fun k => { k.regate with
          engine := k.engine.map (fun x => if x.id == e.id then { x with started := true, doneAt := at' } else x) })
        match e.kind with
        | 0 => start (k.cycle + (if e.half || k.regate.gatedRows then 64 else 32))
        | 1 => start (if e.follows then k.cycle else k.cycle + 32)
        | _ =>
          if (k.acc e.acc).poison then
            let s1 := s.engineDone c e
            let s2 := if e.kind = 3 then s1.modThr c e.slot (fun t => { t with vmqReserved := t.vmqReserved - e.count }) else s1
            match s2.pend? c e.slot e.id with | some p => s2.consumed c e.slot p | none => s2
          else if e.kind = 2 then start (k.cycle + 32)
          else if s.isPair c e.slot then start (k.cycle + e.count - 1)
          else
            let es := (s.drained c e).zipIdx.map (fun (x : Vec × Nat) => (x.1, false, k.cycle + x.2 + 1))
            (start (k.cycle + e.count - 1)).modThr c e.slot (fun t =>
              { t with vmq := t.vmq ++ es, vmqReserved := t.vmqReserved - e.count }))

/-- The running command of a pending instruction whose time is over. -/
def State.engineOver (s : State) (c id : Nat) (mma : Bool) : Option EngCmd :=
  (s.core c).engine.find? (fun e => e.id == id && e.started && e.doneAt ≤ s.now c && (e.kind == 0) == mma && e.twin.isNone)

/-- A consumed MMA leaves the engine and gives its slots back (R117; 18 R384).  DESIGN CHOICE: poison that it meets after its issue leaves
pp advanced, and the slots come back in the cycle in which it completes (log 98). -/
def State.mmaConsumed (s : State) (c sl : Nat) (e : EngCmd) (p : Pend) : State :=
  ((s.modCore c (fun k => (k.modTile e.ringA e.slotA Tile.release).modTile e.ringB e.slotB Tile.release)).engineDone c e).consumed c sl p

/-- MMA_COMPLETION (R231): the array has read its tiles, and a word of them that is found poisoned is consumed (R117). -/
def execMmaCompletion (c sl id : Nat) (s : State) : Out :=
  .next (match s.engineOver c id true with
    | none => s
    | some e =>
      s.onPend c sl id (fun p =>
        let s0 := (s.senseTile c e.ringA e.slotA 2048).senseTile c e.ringB e.slotB 4096
        if s0.tilePoisoned c e.ringA e.slotA 2048 || s0.tilePoisoned c e.ringB e.slotB 4096 then s0.mmaConsumed c sl e p
        else
        let (img, f) := s0.mmaResult c e
        let s1 := (s0.modAcc c e.acc (fun a => { a with image := img, poison := if e.zero then false else a.poison })).orFlags c sl f
        let s2 := s1.modCore c (fun k => (k.modTile e.ringA e.slotA Tile.release).modTile e.ringB e.slotB Tile.release)
        (s2.engineDone c e).finish c sl p []))

/-! ### A pair's ACCST and ACCDR (R241; 18 R386) -/

/-- The effect of a matched ACCST or ACCDR of a slot: the image is written, or the entries pushed. -/
def State.portEffect (s : State) (c sl : Nat) (kind : Nat) (addr : Word) (vs : List Vec) : State :=
  if kind = 2 then s.store c addr.toNat (vs.flatMap (fun v => vecBytes v 64)) 0
  else s.modThr c sl (fun t => { t with
    vmq := t.vmq ++ vs.map (fun v => (v, false, s.now c + 1)), vmqReserved := t.vmqReserved - vs.length })

/-- Words as 512-bit values. -/
def vecs8 (ws : List Word) : List Vec :=
  (chunks 8 (ws.length / 8) ws).map (fun l => BitVec.ofNat 512 (l.zipIdx.foldl (fun n x => n + x.1.toNat * 2 ^ (64 * x.2)) 0))

/-- A slot of a pair deposits what its ACCST or ACCDR would release; the second arrival releases it for both.  A mismatch releases
nothing, and both are gone (18 R387). -/
def State.pairPort (s : State) (c sl : Nat) (p : Pend) (kind : Nat) (addr : Word) (vs : List Vec) : State :=
  let pr := (s.core c).pair (sl / 2)
  let lead := sl % 2 == 0
  let data := addr :: vs.flatMap words8
  match pr.cmp.find? (fun x => x.leading != lead && x.kind == kind) with
  | none =>
    let e : CmpEntry := { leading := lead, pc := p.pc, kind := kind, data := BitVec.ofNat 64 p.id :: data, at' := s.now c, matched := false }
    s.setPair c (sl / 2) { pr with cmp := pr.cmp ++ [e] }
  | some o =>
    if o.pc != p.pc || o.data.tail != data then
      let own : CmpEntry := { o with leading := lead, data := BitVec.ofNat 64 p.id :: data }
      (((s.setPair c (sl / 2) { pr with cmp := pr.cmp.erase o }).dropDeposit c (sl / 2) o).dropDeposit c (sl / 2) own).restart c sl 2 p.pc true p.issued
    else
      let s1 := s.setPair c (sl / 2) { pr with cmp := pr.cmp.erase o }
      let other := sl / 2 * 2 + (if lead then 1 else 0)
      let s2 := s1.portEffect c sl kind addr vs
      let s3 := if kind = 3 then s2.portEffect c other kind addr vs else s2
      let s4 := match s3.pend? c other ((o.data.headD 0).toNat) with | some q => s3.finish c other q [] | none => s3
      s4.finish c sl p []

/-- No older store of a command's thread to some bytes is still posted: what the command writes there comes after it (R238; 16
R318). -/
def State.portFree (s : State) (c : Nat) (e : EngCmd) (a n : Nat) : Bool :=
  (s.thr c e.slot).psq.all (fun x => e.id < x.id || x.parts.all (fun y => !overlap y.1.toNat y.2.1 a n))
/-- A deposit of a slot finds a place in its pair's comparator, or its twin's (18 R386). -/
def State.portRoom (s : State) (c sl kind : Nat) : Bool :=
  let p := (s.core c).pair (sl / 2)
  p.cmp.length < 8 || p.cmp.any (fun x => x.leading != (sl % 2 == 0) && x.kind == kind)

/-- A command as it is now. -/
def State.cmd? (s : State) (c id : Nat) : Option EngCmd := (s.core c).engine.find? (fun e => e.id == id)
/-- Change a command. -/
def State.modCmd (s : State) (c id : Nat) (f : EngCmd → EngCmd) : State :=
  s.modCore c (fun k => { k with engine := replaceFirst (fun e => e.id == id) f k.engine })
/-- A word of the image of an accumulator. -/
def Acc.word (a : Acc) (n : Nat) : Vec := a.image.extractLsb' (512 * n) 512
/-- The next word of the image moves through the port: an ACCLD reads it as a load of its thread, an ACCST writes it behind the older
stores of its thread; a pair's ACCST writes nothing before it has been compared (R238, R241). -/
def State.portWord (s : State) (c id : Nat) : State :=
  match s.cmd? c id with
  | none => s
  | some e =>
    if !e.started || e.follows || 128 ≤ e.moved then s
    else
      let a := e.addr.toNat + 64 * e.moved
      let s1 := s.modCmd c id (fun e => { e with moved := e.moved + 1 })
      if e.kind = 1 then
        let s2 := s1.sense c a 64
        let bs := (s2.before c).loadBytes c e.slot a 0 64
        s2.modCmd c id (fun e => { e with got := e.got ++ [(BitVec.ofNat 512 (leNat (bs.map (·.1))), bs.any (·.2))] })
      else if e.kind = 2 && !s.portFree c e a 64 then s
      else if e.kind = 2 && !s.isPair c e.slot then s1.store c a (vecBytes (((s.core c).acc e.acc).word e.moved) 64) 0
      else s1
/-- Some words move. -/
def State.portWords (s : State) (c id : Nat) : Nat → State
  | 0 => s
  | n + 1 => (s.portWord c id).portWords c id n

/-- The image of a pair's ACCLD goes to the trailing command that waits for it, or into the load-value queue (R241). -/
def State.passImage (s : State) (c id : Nat) (got : List (Vec × Bool)) : State :=
  s.modCore c (fun k => { k with engine := k.engine.map (fun e => if e.twin == some id then { e with twin := none, got := got } else e) })
/-- The accumulator takes the image that an ACCLD has read (R226, R238). -/
def State.loadImage (s : State) (c sl : Nat) (e : EngCmd) (p : Pend) : State :=
  let img := e.got.zipIdx.foldl (fun n x => n + x.1.1.toNat * 2 ^ (512 * x.2)) 0
  let s1 := (s.modAcc c e.acc (fun a => { a with image := BitVec.ofNat 65536 img, poison := e.got.any (·.2) })).engineDone c e
  (s1.passImage c e.id e.got).finish c sl p (if s.isPair c sl then e.got.map (fun x => ⟨x.1, x.2⟩) else [])

/-- ACC_PORT_COMPLETION (R238, R239): an ACCLD's or ACCST's words have all moved, or an ACCDR has pushed its entries; what a pair's
ACCST or ACCDR releases is compared first, when the comparator has a place for it (R241; 18 R386). -/
def execAccPortCompletion (c sl id : Nat) (s : State) : Out :=
  .next (match s.engineOver c id false with
    | none => s
    | some e =>
      if e.kind ≠ 3 && !e.follows && e.moved < 128 then s
      else if 2 ≤ e.kind && !e.solo && s.isPair c sl && !s.portRoom c sl e.kind then s
      else s.onPend c sl id (fun p =>
        if e.kind = 1 then s.loadImage c sl e p
        else
          let s1 := s.engineDone c e
          if e.solo then (s1.modThr c sl (fun t => { t with vmqReserved := t.vmqReserved - (if e.kind = 3 then e.count else 0) })).finish c sl p []
          else if !s.isPair c sl then s1.finish c sl p []
          else if e.kind = 2 then s1.pairPort c sl p 2 e.addr ((List.range 128).map ((s.core c).acc e.acc).word)
          else s1.pairPort c sl p 3 e.addr (s.drained c e)))

/-- The running ACCLDs and ACCSTs move four words of their image in a cycle (R238). -/
def State.portMoves (s : State) (c : Nat) : State :=
  (s.core c).engine.foldl (fun s e => if e.kind = 1 || e.kind = 2 then s.portWords c e.id 4 else s) s

/-! ### ACCZ, ACCQ, MXCFG (R234-R236) -/

def execAccz (d : BitVec 3) (s : State) : Out :=
  s.issueStep { srcs := [], dsts := [], slots := 0x7FFF } (fun s1 c sl _ =>
    let i := s1.accOf c sl d
    let a := (s1.core c).acc i
    if s1.accBad c sl d then fault0 (det cMatrixForm 5)
    else if a.locked || !a.open? sl then .parkIn (s1.modAcc c i (fun a => a.claim sl)) .memory
    else .ret (s1.modAcc c i (fun _ => Acc.reset)) [] none)

/-- The word of ACCQ (R236). -/
def State.accqWord (s : State) (c sl : Nat) : Word :=
  let k := s.core c
  let bits (p : Acc → Bool) : Nat := (List.range 8).foldl (fun n i => if p (k.acc i) then n + 2 ^ i else n) 0
  BitVec.ofNat 64 (((List.range 8).foldl (fun n i => n + (if (k.acc i).locked then (k.acc i).owner else 0) % 16 * 16 ^ i) 0) * 2 ^ 32
    + bits (·.poison) * 2 ^ 24 + k.waiting * 2 ^ 18 + (if k.gatedRows then 2 ^ 17 else 0)
    + (if (s.thr c sl).mxcfg.getLsbD 0 then 2 ^ 16 else 0) + bits (·.claimant.isSome) * 2 ^ 8 + bits (·.locked))
def execAccq (d : BitVec 6) (s : State) : Out :=
  s.issueStep { srcs := [], dsts := [.g d], takes := true, slots := 0x7FFF } (fun s1 c sl _ => ret1 s1 d (s1.accqWord c sl))
def execMxcfg (a : BitVec 6) (s : State) : Out :=
  s.issueStep { srcs := [.g a], dsts := [], slots := 0x7FFF } (fun s1 c sl xs =>
    if arg xs 0 >>> 1 != 0 then fault0 (det cMatrixForm 6)
    else .ret (s1.modThr c sl (fun t => { t with mxcfg := arg xs 0 })) [] none)

end Sys2Proof.Machine
end

