-- ==== Sys2Proof/Machine/Predicates.lean ====
section
/-! DEFINITION. The exact geometric predicates, their perturbation, stages and latency, GPCFG and gstat (12). -/

namespace Sys2Proof.Machine
open Sys2Proof

/-! ### Determinants over any arithmetic (R242) -/

/-- Multiplication, addition and subtraction. -/
structure Arith (α : Type) where
  mul : α → α → α
  add : α → α → α
  sub : α → α → α

/-- Entry i of a row. -/
def at0 {α : Type} (z : α) (xs : List α) (i : Nat) : α := (xs[i]?).getD z

/-- a·d − b·c. -/
def Arith.det2 {α : Type} (r : Arith α) (a b c d : α) : α := r.sub (r.mul a d) (r.mul b c)
/-- A 3×3 determinant by cofactors along the first column, rows in order. -/
def Arith.det3 {α : Type} (r : Arith α) (z : α) (p q s : List α) : α :=
  let e (x : List α) (i : Nat) : α := at0 z x i
  r.add (r.sub (r.mul (e p 0) (r.det2 (e q 1) (e q 2) (e s 1) (e s 2)))
               (r.mul (e q 0) (r.det2 (e p 1) (e p 2) (e s 1) (e s 2))))
        (r.mul (e s 0) (r.det2 (e p 1) (e p 2) (e q 1) (e q 2)))
/-- A 4×4 determinant by cofactors along the first column. -/
def Arith.det4 {α : Type} (r : Arith α) (z : α) (p q s t : List α) : α :=
  let e (x : List α) : α := at0 z x 0
  let m (x y w : List α) : α := r.det3 z x.tail y.tail w.tail
  r.sub (r.add (r.sub (r.mul (e p) (m q s t)) (r.mul (e q) (m p s t))) (r.mul (e s) (m p q t))) (r.mul (e t) (m p q s))

/-- The predicates of four or five points with one determinant; GSEGX is four of the first. -/
inductive Pred where
  | go2d | go3d | ginc | gins | gsegx
  deriving DecidableEq, Repr

def Pred.code : Pred → Nat | .go2d => 0 | .go3d => 1 | .ginc => 2 | .gins => 3 | .gsegx => 4
/-- Points and coordinates of each. -/
def Pred.points : Pred → Nat | .go2d => 3 | .go3d => 4 | .ginc => 4 | .gins => 5 | .gsegx => 4
def Pred.coords : Pred → Nat | .go3d | .gins => 3 | _ => 2
/-- The position of the reference point. -/
def Pred.ref : Pred → Nat | .go2d => 0 | .go3d => 3 | .ginc => 3 | .gins => 4 | .gsegx => 0
/-- k of R246 as a power of two, and the latencies of the stages. -/
def Pred.bound : Pred → Nat | .go2d => 51 | .go3d => 50 | .ginc => 49 | .gins => 48 | .gsegx => 51
def Pred.latency (p : Pred) (stage : Nat) : Nat :=
  let (b, c) := match p with | .go2d => (24, 140) | .go3d => (36, 240) | .ginc => (40, 260) | .gins => (60, 420) | .gsegx => (28, 160)
  match stage with | 2 => b | 3 => c | _ => 4

/-- The rows of the determinant, from the differences of each point but the reference. -/
def Pred.rows {α : Type} (p : Pred) (r : Arith α) (diffs : List (List α)) : List (List α) :=
  diffs.map (fun d => match p, d with
    | .ginc, [u, w] => [u, w, r.add (r.mul u u) (r.mul w w)]
    | .gins, [u, w, h] => [u, w, h, r.add (r.add (r.mul u u) (r.mul w w)) (r.mul h h)]
    | _, _ => d)
/-- The determinant of the rows. -/
def Arith.det {α : Type} (r : Arith α) (z : α) : List (List α) → α
  | [p, q] => r.det2 (at0 z p 0) (at0 z p 1) (at0 z q 0) (at0 z q 1)
  | [p, q, s] => r.det3 z p q s
  | [p, q, s, t] => r.det4 z p q s t
  | _ => z

/-- The differences of the points from the reference point, in order. -/
def Pred.diffs {α : Type} (p : Pred) (sub : α → α → α) (pts : List (List α)) : List (List α) :=
  let ref := (pts[p.ref]?).getD []
  (pts.eraseIdx p.ref).map (fun q => (q.zip ref).map (fun (x, y) => sub x y))

/-! ### Exact values and the perturbation (R244, R245) -/

/-- A finite binary64 as a multiple of 2^-1074. -/
def fixed (x : Nat) : Int :=
  match f64.decode x with
  | .fin neg n d => let m : Int := ((n * 2 ^ 1074 / d : Nat) : Int); if neg then -m else m
  | _ => 0

def intArith : Arith Int := ⟨(· * ·), (· + ·), (· - ·)⟩

/-- A power of ε: its exponent as a sum of distinct powers of two, given by their exponents in falling order. -/
abbrev EExp := List Nat
/-- Add 2^e to an exponent; structural on the fuel, one more than the terms. -/
def EExp.add1 : Nat → EExp → Nat → EExp
  | 0, xs, _ => xs
  | f + 1, xs, e => if xs.contains e then EExp.add1 f (xs.erase e) (e + 1)
                    else (xs.takeWhile (fun x => e < x)) ++ [e] ++ xs.dropWhile (fun x => e < x)
/-- The sum of two exponents. -/
def EExp.plus (xs ys : EExp) : EExp := ys.foldl (fun acc y => EExp.add1 (acc.length + 1) acc y) xs
/-- x < y. -/
def EExp.lt : EExp → EExp → Bool
  | _, [] => false
  | [], _ :: _ => true
  | x :: xs, y :: ys => x < y || (x == y && EExp.lt xs ys)

/-- A polynomial in ε with integer coefficients. -/
abbrev Poly := List (EExp × Int)
/-- Add a term. -/
def Poly.term : Poly → EExp → Int → Poly
  | [], e, c => [(e, c)]
  | (f, d) :: rest, e, c => if f = e then (f, d + c) :: rest else (f, d) :: Poly.term rest e c
def Poly.plus (p q : Poly) : Poly := q.foldl (fun (acc : Poly) x => acc.term x.1 x.2) p
def Poly.minus (p q : Poly) : Poly := q.foldl (fun (acc : Poly) x => acc.term x.1 (-x.2)) p
def Poly.times (p q : Poly) : Poly :=
  p.foldl (fun (acc : Poly) x => q.foldl (fun (acc : Poly) y => acc.term (x.1.plus y.1) (x.2 * y.2)) acc) []
def polyArith : Arith Poly := ⟨Poly.times, Poly.plus, Poly.minus⟩

/-- The sign of the non-zero coefficient of lowest power. -/
def Poly.sign (p : Poly) : Int :=
  match (p.filter (fun x => x.2 != 0)).foldl (fun (acc : Option (EExp × Int)) x => match acc with
      | none => some x
      | some y => if x.1.lt y.1 then some x else some y) none with
  | some (_, c) => c.sign
  | none => 0

/-- A coordinate of a point with index k, perturbed: value plus ε^(2^(δ·k + δ − j)). -/
def perturbed (delta k j : Nat) (x : Int) : Poly := [([], x), ([delta * k + delta - j], 2 ^ 1074)]

/-- The answer for one determinant: sign, whether the perturbation decided it, whether equal indices left it at 0. -/
structure Sign where
  s : Int
  pert : Bool
  dup : Bool
  deriving DecidableEq, Repr

/-- The sign of the predicate's determinant at points in fixed coordinates with indices (R242, R244, R245). -/
def Pred.sign (p : Pred) (pts : List (List Int)) (ks : List Nat) (sos : Bool) : Sign :=
  let d := intArith.det 0 (p.rows intArith (p.diffs (· - ·) pts))
  if d ≠ 0 ∨ sos = false then ⟨d.sign, false, false⟩
  else if ks.eraseDups.length < ks.length then ⟨0, false, true⟩
  else
    let delta := p.coords
    let pts' := (pts.zip ks).map (fun (q, k) => q.zipIdx.map (fun (x, j) => perturbed delta k (j + 1) x))
    ⟨(polyArith.det [] (p.rows polyArith (p.diffs Poly.minus pts'))).sign, true, false⟩

/-! ### Stages (R246) -/

/-- Round to binary64, to nearest. -/
def rn64 (v : Num) : Num := f64.decode (roundIeee v f64 .rne).1
def fpArith : Arith Num :=
  ⟨fun x y => rn64 (x.mul y), fun x y => rn64 (x.add .rne y), fun x y => rn64 (x.add .rne y.negate)⟩
/-- Every term replaced by its absolute value. -/
def absArith : Arith Num := { fpArith with sub := fpArith.add }
/-- The magnitude. -/
def Num.abs : Num → Num | .nan b => .nan b | .inf _ => .inf false | .fin _ n d => .fin false n d
def Num.finite : Num → Bool | .fin .. => true | _ => false

/-- The stage one determinant reaches; zero: the exact value is 0 in a .sos form. -/
def Pred.stage (p : Pred) (pts : List (List Nat)) (zero : Bool) : Nat :=
  let vals := pts.map (·.map f64.decode)
  let diffs := p.diffs fpArith.sub vals
  let d := fpArith.det (.fin false 0 1) (p.rows fpArith diffs)
  let m := absArith.det (.fin false 0 1) (p.rows absArith (diffs.map (·.map Num.abs)))
  let small : Num := .fin false 1 (2 ^ 900)
  if d.finite && m.finite && !(m.lt small) && (m.mul (.fin false 1 (2 ^ p.bound))).lt d.abs then 1
  else
    let exact := p.diffs (fun x y => x.add .rne y.negate) vals
    let lo : Num := .fin false 1 (2 ^ 180)
    let hi : Num := .fin false (2 ^ 180) 1
    let ok := (diffs.flatten.zip exact.flatten).all (fun (x, y) =>
      x.finite && x.eq y && (x.isZero || (!(x.abs.lt lo) && !(hi.lt x.abs))))
    if ok && !zero then 2 else 3

/-! ### Lanes (R243, R250) -/

/-- The result of a lane: value, stage, perturbed, equal indices. -/
structure LaneOut where
  val : Nat
  stage : Nat
  pert : Bool
  dup : Bool
  deriving DecidableEq, Repr

/-- A sign as a 64-bit lane. -/
def signLane (s : Int) : Nat := (s % 2 ^ 64).toNat

/-- The closed intervals of two pairs overlap. -/
def meetsInterval (a b c d : Int) : Bool := max (min a b) (min c d) ≤ min (max a b) (max c d)

/-- One evaluated lane.  The spec does not say when a segment test's lane counts as perturbed: the model sets it when the perturbation
decided any of its four orientations, as R245 does for dup (log 89). -/
def Pred.evalLane (p : Pred) (pts : List (List Nat)) (ks : List Nat) (sos : Bool) : LaneOut :=
  let fx := pts.map (·.map fixed)
  if p ≠ .gsegx then
    let r := p.sign fx ks sos
    ⟨signLane r.s, p.stage pts (sos && (r.pert || r.dup)), r.pert, r.dup⟩
  else
    let sub {α : Type} [Inhabited α] (xs : List α) (o : List Nat) : List α := o.map (fun i => (xs[i]?).getD default)
    let orient (o : List Nat) : Sign × Nat :=
      let r := Pred.go2d.sign (sub fx o) (sub ks o) sos
      (r, Pred.go2d.stage (sub pts o) (sos && (r.pert || r.dup)))
    let os := [[0, 1, 2], [0, 1, 3], [2, 3, 0], [2, 3, 1]].map orient
    let s (i : Nat) : Int := match os[i]? with | some x => x.1.s | none => 0
    let x (i j : Nat) : Int := (((fx[i]?).getD [])[j]?).getD 0
    let v :=
      if s 0 * s 1 = 1 ∨ s 2 * s 3 = 1 then 0
      else if s 0 = 0 ∧ s 1 = 0 ∧ s 2 = 0 ∧ s 3 = 0 then
        (if meetsInterval (x 0 0) (x 1 0) (x 2 0) (x 3 0) && meetsInterval (x 0 1) (x 1 1) (x 2 1) (x 3 1) then 2 else 0)
      else if s 0 = 0 ∨ s 1 = 0 ∨ s 2 = 0 ∨ s 3 = 0 then 2
      else 1
    ⟨v, os.foldl (fun m y => max m y.2) 0, os.any (·.1.pert), os.any (·.1.dup)⟩

/-- A coordinate is infinite or NaN. -/
def nonFinite (x : Nat) : Bool := !(f64.decode x).finite

/-- Pending predicates of a core: its contexts (R247). -/
def Core.contexts (k : Core) : Nat :=
  (k.threads.toList.map (fun t => (t.pend.filter (fun p => match p.kind with | .predicate .. => true | _ => false)).length)).sum

/-- The result vector and gstat of a predicate, and its latency (R247, R250, R253). -/
def Pred.result (p : Pred) (coords : List Vec) (idx : List Vec) (m : Word) (old : Vec) (sos fixedLat : Bool) : Vec × Word × Nat :=
  let point (i : Nat) : List (List Nat) :=
    chunks p.coords p.points (coords.map (fun v => lane 64 v i))
  let out (i : Nat) : LaneOut × Bool :=
    if !active m i then (⟨lane 64 old i, 0, false, false⟩, false)
    else if (point i).flatten.any nonFinite then (⟨3, 0, false, false⟩, true)
    else (p.evalLane (point i) (idx.map (fun v => lane 64 v i)) sos, false)
  let os := (List.range 8).map out
  let top := os.foldl (fun a x => if x.1.stage = 0 then a else max a (p.latency x.1.stage)) 4
  let l := if fixedLat then p.latency 3 else top
  let bits (f : LaneOut × Bool → Bool) : Nat := os.zipIdx.foldl (fun a x => if f x.1 then a + 2 ^ x.2 else a) 0
  (pack 64 (os.map (·.1.val)),
   BitVec.ofNat 64 (bits (·.1.pert) * 2 ^ 48 + bits (·.1.dup) * 2 ^ 40 + bits (·.2) * 2 ^ 32
     + (os.zipIdx.foldl (fun a x => a + x.1.1.stage * 4 ^ x.2) 0) * 2 ^ 16 + p.code * 2 ^ 9 + l), l)

/-- The failing lanes and the first failing coordinate, as tinfo names them (R251). -/
def geomInfo (coords : List Vec) (m : Word) : Option Word :=
  let bad (i : Nat) : Bool := active m i && coords.any (fun v => nonFinite (lane 64 v i))
  match (List.range 8).find? bad with
  | none => none
  | some i =>
    let first := ((List.range coords.length).find? (fun k => nonFinite (lane 64 ((coords[k]?).getD 0) i))).getD 0
    some (BitVec.ofNat 64 (first * 2 ^ 16 + (List.range 8).foldl (fun a i => if bad i then a + 2 ^ i else a) 0))

/-- A predicate (R249, R250). -/
def predicate (p : Pred) (d a : BitVec 6) (l : BitVec 4) (nf sos : BitVec 1) (m : BitVec 3) (s : State) : Out :=
  let c := s.curCore
  let run : List Opnd := (List.range (p.points * p.coords)).map (fun i => .v (a + BitVec.ofNat 6 i))
  let cfg := (s.thr c s.curSlot).gpcfg
  let ibase := bitsN cfg 5 0
  let idx : List Opnd := if sos = 1 then (List.range p.points).map (fun i => .v (BitVec.ofNat 6 (ibase + i))) else []
  let old : List Opnd := if m ≠ 0 then [.v d] else []
  let early := (s.undeclared c (run ++ [.v d])).isSome || (sos == 1 && 48 < ibase + p.points)
  if early then
    s.issueStep { srcs := [], dsts := [], more := run ++ [.v d] } (fun _ _ _ _ => fault0 (det cGeomForm 2))
  else
    s.issueStep { srcs := run ++ idx ++ [.m m] ++ old, dsts := [.v d], la := some l } (fun s1 c sl xs =>
      let n := run.length
      let coords := (List.range n).map (argV xs)
      let ix := (List.range idx.length).map (fun i => argV xs (n + i))
      let mask := arg xs (n + idx.length)
      let before := argV xs (n + idx.length + 1)
      if 4 ≤ (s1.core c).contexts then .park .memory
      else match (if nf = 0 then geomInfo coords mask else none) with
        | some info => .trap (det cGeomNonfinite 1) info 0
        | none =>
          let (r, g, lat) := p.result coords ix mask before (sos == 1) (((s1.thr c sl).gpcfg).getLsbD 8)
          .pend s1 (.predicate r g) (s1.now c + lat))

def execGo2d (d a : BitVec 6) (l : BitVec 4) (n t : BitVec 1) (m : BitVec 3) (s : State) : Out := predicate .go2d d a l n t m s
def execGo3d (d a : BitVec 6) (l : BitVec 4) (n t : BitVec 1) (m : BitVec 3) (s : State) : Out := predicate .go3d d a l n t m s
def execGinc (d a : BitVec 6) (l : BitVec 4) (n t : BitVec 1) (m : BitVec 3) (s : State) : Out := predicate .ginc d a l n t m s
def execGins (d a : BitVec 6) (l : BitVec 4) (n t : BitVec 1) (m : BitVec 3) (s : State) : Out := predicate .gins d a l n t m s
def execGsegx (d a : BitVec 6) (l : BitVec 4) (n t : BitVec 1) (m : BitVec 3) (s : State) : Out := predicate .gsegx d a l n t m s

/-- PREDICATE_COMPLETION: the destination fills, and gstat is replaced whole (R250, R253). -/
def execPredicateCompletion (c sl id : Nat) (s : State) : Out :=
  .next (s.onPend c sl id (fun p => match p.kind with
    | .predicate r g => (s.modThr c sl (fun t => { t with gstat := g })).finish c sl p [⟨r, false⟩]
    | _ => s))

/-- GPCFG (R252). -/
def execGpcfg (a : BitVec 6) (s : State) : Out :=
  s.issueStep { srcs := [.g a], dsts := [] } (fun s1 c sl xs =>
    let w := arg xs 0
    if w &&& 0x13F#64 != w || 48 ≤ bitsN w 5 0 then fault0 (det cGeomForm 1)
    else .ret (s1.modThr c sl (fun t => { t with gpcfg := w })) [] none)

end Sys2Proof.Machine
end

