-- ==== Sys2Proof/Machine/Transform.lean ====
section
/-! DEFINITION. The transform thread's bit streams: the bit buffer, TDEC, LDEC, LMERGE and ZRENC (13). -/

namespace Sys2Proof.Machine
open Sys2Proof

/-- Change slot 15's bit buffer. -/
def State.modBb (s : State) (c : Nat) (f : BitBuf → BitBuf) : State := s.modThr c 15 (fun t => { t with bb := f t.bb })
/-- The bit buffer. -/
def State.bb (s : State) (c : Nat) : BitBuf := (s.thr c 15).bb

/-- tinfo of the faults of this chapter (R271). -/
def bitInfo (done lane : Nat) : Word := BitVec.ofNat 64 (done * 2 ^ 32 + lane * 2 ^ 24)
/-- A precise fault of this chapter. -/
def bitFault (code : BitVec 16) : Act := .trap code (bitInfo 0 255) 0

/-! ### Refill and spill (R257-R259) -/

/-- Put n bits above the valid ones. -/
def BitBuf.append (b : BitBuf) (x n : Nat) : BitBuf :=
  { b with win := b.win ||| BitVec.ofNat 128 (x % 2 ^ n * 2 ^ b.valid), valid := b.valid + n }
/-- Drop n bits. -/
def BitBuf.drop (b : BitBuf) (n : Nat) : BitBuf := { b with win := b.win >>> n, valid := b.valid - n }
/-- The next n bits as a number. -/
def BitBuf.peek (b : BitBuf) (n : Nat) : Nat := b.win.toNat % 2 ^ (min n b.valid)
/-- The stream position (R262). -/
def BitBuf.pos (b : BitBuf) : Nat := if b.write then b.rp + b.valid else b.rp - b.valid
/-- Bits that are still to come, those of the window included. -/
def BitBuf.left (b : BitBuf) : Nat := b.valid + (b.fin - b.rp)

/-- The read window of the thread's own stream, or of an LDEC lane (R256, R266). -/
def Thread.window (t : Thread) : Option Nat → BitBuf
  | none => t.bb
  | some i => ((t.ldec.lanes[i]?).map (·.bb)).getD BitBuf.reset
/-- Replace a read window. -/
def Thread.setWindow (t : Thread) (b : BitBuf) : Option Nat → Thread
  | none => { t with bb := b }
  | some i => { t with ldec := { lanes := match t.ldec.lanes[i]? with
      | some l => t.ldec.lanes.set i { l with bb := b }
      | none => t.ldec.lanes } }
/-- Change a read window of slot 15. -/
def State.modWindow (s : State) (c : Nat) (ln : Option Nat) (f : BitBuf → BitBuf) : State :=
  s.modThr c 15 (fun t => t.setWindow (f (t.window ln)) ln)

/-- The doubleword that holds bit rp, read now (R258; 16 R315). -/
def State.refillRead (s : State) (c : Nat) (b : BitBuf) (due : Nat) : Refill :=
  let x := (s.before c).load c 15 (b.rp / 64 * 8) 8 0
  { due := some due, val := BitVec.ofNat 64 x.1, poison := x.2 }
/-- A window reads its next doubleword where it holds at most 64 bits and its stream goes on, once every earlier load and acquire of
the thread is complete: at its bank in this cycle, or in the scratchpad, whose bytes arrive three cycles later (R258, R259); at a
critical vault the refill fails. -/
def State.refillStart (s : State) (c : Nat) (ln : Option Nat) : State :=
  let b := (s.thr c 15).window ln
  if b.write || 64 < b.valid || b.fin ≤ b.rp || b.refill.isSome || b.hot ||
      (s.thr c 15).pend.any (fun p => p.kind.isRead || p.kind.isAcquire) then s
  else
    let off := b.rp / 64 * 8
    if !inVault off then
      let s1 := s.sense c off 8
      s1.modWindow c ln (fun b => { b with refill := some (s1.refillRead c b (s.now c + 3)) })
    else if (s.core c).therm == 3 then s.modWindow c ln (fun b => { b with hot := true })
    else (s.request c 15 (.refill ln) off 8 true false 0).modWindow c ln (fun b => { b with refill := some ⟨none, 0, false⟩ })
/-- A refill takes its bytes at its beat, and two cycles later the bits from rp to the next multiple of 64 or to end join the
window; they count from the next cycle on (R258). -/
def State.refillArrive (s : State) (c : Nat) (ln : Option Nat) : State :=
  let b := (s.thr c 15).window ln
  match b.refill with
  | none => s
  | some r => match r.due with
    | none =>
      if s.hasBeat c (.refill ln) then s.modWindow c ln (fun b => { b with refill := some (s.refillRead c b (s.now c + 2)) }) else s
    | some t =>
      if s.now c < t then s
      else
        let n := min (64 - b.rp % 64) (b.fin - b.rp)
        s.modWindow c ln (fun b => { (b.append (r.val.toNat / 2 ^ (b.rp % 64)) n) with
          rp := b.rp + n, refill := none, poison := b.poison || r.poison })

/-- The windows of slot 15 that read: the bit buffer, and those of the lanes that still decode (R258, R266). -/
def Thread.windows (t : Thread) : List (Option Nat) :=
  none :: ((List.range t.ldec.lanes.length).filter (fun i => match t.ldec.lanes[i]? with
    | some l => l.remaining != 0 && l.stopped.isNone
    | none => false)).map some

/-- BB_REFILL: each window that may starts its next refill (R258, R259, R266). -/
def execBbRefill (c : Nat) (s : State) : Out := .next ((s.thr c 15).windows.foldl (fun s w => s.refillStart c w) s)
/-- BB_REFILL_ARRIVAL: each refill in flight goes on (R258). -/
def execBbRefillArrival (c : Nat) (s : State) : Out := .next ((s.thr c 15).windows.foldl (fun s w => s.refillArrive c w) s)

/-- The low 64 bits of the window leave as a posted store, which those that wait for earlier writes of the thread know as a spill (R258;
16 R322). -/
def State.spill (s : State) (c : Nat) : State :=
  let b := s.bb c
  let id := s.fresh
  ((s.modBb c (fun b => { b.drop 64 with rp := b.rp + 64 })).post c 15
    [(BitVec.ofNat 64 (b.rp / 8), 8, (b.win.setWidth 64).setWidth 512)] 0).modThr c 15 (fun t => { t with
      psq := replaceFirst (fun e => e.id == id) (fun e => { e with spill := true }) t.psq })
/-- A spill is due. -/
def BitBuf.spills (b : BitBuf) : Bool := b.write && 64 ≤ b.valid
/-- A critical vault refuses the spill, which waits in the window, and with it a token of ZRENC for which the window has no room: the spec
gives a refused spill no fault (04 R76; log 91). -/
def State.spillHeld (s : State) (c : Nat) : Bool := inVault ((s.bb c).rp / 8) && (s.core c).therm == 3
/-- BB_SPILL: it waits while the posted-store queue is full (R258). -/
def execBbSpill (c : Nat) (s : State) : Out :=
  .next (if (s.bb c).spills && !(s.thr c 15).psqFull && !s.spillHeld c then s.spill c else s)

/-! ### Bit-buffer instructions (R260-R262) -/

/-- A TDEC or ZRENC of the thread is pending. -/
def State.streamBusy (s : State) (c : Nat) : Bool :=
  (s.thr c 15).pend.any (fun p => match p.kind with | .tdec .. | .zrenc .. => true | _ => false)

/-- A bit-buffer instruction: it parks while a TDEC or ZRENC is pending. -/
def bitIssue (f : Form) (body : State → Nat → List Val → Act) (s : State) : Out :=
  s.issueStep { f with slots := 0x8000 } (fun s1 c _ xs => if s1.streamBusy c then .park .memory else body s1 c xs)

/-- Bytes a stream from bit a to bit e touches: offset and count. -/
def streamBytes (a e : Nat) : Nat × Nat := (a / 8, (e + 7) / 8 - a / 8)

/-- BBSET (R261, R262).  DESIGN CHOICE: a spill is in flight while the window holds 64 or more bits, not while its store stands in the
posted-store queue (log 119); an empty range of bytes is not checked (log 101). -/
def bbset (write : Bool) (a b : BitVec 6) (s : State) : Out :=
  bitIssue { srcs := [.g a, .g b], dsts := [] } (fun s1 c xs =>
    let st := arg xs 0
    let en := arg xs 1
    let (off, n) := streamBytes st.toNat en.toNat
    if st >>> 45 != 0 || en >>> 45 != 0 then fault0 (det cNonlocal 0)
    else if en.toNat < st.toNat || (write && (st.toNat % 64 != 0 || en.toNat % 64 != 0)) then bitFault (det cBitstreamForm 3)
    else match (if n = 0 then none else (s1.core c).check (BitVec.ofNat 64 off) n 0 (!write) write false) with
      | some code => faultAt code (BitVec.ofNat 64 off)
      | none =>
        if (s1.bb c).refill.isSome || (s1.bb c).spills then .park .memory
        else .ret (s1.modBb c (fun _ => { BitBuf.reset with rp := st.toNat, fin := en.toNat, write := write })) [] none) s
def execBbsetR (a b : BitVec 6) (s : State) : Out := bbset false a b s
def execBbsetW (a b : BitVec 6) (s : State) : Out := bbset true a b s

/-- Take n bits: the checks of the window, then go. -/
def State.takeBits (s : State) (c n : Nat) (enough : Bool) (go : State → BitBuf → Act) : Act :=
  let b := s.bb c
  if b.hot then .trap (det cVaultThermal 3) 0 0
  else if !enough then .park .memory
  else if b.poison then .poison
  else go (s.modBb c (fun b => b.drop n)) b

def execBget (d a : BitVec 6) (s : State) : Out :=
  bitIssue (fR d a) (fun s1 c xs =>
    let b := s1.bb c
    let n := (arg xs 0).toNat
    if 64 < n then bitFault (det cBitstreamForm 1)
    else if b.write then bitFault (det cBitstreamForm 2)
    else if b.left < n then bitFault (det cBitstreamEnd 1)
    else s1.takeBits c n (n ≤ b.valid) (fun s2 b => ret1 s2 d (BitVec.ofNat 64 (b.peek n)))) s
def execBpeek (d a : BitVec 6) (s : State) : Out :=
  bitIssue (fR d a) (fun s1 c xs =>
    let b := s1.bb c
    let n := (arg xs 0).toNat
    if 64 < n then bitFault (det cBitstreamForm 1)
    else if b.write then bitFault (det cBitstreamForm 2)
    else s1.takeBits c 0 (n ≤ b.valid || b.fin ≤ b.rp) (fun s2 b => ret1 s2 d (BitVec.ofNat 64 (b.peek n)))) s
def execBpeekPos (d : BitVec 6) (s : State) : Out :=
  bitIssue { srcs := [], dsts := [.g d] } (fun s1 c _ => ret1 s1 d (BitVec.ofNat 64 (s1.bb c).pos)) s
def execBskip (a : BitVec 6) (s : State) : Out :=
  bitIssue { srcs := [.g a], dsts := [] } (fun s1 c xs =>
    let b := s1.bb c
    let n := (arg xs 0).toNat
    if 64 < n then bitFault (det cBitstreamForm 1)
    else if b.write then bitFault (det cBitstreamForm 2)
    else if b.left < n then bitFault (det cBitstreamEnd 1)
    else s1.takeBits c n (n ≤ b.valid) (fun s2 _ => .ret s2 [] none)) s
def execBput (a b : BitVec 6) (s : State) : Out :=
  bitIssue { srcs := [.g a, .g b], dsts := [] } (fun s1 c xs =>
    let bb := s1.bb c
    let n := (arg xs 1).toNat
    if 64 < n then bitFault (det cBitstreamForm 1)
    else if !bb.write then bitFault (det cBitstreamForm 2)
    else if bb.fin < bb.rp + bb.valid + n then bitFault (det cBitstreamEnd 2)
    else if 128 < bb.valid + n then .park .memory
    else .ret (s1.modBb c (fun b => b.append (arg xs 0).toNat n)) [] none) s

/-- BFLUSH: zero bits to the next multiple of 64; the spills follow, and g[d] holds rp after them. -/
def execBflush (d : BitVec 6) (s : State) : Out :=
  bitIssue { srcs := [], dsts := [.g d] } (fun s1 c _ =>
    let b := s1.bb c
    let v := (b.valid + 63) / 64 * 64
    if !b.write then bitFault (det cBitstreamForm 2)
    else ret1 (s1.modBb c (fun b => { b with valid := v })) d (BitVec.ofNat 64 (b.rp + v))) s

def execBalign (d : BitVec 6) (s : State) : Out :=
  bitIssue { srcs := [], dsts := [.g d] } (fun s1 c _ =>
    let b := s1.bb c
    let k := (8 - b.pos % 8) % 8
    let r := BitVec.ofNat 64 k
    if b.write then
      if 128 < b.valid + k then .park .memory else ret1 (s1.modBb c (fun b => { b with valid := b.valid + k })) d r
    else if b.left < k then bitFault (det cBitstreamEnd 1)
    else s1.takeBits c k (k ≤ b.valid) (fun s2 _ => ret1 s2 d r)) s

/-! ### Tables and TDEC (R263-R265) -/

/-- Width and base of a table word. -/
def tabW (w : Word) : Nat := bitsN w 63 60
def tabBase (w : Word) : Nat := bitsN w 41 0

/-- Checks 1 and 2 of R264. -/
def State.tableCheck (s : State) (c : Nat) (w : Word) : Option Act :=
  if tabW w = 0 ∨ 12 < tabW w ∨ bitsN w 59 42 ≠ 0 ∨ inScratch (tabBase w) = false ∨ tabBase w % 64 ≠ 0 then
    some (bitFault (det cBitstreamForm 4))
  else if Config.scratchBase + (s.core c).scratch < tabBase w + 2 * 2 ^ tabW w then
    some (faultAt (det cScratchBound 0) (BitVec.ofNat 64 (tabBase w)))
  else none

/-- Count and offset of an output word. -/
def outCount (w : Word) : Nat := bitsN w 63 48
def outOff (w : Word) : Nat := bitsN w 41 0
def outBad (w : Word) : Bool := outCount w == 0 || bitsN w 47 42 != 0 || outOff w % 2 != 0

/-- An entry of a table, with its poison, as the table was before the cycle (16 R315). -/
def State.tabEntry (s : State) (c : Nat) (w : Word) (x : Nat) : Nat × Bool :=
  let (v, po) := (s.before c).load c 15 (tabBase w + 2 * x) 2 0
  (v, po)

/-- The form of a bit-stream instruction that fills g[d] later. -/
def streamForm (srcs : List Opnd) (d : BitVec 6) (l : BitVec 4) : Form :=
  { srcs := srcs, dsts := [.g d], la := some l, slots := 0x8000 }

/-- Check 6 of R264 for an output range. -/
def State.outCheck (s : State) (c : Nat) (w : Word) : Option Act :=
  ((s.core c).check (BitVec.ofNat 64 (outOff w)) (2 * outCount w) 0 false true false).map
    (fun code => faultAt code (BitVec.ofNat 64 (outOff w)))

/-- TDEC.  The spec gives the park inside the window of an earlier TDEC or ZRENC to the instructions of major opcode 0x4C only (R260);
the model parks a TDEC there too, after its checks, since both would move the one bit buffer (log 90). -/
def execTdec (d a b : BitVec 6) (l : BitVec 4) (s : State) : Out :=
  s.issueStep (streamForm [.g a, .g b] d l) (fun s1 c _ xs =>
    match s1.tableCheck c (arg xs 0) with
    | some act => act
    | none =>
      if outBad (arg xs 1) then bitFault (det cBitstreamForm 5)
      else if (s1.bb c).write then bitFault (det cBitstreamForm 2)
      else match s1.outCheck c (arg xs 1) with
        | some act => act
        | none =>
          if s1.streamBusy c then .park .memory
          else .pend s1 (.tdec (arg xs 0) (arg xs 1) 0 []) (s1.now c + 1))

/-- Replace the kind of a pending instruction, due again in the next cycle. -/
def State.setKind (s : State) (c sl id : Nat) (k : PKind) : State :=
  s.modThr c sl (fun t => { t with
    pend := replaceFirst (fun q => q.id == id) (fun q => { q with kind := k, due := s.now c + 1 }) t.pend })

/-- A late fault of this chapter. -/
def State.bitLate (s : State) (c : Nat) (p : Pend) (code : BitVec 16) (done lane : Nat) : State :=
  s.lateFault c 15 p code (bitInfo done lane) 0

/-! #### Symbols on their way to memory (R265, R267)

Symbols are gathered for the bank word they lie in and written together; a word in the vault is written at its beat. -/

/-- The bank word that holds symbol i of an output word. -/
def symWord (out : Word) (i : Nat) : Nat := (outOff out + 2 * i) / 64
/-- Symbol i joins the symbols gathered last where they lie in one bank word. -/
def gather (out : Word) (i : Nat) (x : Nat) : List Gathered → List Gathered
  | [] => [⟨i, [BitVec.ofNat 16 (x % 2 ^ 12)]⟩]
  | [g] =>
    if symWord out g.first = symWord out i then [{ g with syms := g.syms ++ [BitVec.ofNat 16 (x % 2 ^ 12)] }]
    else [g, ⟨i, [BitVec.ofNat 16 (x % 2 ^ 12)]⟩]
  | g :: rest => g :: gather out i x rest
/-- The bytes of gathered symbols. -/
def Gathered.bytes (g : Gathered) : List Byte := g.syms.flatMap (fun x => leBytes x.toNat 2)
/-- Where gathered symbols go. -/
def Gathered.at' (g : Gathered) (out : Word) : Nat := outOff out + 2 * g.first
/-- Gathered symbols are written now; a word they fill only in part is read first (04 R68; 06 R113). -/
def State.putSyms (s : State) (c : Nat) (out : Word) (g : Gathered) : State :=
  s.store c (g.at' out) g.bytes 0
/-- The symbols gathered last are complete: in the scratchpad they are written, in the vault their word goes to its bank.  What is
still to be written is left. -/
def State.sendSyms (s : State) (c id : Nat) (out : Word) (held : List Gathered) : State × List Gathered :=
  match held.getLast? with
  | none => (s, held)
  | some g =>
    if inVault (g.at' out) then
      (s.request c 15 (.word id g.first) (g.at' out) (2 * g.syms.length) false true 0, held)
    else ((s.senseParts c (g.at' out) (2 * g.syms.length)).putSyms c out g, held.dropLast)
/-- An older posted store of the thread touches the bank word of the next symbol: TDEC and LMERGE go on to the word when it has been
performed (16 R318). -/
def State.symHeld (s : State) (c id : Nat) (out : Word) (done : Nat) : Bool :=
  (s.thr c 15).psq.any (fun e => e.id < id && e.parts.any (fun x => overlap x.1.toNat x.2.1 (64 * symWord out done) 64))
/-- The words whose beat the bus carries in this cycle are written. -/
def State.writeSyms (s : State) (c id : Nat) (out : Word) (held : List Gathered) : State × List Gathered :=
  match held.find? (fun g => s.hasBeat c (.word id g.first)) with
  | some g => (s.putSyms c out g, held.filter (fun h => h.first != g.first))
  | none => (s, held)
/-- The symbols gathered last wait at no bank. -/
def State.gathering (s : State) (c id : Nat) (held : List Gathered) : Bool :=
  match held.getLast? with
  | some g => !(s.core c).queued (.word id g.first)
  | none => false

/-- A late fault of TDEC or LMERGE: the symbols before the failing one are written first (R265, R267). -/
def State.symbolFault (s : State) (c id : Nat) (out : Word) (held : List Gathered) (hold : List Gathered → PKind) (fault : State → State) :
    State :=
  if held.isEmpty then fault s
  else if s.gathering c id held then
    let x := s.sendSyms c id out held
    if x.2.isEmpty then fault x.1 else x.1.setKind c 15 id (hold x.2)
  else s.setKind c 15 id (hold held)

/-- TDEC takes the symbol of a table entry, and sends its bank word when that is full or TDEC is at its end (R265). -/
def State.takeSymbol (s : State) (c id : Nat) (table out : Word) (done : Nat) (held : List Gathered) (e : Nat) : State :=
  let h := gather out done e held
  let x := if done + 1 = outCount out ∨ symWord out (done + 1) ≠ symWord out done then s.sendSyms c id out h else (s, h)
  x.1.setKind c 15 id (.tdec table out (done + 1) x.2)

/-- TDEC_COMPLETION: words at their beats are written; the next symbol, or the end of TDEC (R265).  R265 places the poison of bb only: that
of a table entry is consumed with it, behind the checks of the entry's length (log 103). -/
def execTdecCompletion (c sl id : Nat) (s0 : State) : Out :=
  .next (s0.onPend c sl id (fun p => match p.kind with
    | .tdec table out done held0 =>
      let (s, held) := s0.writeSyms c id out held0
      let wait := s.setKind c sl id (.tdec table out done held)
      let b := s.bb c
      let w := tabW table
      if done = outCount out then if held.isEmpty then s.finish c sl p [Val.of (BitVec.ofNat 64 b.pos)] else wait
      else if b.hot then s.symbolFault c id out held (.tdec table out done) (fun s => s.lateFault c sl p (det cVaultThermal 3) 0 0)
      else if b.valid < w && b.rp < b.fin || s.symHeld c id out done then wait
      else if inVault (outOff out) && (s.core c).therm == 3 then s.lateFault c sl p (det cVaultThermal 2) 0 0
      else
        let s1 := s.sense c (tabBase table + 2 * b.peek w) 2
        let (e, po) := s1.tabEntry c table (b.peek w)
        let len := e / 4096
        let fault (code : BitVec 16) : State := s1.symbolFault c id out held (.tdec table out done) (fun s => s.bitLate c p code done 255)
        if len = 0 ∨ w < len then fault (det cBitstreamCode 1)
        else if b.left < len then fault (det cBitstreamEnd 1)
        else if b.poison || po then s1.symbolFault c id out held (.tdec table out done) (fun s => s.consumed c sl p)
        else (s1.modBb c (fun b => b.drop len)).takeSymbol c id table out done held e
    | _ => s0))

/-! ### LDEC and LMERGE (R264, R266, R267) -/

/-- Symbols still pending: to be decoded, or in the queues. -/
def Lanes.pending (x : Lanes) : Nat := (x.lanes.map (fun l => l.remaining + l.queue.length)).sum

/-- Chunk count and offset of the index of a chunk word. -/
def chunkCount (w : Word) : Nat := bitsN w 50 48 + 1

/-- The addresses of the chunk-index entries. -/
def chunkAddrs (w : Word) : List (Nat × Word) :=
  (List.range (chunkCount w)).map (fun i => (i, BitVec.ofNat 64 (outOff w + 16 * i)))

/-- LDEC: its index entries are read as scalar reads of 16 bytes, an aligned 128 bytes at a time (04 R68; 06 R112).  DESIGN
CHOICE: they carry tag 0 (log 120). -/
def execLdec (d a b : BitVec 6) (l : BitVec 4) (s : State) : Out :=
  s.issueStep (streamForm [.g a, .g b] d l) (fun s1 c sl xs =>
    match s1.tableCheck c (arg xs 0) with
    | some act => act
    | none =>
      let w := arg xs 1
      let off := outOff w
      if w &&& 0x000703FFFFFFFFFF#64 != w || off % 16 != 0 then bitFault (det cBitstreamForm 5)
      else match (s1.core c).check (BitVec.ofNat 64 off) (16 * chunkCount w) 0 true false false with
        | some code => faultAt code (BitVec.ofNat 64 off)
        | none =>
          let t := s1.thr c sl
          if 0 < t.ldec.pending || t.pend.any (fun p => match p.kind with | .ldec .. => true | _ => false) then .park .memory
          else .pend (s1.laneReads c sl 16 0 (chunkAddrs w) true) (.ldec (arg xs 0) w) (s1.now c + latency off))

/-- A chunk-index entry as a lane: its fault if its range fails R66 (R266); a chunk of 0 bits has no range to check (log 102). -/
def State.chunk (s : State) (c : Nat) (table : Word) (x : Nat) : Except (BitVec 16 × Word) Lane :=
  let st := BitVec.ofNat 64 x
  let bits := x / 2 ^ 64 % 2 ^ 32
  let n := x / 2 ^ 96 % 2 ^ 32
  let lane : Lane :=
    { table := table, bb := { BitBuf.reset with rp := st.toNat, fin := st.toNat + bits }, remaining := n, queue := [], stopped := none }
  let (o, k) := streamBytes st.toNat (st.toNat + bits)
  if st >>> 45 != 0 then .error (det cNonlocal 0, st)
  else match (if bits = 0 then none else (s.core c).check (BitVec.ofNat 64 o) k 0 true false false) with
    | some code => .error (code, BitVec.ofNat 64 o)
    | none => .ok lane

/-- The lanes of all chunks, or the first failure. -/
def State.chunkLanes (s : State) (c : Nat) (table : Word) : List Nat → Except (BitVec 16 × Word) (List Lane)
  | [] => .ok []
  | x :: rest => match s.chunk c table x with
    | .error e => .error e
    | .ok l => match s.chunkLanes c table rest with
      | .error e => .error e
      | .ok ls => .ok (l :: ls)

/-- The index entries that a pending LDEC has read, with their poison; one not read is read now. -/
def State.chunkWords (s : State) (c : Nat) (p : Pend) (w : Word) : List (Nat × Bool) :=
  (chunkAddrs w).map (fun x => (p.gotOf x.1).getD (s.load c 15 x.2.toNat 16 0))

/-- The lanes start: LDEC completes with the sum of the counts (R266). -/
def State.startLanes (s : State) (c sl : Nat) (p : Pend) (table w : Word) : State :=
  let xs := s.chunkWords c p w
  if xs.any (·.2) then s.consumed c sl p
  else match s.chunkLanes c table (xs.map (·.1)) with
    | .error (code, a) => s.lateFault c sl p code a a
    | .ok ls => (s.modThr c sl (fun t => { t with ldec := { lanes := ls } })).finish c sl p
        [Val.of (BitVec.ofNat 64 ((ls.map (·.remaining)).sum))]

/-- A lane decodes one symbol, or stops, or waits for a refill or for a place in its queue (R266, R267). -/
def State.laneStep (s : State) (c : Nat) (l : Lane) : State × Lane :=
  let b := l.bb
  let w := tabW l.table
  if l.remaining = 0 ∨ l.stopped.isSome = true ∨ 512 ≤ l.queue.length then (s, l)
  else if b.hot then (s, { l with stopped := some (some (det cVaultThermal 3)) })
  else if b.valid < w && b.rp < b.fin then (s, l)
  else
    let s1 := s.sense c (tabBase l.table + 2 * b.peek w) 2
    let (e, pe) := s1.tabEntry c l.table (b.peek w)
    let len := e / 4096
    if len = 0 ∨ w < len then (s1, { l with stopped := some (some (det cBitstreamCode 2)) })
    else if b.left < len then (s1, { l with stopped := some (some (det cBitstreamEnd 3)) })
    else if b.poison || pe then (s1, { l with stopped := some none })
    else (s1, { l with bb := b.drop len, remaining := l.remaining - 1, queue := l.queue ++ [BitVec.ofNat 16 (e % 4096)] })

/-- LDEC_LANE_SYMBOL: a pending LDEC that has read its index starts its lanes, or a lane decodes one symbol (R266). -/
def execLdecLaneSymbol (c lane : Nat) (s : State) : Out :=
  .next (
    let t := s.thr c 15
    match t.pend.find? (fun p => (match p.kind with | .ldec _ w => p.ready (BitVec.ofNat 64 (outOff w)) | _ => false) && p.due ≤ s.now c) with
    | some p => match p.kind with
      | .ldec table w => s.startLanes c 15 p table w
      | _ => s
    | none => match t.ldec.lanes[lane]? with
      | some l =>
        let x := s.laneStep c l
        x.1.modThr c 15 (fun t => { t with ldec := { lanes := t.ldec.lanes.set lane x.2 } })
      | none => s)

/-- LMERGE.  One that is issued while an LDEC is pending parks, before check 5, and check 5 does not count the symbols that earlier pending
LMERGEs are still to take: R264 gives neither (log 99). -/
def execLmerge (d a : BitVec 6) (l : BitVec 4) (s : State) : Out :=
  s.issueStep (streamForm [.g a] d l) (fun s1 c sl xs =>
    let w := arg xs 0
    let t := s1.thr c sl
    let claimed := (t.pend.map (fun p => match p.kind with | .lmerge o k _ => outCount o - k | _ => 0)).sum
    if outBad w then bitFault (det cBitstreamForm 5)
    else if t.pend.any (fun p => match p.kind with | .ldec .. => true | _ => false) then .park .memory
    else if t.ldec.pending - claimed < outCount w then bitFault (det cBitstreamForm 6)
    else match s1.outCheck c w with
      | some act => act
      | none => .pend s1 (.lmerge w 0 []) (s1.now c + 1))

/-- What the next symbol in stream order is (R267): a symbol and the lanes without it, a lane that has stopped, or nothing
available yet. -/
inductive NextSym where
  | sym (x : BitVec 16) (rest : List Lane)
  | stop (lane : Nat) (why : Option (BitVec 16))
  | wait

/-- The next symbol of the lanes from number i on. -/
def nextSym : Nat → List Lane → NextSym
  | _, [] => .wait
  | i, l :: rest =>
    match l.queue with
    | x :: q => .sym x ({ l with queue := q } :: rest)
    | [] =>
      if l.remaining = 0 then
        match nextSym (i + 1) rest with
        | .sym x r => .sym x (l :: r)
        | r => r
      else match l.stopped with
        | some why => .stop i why
        | none => .wait

/-- The symbols of one cycle of LMERGE (R267): as many as are available, of one bank word, at most n: how many are taken then, the
lanes left, and those symbols. -/
def takeSyms (out : Word) : Nat → Nat → List Lane → Nat × List Lane × List (BitVec 16)
  | 0, done, ls => (done, ls, [])
  | n + 1, done, ls =>
    if done = outCount out then (done, ls, [])
    else match nextSym 0 ls with
      | .sym x rest =>
        if symWord out done = symWord out (done + 1) then
          let r := takeSyms out n (done + 1) rest
          (r.1, r.2.1, x :: r.2.2)
        else (done + 1, rest, [x])
      | _ => (done, ls, [])

/-- A lane's fault as the LMERGE that reaches it takes it: a critical vault has no place in R271's layout. -/
def State.laneFaults (s : State) (c sl : Nat) (p : Pend) (done lane : Nat) : Option (BitVec 16) → State
  | none => s.consumed c sl p
  | some code => if code = det cVaultThermal 3 then s.lateFault c sl p code 0 0 else s.bitLate c p code done lane

/-- LMERGE_COMPLETION: up to 32 symbols are written; at the end LMERGE completes, and at a stopped lane it takes its fault
and every lane is cleared (R267).  The symbols still pending after the merge are those of the cycle of its completion (log 100). -/
def execLmergeCompletion (c sl id : Nat) (s0 : State) : Out :=
  .next (s0.onPend c sl id (fun p => match p.kind with
    | .lmerge out done held0 =>
      let (s, held) := s0.writeSyms c id out held0
      let t := s.thr c sl
      let wait := s.setKind c sl id (.lmerge out done held)
      let first := (t.pend.find? (fun q => match q.kind with | .lmerge .. => true | _ => false)).map (·.id)
      if first != some id then wait
      else if done = outCount out then
        if held.isEmpty then s.finish c sl p [Val.of (BitVec.ofNat 64 t.ldec.pending)] else wait
      else if inVault (outOff out) && (s.core c).therm == 3 then s.lateFault c sl p (det cVaultThermal 2) 0 0
      else match nextSym 0 t.ldec.lanes with
        | .wait => wait
        | .sym .. =>
          if s.symHeld c id out done then wait else
          let x := takeSyms out 32 done t.ldec.lanes
          let y := (s.modThr c sl (fun t => { t with ldec := { lanes := x.2.1 } })).sendSyms c id out (held ++ [⟨done, x.2.2⟩])
          y.1.setKind c sl id (.lmerge out x.1 y.2)
        | .stop i why =>
          s.symbolFault c id out held (.lmerge out done) (fun s =>
            (s.modThr c sl (fun t => { t with ldec := Lanes.reset })).laneFaults c sl p done i why)
    | _ => s0))

/-! ### ZRENC (R268-R270) -/

/-- ZRENC: the checks of R270, of which a count of 0, a range of no bytes, leaves the third out (log 101).  Like TDEC it parks, after them,
while an earlier TDEC or ZRENC is pending (log 90). -/
def zrencIssue (fin : Bool) (d a b : BitVec 6) (l : BitVec 4) (s : State) : Out :=
  s.issueStep (streamForm [.g a, .g b] d l) (fun s1 c _ xs =>
    let src := arg xs 0
    let n := (arg xs 1).toNat
    if !(s1.bb c).write then bitFault (det cBitstreamForm 2)
    else if 65536 < n then bitFault (det cBitstreamForm 1)
    else match (if n = 0 then none else if !isGlobal src && src.toNat % 8 != 0 then some (det cMisaligned 8)
        else (s1.core c).check src (8 * n) 0 true false false) with
      | some code => faultAt code src
      | none =>
        if s1.streamBusy c then .park .memory
        else .pend s1 (.zrenc src (arg xs 1) 0 fin 0) (s1.now c + 1))
def execZrenc (d a b : BitVec 6) (l : BitVec 4) (s : State) : Out := zrencIssue false d a b l s
def execZrencEnd (d a b : BitVec 6) (l : BitVec 4) (s : State) : Out := zrencIssue true d a b l s

/-- The words of a source that a ZRENC has asked its vault for and not received. -/
def Core.askedWords (k : Core) (id : Nat) : Nat :=
  let own (r : BankReq) : Bool := match r.ref with | .word i _ => i == id | _ => false
  (k.banks.toList.flatMap (fun b => b.queue.filter own)).length + (k.beats.filter (fun e => own e.req)).length
/-- ZRENC reads one word of its source each cc (R270): from the scratchpad at once, from the vault as a scalar read; the spec bounds
neither the words on their way nor those read ahead of the token, which the model holds to 8 beyond a longest run (log 90).  DESIGN CHOICE: its reads
carry tag 0 (log 120). -/
def State.zrRead (s : State) (c : Nat) (p : Pend) (src count : Word) (done : Nat) : State :=
  let next := done + p.got.length + (s.core c).askedWords p.id
  let off := src.toNat + 8 * next
  if count.toNat ≤ next ∨ done + 264 ≤ next then s
  else if inVault off then s.request c 15 (.word p.id next) off 8 true false 0
  else
    let s1 := s.sense c off 8
    s1.modPend c 15 p.id (fun q => { q with got := q.got ++ [(next, (s1.before c).load c 15 off 8 0)] })
/-- The word whose beat the bus carries in this cycle has come. -/
def State.zrArrive (s : State) (c : Nat) (p : Pend) (src : Word) : State :=
  match (s.core c).granted with
  | some (.word i k) =>
    if i = p.id then s.modPend c 15 p.id (fun q => { q with got := q.got ++ [(k, s.load c 15 (src.toNat + 8 * k) 8 0)] }) else s
  | _ => s
/-- Some words of a pending ZRENC are encoded. -/
def State.encoded (s : State) (c id : Nat) (src count : Word) (done : Nat) (fin : Bool) (bits : Nat) : State :=
  (s.modPend c 15 id (fun q => { q with got := q.got.filter (fun g => done ≤ g.1) })).setKind c 15 id (.zrenc src count done fin bits)

/-- The run of words equal to x that have come from number k on, at most n, and whether it is known to end: it has its greatest length,
or the word behind it has come. -/
def Pend.zrRun (p : Pend) (x : Word) : Nat → Nat → Nat × Bool
  | 0, _ => (0, true)
  | n + 1, k => match p.gotOf k with
    | none => (0, false)
    | some g => if BitVec.ofNat 64 g.1 = x then let r := p.zrRun x n (k + 1); (r.1 + 1, r.2) else (0, true)

/-- Fewer than two places of the posted-store queue are free, as one token may need. -/
def Thread.psqTight (t : Thread) : Bool := 6 < (t.psq.filter (fun e => !e.taken)).length

/-- Append bits, spilling a full doubleword. -/
def State.putBits (s : State) (c x n : Nat) : State :=
  let s1 := s.modBb c (fun b => b.append x n)
  if 64 ≤ (s1.bb c).valid && !s1.spillHeld c then s1.spill c else s1

/-- ZRENC encodes the word numbered done where that and what follows it settle a token (R269): a run, a literal, or nothing yet. -/
def State.zrToken (s : State) (c : Nat) (p : Pend) (src count : Word) (done : Nat) (fin : Bool) (bits : Nat) : State :=
  let b := s.bb c
  let fits (n : Nat) : Bool := b.rp + b.valid + n ≤ b.fin
  match p.gotOf done with
  | none => s
  | some (v, po) =>
    let x := BitVec.ofNat 64 v
    if po then s.consumed c 15 p
    else if x = 0 ∨ x = b.zprev then
      let run := p.zrRun x (min 256 (count.toNat - done)) done
      if !run.2 then s
      else if (List.range run.1).any (fun i => ((p.gotOf (done + i)).map (·.2)).getD false) then s.consumed c 15 p
      else if fits 10 then
        (((s.modBb c (fun b => { b with zprev := x })).putBits c (if x = 0 then 0 else 1) 2).putBits c (run.1 - 1) 8).encoded c p.id
          src count (done + run.1) fin (bits + 10)
      else s.bitLate c p (det cBitstreamEnd 2) done 255
    else if fits 66 then
      (((s.modBb c (fun b => { b with zprev := x })).putBits c 2 2).putBits c v 64).encoded c p.id src count (done + 1) fin (bits + 66)
    else s.bitLate c p (det cBitstreamEnd 2) done 255

/-- ZRENC_COMPLETION: the next word is read and the next token appended, the END token, or the end of ZRENC (R269, R270). -/
def execZrencCompletion (c sl id : Nat) (s : State) : Out :=
  .next (s.onPend c sl id (fun p => match p.kind with
    | .zrenc src count done fin bits =>
      let b := s.bb c
      if done = count.toNat then
        if 64 ≤ b.valid || (s.thr c sl).psqTight then s
        else if fin then
          let pad := 2 + (64 - (b.valid + 2) % 64) % 64
          if b.rp + b.valid + pad ≤ b.fin then
            let n := min pad (64 - b.valid)
            ((s.putBits c 3 n).putBits c (3 / 2 ^ n) (pad - n)).encoded c id src count done false (bits + pad)
          else s.bitLate c p (det cBitstreamEnd 2) done 255
        else s.finish c sl p [Val.of (BitVec.ofNat 64 bits)]
      else if inVault (src.toNat + 8 * done) && (s.core c).therm == 3 then s.lateFault c sl p (det cVaultThermal 2) 0 0
      else
        let s1 := s.zrArrive c p src
        let s2 := s1.onPend c sl id (fun q => s1.zrRead c q src count done)
        if 64 ≤ b.valid || (s.thr c sl).psqTight || (s.spillHeld c && 62 < b.valid) then s2
        else s2.onPend c sl id (fun q => s2.zrToken c q src count done fin bits)
    | _ => s))

end Sys2Proof.Machine
end

