-- ==== Sys2Proof/Machine/Thermal.lean ====
section
/-! DEFINITION. Changes of a vault's thermal state (04 R70, R75, R76). -/

namespace Sys2Proof.Machine
open Sys2Proof

/-- A pending vault access of a thread that the entry to critical abandons: reads that have not made their beat, and the
accesses that wait for their turn; 0x02 names them all (R76; log 91). -/
def Core.loses (k : Core) (sl : Nat) (p : Pend) : Bool :=
  let left (i : Nat) : Bool := (p.gotOf i).isNone && !k.beats.any (fun e => e.again && (match e.req.ref with
    | .pend x id lanes => x == sl && id == p.id && lanes.contains i | _ => false))
  !p.served && !k.halfDone (.pend sl p.id [0]) && (match p.kind with
  | .load ea .. | .ctrwait ea _ _ false _ => inVault ea.toNat
  | .vload addrs .. => addrs.any (fun x => inVault x.2.toNat && left x.1)
  | .stl ea .. | .amo _ ea .. | .ctradd ea .. | .ldx _ ea _ | .launch _ ea _ 0 => inVault ea.toNat
  | .ldec _ w => inVault (outOff w) && p.kind.lanes.any left
  | .tdec _ out _ held | .lmerge out _ held => inVault (outOff out) && held.any (fun g =>
      k.queued (.word p.id g.first) && !k.halfDone (.word p.id g.first))
  | .zrenc src count done .. => inVault src.toNat && done + p.got.length + (k.beats.filter (fun e => e.again && (match e.req.ref with
      | .word id _ => id == p.id | _ => false))).length < count.toNat
  | _ => false)

/-- Every thread of a core whose pending access is abandoned takes its late fault (R76). -/
def State.loseAccesses (s : State) (c : Nat) : State :=
  (List.range 16).foldl (fun s sl =>
    ((s.thr c sl).pend.filter ((s.core c).loses sl)).foldl (fun s p => s.lateFault c sl p (det cVaultThermal 2) 0 0) s) s

/-- Tile transfers that still have vault bytes to move are abandoned: a load with 0x02, its slot still filling; a store with
0x06 (R76; 06 R125). -/
def State.loseTransfers (s : State) (c : Nat) : State :=
  ((s.core c).xfers.filter (fun x => x.pieces.any (fun p => inVault p.at') || ifSome (x.scaleAt.map (·.toNat)) false inVault)).foldl
    (fun s x => match s.pend? c x.slot x.id with
      | some p => (s.dropXfer c x.id).lateFault c x.slot p (det cVaultThermal (if x.store then 6 else 2)) 0 0
      | none => s.dropXfer c x.id) s

/-- A copy request with beats of the vault still to come, to read a source or to write a destination there (R76; 05 R102). -/
def CopyReq.lost (r : CopyReq) : Bool :=
  let there (a : Word) : Bool := !isGlobal a && inVault a.toNat
  let rows := List.range (r.total / max 1 r.len)
  r.active && (rows.any (fun i => r.issued < (i + 1) * r.len && there (r.row i).1) ||
    (!r.fill && rows.any (fun i => r.performed < (i + 1) * r.len && there (r.row i).2)))

/-- Copies whose source or destination vault has entered critical fail with 0x05. -/
def State.loseCopies (s : State) (c : Nat) : State :=
  ((s.core c).copies.filter (·.lost)).foldl (fun s r => s.failCopy c r.id (det cVaultThermal 5) (r.w 0)) s

/-- A read window with a refill that waits for its beat finds the vault critical (13 R259); one whose beat is made again behind a rebuild is
read (R76, R77). -/
def BitBuf.enterCritical (again : Bool) (b : BitBuf) : BitBuf :=
  match b.refill with
  | some r => if inVault (b.rp / 64 * 8) && r.due.isNone && !again then { b with refill := none, hot := true } else b
  | none => b
/-- The vault keeps the posted stores it has accepted and the writes of what it has read (R76); the refills of slot 15 that wait fail. -/
def Core.enterCritical (k : Core) : Core :=
  let stays (r : BankReq) : Bool := r.made || (match r.ref with | .posted .. => true | _ => false)
  let t := k.thread 15
  let again (ln : Option Nat) : Bool := k.beats.any (fun e => e.again && e.req.ref == .refill ln)
  { k.setThread 15 { t with
      bb := t.bb.enterCritical (again none)
      ldec := { lanes := (t.ldec.lanes.zipIdx).map (fun (x : Lane × Nat) => { x.1 with bb := x.1.bb.enterCritical (again (some x.2)) }) } } with
    banks := vecMap (fun b => { b with queue := b.queue.filter stays }) k.banks
    beats := k.beats.filter (fun e => e.second || e.again || stays e.req) }

/-- THERMAL_STATE_CHANGE: the vault of a core is normal, warm, hot or critical from now on; a change between normal and
another state skips the starts of the new schedule that come too soon (R70), and the entry to critical abandons what R76
lists. -/
def execThermalStateChange (c : Nat) (t : BitVec 2) (s : State) : Out :=
  let k := s.core c
  let new := t.toNat
  let skip := (k.therm == 0) != (new == 0)
  let s1 := s.modCore c (fun k => { k with therm := new, schedFrom := if skip then s.rtime + k.rcOf 64 else k.schedFrom })
  .next (if new = 3 ∧ k.therm ≠ 3 then
      (((s1.loseAccesses c).loseTransfers c).loseCopies c).modCore c Core.enterCritical
    else s1)

end Sys2Proof.Machine
end

