-- ==== Sys2Proof/Machine/Far.lean ====
section
/-! DEFINITION. Far agents: the checks of every block, reading, writing, port loss; host-assisted requests (03 R50-R63; 20
R428). -/

namespace Sys2Proof.Machine
open Sys2Proof

/-! ### Host-assisted functions (20 R428) -/

/-- A byte of the command slots and host-assist rings (20 R424). -/
def State.paciaByte (s : State) (off : Nat) : Byte := memGet s.pacia off
/-- Write bytes of the command slots and host-assist rings. -/
def State.paciaPut (s : State) (off : Nat) : List Byte → State
  | [] => s
  | b :: rest => ({ s with pacia := memSet s.pacia off b }).paciaPut (off + 1) rest
/-- A request record of 64 bytes in its slot of a function's ring: the spec gives its size and not its fields, so its bytes are free
(log 40). -/
def State.assistRecord (s : State) (fn slot : Nat) : State :=
  let at' := 0x03000000 + 0x3000 * fn + 64 * slot
  { s.paciaPut at' ((List.range 8).flatMap (fun i => leBytes (Config.freeWord (s.fresh + i)).toNat 8)) with fresh := s.fresh + 8 }

/-- A function that may be host-assisted: it may go on when its mode is clear or when the host has answered its request;
otherwise the request stands on the function's ring. -/
def State.ask (s : State) (fn obj : Nat) : Bool × State :=
  match s.assist.find? (fun a => a.fn == fn && a.obj == obj) with
  | some a => if a.answered then (true, { s with assist := s.assist.erase a }) else (false, s)
  | none =>
    if s.modes.getLsbD fn then
      let n := (s.assistCount[fn]?).getD 0
      (false, { s.assistRecord fn (n % 128) with
        assist := s.assist ++ [{ fn := fn, slot := n % 128, obj := obj, answered := false }]
        assistCount := (List.range 5).map (fun i => (s.assistCount[i]?).getD 0 + (if i = fn then 1 else 0)) })
    else (true, s)

/-! ### Blocks (R54-R57) -/

/-- A 256-byte block of an agent, numbered by key. -/
def blockKey (home off : Nat) : Nat := key home off / 256
/-- The global address of a block. -/
def State.blockAddr (s : State) (home off : Nat) : Word := BitVec.ofNat 64 (s.devNum * 2 ^ 53 + key home off / 256 * 256)
/-- The part of each block that n bytes from an offset touch. -/
def blockParts (off n : Nat) : List (Nat × Nat) :=
  (List.range ((off + n - 1) / 256 + 1 - off / 256)).map (fun i =>
    let b := off / 256 * 256 + 256 * i
    let a := max off b
    (a, min (off + n) (b + 256) - a))

/-- A sector fails its check: its CRC, or the poison of the expander (R57). -/
def State.sectorFails (s : State) (u : Nat) : Bool := s.crcFails u || s.poison.contains u
/-- The four sectors of the block that holds an offset. -/
def blockUnits (home off : Nat) : List Nat := (List.range 4).map (fun i => unit home (off / 256 * 256) + i)
/-- What the checks of a block find (R57): the failed sectors, as a mask, and for a rebuild the bits that each rebuilt sector keeps
flipped. -/
inductive BlockCheck where
  | clean
  | rebuilt (sectors : Nat) (left : List (Nat × Vec))
  | lost (sectors : Nat)
  deriving DecidableEq, Repr

/-- Steps 1 and 2 of R57.  A block is read whole, with its metadata (R54), so that the request touches its four sectors (log 92).  A
rebuild fails when more than two sectors of the group fail their CRC, when a rebuilt sector still fails it, or when the expander
marked a sector of the group with poison.  DESIGN CHOICE: rebuilt sectors of the group's other blocks are not written back (log 113). -/
def State.checkBlock (s : State) (home off : Nat) : BlockCheck :=
  let us := blockUnits home off
  let mask := ((us.zipIdx).filter (fun (x : Nat × Nat) => s.sectorFails x.1)).foldl (fun acc (x : Nat × Nat) => acc + 2 ^ x.2) 0
  let group := unit home off / 16
  if mask = 0 then .clean
  else match (if s.poison.any (fun u => u / 16 == group) then none else s.rebuilt? group) with
    | none => .lost mask
    | some xs => .rebuilt mask ((xs.map (fun x => (16 * group + x.1, x.2))).filter (fun x => us.contains x.1))

/-- The keys of an ASID, by name (R56). -/
def State.keyName (s : State) (asid : Nat) : Nat :=
  match s.asids.find? (fun a => a.id == asid) with | some a => a.keyName | none => 0
/-- Step 3 of R57: the block was last written under other keys, bits of its tag have flipped (R54), or its clean and rebuilt sectors are not the ciphertext that the tag
was made of: bits have flipped that no CRC shows (R56). -/
def State.tagBad (s : State) (home off asid : Nat) (left : List (Nat × Vec)) : Bool :=
  (match assocGet s.farKeys (blockKey home off) with | some k => k != s.keyName asid | none => false) || s.tagFlipped (blockKey home off) ||
    (blockUnits home off).any (fun u => match left.find? (fun x => x.1 == u) with
      | some x => x.2 != 0
      | none => s.flipsOf u != 0)

/-- The rebuilt sectors of a block are written back, and Pacia logs the correction. -/
def State.rebuild (s : State) (home off asid core sectors : Nat) (left : List (Nat × Vec)) : State :=
  (left.foldl (fun s x => s.writeRebuilt x.1 x.2) s).farRecord cFarCorrected (s.blockAddr home off) asid sectors 0 core

/-! ### Reading and writing ranges -/

/-- What reading a range gives: the state, the bytes with their poison, the lost blocks, and the block whose tag fails. -/
structure FarGot where
  st : State
  data : List (Byte × Bool)
  lost : List (Word × Nat)
  broken : Option (Word × Nat)

/-- Read one block's part (R57, R58).  The spec gives no values for the bytes that are delivered poisoned: the model delivers 0
(log 92). -/
def FarGot.block (g : FarGot) (home asid core : Nat) (x : Nat × Nat) : FarGot :=
  if g.broken.isSome then g
  else
    let (off, n) := x
    let s := g.st.touch core home off n false
    let a := s.blockAddr home off
    let deliver (s : State) : FarGot := { g with st := s, data := g.data ++ (s.bytes home off n).map (fun b => (b, false)) }
    match s.checkBlock home off with
    | .clean => if s.tagBad home off asid [] then { g with st := s, broken := some (a, 0) } else deliver s
    | .rebuilt m left =>
      if s.tagBad home off asid left then { g with st := s, broken := some (a, m) } else deliver (s.rebuild home off asid core m left)
    | .lost m => { g with st := s, data := g.data ++ List.replicate n (0, true), lost := g.lost ++ [(a, m)] }

/-- Read n bytes of an agent for an ASID, on behalf of a core. -/
def State.farGet (s : State) (home off n asid core : Nat) : FarGot :=
  (blockParts off n).foldl (fun g x => g.block home asid core x) { st := s, data := [], lost := [], broken := none }

/-- The bytes of a block are written: new ciphertext, CRCs and tag for its four sectors; poison makes a later read uncorrectable
(R60; 05 R102).  What the write adds to the group's parity sectors is the change from the bytes as they were written before, so that
errors in them do not reach parity (log 84). -/
def State.farBytes (s : State) (home off asid : Nat) (data : List (Byte × Bool)) : State :=
  let s1 := s.writeAt home off (data.map (·.1))
  let s2 := { s1 with
    farKeys := assocSet s1.farKeys (blockKey home off) (s.keyName asid)
    soft := s1.soft.filter (fun e => !((e.parity == 0 && (blockUnits home off).contains e.unit) || (e.parity == 3 && e.unit / 4 == blockKey home off))) }
  if data.any (·.2) then (List.range 4).foldl (fun s i => s.mark home (off / 256 * 256 + 64 * i)) s2 else s2

/-- What writing one block's part comes to: written, dropped on a lost block, or stopped by the block's tag. -/
inductive FarPut where
  | written (s : State)
  | dropped (s : State)
  | broken (s : State) (block : Word × Nat)

/-- Write one block's part: a whole block is replaced, a part is a read-modify-write of the block (R60). -/
def State.farBlock (s0 : State) (home off asid core : Nat) (data : List (Byte × Bool)) : FarPut :=
  let s := s0.touch core home off data.length false
  let a := s.blockAddr home off
  if data.length = 256 then .written (s.farBytes home off asid data)
  else match s.checkBlock home off with
    | .lost m => .dropped (s.farRecord (det cUncorrectable 1) a asid m 2 core)
    | .clean => if s.tagBad home off asid [] then .broken s (a, 0) else .written (s.farBytes home off asid data)
    | .rebuilt m left =>
      if s.tagBad home off asid left then .broken s (a, m)
      else .written ((s.rebuild home off asid core m left).farBytes home off asid data)

/-- Write the parts of a range, up to a block whose tag fails; the first block that is written makes it a write of the page, counted once
(19 R410). -/
def State.farParts (s : State) (home asid core : Nat) (counted : Bool) :
    List (Nat × Nat) → List (Byte × Bool) → State × Option (Word × Nat)
  | [], _ => (s, none)
  | (off, n) :: rest, data =>
    match s.farBlock home off asid core (data.take n) with
    | .broken s1 b => (s1, some b)
    | .dropped s1 => s1.farParts home asid core counted rest (data.drop n)
    | .written s1 => (if counted then s1 else s1.touch core home off n true).farParts home asid core true rest (data.drop n)

/-- Write a range of an agent for an ASID, on behalf of a party. -/
def State.farPut (s : State) (home off asid core : Nat) (data : List (Byte × Bool)) : State × Option (Word × Nat) :=
  s.farParts home asid core false (blockParts off data.length) data

/-! ### Requests at an agent (R61-R63) -/

/-- The bytes a request touches. -/
def Msg.span (m : Msg) : Nat :=
  match m.kind with
  | .rget n | .rput n _ _ | .copyRead n _ => n
  | .copyWrite data => data.length
  | _ => 8
/-- A request's parity groups meet those of another (R61). -/
def Msg.sameGroup (m x : Msg) : Bool :=
  m.off / 1024 ≤ (x.off + x.span - 1) / 1024 && x.off / 1024 ≤ (m.off + m.span - 1) / 1024

/-- A request came no later than another: of those that came together, the one sent first. -/
def Msg.before (m x : Msg) : Bool :=
  m.due.num * x.due.den < x.due.num * m.due.den || (m.due.num * x.due.den == x.due.num * m.due.den && m.id ≤ x.id)
/-- Requests in the order in which they came. -/
def insertMsg (m : Msg) : List Msg → List Msg
  | [] => [m]
  | x :: rest => if m.before x then m :: x :: rest else x :: insertMsg m rest
/-- The requests that have arrived at an agent, in the order of arrival (R61). -/
def State.atAgent (s : State) (j : Nat) : List Msg :=
  (s.msgs.filter (fun m => m.home == 1024 + j && s.hasCome m && !m.refused && !m.kind.isAnswer && !s.offDevice m)).foldr insertMsg []
/-- A request waits for the host's walk, or for a pre-image that is on its way (19 R409; 20 R428). -/
def State.farWaits (s : State) (m : Msg) : Bool :=
  s.assist.any (fun a => a.fn == 1 && a.obj == m.id && !a.answered) ||
    (match s.homeAt m m.span false false with
      | .ok h off => (pageStarts off m.span).any (fun o => h == m.home && (s.lacking m.actor h o).any (fun k =>
          s.preImages.any (fun x => x.cairn == k.id && x.page == pageKey h o)))
      | .fault _ => false)
/-- The oldest request of some kinds that no older request to its groups precedes, and that waits for nothing: requests to other groups go
on past one that waits (R61; 20 R428). -/
def State.farNext (s : State) (j : Nat) (sel : MsgKind → Bool) : Option Msg :=
  let ms := s.atAgent j
  ms.find? (fun m => sel m.kind && !s.farWaits m && (ms.takeWhile (fun x => x.id != m.id)).all (fun x => !m.sameGroup x))

/-- The answer to a request that fails.  DESIGN CHOICE: nothing of a read that meets a bad tag is delivered, its earlier blocks neither (R58;
log 112). -/
def State.farFail (s : State) (m : Msg) (code : BitVec 16) : State :=
  let s1 := s.dropMsg m.id
  match m.kind with
  | .copyRead n dst => s1.sendBack m (.copyDone dst [] n (some code))
  | .copyWrite data => s1.sendBack m (.copyDone 0 [] data.length (some code))
  | _ => s1.reply m (m.va.setWidth 512) false (some code)

/-- An integrity violation of which no core is the requester is recorded with core 0xFFFF, and Pacia marks the ASID suspect (R58; log 51). -/
def State.violation (s : State) (m : Msg) (b : Word × Nat) : State :=
  let s1 := s.farRecord (det cIntegrity 0) b.1 m.asid b.2 1 m.actor
  { s1 with asids := replaceFirst (fun x => x.id == m.asid) (fun x => { x with suspect := true }) s1.asids }
/-- A request that reads a block whose tag fails (R58, R60).  A request of a thread or of the movement thread fails, and its core
records the violation, on its own device, which learns the block from the address of the answer (log 47); of RDMA, the scheduler or a
page's line copy no core is the requester.  A line copy goes on with the next line, and does not write this one. -/
def State.farBroken (s : State) (m : Msg) (b : Word × Nat) : State :=
  if m.dev ≠ 0 then
    s.farFail { m with bad := [b], va := BitVec.ofNat 64 (max m.va.toNat (m.va.toNat / 2 ^ 42 * 2 ^ 42 + gaOff b.1)) } (det cIntegrity 0)
  else if m.slot < 17 then s.farFail { m with bad := [b] } (det cIntegrity 0)
  else
    let s1 := s.violation m b
    match m.slot, m.kind with
    | 19, .copyRead .. => (s1.dropMsg m.id).skipLine m
    | _, _ => s1.farFail m (det cIntegrity 0)

/-- A request of a captured launch to pages of which its cairn still lacks the pre-image: it waits until they have been copied (19
R409). -/
def State.farHeld (s : State) (m : Msg) (rd wr : Bool) : Option State :=
  match s.homeAt m m.span rd wr with
  | .ok h off =>
    let ps := (pageStarts off m.span).filter (fun o => h == m.home && !(s.lacking m.actor h o).isEmpty)
    if ps.isEmpty then none else some (ps.foldl (fun s o => (s.preBegin m.actor h o).imageWait m (pageKey h o)) s)
  | .fault _ => none

/-- Serve a request at an agent: port down, a line or page that has gone on to another home, pages on their way to a cairn, the host's
part in the walk, translation (R62), then the access.  The host answers with the translation that the ASID's page tables give (R62; log 40). -/
def State.farServe (s : State) (j : Nat) (m : Msg) (rd wr : Bool) (go : State → Nat → State) : State :=
  if s.portsDown.contains (j / 2) then s.farFail m (det cFarPortDown 0)
  else match s.forwardTo m with
  | some h => (s.dropMsg m.id).forward m h
  | none => match s.farHeld m rd wr with
  | some s1 => s1
  | none => match s.ask 1 m.id with
    | (false, s1) => s1
    | (true, s1) => match s1.homeAt m m.span rd wr with
      | .fault code => s1.farFail m code
      | .ok h off => if h ≠ m.home then (s1.dropMsg m.id).forward m h else go s1 off

/-- Tagged memory does not reach far homes: an RPUT or RATOM with a tag is refused there (15 R296, log 88). -/
def Msg.tagged (m : Msg) : Bool := m.tag != 0

/-- A request that an agent reads for. -/
def MsgKind.farReads : MsgKind → Bool
  | .rget _ | .copyRead .. => true
  | _ => false
/-- A request that an agent writes for. -/
def MsgKind.farWrites : MsgKind → Bool
  | .rput .. | .copyWrite _ | .ratom .. => true
  | _ => false

/-- The agent records the lost blocks of a request for which no core of this device waits (R58; log 51). -/
def State.lostHere (s : State) (m : Msg) : State := if 17 ≤ m.slot && m.dev == 0 then s.recordBad m else s

/-- FAR_READ: an agent reads for an RGET, a copy, a refill, RDMA, the scheduler or a page's line copy (R57, R58). -/
def execFarRead (j : Nat) (s : State) : Out :=
  .next (match s.farNext j MsgKind.farReads with
    | none => s
    | some m => s.farServe j m true false (fun s1 off =>
        let g := s1.farGet m.home off m.span m.asid m.actor
        match g.broken with
        | some b => g.st.farBroken m b
        | none =>
          let m' := { m with bad := g.lost }
          let s2 := (g.st.dropMsg m.id).lostHere m'
          match m.kind with
          | .copyRead n dst => if m.slot = 19 then s2.sendLine m g.data else s2.sendBack m' (.copyDone dst g.data n none)
          | _ => s2.reply m' (BitVec.ofNat 512 (leNat (g.data.map (·.1)))) (g.data.any (·.2)) none))

/-- A write at an agent and its acknowledgement. -/
def State.farAck (s : State) (m : Msg) (off : Nat) (data : List (Byte × Bool)) (k : MsgKind) : State :=
  match s.farPut m.home off m.asid m.actor data with
  | (s1, some b) => s1.farBroken m b
  | (s1, none) => (s1.dropMsg m.id).sendBack m k

/-- FAR_WRITE: an agent writes for an RPUT or a copy, or runs an RATOM (R60; 14 R282). -/
def execFarWrite (j : Nat) (s : State) : Out :=
  .next (match s.farNext j MsgKind.farWrites with
    | none => s
    | some m =>
      let refused (s1 : State) (off : Nat) (go : State) : State :=
        if m.tagged then (s1.dropMsg m.id).reply m ((tagInfo m.tag m.home (lineOf off)).setWidth 512) false (some (det cCtxForm 6)) else go
      match m.kind with
      | .rput n v _ => s.farServe j m false true (fun s1 off => refused s1 off
          (s1.farAck m off ((vecBytes v n).map (fun b => (b, false))) (.reply 0 false none)))
      | .copyWrite data => s.farServe j m false true (fun s1 off => s1.farAck m off data (.copyDone 0 [] data.length none))
      | .ratom op x y => s.farServe j m true true (fun s1 off => refused s1 off (
          let g := s1.farGet m.home off 8 m.asid m.actor
          let old : Word := BitVec.ofNat 64 (leNat (g.data.map (·.1)))
          match g.broken with
          | some b => g.st.farBroken m b
          | none =>
            if g.data.any (·.2) then ((g.st.dropMsg m.id).lostHere { m with bad := g.lost }).reply { m with bad := g.lost } (old.setWidth 512) true none
            else match (if g.st.isMirror m.core then none else op.new old x y) with
              | some v => g.st.farAck m off ((leBytes v.toNat 8).map (fun b => (b, false))) (.reply (old.setWidth 512) false none)
              | none => (g.st.dropMsg m.id).reply m (old.setWidth 512) false none))
      | _ => s)

/-- FAR_PORT_DOWN: the port's two agents answer every outstanding request with FAR_PORT_DOWN, and later ones as they come
(R63). -/
def execFarPortDown (p : Nat) (s : State) : Out :=
  let s1 := { s with portsDown := sinsert s.portsDown p }
  .next ((s1.atAgent (2 * p) ++ s1.atAgent (2 * p + 1)).foldl (fun s m => s.farFail m (det cFarPortDown 0)) s1)

/-- The data capacity of an agent whose half of the expander has some bytes (R53). -/
def dataCapacity (half : Nat) : Nat := min (half * 1024 / 1216 / 2097152 * 2097152) (2 ^ 41)
/-- FAR_PORT_RESTORE: the port has retrained and firmware programs the decoder for an expander of some capacity (R53,
R63). -/
def execFarPortRestore (p cap : Nat) (s : State) : Out :=
  .next (if s.portsDown.contains p then
      { s with portsDown := s.portsDown.filter (· != p)
               farCap := assocSet (assocSet s.farCap (2 * p) (dataCapacity (cap / 2))) (2 * p + 1) (dataCapacity (cap / 2)) }
    else s)

end Sys2Proof.Machine
end

