-- ==== Sys2Proof/Machine/Fetch.lean ====
section
/-! DEFINITION. Non-instructions, the instruction store, comparator time-outs and timing-error replay (02 R34; 17 R340; 18
R386, R388). -/

namespace Sys2Proof.Machine
open Sys2Proof

/-- NON_INSTRUCTION: an attempted issue of a word that is not an instruction traps with the detail of the first failing
check (R34); a word that is an instruction is not this event. -/
def execNonInstruction (w : BitVec 32) (s : State) : Out :=
  .next (match decode w with
    | .error r => s.trapped s.curCore s.curSlot (cIllegalInstruction ||| r.detail.setWidth 16) 0 0
    | .ok _ => s)

/-- What stands at an offset of the code image. -/
inductive Fetched where
  | word (w : BitVec 32)
  /-- the line is not in the instruction store -/
  | miss
  /-- the word was delivered poisoned (18 R372) -/
  | bad
  deriving DecidableEq, Repr

/-- The instruction word at an offset. -/
def Core.fetchWord (k : Core) (pc : Word) : Fetched :=
  match k.istore.find? (fun l => l.line == pc.toNat / 2048) with
  | some l =>
    let i := pc.toNat % 2048 / 4
    if l.bad.contains i then .bad
    else match l.words[i]? with | some w => .word w | none => .miss
  | none => .miss

/-! ### The instruction store (R340) -/

/-- Bytes of a line of the core's image. -/
def State.lineBytes (s : State) (c line : Nat) : Nat := min 2048 (s.codeSize c - 2048 * line)

/-- The read message of a line's refill (slot 16). -/
def State.readLine (s : State) (c line : Nat) : State :=
  match s.ridge? c with
  | some r =>
    let a := r.packet.code + BitVec.ofNat 64 (2048 * line)
    s.send (.copyRead (s.lineBytes c line) 0) c 16 line (gaHome a) (gaOff a) a 0
  | none => s

/-- A miss joins the queue of refills; one line is read at a time. -/
def State.missLine (s : State) (c line : Nat) : State :=
  let k := s.core c
  if k.refills.contains line then s
  else
    let s1 := s.modCore c (fun k => { k with refills := k.refills ++ [line] })
    if k.refills.isEmpty then s1.readLine c line else s1

/-- The line is resident. -/
def Core.resident (k : Core) (line : Nat) : Bool := k.istore.any (fun l => l.line == line)

/-- INSTRUCTION_STORE_MISS: an issue at an offset whose line is not resident misses; misses of one line share a refill
(R340). -/
def execInstructionStoreMiss (c sl : Nat) (s : State) : Out :=
  let line := (s.thr c sl).pc.toNat / 2048
  .next (if (s.core c).resident line || (s.core c).ridge.isNone then s else s.missLine c line)

/-- The words of a line's bytes. -/
def wordsOf : List (Byte × Bool) → List (BitVec 32)
  | a :: b :: c :: d :: rest => BitVec.ofNat 32 (leNat [a.1, b.1, c.1, d.1]) :: wordsOf rest
  | _ => []
/-- The numbers of the poisoned words of a line's bytes. -/
def badWords (data : List (Byte × Bool)) : List Nat := ((data.zipIdx.filter (fun x => x.1.2)).map (fun x => x.2 / 4)).eraseDups

/-- A line enters the store in place of the one at its index. -/
def Core.installLine (k : Core) (line : Nat) (data : List (Byte × Bool)) : Core :=
  { k with istore := k.istore.filter (fun l => l.line % 32 != line % 32) ++ [{ line := line, words := wordsOf data, bad := badWords data }] }

/-- The reply of the refill under way has reached the core. -/
def State.refillReply (s : State) (c : Nat) : Option Msg :=
  s.msgs.find? (fun m => m.core == c && m.slot == 16 && m.dev == 0 && s.hasCome m && (s.core c).refills.head? == some m.pend &&
    (match m.kind with | .copyDone .. => true | _ => false))
/-- The replies to reads of code lines for an instance that has ended. -/
def State.staleLines (s : State) (c : Nat) : List Msg :=
  s.msgs.filter (fun m => m.core == c && m.slot == 16 && m.dev == 0 && m.pend == 2 ^ 32 && s.hasCome m && (match m.kind with | .copyDone .. => true | _ => false))

/-- REFILL_COMPLETE: 16 cc after its arrival the line is resident, and the next refill begins; a read that failed at its home
is recorded and acted on by its grade, or, where the instance has entered ending, recorded (R340; 18 R374; log 37). -/
def execRefillComplete (c : Nat) (s0 : State) : Out :=
  let s := (s0.staleLines c).foldl (fun s m => s.takeAnswer m) s0
  .next (match s.refillReply c with
    | none => s
    | some m =>
      let k := s.core c
      match k.refillDue with
      | none => s.modCore c (fun k => { k with refillDue := some (k.cycle + 16) })
      | some t =>
        if k.cycle < t then s
        else
          let rest := k.refills.tail
          let s1 := (s.takeAnswer m).modCore c (fun k => { k with refillDue := none, refills := rest })
          let s2 := match m.kind with
            | .copyDone _ data _ none =>
              (s1.modCore c (fun k => k.installLine m.pend data)).recordBad m
            | .copyDone _ _ _ (some code) =>
                let s3 := s1.record c 12 code m.va false false 0
                (if s1.endingSince c then s3 else s3.actByGrade c 12 code).asFar s1 m
            | _ => s1
          match rest with
          | line :: _ => s2.readLine c line
          | [] => s2)

/-! ### Pairs and replay -/

/-- Some deposits of a pair are gone (18 R387). -/
def State.loseDeposits (s : State) (c i : Nat) (es : List CmpEntry) : State :=
  let p := (s.core c).pair i
  (es.filter (fun e => 2 ≤ e.kind)).foldl (fun s e => s.dropDeposit c i e) (s.setPair c i { p with cmp := p.cmp.filter (fun e => !es.contains e) })

/-- COMPARATOR_TIMEOUT: a deposit unmatched for 4,096 cc, of whatever kind, is a mismatch of its pair, and is gone (18 R386, R387). -/
def execComparatorTimeout (c pair : Nat) (s : State) : Out :=
  let es := ((s.core c).pair pair).cmp.filter (fun e => !e.matched && e.at' + 4096 ≤ s.now c)
  .next (match es with
    | [] => s
    | e :: _ => (s.restart c (2 * pair) 2 e.pc (2 ≤ e.kind)).loseDeposits c pair es)

/-- A slot of a pair has met a persistent timing error, and its twin has not yet (18 R386, R388). -/
def State.persists (s : State) (c sl : Nat) : Bool :=
  s.isPair c sl && ((s.core c).pair (sl / 2)).cmp.any (fun e => (e.leading == (sl % 2 == 0)) && e.kind == 1 && e.pc == (s.thr c sl).pc &&
    e.data.head? == some ((det cTimingPersistent 0).setWidth 64))

/-- TIMING_REPLAY: a detector flags the instruction of a slot; it has no effect and issues again at the next opportunity
but one; the fourth flag in a row is TIMING_PERSISTENT, in a redundant pair a trap that its twin must take too (18 R386, R388). -/
def execTimingReplay (c sl : Nat) (s : State) : Out :=
  let t := s.thr c sl
  .next (if t.life != .live then s
    else if 3 ≤ t.replays then
      let w := match (s.core c).fetchWord t.pc with | .word w => w | _ => 0
      let s1 := s.modThr c sl (fun t => { t with replays := 0, replayNext := false, word := w })
      if s.isPair c sl then s1.pairTrap c sl (det cTimingPersistent 0) 0 0 t.pc
      else s1.deliver c sl (det cTimingPersistent 0) 0 0 t.pc false 0
    else (s.record c sl cTimingReplay 0 false t.handler t.pc).modThr c sl (fun t => { t with replays := t.replays + 1, replayNext := true }))

end Sys2Proof.Machine
end

