-- ==== Sys2Proof/Machine/Launch.lean ====
section
/-! DEFINITION. Launch queues, packets, kernel headers, and a launch up to placing (02 R47-R49; 17 R341-R346, R361, R362). -/

namespace Sys2Proof.Machine
open Sys2Proof

/-- n bytes from an offset in parts that cross no multiple of a unit. -/
def parts (size off n : Nat) : List (Nat × Nat) :=
  (List.range ((off + n - 1) / size + 1 - off / size)).map (fun i =>
    let b := off / size * size + size * i
    let a := max off b
    (a, min (off + n) (b + size) - a))

/-- The memory that n bytes at a global address name exists: no reserved home, no host, no device without a route, nothing
beyond a vault or an agent's data capacity (R342). -/
def State.memExists (s : State) (asid : Nat) (a : Word) (n : Nat) : Bool :=
  gaDev a != 2047 && (s.badHome asid a n).isNone && (s.farBad a n).isNone &&
    (1024 ≤ gaHome a || gaOff a + n ≤ Config.vaultBytes)

/-! ### Packets (R342) -/

/-- A packet's fields. -/
def Packet.ofBytes (bs : List Byte) : Packet :=
  { kind := field bs 0 2, flags := field bs 2 2, prio := field bs 4 1, part := field bs 5 1, w := field bs 6 1,
    h := field bs 7 1, count := field bs 8 4, pool := field bs 12 2, lvl := field bs 14 1, code := fieldW bs 0x10,
    grace := field bs 0x18 4, mnfreq := field bs 0x1C 4, mxpow := field bs 0x20 4, gcount := field bs 0x24 4,
    args := fieldW bs 0x28, fmtd := fieldW bs 0x30, sclp := fieldW bs 0x38, dep0 := fieldW bs 0x40, thr0 := fieldW bs 0x48,
    dep1 := fieldW bs 0x50, thr1 := fieldW bs 0x58, done := fieldW bs 0x60, status := fieldW bs 0x68,
    glist := fieldW bs 0x70, resv := 8 ≤ field bs 2 2 || field bs 15 1 != 0 || field bs 0x78 8 != 0 }

/-- A dependence address may not be polled (R342). -/
def State.badDep (s : State) (asid : Nat) (a : Word) : Bool := a != 0 && (a.toNat % 8 != 0 || !s.memExists asid a 8)

/-- FORM: a field out of range, or a reserved bit or value (R342, R345). -/
def State.badForm (s : State) (asid : Nat) (p : Packet) : Bool :=
  p.kind != 1 || p.resv || 63 < p.prio || 2 < p.part || p.w == 0 || p.h == 0 || p.count == 0 || 64 < p.lvl ||
    p.code.toNat % 64 != 0 || !(p.mnfreq == 0 || (600 ≤ p.mnfreq && p.mnfreq ≤ 1600)) || 64 < p.gcount ||
    p.glist.toNat % 16 != 0 || s.badDep asid p.dep0 || s.badDep asid p.dep1

/-! ### Kernel headers (02 R48, R49) -/

/-- CRC-32 (IEEE 802.3): one byte, least significant bit first. -/
def crc32Bits : Nat → BitVec 32 → BitVec 32
  | 0, w => w
  | n + 1, w => crc32Bits n (if w.getLsbD 0 then (w >>> 1) ^^^ 0xEDB88320#32 else w >>> 1)
/-- CRC-32 (IEEE 802.3) of bytes, without the final inversion. -/
def crc32Run : BitVec 32 → List Byte → BitVec 32
  | w, [] => w
  | w, b :: rest => crc32Run (crc32Bits 8 (w ^^^ b.setWidth 32)) rest
/-- CRC-32 (IEEE 802.3) of bytes. -/
def crc32 (bs : List Byte) : BitVec 32 := ~~~(crc32Run 0xFFFFFFFF#32 bs)

/-- The header record's own checks: HEADER where one fails (R49).  DESIGN CHOICE: so is an entry below 64 and a scratch outside R47's
values, which R49's list does not name (log 111). -/
def headerBad (h : List Byte) : Bool :=
  let size := field h 0x24 4
  let trap := field h 0x18 4
  let table (off count each : Nat) : Bool := count != 0 && size < off + count * each
  field h 0 4 != 0x484B5847 || field h 4 2 != 1 || field h 0x30 4 != (crc32 (h.take 0x30 ++ [0, 0, 0, 0] ++ h.drop 0x34)).toNat ||
    47 < field h 8 1 || 48 < field h 9 1 || 256 < field h 10 2 || 16 < field h 12 1 || field h 13 1 == 0 || 12 < field h 13 1 ||
    8 < field h 14 1 || 2064384 < field h 0x10 4 || field h 0x10 4 % 64 != 0 || 256 < field h 0x20 2 ||
    4 ≤ field h 6 2 || field h 15 1 != 0 || field h 0x34 12 != 0 ||
    field h 0x14 4 % 4 != 0 || field h 0x14 4 < 64 || size ≤ field h 0x14 4 ||
    (trap != 0xFFFFFFFF && (trap % 4 != 0 || size ≤ trap)) || size < 64 ||
    table (field h 0x1C 4) (field h 0x20 2) 4 || table (field h 0x28 4) (field h 14 1) 16 || table (field h 0x2C 4) (field h 0x22 2) 16 ||
    (field h 6 2 % 2 == 1 && field h 13 1 % 2 == 1)

/-- Entries of some bytes each of a table. -/
def entries (bs : List Byte) (each : Nat) : Nat → List (List Byte)
  | 0 => []
  | n + 1 => bs.take each :: entries (bs.drop each) each n

/-- The windows of the lease table, each with whether its entry is malformed. -/
def leaseTable (bs : List Byte) (n : Nat) : List (Window × Bool) :=
  (entries bs 16 n).map (fun e =>
    let perm := field e 12 1
    ({ base := field e 0 8, len := 65536 * field e 8 4, read := perm % 2 == 1, write := perm / 2 % 2 == 1 },
      4 ≤ perm || field e 13 3 != 0 || field e 8 4 == 0 || field e 0 8 % 65536 != 0))
/-- The data-block table: destination, image offset, length. -/
def dataTable (bs : List Byte) (n : Nat) : List (Nat × Nat × Nat) :=
  (entries bs 16 n).map (fun e => (field e 0 8, field e 8 4, field e 12 4))
/-- The handler table. -/
def handlerTable (bs : List Byte) (n : Nat) : List (Option Nat) :=
  (entries bs 4 n).map (fun e => if field e 0 4 = 0xFFFFFFFF then none else some (field e 0 4))

/-- Two windows overlap. -/
def Window.meets (a b : Window) : Bool := a.base < b.base + b.len && b.base < a.base + a.len
/-- No two windows of a list overlap. -/
def apart : List Window → Bool
  | [] => true
  | w :: rest => rest.all (fun x => !w.meets x) && apart rest

/-- The tables' checks: HEADER where one fails (R49). -/
def tablesBad (ws : List (Window × Bool)) (ds : List (Nat × Nat × Nat)) (size scratch : Nat) : Bool :=
  let outside (w : Window) : Bool :=
    !(w.base + w.len ≤ Config.vaultBytes || (Config.scratchBase ≤ w.base && w.base + w.len ≤ Config.scratchBase + scratch))
  ws.any (fun x => x.2 || outside x.1) || !apart (ws.map (·.1)) ||
    ds.any (fun (dst, off, n) => size < off + n ||
      !ws.any (fun x => x.1.write && x.1.base ≤ dst && dst + n ≤ x.1.base + x.1.len))

/-- The header of an image whose checks have passed. -/
def headerOf (h am : List Byte) (ws : List Window) (datas : List (Nat × List Byte)) : Header :=
  let trap := field h 0x18 4
  { redundant := field h 6 2 % 2 == 1, tagged := field h 6 2 / 2 % 2 == 1, regs := field h 8 1, vregs := field h 9 1,
    barriers := field h 10 2, rings := field h 12 1, crew := field h 13 1, scratch := field h 0x10 4,
    entry := field h 0x14 4, trapEntry := if trap = 0xFFFFFFFF then none else some trap,
    amTable := handlerTable am (field h 0x20 2), windows := ws, datas := datas, codeSize := field h 0x24 4 }

/-! ### Rectangles (R348) -/

/-- The cores of a rectangle. -/
def rectCores (x y w h : Nat) : List Nat :=
  (List.range h).flatMap (fun j => (List.range w).map (fun i => (y + j) * 32 + (x + i)))
/-- The origins of the w×h rectangles of a partition, in order of core number. -/
def origins (part w h : Nat) : List (Nat × Nat) :=
  (List.range (17 - h)).flatMap (fun j => (List.range (33 - w)).map (fun i => (i, 16 * part + j)))
/-- The partitions of a packet. -/
def Packet.partitions (p : Packet) : List Nat := if p.part = 2 then [0, 1] else [p.part]

/-- A core's registers can hold the kernel, and the core has passed its self-test (07 R132; 20 R430). -/
def Core.fits (k : Core) (h : Header) : Bool := h.regs ≤ k.gcap && h.vregs ≤ k.vcap && !k.dead
/-- Some rectangle of the packet's partitions has capacity enough. -/
def State.capacity (s : State) (p : Packet) (h : Header) : Bool :=
  p.partitions.any (fun q => (origins q p.w p.h).any (fun (x, y) => (rectCores x y p.w p.h).all (fun c => (s.core c).fits h)))

/-! ### Status (R344) -/

/-- The bytes of a status record written now. -/
def State.statusRecord (s : State) (code : Nat) (fault : BitVec 16) (clean : Nat) : List Byte :=
  leBytes code 2 ++ leBytes fault.toNat 2 ++ leBytes clean 4 ++ leBytes s.rtime 8
/-- The sequencer of a queue's massif writes a status record, where there is an address for it, and then adds n to a completion counter,
where there is one: the add is made when the record has been written, and releases it (R341, R344). -/
def State.postStatus (s : State) (asid queue launch : Nat) (status done : Word) (record : List Byte) (n : Nat) : State :=
  if status = 0 ∧ done = 0 then s
  else s.jobBegin asid (seqCore (queue % 4)) .status launch (some launch)
    ((if status = 0 then [] else [.write status record]) ++ (if done = 0 then [] else [.add done n]))

/-- Change a queue. -/
def State.modQueue (s : State) (q : Nat) (f : Queue → Queue) : State :=
  { s with queues := replaceFirst (fun x => x.id == q) f s.queues }
/-- A queue by number. -/
def State.queue? (s : State) (q : Nat) : Option Queue := s.queues.find? (fun x => x.id == q)
/-- Change a launch. -/
def State.modLaunch (s : State) (l : Nat) (f : Launch → Launch) : State :=
  { s with launches := replaceFirst (fun x => x.id == l) f s.launches }
/-- A launch by name. -/
def State.launch? (s : State) (l : Nat) : Option Launch := s.launches.find? (fun x => x.id == l)
/-- The head of a queue moves on (R341). -/
def State.nextHead (s : State) (q : Nat) : State := s.modQueue q (fun x => { x with head := x.head + 1, current := none })

/-! ### QUEUE_DOORBELL and LAUNCH -/

/-- QUEUE_DOORBELL: the tail count of a queue; a value that decreases or runs more than a ring ahead is ignored (20 R424). -/
def execQueueDoorbell (q tail : Nat) (s : State) : Out :=
  .next (match s.queue? q with
    | some x => if x.tail ≤ tail ∧ tail ≤ x.head + x.slots then s.modQueue q (fun x => { x with tail := tail }) else s
    | none => s)

/-- The packets on their way to a queue's slots (R362). -/
def State.inSlots (s : State) (q : Nat) : Nat :=
  (s.jobs.filter (fun j => j.obj == q && (match j.fn with | .launch .. => true | _ => false))).length
/-- The packets that LAUNCHes still read for a queue. -/
def State.launching (s : State) (q : Nat) : Nat :=
  (s.cores.map (fun x => (x.2.threads.toList.map (fun t => (t.pend.filter (fun p => match p.kind with
    | .launch _ _ k 0 => k == q
    | _ => false)).length)).sum)).sum
/-- LAUNCH (R361, R362): the packet is read at its bank, like a load of 128 bytes; it goes to the queue's next slot as one unit; the
instruction completes, and the sequencer may look at the packet, when it stands there. -/
def execLaunch (d a b : BitVec 6) (l : BitVec 4) (s : State) : Out :=
  s.issueStep { srcs := [.g a, .g b], dsts := [.g d], la := some l, ordering := true, ends := true, takes := true,
                gives := true, slots := 0x9FFF, touch := fun xs => [(arg xs 0, 128)], rd := true }
    (fun s1 c sl xs =>
      let ea := arg xs 0
      match (s1.core c).check ea 128 128 true false false with
      | some code => faultAt code ea
      | none =>
        match (if 512 ≤ (arg xs 1).toNat then none else s1.queue? (arg xs 1).toNat) with
        | none => fault0 (det cLaunchForm 1)
        | some q =>
          if q.asid ≠ s1.asidOf c then fault0 (det cLaunchForm 1)
          else if !s1.releaseReady c sl 8 then .park .memory
          else if q.slots ≤ q.tail + s1.inSlots q.id + s1.launching q.id - q.head then .park .message
          else .pend (s1.toBank c sl ea 128 0) (.launch 0 ea q.id 0) (s1.now c))

/-- A pending LAUNCH goes on: its packet has been read, whose poison it consumes, and takes the queue's next slot; or the packet stands in
its slot, and LAUNCH completes (R362).  A mirror copy's performs nothing outside the copy (19 R413; log 72). -/
def State.launchOn (s : State) (c sl id : Nat) : State :=
  s.onPend c sl id (fun p => match p.kind, p.gotOf 0 with
    | .launch _ ea q 0, some (v, po) =>
      if po then s.consumed c sl p
      else match s.queue? q with
        | none => s.lateFault c sl p (det cLaunchForm 1) 0 0
        | some x =>
          let n := x.tail + s.inSlots q
          let goes (stage : Nat) : State := s.modPend c sl id (fun p => { p with kind := .launch (BitVec.ofNat 64 n) ea q stage })
          if s.isMirror c then goes 2
          else (goes 1).jobBegin x.asid c (.launch c sl) q ((s.ridge? c).map (·.launch))
            [.write (x.ring + BitVec.ofNat 64 (128 * (n % x.slots))) (leBytes v 128)]
    | .launch seq _ _ 2, _ => s.finish c sl p [Val.of seq]
    | _, _ => s)

/-! ### PACKET_CHECK (R345) -/

/-- The entries of a global lease list, or none where one is malformed or names memory that does not exist (R343). -/
def State.leaseList (s : State) (asid : Nat) (bs : List Byte) (n : Nat) : Option (List (Word × Nat × Bool × Bool)) :=
  let es := (List.range n).map (fun i => (bs.drop (16 * i)).take 16)
  let bad (e : List Byte) : Bool :=
    let a := fieldW e 0
    field e 0 8 % 65536 != 0 || field e 8 4 == 0 || 4 ≤ field e 12 1 || field e 13 3 != 0 || !s.thisDev a ||
      !s.memExists asid a (65536 * field e 8 4)
  if es.any bad then none
  else some (es.map (fun e => (fieldW e 0, 65536 * field e 8 4, field e 12 1 % 2 == 1, field e 12 1 / 2 % 2 == 1)))

/-- What the checks of a packet come to, as far as the sequencer has read: a status that refuses it, with the header where that has passed
its checks; what is to be read next; or its header and leases. -/
inductive Checked where
  | refused (code : Nat) (h : Option Header)
  | read (ops : List JobOp)
  | ok (h : Header) (leases : List (Word × Nat × Bool × Bool))
  deriving DecidableEq, Repr

/-- Reads of several ranges of the image. -/
def imageReads (code : Word) (rs : List (Nat × Nat)) : List JobOp := rs.map (fun (off, n) => .read (code + BitVec.ofNat 64 off) n)

/-- Checks 1 to 4, and that the header exists: it is read. -/
def State.checkPacket (s : State) (a : Asid) (p : Packet) : Checked :=
  if s.drain.getLsbD 0 then .refused 8 none
  else if s.badForm a.id p then .refused 3 none
  else if 33 ≤ p.w ∨ 17 ≤ p.h then .refused 4 none
  else if a.ceil < p.mnfreq then .refused 2 none
  else if !s.memExists a.id p.code 64 then .refused 7 none
  else .read [.read p.code 64]

/-- Check 5, the header: the tables are read. -/
def State.checkHeader (s : State) (asid : Nat) (p : Packet) (h : List Byte) : Checked :=
  if headerBad h then .refused 1 none
  else if !s.memExists asid p.code (field h 0x24 4) then .refused 7 none
  else .read (imageReads p.code [(field h 0x1C 4, 4 * field h 0x20 2), (field h 0x28 4, 16 * field h 14 1), (field h 0x2C 4, 16 * field h 0x22 2)])

/-- Checks 6 and 7 up to the lease list, which is read. -/
def State.checkCapacity (s : State) (asid : Nat) (p : Packet) (h : Header) : Checked :=
  if !s.capacity p h then .refused 5 (some h)
  else if p.gcount = 0 then .ok h []
  else if !s.memExists asid p.glist (16 * p.gcount) then .refused 6 (some h)
  else .read [.read p.glist (16 * p.gcount)]

/-- The tables, when they have been read, with the data blocks and the lease list as far as those have: the tables are checked, and the
data blocks read; then the rest. -/
def State.checkTables (s : State) (asid : Nat) (p : Packet) (h am lt dt : List Byte) (more : List (List Byte)) : Checked :=
  let ws := leaseTable lt (field h 14 1)
  let ds := dataTable dt (field h 0x22 2)
  let hdr := headerOf h am (ws.map (·.1)) ((ds.map (·.1)).zip more)
  if tablesBad ws ds (field h 0x24 4) (field h 0x10 4) then .refused 1 none
  else if more.length < ds.length then .read (imageReads p.code (ds.map (fun (_, off, n) => (off, n))))
  else match more.drop ds.length with
    | [] => s.checkCapacity asid p hdr
    | bs :: _ => match s.leaseList asid bs p.gcount with
      | none => .refused 6 (some hdr)
      | some ls => .ok hdr ls

/-- A read of the sequencer has failed: of the lease list, LEASE, of anything before it, CODE. -/
def readFailed (got : List (List Byte)) : Checked :=
  match got with
  | _ :: h :: _ :: _ :: dt :: more => if (dataTable dt (field h 0x22 2)).length ≤ more.length then .refused 6 none else .refused 7 none
  | _ => .refused 7 none

/-- The checks of R345 in order, from what has been read: the packet's slot, the header, the three tables, the data blocks, the lease
list. -/
def State.checkNext (s : State) (a : Asid) (p : Packet) (got : List (List Byte)) (failed : Bool) : Checked :=
  if failed then readFailed got
  else match got with
    | _ :: h :: am :: lt :: dt :: more => s.checkTables a.id p h am lt dt more
    | _ :: h :: _ => s.checkHeader a.id p h
    | _ => s.checkPacket a p

/-- A header that declares nothing, for a launch whose header has not been read. -/
def Header.none : Header :=
  { redundant := false, tagged := false, regs := 0, vregs := 0, barriers := 0, rings := 0, crew := 1, scratch := 0, entry := 64,
    trapEntry := .none, amTable := [], windows := [], datas := [], codeSize := 0 }

/-- A cairn is opened for a launch that becomes the head of a queue with capture armed (19 R409). -/
def State.openCairn (s : State) (l : Launch) (raw : List Byte) : State :=
  { s with
    fresh := s.fresh + 1
    cairns := s.cairns ++ [{ id := s.fresh, launch := l.id, asid := l.asid, queue := l.queue, seq := l.serial, packet := l.packet,
                             header := l.header, code := [], deps := [], pages := [], status := none, opened := false,
                             incomplete := false, foreign := 0, foreignPages := [], live := true, raw := raw }] }
/-- The cairn of a launch takes the header, and the whole code image where it exists. -/
def State.captureCode (s : State) (l : Launch) (h : Option Header) (size : Nat) : State :=
  match l.capture with
  | none => s
  | some k =>
    let s1 := { s with cairns := replaceFirst (fun x => x.id == k) (fun x => { x with header := h.getD x.header }) s.cairns }
    if size = 0 ∨ !s.memExists l.asid l.packet.code size then s1
    else s1.jobBegin l.asid (seqCore (l.queue % 4)) .code k (some l.id) [.read l.packet.code size]

/-- The launch of a queue's packet, of which the sequencer has read the slot. -/
def State.newLaunch (s : State) (x : Queue) (a : Asid) (p : Packet) : Launch :=
  { id := s.fresh, queue := x.id, asid := a.id, serial := BitVec.ofNat 64 x.head, packet := p, state := .checking, header := Header.none,
    first := 0, count := p.count, placed := 0, ended := 0, clean := 0, fault := 0, leases := [], polled := s.rtime, deps := [], readyAt := 0,
    reserved := none, status := p.status, done := p.done, capture := if x.armed then some (s.fresh + 1) else none, replay := false }
/-- The packet becomes a launch in checking; capture that is armed on its queue opens its cairn (R345, R346; 19 R409). -/
def State.takePacket (s : State) (x : Queue) (l : Launch) (raw : List Byte) : State :=
  let s1 := { s.modQueue x.id (fun x => { x with current := some l.id, armed := false }) with fresh := s.fresh + 1, launches := s.launches ++ [l] }
  if x.armed then s1.openCairn l raw else s1

/-- A launch is refused: the head moves on, its status record is written and its count added to the completion counter; its cairn has the
status, and the code image where the header has been read (R344, R346; 19 R409). -/
def State.refusePacket (s : State) (l : Launch) (code : Nat) (h : Option Header) (got : List (List Byte)) : State :=
  let s1 := { s.nextHead l.queue with launches := s.launches.filter (fun x => x.id != l.id) }
  let s2 := s1.captureCode l h (match got with | _ :: r :: _ => field r 0x24 4 | _ => 0)
  let s3 := { s2 with cairns := s2.cairns.map (fun (k : Cairn) => if k.launch == l.id && l.capture.isSome then { k with live := false, status := some (code, 0, 0, s.rtime) } else k) }
  s3.postStatus l.asid l.queue l.id l.status l.done (s.statusRecord code 0 0) l.packet.count
/-- The checks pass: the launch waits for its dependences (R346). -/
def State.acceptPacket (s : State) (l : Launch) (h : Header) (ls : List (Word × Nat × Bool × Bool)) : State :=
  (s.modLaunch l.id (fun x => { x with state := .depwait, header := h, leases := ls, polled := s.rtime })).captureCode l (some h) h.codeSize
/-- The checks of a launch go on from what its job has read. -/
def State.checkOn (s : State) (a : Asid) (l : Launch) (j : Job) : State :=
  match s.checkNext a l.packet j.got j.failed with
  | .read ops => s.setJob (({ j with launch := some l.id } : Job).with ops)
  | .refused code h => (s.dropJob j.id).refusePacket l code h j.got
  | .ok h ls => (s.dropJob j.id).acceptPacket l h ls

/-- A queue is served: in lockstep replay mode only one that is marked (19 R413; log 73). -/
def State.serves (s : State) (q : Nat) : Bool := s.lockstep == 0 || Config.lockstepMark q
/-- The 128 bytes of a packet's slot; a slot that cannot be read gives bytes the spec does not state (log 3). -/
def State.slotBytes (s : State) (j : Job) : List Byte × State :=
  if j.failed then (let (data, s1) := s.outsideBytes 128; (data.map (·.1), s1)) else (j.got.headD [], s)

/-- PACKET_CHECK: the slot of the packet at the head of a queue is read; the packet is a launch in checking, of which the sequencer reads
the image and the lease list as its checks ask for them (R345); the host has its part in the checks of a sequencer in host-assisted mode
(R346); it waits for its dependences, or is refused. -/
def execPacketCheck (q : Nat) (s : State) : Out :=
  .next (match s.queue? q with
    | none => s
    | some x =>
      if s.devState ≠ 2 ∨ x.tail ≤ x.head ∨ s.serves q = false then s
      else match s.asids.find? (fun a => a.id == x.asid) with
      | none => s
      | some a =>
        match s.job? .check q with
        | none =>
          if x.current.isSome then s
          else s.jobBegin a.id (seqCore (q % 4)) .check q none [.read (x.ring + BitVec.ofNat 64 (128 * (x.head % x.slots))) 128]
        | some j =>
          if !j.isOver then s
          else match x.current.bind s.launch? with
          | none =>
            let (bs, s1) := s.slotBytes j
            s1.takePacket x (s1.newLaunch x a (Packet.ofBytes bs)) bs
          | some l =>
            if j.launch.isSome then s.checkOn a l j
            else match s.ask 2 l.id with
              | (false, s1) => s1
              | (true, s1) => s1.checkOn a l { j with failed := false, got := [[]] })

/-! ### DEPENDENCE_POLL and LEASING_COMPLETE (R343, R346) -/

/-- The used dependences of a packet: address and threshold. -/
def Packet.used (p : Packet) : List (Word × Word) := [(p.dep0, p.thr0), (p.dep1, p.thr1)].filter (fun x => x.1 != 0)
/-- The values of both dependences, from those of the used ones; an unused one has 0. -/
def Packet.depValues (p : Packet) (vs : List Word) : List Word :=
  if p.dep0 = 0 then [0, vs.headD 0] else [vs.headD 0, vs.tail.headD 0]
/-- Every used dependence is satisfied: the launch goes on to leasing, and its cairn has the values (R346; 19 R409). -/
def State.depsMet (s : State) (l : Nat) (vs : List Word) : State :=
  let s1 := s.modLaunch l (fun x => { x with state := .leasing, deps := vs })
  { s1 with cairns := s1.cairns.map (fun k => if k.launch == l then { k with deps := vs } else k) }

/-- DEPENDENCE_POLL: on entry to depwait and every 256 rc the sequencer reads the counters; all at their thresholds, the
launch goes on to leasing (R346). -/
def execDependencePoll (l : Nat) (s : State) : Out :=
  .next (match s.launch? l with
    | none => s
    | some x =>
      if x.state ≠ .depwait then s
      else if x.packet.used.isEmpty then s.depsMet l [0, 0]
      else match s.job? .poll l with
        | none =>
          if s.rtime < x.polled then s
          else (s.modLaunch l (fun x => { x with polled := s.rtime + 256 })).jobBegin x.asid (seqCore (x.queue % 4)) .poll l (some l)
            (x.packet.used.map (fun d => .read d.1 8))
        | some j =>
          if !j.isOver then s
          else
            let vs := j.got.map (fun b => BitVec.ofNat 64 (leNat b))
            if !j.failed && (x.packet.used.zip vs).all (fun y => y.1.2.toNat ≤ y.2.toNat) then (s.dropJob j.id).depsMet l (x.packet.depValues vs)
            else s.dropJob j.id)

/-- No page of n bytes of an ASID is under migration: a lease of any other waits (14 R291). -/
def State.still (s : State) (asid va n : Nat) : Bool := !s.migrations.any (fun m => !m.waiting && m.asid == asid && m.va < va + n && va < m.va + m.bytes)
/-- Every page of a lease entry is known to the ASID, and none of them is under migration (R343; 14 R291). -/
def State.leasable (s : State) (asid : Nat) (e : Word × Nat × Bool × Bool) : Bool :=
  (parts 65536 (gaOff e.1) e.2.1).all (fun (off, n) =>
    let va := gaHome e.1 * Config.homeSpan + off
    (s.asids.any (fun a => a.id == asid && a.pages.any (fun p => p.va ≤ va && va + n ≤ p.va + p.bytes))) && s.still asid va n)

/-- The pages of a lease entry become resident. -/
def Page.makeResident (e : Word × Nat × Bool × Bool) (p : Page) : Page :=
  let va := gaHome e.1 * Config.homeSpan + gaOff e.1
  if va < p.va + p.bytes && p.va < va + e.2.1 then { p with resident := true } else p

/-- Every lease of a launch can be taken: its entries are known and at rest, and so is its code (R343; 14 R291). -/
def State.leasesReady (s : State) (x : Launch) : Bool :=
  x.leases.all (s.leasable x.asid) && s.still x.asid (x.packet.code.toNat % 2 ^ 53) x.header.codeSize

/-- LEASING_COMPLETE: every global lease entry is resident and pinned, by the device or with the host's part (R343, R346; 20
R428). -/
def execLeasingComplete (l : Nat) (s : State) : Out :=
  .next (match s.launch? l with
    | none => s
    | some x =>
      if x.state ≠ .leasing ∨ !s.leasesReady x then s
      else match s.ask 0 l with
        | (false, s1) => s1
        | (true, s1) =>
          let resident (a : Asid) : Asid := { a with pages := a.pages.map (fun p => x.leases.foldl (fun p e => p.makeResident e) p) }
          let pins := x.leases.map (fun (a, n, r, w) =>
            ({ launch := l, home := gaHome a, off := gaOff a, bytes := n, read := r, write := w } : Pin))
          { s1.modLaunch l (fun x => { x with state := .placing, readyAt := s.rtime }) with
            asids := replaceFirst (fun a => a.id == x.asid) resident s1.asids
            pins := s1.pins ++ pins })

end Sys2Proof.Machine
end

