-- ==== Sys2Proof/Machine/Image.lean ====
section
/-! DEFINITION. The save image of a core: thread records, pending records, sections, directory, header and checksum (18 R391-R394; 13
R256, R268, R269; log 36). -/

namespace Sys2Proof.Machine
open Sys2Proof

/-! ### The thread record (18 R393; 19 R404) -/

/-- One bit for each of n registers that satisfies p. -/
def bitsOf (n : Nat) (p : Nat → Bool) : Word := BitVec.ofNat 64 ((List.range n).foldl (fun m i => if p i then m + 2 ^ i else m) 0)

/-- Register i of a slot as the record shows it: nothing above the header's counts. -/
def Thread.gAt (t : Thread) (n i : Nat) : Reg 64 := if 1 ≤ i ∧ i ≤ n then (t.g[i]?).getD (Reg.zero 64) else Reg.zero 64
/-- Vector register i of a slot as the record shows it. -/
def Thread.vAt (t : Thread) (n i : Nat) : Reg 512 := if i < n then (t.v[i]?).getD (Reg.zero 512) else Reg.zero 512
/-- Mask register i of a slot. -/
def Thread.mAt (t : Thread) (i : Nat) : Reg 16 := (t.m[i]?).getD (Reg.zero 16)
/-- Word j of a descriptor. -/
def Desc.word (d : Desc) : Nat → Word
  | 0 => d.base | 1 => d.dims | 2 => d.strides | 3 => d.form | _ => d.scale

/-- A message of the thread's pending instruction has been refused at its home (R390 step 3). -/
def State.refusedAt (s : State) (c sl id : Nat) : Option Msg :=
  s.msgs.find? (fun m => m.core == c && m.slot == sl && m.pend == id && m.dev == 0 && m.refused)
/-- A pending instruction that may stand in a save image: an unsatisfied wait, a CTXALLOC, or a remote operation refused at
its home (R390 step 3; 15 R310). -/
def State.savable (s : State) (c sl : Nat) (p : Pend) : Bool :=
  match p.kind with
  | .ctrwait _ _ _ true none => true
  | .barwait n gen => ((assocGet (s.core c).barriers n).getD Barrier.reset).gen == gen.setWidth 32
  | .ldx 1 _ _ | .ldxRemote 1 _ _ | .ctxalloc => true
  | .remote .. | .ratom | .send .. | .spawn .. | .ldxRemote .. => (s.refusedAt c sl p.id).isSome
  | _ => false

/-- The word of a thread record at an offset that is a multiple of 8 (R393). -/
def State.recordWord (s : State) (c sl off : Nat) : Word :=
  let t := s.thr c sl
  let gn := s.gDecl c
  let vn := s.vDecl c
  if off < 0x68 then
    match off / 8 with
    | 0 => (t.pc &&& 0xFFFFFFFF#64) + BitVec.ofNat 64 (2 ^ 32 * ((if t.life == .dormant then 1 else 0) + (if t.handler then 2 else 0)
        + (if t.life == .asleep then 4 else 0) + (if t.stopped then 8 else 0)))
    | 1 => t.fcsr | 2 => t.fmtd | 3 => t.sclp | 4 => t.ctx.setWidth 64 | 5 => t.iep | 6 => t.tpc | 7 => t.tcause
    | 8 => t.tinfo | 9 => t.gstat | 10 => t.mxcfg | 11 => t.gpcfg
    | _ => (if t.wrapX then 1 else 0) + (if t.wrapY then 2 else 0)
  else if off = 0x68 then bitsOf 48 (fun i => 1 ≤ i && i ≤ gn && (t.gAt gn i).fe == .full)
  else if off = 0x70 then bitsOf 48 (fun i => (t.gAt gn i).poison)
  else if off = 0x78 then bitsOf 48 (fun i => i < vn && (t.vAt vn i).fe == .full)
  else if off = 0x80 then bitsOf 48 (fun i => (t.vAt vn i).poison)
  else if off = 0x88 then bitsOf 8 (fun i => 1 ≤ i && (t.mAt i).fe == .full) + (bitsOf 8 (fun i => 1 ≤ i && (t.mAt i).poison) <<< 8)
  else if off = 0x90 then BitVec.ofNat 64 (t.pend.filter (s.savable c sl)).length
  else if 0x100 ≤ off ∧ off < 0x278 then (t.gAt gn ((off - 0x100) / 8 + 1)).val
  else if off = 0x280 then BitVec.ofNat 64 ((List.range 4).foldl (fun n i => n + (t.mAt (i + 1)).val.toNat * 65536 ^ i) 0)
  else if off = 0x288 then BitVec.ofNat 64 ((List.range 3).foldl (fun n i => n + (t.mAt (i + 5)).val.toNat * 65536 ^ i) 0)
  else if 0x290 ≤ off ∧ off < 0x3D0 then ((t.td[(off - 0x290) / 40]?).getD Desc.reset).word ((off - 0x290) % 40 / 8)
  else if off = 0x3D0 then BitVec.ofNat 64 t.staging.length
  else if 0x3D8 ≤ off ∧ off < 0x478 then (t.staging[(off - 0x3D8) / 8]?).getD 0
  else if 0x480 ≤ off ∧ off < 0x1080 then (t.vAt vn ((off - 0x480) / 64)).val.extractLsb' ((off - 0x480) % 64 * 8) 64
  else if off = 0x1080 then BitVec.ofNat 64 t.vmq.length
  else if 0x10C0 ≤ off ∧ off < 0x12C0 then
    (match t.vmq[(off - 0x10C0) / 64]? with | some e => e.1 | none => 0).extractLsb' ((off - 0x10C0) % 64 * 8) 64
  else 0

/-- The eight bytes of a word. -/
def wordBytes (w : Word) : List Byte := leBytes w.toNat 8
/-- The bytes of some words. -/
def wordsBytes (ws : List Word) : List Byte := ws.flatMap wordBytes
/-- The 4,800 bytes of a thread record. -/
def State.threadRecord (s : State) (c sl : Nat) : List Byte := wordsBytes ((List.range 600).map (fun i => s.recordWord c sl (8 * i)))

/-! ### Pending records (18 R394) -/

/-- Kind, address and value of a pending record, from the instruction and its refused message, if it has one. -/
def Pend.recordOf (p : Pend) (m : Option Msg) : Nat × Word × List Byte :=
  let va : Word := match m with | some m => m.va | none => 0
  match p.kind with
  | .ctrwait ea thr _ _ _ => (1, ea, wordBytes thr)
  | .barwait n gen => (2, BitVec.ofNat 64 n, wordBytes gen)
  | .ldx _ ea tag | .ldxRemote _ ea tag => (3, ea, wordBytes (tag.setWidth 64))
  | .ctxalloc => (4, 0, [])
  | _ => (5, va, match m with
    | some m => (match m.kind with
      | .rput n v _ => leBytes v.toNat (max 8 n)
      | .ratom _ x y => wordBytes x ++ wordBytes y
      | .amsend i x => wordBytes x ++ leBytes i 8
      | .msend _ x y => wordBytes x ++ wordBytes y
      | _ => [])
    | none => [])
/-- The 128 bytes of a pending record. -/
def State.pendRecord (s : State) (c sl : Nat) (p : Pend) : List Byte :=
  let x := p.recordOf (s.refusedAt c sl p.id)
  leBytes p.word.toNat 4 ++ leBytes x.1 4 ++ wordBytes p.pc ++ wordBytes x.2.1 ++ (x.2.2 ++ List.replicate 64 0).take 64 ++ List.replicate 40 0

/-! ### ZR streams (13 R268, R269) -/

/-- How many of the first n words of a list equal x. -/
def runOf (x : Word) : Nat → List Word → Nat
  | 0, _ => 0
  | _, [] => 0
  | n + 1, w :: rest => if w = x then 1 + runOf x n rest else 0
/-- The tokens of a list of words after the previous word: each token's bits and their number, oldest bit first; a bound on the number
of tokens. -/
def zrTokens : Nat → Word → List Word → List (Nat × Nat)
  | 0, _, _ => []
  | _, _, [] => []
  | n + 1, prev, w :: rest =>
    let x : Word := if w = 0 then 0 else prev
    let run := runOf x 256 (w :: rest)
    if w = 0 then ((run - 1) * 4, 10) :: zrTokens n 0 (rest.drop (run - 1))
    else if w = prev then (1 + (run - 1) * 4, 10) :: zrTokens n prev (rest.drop (run - 1))
    else (2 + w.toNat * 4, 66) :: zrTokens n w rest
/-- A stream of words, ending in END. -/
def zrStream (ws : List Word) : List Byte :=
  let x := (zrTokens ws.length 0 ws ++ [(3, 2)]).foldl (fun (acc t : Nat × Nat) => (acc.1 + t.1 * 2 ^ acc.2, acc.2 + t.2)) (0, 0)
  leBytes x.1 ((x.2 + 63) / 64 * 8)

/-! ### Sections (18 R392) -/

/-- Bit-buffer image of slot 15 (13 R256). -/
def BitBuf.image (b : BitBuf) : List Byte :=
  leBytes b.win.toNat 16 ++ leBytes (b.rp + (if b.write then 2 ^ 46 else 0) + (if b.poison then 2 ^ 47 else 0)) 8 ++
    leBytes (b.fin + b.valid * 2 ^ 45) 8 ++ wordBytes b.zprev
/-- One LDEC lane: position, remaining count, reorder queue. -/
def Lane.image (l : Lane) : List Byte :=
  leBytes l.bb.rp 8 ++ leBytes l.remaining 8 ++ leBytes l.queue.length 8 ++ l.queue.flatMap (fun x => leBytes x.toNat 2)
/-- The symbols that a pending LMERGE has taken. -/
def Thread.merged (t : Thread) : Nat :=
  (t.pend.filterMap (fun p => match p.kind with | .lmerge _ done _ => some done | _ => none)).headD 0

/-- The port blocks of a slot (kind 0x04): a PQRY word, then the entries oldest first. -/
def State.portBlocks (s : State) (c sl : Nat) : List Byte :=
  (List.range 10).flatMap (fun i =>
    let vec : Bool := 5 ≤ i
    let size := if vec then 64 else 8
    let q := ((s.thr c sl).port i).queue
    wordBytes (s.pqryWord c sl (i % 5) vec) ++
      (q.flatMap (fun (e : Vec × Bool × Nat) => leBytes e.1.toNat size) ++ List.replicate 256 0).take (if vec then 256 else 64))

/-- The registers a core's slots share (kind 0x03). -/
def Core.sharedSection (k : Core) : List Byte :=
  let rs := k.sh.toList.map shNow
  let mask (p : Reg 64 → Bool) : Byte := BitVec.ofNat 8 ((rs.zipIdx).foldl (fun n x => if p x.1 then n + 2 ^ x.2 else n) 0)
  rs.flatMap (fun r => wordBytes r.val) ++ [mask (fun r => r.fe == .full), mask (fun r => r.poison)] ++ List.replicate 6 0 ++ wordBytes k.frn
/-- The accumulators (kind 0x05). -/
def Core.accSection (k : Core) : List Byte :=
  k.accs.toList.flatMap (fun a => leBytes a.image.toNat 8192) ++
    leBytes ((k.accs.toList.zipIdx).foldl (fun n x => if x.1.poison then n + 2 ^ x.2 else n) 0) 8
/-- The rings (kind 0x06). -/
def Core.ringSection (k : Core) : List Byte :=
  k.rings.toList.flatMap (fun r => wordBytes r.word ++ wordBytes r.base ++
    (r.tiles.flatMap (fun t => wordBytes t.word) ++ List.replicate 128 0).take 128)
/-- The barriers (kind 0x07). -/
def Core.barrierSection (k : Core) : List Byte :=
  (List.range 256).flatMap (fun i =>
    let b := (assocGet k.barriers i).getD Barrier.reset
    leBytes b.gen.toNat 4 ++ (wordBytes b.word).take 4 ++ wordBytes b.pending ++ wordBytes b.carryBytes ++ leBytes b.carryArr 8)
/-- The mailbox and tq (kind 0x08). -/
def Core.mailSection (k : Core) : List Byte :=
  (List.range 4).flatMap (fun p =>
    ((k.mailQ p).flatMap (fun (m : MailMsg) => wordsBytes [m.w0, m.w1, m.sender]) ++ List.replicate 384 0).take 384 ++
      leBytes (k.mailQ p).length 4 ++ leBytes ((k.skips[p]?).getD 0) 4) ++
  leBytes k.tq.length 8 ++ (k.tq.flatMap (fun (e : Word × Nat) => wordBytes e.1) ++ List.replicate 128 0).take 128
/-- Saved copy requests (kind 0x09): words, then the bytes already transferred (05 R104). -/
def Core.copySection (k : Core) : List Byte := k.copies.flatMap (fun r => wordsBytes r.words ++ leBytes r.before 8)

/-- The maximal runs of a rising list of granules: first and number. -/
def runs : List Nat → List (Nat × Nat)
  | [] => []
  | g :: rest => match runs rest with
    | (a, n) :: more => if a = g + 1 then (g, n + 1) :: more else (g, 1) :: (a, n) :: more
    | [] => [(g, 1)]
/-- A run of dirty granules (kind 0x0B): scratchpad offset from 0, length, bytes as a ZR stream. -/
def Saved.runSection (x : Saved) (run : Nat × Nat) : List Byte :=
  let off := 4096 * run.1
  let len := 4096 * run.2
  let byte (i : Nat) : Byte := ((x.bytes.find? (fun e => e.1 == i)).map (·.2)).getD 0
  leBytes off 8 ++ leBytes len 8 ++
    zrStream ((List.range (len / 8)).map (fun i => BitVec.ofNat 64 (leNat ((List.range 8).map (fun j => byte (off + 8 * i + j))))))

/-- A tag table's state. -/
def TagState.code : TagState → Nat | .free => 0 | .opened => 1 | .sealed => 2
/-- Tag tables, the allocator at its core, and the directory entries with their cells (kind 0x0E; 15 R310). -/
def Core.tagSection (k : Core) (r : Ridge) : List Byte :=
  leBytes k.tags.length 8 ++ k.tags.flatMap (fun e => leBytes e.1.toNat 4 ++ leBytes e.2.code 4) ++
  (if k.col = 0 ∧ k.row = 0 then
    leBytes r.pool 8 ++ leBytes r.freeTags.length 8 ++ r.freeTags.flatMap (fun t => leBytes t 2) ++
      leBytes r.waiting.length 8 ++ r.waiting.flatMap (fun w => leBytes w.1 2 ++ leBytes w.2.1 2 ++ leBytes 0 4)
   else []) ++
  leBytes k.cells.length 8 ++ k.cells.flatMap (fun x => leBytes x.line 8 ++ leBytes x.tag.toNat 2 ++
    [if x.isSealed then 1 else 0, if x.poison then 1 else 0] ++ leBytes x.k 4 ++ leBytes x.mask.toNat 8 ++ leBytes x.bytes.toNat 64)

/-- The sections of an image: kind, slot (0xFF for the core's own), contents. -/
def State.sections (s : State) (r : Ridge) (x : Saved) : List (Nat × Nat × List Byte) :=
  let k := x.core
  let slots := List.range r.header.crew ++ [15]
  let own (kind : Nat) (bs : List Byte) : Nat × Nat × List Byte := (kind, 0xFF, bs)
  slots.map (fun sl => (0x01, sl, s.threadRecord x.num sl)) ++
  (slots.map (fun sl => (0x02, sl, ((k.thread sl).pend.filter (s.savable x.num sl)).flatMap (s.pendRecord x.num sl)))).filter (fun e => !e.2.2.isEmpty) ++
  [own 0x03 k.sharedSection] ++
  (List.range r.header.crew).map (fun sl => (0x04, sl, s.portBlocks x.num sl)) ++
  [own 0x05 k.accSection, own 0x06 k.ringSection, own 0x07 k.barrierSection, own 0x08 k.mailSection, own 0x09 k.copySection,
   (0x0A, 15, (k.thread 15).bb.image ++ (k.thread 15).ldec.lanes.flatMap Lane.image ++ leBytes (k.thread 15).merged 8)] ++
  (runs k.dirty).map (fun e => own 0x0B (x.runSection e)) ++
  [own 0x0C (leBytes k.wl.length 8 ++ k.wl.flatMap (fun e => wordBytes e.1)),
   own 0x0D (x.poisoned.flatMap (fun o => leBytes o 8)), own 0x0E (k.tagSection r)]

/-- The directory of sections from an offset of the image on. -/
def directoryOf : Nat → List (Nat × Nat × List Byte) → List Byte
  | _, [] => []
  | off, (kind, slot, bs) :: rest =>
    leBytes kind 2 ++ leBytes slot 2 ++ leBytes bs.length 4 ++ leBytes off 8 ++ directoryOf (off + bs.length) rest

/-- The 64-byte header of an image with a checksum (R391). -/
def Saved.imageHeader (x : Saved) (r : Ridge) (sections length checksum : Nat) : List Byte :=
  leBytes 0x56535847 4 ++ leBytes 1 2 ++ leBytes sections 2 ++ leBytes x.num 2 ++ leBytes x.core.col 1 ++ leBytes x.core.row 1 ++
    leBytes r.header.crew 1 ++
    leBytes ((if r.header.redundant then 1 else 0) + (if r.header.tagged then 2 else 0) + (if x.core.col = 0 ∧ x.core.row = 0 then 4 else 0)) 1 ++
    leBytes 0 2 ++ leBytes x.stamp 8 ++ leBytes length 8 ++ leBytes r.inst 4 ++ leBytes checksum 4 ++ List.replicate 24 0

/-- The state with the cores of a saved instance as they were saved. -/
def State.asSaved (s : State) (r : Ridge) : State :=
  let s1 := r.image.foldl (fun s x => s.setCore x.num x.core) s
  { s1 with msgs := s1.msgs ++ r.held }
/-- The bytes of one core's save image (R391, R392). -/
def State.imageOf (s : State) (r : Ridge) (x : Saved) : List Byte :=
  let ss := (s.asSaved r).sections r x
  let body := directoryOf (64 + 16 * ss.length) ss ++ ss.flatMap (fun e => e.2.2)
  let n := 64 + body.length
  x.imageHeader r ss.length n (crc32 (x.imageHeader r ss.length n 0 ++ body)).toNat ++ body

/-! ### Damage in the pool (18 R391, R395; 19 R410, R411) -/

/-- Bytes after some bits have flipped, by offset. -/
def damaged (flips : List (Nat × Byte)) (bs : List Byte) : List Byte :=
  bs.zipIdx.map (fun x => (flips.filter (fun f => f.1 == x.2)).foldl (fun b f => b ^^^ f.2) x.1)
/-- A record with a checksum at an offset agrees with it. -/
def checksumOk (at' : Nat) (bs : List Byte) : Bool :=
  field bs at' 4 == (crc32 (bs.take at' ++ [0, 0, 0, 0] ++ bs.drop (at' + 4))).toNat
/-- The image of every core of a saved instance agrees with its checksum. -/
def State.imagesSound (s : State) (r : Ridge) : Bool :=
  r.image.all (fun x => x.flips.isEmpty || checksumOk 0x24 (damaged x.flips (s.imageOf r x)))

end Sys2Proof.Machine
end

