-- ==== Sys2Proof/Machine/Place.lean ====
section
/-! DEFINITION. Placement, pre-emption, saving, resuming and ending of ridge instances (17 R347-R354; 18 R389-R395; 05
R103-R105). -/

namespace Sys2Proof.Machine
open Sys2Proof

/-! ### Frequency (17 R356) -/

/-- The frequency of a placed core: the highest step of 25 MHz that the grant and the boost flag allow, within 0.6 to 1.6 GHz (01
R15). -/
def State.freqFor (s : State) (asid : Nat) (p : Packet) : Nat :=
  match s.asids.find? (fun a => a.id == asid) with
  | some a => max 600 (min (if p.flags / 2 % 2 = 1 ∧ a.boost = true ∧ s.feat.getLsbD 0 = true then 1600 else 1250) a.ceil / 25 * 25)
  | none => 1250
/-- Order a frequency: the clock pauses for 32 rc, or a pause in progress ends at the new frequency. -/
def Core.orderFreq (k : Core) (rt f : Nat) : Core :=
  match k.pause with
  | some (t, _) => { k with pause := some (t, f) }
  | none => if k.freq = f then k
    else
      let edge : Arrival := match k.gap with
        | some g => if g.begun then { num := rt * k.freq - k.phase, den := k.freq } else g.edge
        | none => { num := rt * k.freq - k.phase, den := k.freq }
      { k with pause := some (rt + 32, f), gap := some { edge := edge, since := rt, begun := false } }

/-! ### Eligible rectangles (17 R348) -/

/-- The vault windows of a header. -/
def Header.vaultWindows (h : Header) : List Window := h.windows.filter (fun w => inVault w.base)
/-- A core is drained, by itself or with its massif (17 R353). -/
def State.isDrained (s : State) (c : Nat) : Bool := (s.core c).drained || s.drain.getLsbD (1 + massif c)
/-- A core lies in the rectangle reserved for another launch (17 R351). -/
def State.reservedFor (s : State) (l c : Nat) : Bool :=
  s.launches.any (fun x => x.id != l && (match x.reserved with
    | some (i, j) => i ≤ coreX c && coreX c < i + x.packet.w && j ≤ coreY c && coreY c < j + x.packet.h
    | none => false))
/-- No page of a core's vault that a window covers is under migration: its lease would wait (04 R65; 14 R291). -/
def State.windowStill (s : State) (c : Nat) (w : Window) : Bool :=
  !s.migrations.any (fun m => !m.waiting && ((m.home == c && m.off < w.base + w.len && w.base < m.off + m.bytes) ||
    (m.newHome == c && m.newOff < w.base + w.len && w.base < m.newOff + m.bytes)))
/-- A core, its occupancy apart, may take an instance of a header; the windows that a saved instance retains are no bar to itself
(R352; log 94). -/
def State.openTo (s : State) (l : Nat) (h : Header) (c : Nat) (self : Option Nat := none) : Bool :=
  !s.isDrained c && (s.core c).fits h && !s.reservedFor l c && h.vaultWindows.all (s.windowStill c) &&
    (s.core c).retained.all (fun x => self == some x.1 || h.vaultWindows.all (fun w => !w.meets x.2))
/-- A core is eligible. -/
def State.eligible (s : State) (l : Nat) (h : Header) (c : Nat) (self : Option Nat := none) : Bool :=
  (s.core c).ridge.isNone && s.openTo l h c self
/-- Every core of a rectangle is eligible; in lockstep mode its mirror too (19 R413). -/
def State.rectFree (s : State) (l : Nat) (h : Header) (rw rh : Nat) (self : Option Nat) (o : Nat × Nat) : Bool :=
  (rectCores o.1 o.2 rw rh).all (fun c => s.eligible l h c self && (s.lockstep == 0 || s.eligible l h (c + 512) self))
/-- The eligible rectangle of a partition with the lowest origin. -/
def State.findRect (s : State) (part l : Nat) (h : Header) (rw rh : Nat) (self : Option Nat := none) : Option (Nat × Nat) :=
  (origins part rw rh).find? (s.rectFree l h rw rh self)
/-- The eligible rectangle of a partition for a saved instance. -/
def State.rectOf (s : State) (part : Nat) (r : Ridge) : Option (Nat × Nat) := s.findRect part 0 r.header r.w r.h (some r.id)
/-- The rectangle an arbiter gives a launch: partition 1 serves a launch of either partition only when partition 0 has
none. -/
def State.rectFor (s : State) (part : Nat) (x : Launch) : Option (Nat × Nat) :=
  let p := x.packet
  if s.lockstep ≠ 0 then (if part = 0 then s.findRect 0 x.id x.header p.w p.h else none)
  else if !p.partitions.contains part then none
  else if part = 1 && p.part = 2 && (s.findRect 0 x.id x.header p.w p.h).isSome then none
  else s.findRect part x.id x.header p.w p.h

/-! ### Setting up cores (17 R349; 18 R389; 04 R433) -/

/-- What a core keeps when an instance comes or goes: clocks, capacity, vault timing, agent, debug block, drains. -/
def Core.keep (k new : Core) : Core :=
  { new with
    cycle := k.cycle, freq := k.freq, phase := k.phase, pause := k.pause, gap := k.gap, gcap := k.gcap, vcap := k.vcap, redmask := k.redmask,
    retained := k.retained, banks := k.banks, therm := k.therm, schedFrom := k.schedFrom, bus := k.bus, beats := k.beats,
    granted := k.granted, rpcnt := k.rpcnt, inbuf := k.inbuf,
    agentFree := k.agentFree, agentPos := k.agentPos, agentGot := k.agentGot, windowPower := k.windowPower, coreLimit := k.coreLimit, windowAt := k.windowAt, dead := k.dead,
    drained := k.drained, dbg := k.dbg }

/-- The banks serve nothing of the instance's threads any more, row control among it, but for its posted stores (17 R350, R354; 21
R433). -/
def Core.forgetThreads (k : Core) : Core :=
  let stays (r : BankReq) : Bool := match r.ref with | .posted .. | .agent | .agentRun => true | _ => false
  { k with banks := vecMap (fun b => { b with queue := b.queue.filter stays, opening := none }) k.banks, beats := k.beats.filter (fun e => stays e.req) }
/-- Every bank is precharged; a refresh or repair goes on (04 R67). -/
def Core.precharged (k : Core) : Core :=
  { k with banks := vecMap (fun b => if b.busy then b else { b with state := .closed, row := ⟨0, false⟩ }) k.banks }

/-- Remove the bytes, poison and soft errors of a range of a home. -/
def State.wipe (s : State) (home off n : Nat) : State :=
  let inRange (x : Nat) : Bool := key home off ≤ x && x < key home off + n
  { s with mem := s.mem.filter (fun x => !inRange x.1), poison := s.poison.filter (fun u => !inRange (u * 64)),
           soft := s.soft.filter (fun e => !inRange (e.unit * 64)) }

/-- The threads of a core at placement: the crew live, slot 15 asleep, the others vacant. -/
def Ridge.threads (r : Ridge) (k : Core) : Vector Thread 16 :=
  (List.range 16).foldl (fun v sl => v.setIfInBounds sl
    (if sl < r.header.crew then { r.launchThread with life := .live }
     else if sl = 15 then { r.launchThread with life := .asleep }
     else { Thread.reset with psq := if sl = 13 then (k.thread 13).psq else [] })) (Vector.replicate 16 Thread.reset)

/-- The gfrn of an ASID (15 R311). -/
def State.gfrnAsid (s : State) (asid : Nat) : Word :=
  match s.asids.find? (fun a => a.id == asid) with | some a => a.gfrn | none => 0

/-- Set up one core of an instance: protection unit, zeroed scratchpad, the data blocks that lie in it, frontier, registers; the entry
line is on its way (R340). -/
def State.placeCore (s : State) (r : Ridge) (c : Nat) : State :=
  let k := s.core c
  let new : Core := { Core.reset with ridge := some r.id, col := coreX c - r.x, row := coreY c - r.y, placedAt := k.cycle, threads := r.threads k, windows := r.header.windows, scratch := r.header.scratch, frn := s.gfrnAsid r.asid, redundant := r.header.redundant, levelledAt := k.cycle, tags := [] }
  let s1 := (s.setCore c ((k.keep new).orderFreq s.rtime (s.freqFor r.asid r.packet))).wipe c Config.scratchBase r.header.scratch
  let s2 := (r.header.datas.filter (fun d => !inVault d.1)).foldl (fun s d => s.writeAt c d.1 d.2) s1
  s2.missLine c (r.header.entry / 2048)
/-- The data blocks in vaults are on their way to the cores of an instance, each from its core's own router and all at once (R349; logs 37,
38). -/
def State.placeData (s : State) (r : Ridge) : State :=
  r.cores.foldl (fun s c => (r.header.datas.filter (fun d => inVault d.1)).foldl (fun s d =>
    s.jobBegin r.asid c .place r.id (some r.launch) [.put c d.1 d.2]) s) s
/-- Router cycles from a placement to its common start: 500, and 16 cc of 1.25 GHz for every further 2 KiB of data blocks on a core (R340;
log 37). -/
def Header.startDelay (h : Header) : Nat :=
  let n := (h.datas.map (fun d => d.2.length)).sum
  500 + ((n - 2048 + 2047) / 2048 * 128 + 4) / 5

/-- A launch has one more instance placed; after the last it is running, and the next packet may become the head (17 R341,
R346). -/
def State.countPlaced (s : State) (x : Launch) : State :=
  let last := x.placed + 1 = x.count
  let s1 := s.modLaunch x.id (fun x => { x with placed := x.placed + 1, reserved := none, state := if last then .running else .placing })
  if last && x.packet.flags / 4 % 2 == 0 && (match s.queue? x.queue with | some q => q.current == some x.id | none => false) then
    s1.nextHead x.queue
  else s1

/-- A new instance of a launch at an origin. -/
def State.newRidge (s : State) (x : Launch) (o : Nat × Nat) (mirror : Bool) : State :=
  let r : Ridge := { id := s.fresh, launch := x.id, inst := x.first + x.placed, asid := x.asid, header := x.header, packet := x.packet, x := o.1, y := o.2, w := x.packet.w, h := x.packet.h, state := .starting, graceEnd := 0, savedAt := 0, image := [], held := [], startAt := s.rtime + x.header.startDelay, mirror := mirror, pool := x.packet.pool, freeTags := (List.range x.packet.pool).map (· + 1), retiring := [], waiting := [], fault := none, raised := [] }
  let s1 := { s with fresh := s.fresh + 1, ridges := s.ridges ++ [r] }
  (r.cores.foldl (fun s c => s.placeCore r c) s1).placeData r

/-- Place the next instance of a launch; in lockstep mode with its mirror 16 rows on (19 R413). -/
def State.place' (s : State) (x : Launch) (o : Nat × Nat) : State :=
  let s1 := s.newRidge x o false
  (if s.lockstep = 0 then s1 else s1.newRidge x (o.1, o.2 + 16) true).countPlaced x

/-! ### Saving (18 R390-R394; 05 R104) -/

/-- An index list packed two to a word (05 R94). -/
def packIndexes : List Nat → List Word
  | a :: b :: rest => BitVec.ofNat 64 (a + b * 2 ^ 32) :: packIndexes rest
  | [a] => [BitVec.ofNat 64 a]
  | [] => []

/-- What is left of a request: a linear transfer's untransferred bytes, or the rows not yet begun (05 R104). -/
def State.residual (s : State) (c : Nat) (r : CopyReq) : CopyReq :=
  let lf := r.w 2
  let n := r.issued
  let stopped : CopyReq := { r with active := false, gath := [], landing := [], ready := false }
  let idle : CopyReq := { stopped with before := r.before + n, issued := 0, performed := 0, outstanding := 0 }
  if !r.active || n = 0 then stopped
  else if lfMode lf = 0 then
    let len := BitVec.ofNat 64 (r.len - n)
    let down := s.decreasing c (r.w 0) (r.w 1) r.len r.fill
    let by' : Word := if down then 0 else BitVec.ofNat 64 n
    { idle with words := [r.w 0 + by', r.w 1 + by', (lf &&& ~~~0xFFFFFFFF#64) ||| len, r.w 3] }
  else
    let done := n / (max 1 r.len)
    let left := lfRows lf - done
    let by' : Word := BitVec.ofNat 64 n
    let lf' := (lf &&& ~~~(0x1F#64 <<< 57)) ||| (BitVec.ofNat 64 (left - 1) <<< 57)
    let idx := (List.range left).map (fun i => reqIndex r.words (done + i))
    { idle with words := [if lfMode lf = 2 then r.w 0 + by' else r.w 0, if lfMode lf = 1 then r.w 1 + by' else r.w 1, lf', r.w 3]
        ++ packIndexes idx }

/-- A slot has nothing left in flight. -/
def State.slotQuiet (s : State) (c sl : Nat) : Bool :=
  let t := s.thr c sl
  t.psq.isEmpty && t.pend.all (s.savable c sl) && t.bb.refill.isNone && !(t.bb.write && 64 ≤ t.bb.valid) && t.invocation.isNone

/-- The movement thread has quiesced: what it has read for a message that has not gone is read again (05 R104). -/
def CopyReq.quiet (r : CopyReq) : Bool :=
  !r.active || (r.outstanding == 0 && r.landing.isEmpty && r.performed == r.issued && r.issued < r.total && (lfMode (r.w 2) == 0 || r.issued % r.len == 0))

/-- The redundant pairs of a crew have met. -/
def Core.pairsMet (k : Core) (crew : Nat) : Bool := !k.redundant || (List.range (crew / 2)).all (fun i => (k.pair i).met)

/-- Steps 1 to 4 are done on a core (R390). -/
def State.coreQuiet (s : State) (r : Ridge) (c : Nat) : Bool :=
  let k := s.core c
  (List.range 16).all (s.slotQuiet c) && k.copies.all CopyReq.quiet && k.engine.isEmpty && k.xfers.isEmpty && k.inbuf.isEmpty &&
    k.refills.isEmpty && k.shipping.isEmpty && k.pairsMet r.header.crew && s.flights.all (fun f => f.core != c) &&
    s.msgs.all (fun m => m.core != c || m.dev != 0 || 17 ≤ m.slot || m.refused)

/-- An LDEC lane stops at a symbol boundary: its position, remaining count and queue are saved (13 R266, R267). -/
def Lane.saved (l : Lane) : Lane := { l with bb := { BitBuf.reset with rp := l.bb.pos, fin := l.bb.fin }, stopped := none }
/-- A thread as the image holds it: registers above the header's counts are 0 (18 R393), the lanes stop, a refill that a critical vault has
refused is tried again (13 R256), and no slot is removed (17 R358). -/
def Thread.saved (h : Header) (t : Thread) : Thread :=
  { t with
    g := ⟨⟨(List.range 48).map (t.gAt h.regs)⟩, by simp⟩
    v := ⟨⟨(List.range 48).map (t.vAt h.vregs)⟩, by simp⟩
    bb := { t.bb with hot := false }
    ldec := { lanes := t.ldec.lanes.map Lane.saved }
    removed := false }
/-- The save image of one core. -/
def State.saveCore (s : State) (h : Header) (c : Nat) : Saved :=
  let k := s.core c
  let lo := key c Config.scratchBase
  let inside (x : Nat) : Bool := lo ≤ x && x < lo + k.scratch
  { core := { k with threads := vecMap (Thread.saved h) k.threads, copies := k.copies.map (s.residual c), accs := vecMap (fun a => { a with claimant := none }) k.accs }
    num := c
    bytes := (s.mem.filter (fun x => inside x.1)).map (fun x => (x.1 - lo, x.2))
    poisoned := (s.poison.filter (fun u => inside (u * 64))).map (fun u => u * 64 - lo)
    stamp := s.rtime }

/-- A core without an instance: idle at 600 MHz; its barriers keep what they hold until the next placement (17 R356, R366; 22 R436). -/
def State.idleCore (s : State) (c : Nat) (retain : List (Nat × Window)) : State :=
  let k := s.core c
  let new : Core := { Core.reset with
    threads := Core.reset.threads.setIfInBounds 13 { Thread.reset with psq := (k.thread 13).psq }, barriers := k.barriers }
  s.setCore c ({ k.keep new with retained := k.retained ++ retain }.forgetThreads.orderFreq s.rtime 600)

/-- SAVE_COMPLETE: every core has finished the steps of R390; the image is kept, the cores are free, their rows closed, the vault windows
stay (17 R350, R351; 04 R67). -/
def execSaveComplete (id : Nat) (s : State) : Out :=
  .next (match s.ridges.find? (fun r => r.id == id) with
    | none => s
    | some r =>
      if r.state ≠ .saving ∨ !r.retiring.isEmpty ∨ !r.cores.all (s.coreQuiet r) then s
      else
        let mine (m : Msg) : Bool := m.refused && m.dev == 0 && m.slot < 17 && r.cores.contains m.core
        let s1 := s.modRidge id (fun r => { r with state := .saved, image := r.cores.map (s.saveCore r.header), held := s.msgs.filter mine })
        let s2 := { s1 with msgs := s1.msgs.filter (fun m => !mine m) }
        r.cores.foldl (fun s c => (s.idleCore c (r.header.vaultWindows.map (fun w => (id, w)))).modCore c Core.precharged) s2)

/-- The unmatched deposits of a core's pairs are withdrawn: their instructions issue again (18 R390 step 1; log 33).  Every accumulator claim
is discarded (11 R228, R240), and no parked store waits for the directory any more. -/
def Core.withdrawn (k : Core) : Core :=
  { k with pairs := vecMap Pair.withdraw k.pairs, accs := vecMap (fun a => { a with claimant := none }) k.accs
           threads := vecMap (fun t => { t with dirWait := false }) k.threads }
/-- A core of a victim quiesces: the claims of its parked SPAWNs are withdrawn too (07 R134). -/
def State.quiesce (s : State) (c : Nat) : State := ((List.range 12).foldl (fun s sl => s.unclaim c sl) s).modCore c Core.withdrawn
/-- GRACE_EXPIRY: the grace of a victim ends and its cores quiesce (17 R350; 18 R390). -/
def execGraceExpiry (id : Nat) (s : State) : Out :=
  .next (match s.ridges.find? (fun r => r.id == id) with
    | some r =>
      if r.state = .grace ∧ r.graceEnd ≤ s.rtime then
        r.cores.foldl State.quiesce (s.modRidge id (fun r => { r with state := .saving }))
      else s
    | none => s)

/-! ### Resuming (17 R352; 18 R394, R395; 05 R105) -/

/-- The new number of a core of the instance. -/
def remap (olds news : List Nat) (c : Nat) : Nat := ((olds.zip news).find? (fun x => x.1 == c)).elim c (·.2)
/-- A global address whose home is a core of the instance names the new one (05 R105). -/
def State.remapGa (s : State) (olds news : List Nat) (a : Word) : Word :=
  if isGlobal a && s.thisDev a && olds.contains (gaHome a) then
    a + BitVec.ofNat 64 (remap olds news (gaHome a) * 2 ^ 42) - BitVec.ofNat 64 (gaHome a * 2 ^ 42)
  else a
/-- A message of or to the instance. -/
def State.remapMsg (s : State) (olds news : List Nat) (m : Msg) : Msg :=
  { m with core := remap olds news m.core, home := if s.offDevice m then m.home else remap olds news m.home, va := s.remapGa olds news m.va }
/-- A pending instruction of the instance, armed again (18 R394). -/
def State.remapPend (s : State) (olds news : List Nat) (p : Pend) : Pend :=
  { p with due := 0, kind := match p.kind with
    | .ldxRemote form ga tag => .ldxRemote form (s.remapGa olds news ga) tag
    | .send deposit target prio => .send deposit (if target < 2048 then remap olds news target else target) prio
    | .spawn core member => .spawn (remap olds news core) member
    | k => k }
/-- A saved thread on its new core: every queue entry can be taken at once. -/
def State.remapThread (s : State) (olds news : List Nat) (t : Thread) : Thread :=
  { t with pend := t.pend.map (s.remapPend olds news), wakeAt := 0, claiming := t.claiming.map (fun x => (remap olds news x.1, x.2)), vmq := t.vmq.map (fun (x, po, _) => (x, po, 0)),
           ports := vecMap (fun q => { q with queue := q.queue.map (fun (x, po, _) => (x, po, 0)) }) t.ports }
/-- A saved copy request on its new core (05 R104, R105). -/
def State.remapCopy (s : State) (olds news : List Nat) (r : CopyReq) : CopyReq :=
  { r with words := r.words.zipIdx.map (fun (w, i) => if i < 2 ∧ !(i = 1 ∧ r.fill = true) then s.remapGa olds news w else w) }

/-- Restore one core of the instance on its new place (18 R395 steps 1, 2 and 4). -/
def State.resumeCore (s s0 : State) (r : Ridge) (olds news : List Nat) (x : Nat × Saved) : State :=
  let (c, img) := x
  let k := s.core c
  let kc := img.core
  let back : Core := { kc with
    ridge := some r.id, placedAt := k.cycle, levelledAt := k.cycle, istore := [], refills := [], refillDue := none, steps := [], gatedRows := false,
    threads := vecMap (s0.remapThread olds news) kc.threads, sh := vecMap (fun h => [{ cycle := 0, reg := shNow h }]) kc.sh,
    copies := kc.copies.map (s0.remapCopy olds news), copyNext := 0,
    wl := kc.wl.map (fun e => (e.1, 0)), wlGone := [], tq := kc.tq.map (fun e => (e.1, 0)), tqGone := [], old := [],
    mail := vecMap (fun q => q.map (fun (m : MailMsg) => { m with visible := 0 })) kc.mail,
    ldxWaits := kc.ldxWaits.map (s0.remapMsg olds news) }
  let s1 := (s.setCore c ((k.keep back).orderFreq s.rtime (s.freqFor r.asid r.packet))).wipe c Config.scratchBase r.header.scratch
  let s2 := { s1 with mem := img.bytes.foldl (fun m (e : Nat × Byte) => memSet m (key c (Config.scratchBase + e.1)) e.2) s1.mem }
  img.poisoned.foldl (fun s o => s.mark c (Config.scratchBase + o)) s2

/-- The vault windows of a resumed instance are on their way to its new cores, in an order in which no core's are overwritten before they
have gone (R352; log 38). -/
def State.moveWindows (s : State) (r : Ridge) (olds : List Nat) : State :=
  let pairs := olds.zip r.cores
  let ordered := if (r.cores.headD 0) ≤ olds.headD 0 then pairs else pairs.reverse
  let ops := if olds = r.cores then [] else
    ordered.flatMap (fun x => r.header.vaultWindows.map (fun w => JobOp.move x.1 x.2 w.base w.len))
  if ops.isEmpty then s else s.jobBegin r.asid (r.cores.headD 0) .resume r.id (some r.launch) ops
/-- The vault windows have been copied: the saved requests are committed again, one in each cycle, the refused messages leave again, and the
lines of the saved PCs of the compute members and of slot 15 are on their way (R340; 18 R394, R395 steps 5 and 6; 26 R442). -/
def State.rearm (s : State) (r : Ridge) : State :=
  let s1 := r.cores.foldl (fun s c => s.modCore c (fun k => { k with copies := k.copies.zipIdx.map (fun (q, i) => { q with due := k.cycle + i + 1 }) })) s
  let s2 := s1.modRidge r.id (fun r => { r with held := [] })
  let s3 := { s2 with
    msgs := s2.msgs ++ r.held.map (fun m => { m with refused := false, due := s.msgDue m.core (s.exitCore m.asid m.home m.va) })
    jobs := s2.jobs.filter (fun j => !(j.obj == r.id && j.fn == .resume)) }
  r.cores.foldl (fun s c => (List.range r.header.crew ++ [15]).foldl (fun s sl => s.missLine c ((s.thr c sl).pc.toNat / 2048)) s) s3
/-- Every saved request of an instance has been committed again (18 R395 step 6). -/
def State.recommitted (s : State) (r : Ridge) : Bool :=
  r.cores.all (fun c => (s.core c).copies.all (fun q => q.active || q.due ≤ (s.core c).cycle + 1))
/-- The windows that a saved instance has retained are released (R352). -/
def State.freeWindows (s : State) (id : Nat) : State :=
  { s with cores := s.cores.map (fun x => (x.1, { x.2 with retained := x.2.retained.filter (fun w => w.1 != id) })) }

/-- Resume a saved instance at an origin: cores, windows, messages.  Every message that its cores have refused, waiting or on its way again,
names the new core (14 R276); what names a place in a vault itself does not move. -/
def State.resume (s : State) (r : Ridge) (o : Nat × Nat) : State :=
  let olds := r.cores
  let r0 : Ridge := { r with x := o.1, y := o.2, state := .resuming, startAt := s.rtime + 500, image := [], waiting := [] }
  let news := r0.cores
  let r' : Ridge := { r0 with held := r.held.map (s.remapMsg olds news) }
  let s1 := s.modRidge r.id (fun _ => { r' with waiting := r.waiting.map (fun (c, sl, p) => (remap olds news c, sl, p)) })
  let s2 := (news.zip r.image).foldl (fun s x => s.resumeCore s1 r' olds news x) s1
  let others (m : Msg) : Msg :=
    if 1 ≤ m.retry && m.asid == r.asid && olds.contains m.home && !s.offDevice m && !m.physical then
      { m with home := remap olds news m.home, va := s.remapGa olds news m.va }
    else m
  let s3 := { s2 with msgs := s2.msgs.map others }.moveWindows r' olds
  if s3.jobs.any (fun j => j.obj == r.id && j.fn == .resume) then s3 else s3.rearm r'
/-- The instance of an image whose checksum fails ends, and the device is lost (18 R395; 20 R430). -/
def State.damagedImage (s : State) (r : Ridge) : State :=
  let c := r.cores.headD 0
  { (s.recordFor r.asid r.inst c 12 (det cDeviceLost 0x10) 0 false false 0).actByGrade c 12 (det cDeviceLost 0x10) with devState := 3 }

/-! ### Arbitration (17 R347, R351, R352) -/

/-- The saved instance of a level and partition with the oldest pre-emption. -/
def oldestSaved : List Ridge → Option Ridge
  | [] => none
  | r :: rest => match oldestSaved rest with
    | some x => some (if x.savedAt < r.savedAt then x else r)
    | none => some r

/-- The launches of a level in the order of their queues' turns: those after the queue of the last turn first; before the first turn
from queue 0 on. -/
def State.turnOrder (s : State) (part prio : Nat) : List Launch :=
  let last := (tblGet s.turns (part, prio)).getD 511
  let ls := (List.range 512).flatMap (fun q => s.launches.filter (fun x => x.queue == q && x.state == .placing && x.packet.prio == prio))
  ls.filter (fun x => last < x.queue) ++ ls.filter (fun x => x.queue ≤ last)

/-- The instances that would have to go for a rectangle, if they may all be victims of a launch; what they will retain of their windows is
no bar to choosing them (R351). -/
def State.victimsOf (s : State) (x : Launch) (o : Nat × Nat) : Option (List Ridge) :=
  let cs := rectCores o.1 o.2 x.packet.w x.packet.h
  let rs := (cs.filterMap (fun c => (s.core c).ridge)).eraseDups.filterMap (fun i => s.ridges.find? (fun r => r.id == i))
  let may (r : Ridge) : Bool := r.state == .running && r.packet.flags % 2 == 1 && x.packet.prio < r.packet.prio
  if cs.all (s.openTo x.id x.header) && rs.all may && !rs.isEmpty then some rs else none

/-- The preference among qualifying rectangles: largest victim prio value, victim cores, origin (17 R351). -/
def victimKey (o : Nat × Nat) (rs : List Ridge) : Nat :=
  ((rs.map (·.packet.prio)).foldl max 0 * 2048 + (rs.map (fun r => r.w * r.h)).sum) * 1024 + o.2 * 32 + o.1

/-- The rectangle a launch may free by pre-emption, in any of its partitions, none of which has an eligible one (R351; log 104). -/
def State.preemption (s : State) (part : Nat) (x : Launch) : Option ((Nat × Nat) × List Ridge) :=
  let p := x.packet
  if s.lockstep ≠ 0 ∨ !p.partitions.contains part ∨ x.reserved.isSome ∨ p.partitions.any (fun q => (s.findRect q x.id x.header p.w p.h).isSome) then none
  else (p.partitions.flatMap (fun q => origins q p.w p.h)).foldl (fun best o =>
    match s.victimsOf x o with
    | none => best
    | some rs => match best with
      | some (b, bs) => if victimKey o rs < victimKey b bs then some (o, rs) else best
      | none => some (o, rs)) none

/-- The victims enter grace, and the rectangle is reserved (17 R351). -/
def State.preempt (s : State) (x : Launch) (o : Nat × Nat) (rs : List Ridge) : State :=
  (rs.foldl (fun s r => s.modRidge r.id (fun r => { r with
      state := .grace, savedAt := s.rtime, graceEnd := s.rtime + 1024 * (if r.packet.grace = 0 then 64 else r.packet.grace) })) s).modLaunch x.id
    (fun x => { x with reserved := some o })

/-- The host has been asked for a launch or an instance and has not answered: it waits, and nothing else waits with it (R347; 20
R428). -/
def State.waitsHost (s : State) (obj : Nat) : Bool := s.assist.any (fun a => a.fn == 2 && a.obj == obj && !a.answered)
/-- Serve one priority level of a partition: a saved instance, else the next queue's launch, else a pre-emption. -/
def State.serveLevel (s : State) (part prio : Nat) : Option State :=
  let saved := s.ridges.filter (fun r => r.state == .saved && r.packet.prio == prio && r.y / 16 == part && !s.waitsHost r.id)
  let placing := (s.turnOrder part prio).filter (fun x => !s.waitsHost x.id && s.serves x.queue)
  match saved.find? (fun r => !(origins part r.w r.h).any (fun o => (rectCores o.1 o.2 r.w r.h).all (fun c => (s.core c).fits r.header))) with
  | some r => some ((s.recordFor r.asid r.inst ((r.cores).headD 0) 12 (det cResumeCapacity 0) 0 false false 0).endRidge r.id (r.cores.headD 0) 12 (det cResumeCapacity 0))
  | none =>
  match oldestSaved (saved.filter (fun r => (s.rectOf part r).isSome)) with
  | some r => match s.rectOf part r with
    | some o => some (match s.ask 2 r.id with
        | (true, s1) => if s1.imagesSound r then s1.resume r o else s1.damagedImage r
        | (false, s1) => s1)
    | none => none
  | none =>
    match placing.find? (fun x => (s.rectFor part x).isSome) with
    | some x => match s.rectFor part x with
      | some o => some (match s.ask 2 x.id with
          | (true, s1) => { s1.place' x o with turns := tblSet s1.turns (part, prio) x.queue }
          | (false, s1) => s1)
      | none => none
    | none =>
      match placing.findSome? (fun x => (s.preemption part x).map (fun v => (x, v))) with
      | some (x, o, rs) => some (s.preempt x o rs)
      | none => none

/-- PLACEMENT_ARBITRATION: the arbiter of a partition serves the highest priority level that can be served, and places at
most one instance (R347). -/
def execPlacementArbitration (p : Nat) (s : State) : Out :=
  .next (((List.range 64).findSome? (s.serveLevel p)).getD s)

/-- A job sets up the cores of an instance. -/
def Job.setsUp (j : Job) (id : Nat) : Bool := j.obj == id && (j.fn == .place || j.fn == .resume)
/-- What a placement or a resume has under way is done: the data blocks and windows are copied, the lines are loaded (R349; 18 R395). -/
def State.isSetUp (s : State) (r : Ridge) : Bool :=
  s.jobs.all (fun j => !j.setsUp r.id || j.isOver) && r.cores.all (fun c => (s.core c).refills.isEmpty)
/-- The core's threads may issue: its banks are closed, and its hash begins anew (04 R67; 19 R414; 21 R433). -/
def Core.started (k : Core) : Core :=
  { k.precharged with startCycle := k.cycle, hash := 0, hashCount := 0, hashWindow := 0, rolled := [], compared := 0, diverged := false }
/-- An instance of a mirrored placement whose twin is not yet set up waits for it: both start in one router cycle (19 R413). -/
def State.twinSetUp (s : State) (r : Ridge) : Bool :=
  s.ridges.all (fun x => !(x.launch == r.launch && x.inst == r.inst && x.id != r.id && x.state == .starting) ||
    (x.startAt ≤ s.rtime && s.isSetUp x))
/-- COMMON_START: when the windows of a resumed instance have been copied its requests are committed and its pending instructions armed; the
members of a placed or resumed instance may issue, and the windows of the old cores are released (17 R349, R352; 18 R395). -/
def execCommonStart (id : Nat) (s : State) : Out :=
  .next (match s.ridges.find? (fun r => r.id == id) with
    | some r =>
      if r.state = .resuming ∧ s.jobs.any (fun j => j.obj == id && j.fn == .resume) = true then
        if s.jobs.all (fun j => !j.setsUp id || j.isOver) then s.rearm r else s
      else if (r.state = .starting ∨ r.state = .resuming) ∧ r.startAt ≤ s.rtime ∧ s.isSetUp r = true ∧ s.twinSetUp r = true ∧ s.recommitted r = true then
        let s1 := { s.freeWindows id with jobs := s.jobs.filter (fun j => !j.setsUp id) }
        r.cores.foldl (fun s c => s.modCore c Core.started) (s1.modRidge id (fun r => { r with state := .running }))
      else s
    | none => s)

/-! ### Ending (17 R354) -/

/-- Every compute member has executed TEXIT. -/
def State.allExited (s : State) (r : Ridge) : Bool := r.members.all (fun x => (s.thr x.1 x.2).life == .dormant)

/-- A pending instruction holds up the end of its instance: a predicate, a packet on its way to a queue, a broadcast of tags, a remote write
that has not been refused (R344, R354; 12 R250; 15 R310). -/
def State.holdsEnd (s : State) (c sl : Nat) (p : Pend) : Bool :=
  match p.kind with
  | .predicate .. | .launch .. | .ctxop .. => true
  | .remote 0 _ | .ratom | .send .. | .spawn .. => (s.refusedAt c sl p.id).isNone
  | _ => false
/-- Nothing the instance still has to finish is left on a core: requests, posted stores, transfers, issued commands of the engine, what holds
up its end, its user handler (R344, R354; 05 R103; 11 R240). -/
def State.coreOver (s : State) (c : Nat) : Bool :=
  let k := s.core c
  k.copies.isEmpty && k.xfers.isEmpty && k.engine.isEmpty && (k.thread 13).invocation.isNone &&
    (List.range 16).all (fun sl => (k.thread sl).psq.isEmpty && (k.thread sl).pend.all (fun p => !s.holdsEnd c sl p))

/-- A launch whose last instance has ended completes: status record, with the count of n instances after it, leases released, and the next
packet of a serial queue (R344, R346; log 38). -/
def State.complete (s : State) (x : Launch) (n : Nat) : State :=
  let code := if x.clean = x.count then 0 else 9
  let s1 := s.postStatus x.asid x.queue x.id x.status (if n = 0 then 0 else x.done) (s.statusRecord code x.fault x.clean) n
  let s2 := { s1 with
    pins := s1.pins.filter (fun p => p.launch != x.id)
    launches := s1.launches.filter (fun y => y.id != x.id)
    cairns := s1.cairns.map (fun (k : Cairn) => if k.launch == x.id then { k with status := some (code, x.fault, x.clean, s.rtime), live := false } else k) }
  match s2.queue? x.queue with
  | some q => if q.current = some x.id then s2.nextHead x.queue else s2
  | none => s2

/-- The count of an ended instance; a mirror copy counts for nothing (19 R413). -/
def State.countEnded (s : State) (r : Ridge) : State :=
  match s.launch? r.launch with
  | none => s
  | some x =>
    let code : BitVec 16 := match r.fault with | some f => f.2.2.2 | none => 0
    let counted (x : Launch) : Launch := if r.mirror then x else
      { x with ended := x.ended + 1, clean := if r.fault.isNone then x.clean + 1 else x.clean, fault := if x.fault = 0 then code else x.fault }
    let n := if r.mirror then 0 else 1
    let s1 := s.modLaunch x.id counted
    let y := counted x
    if y.ended = y.count && !s1.ridges.any (fun z => z.launch == x.id) then s1.complete y n
    else if r.mirror then s1
    else s1.postStatus x.asid x.queue x.id 0 x.done [] 1

/-- Messages of an ended instance's threads that nobody waits for any more: refused ones, and those of its barriers and SPAWNs (R366; 07
R157). -/
def Msg.vain (m : Msg) : Bool :=
  m.refused || (match m.kind with | .barReport _ | .barRelease _ | .claim _ | .claimed _ | .spawn .. => true | _ => false)
/-- A read of a code line for an ended instance answers to no refill any more (R340). -/
def Msg.noRefill (cs : List Nat) (m : Msg) : Msg := if m.slot == 16 && m.dev == 0 && cs.contains m.core then { m with pend := 2 ^ 32 } else m
/-- Every message under way, at a home or on a link changes. -/
def State.mapMsgs (s : State) (f : Msg → Msg) : State :=
  { s with
    msgs := s.msgs.map f
    cores := s.cores.map (fun x => (x.1, { x.2 with inbuf := x.2.inbuf.map f }))
    links := s.links.map (fun l => { l with away := l.away.map f }) }

/-- Release what an ended instance holds: cores, tags, cells, lists, mailboxes, retained windows, messages. -/
def State.release (s : State) (r : Ridge) : State :=
  let s1 := (if r.image.isEmpty then (r.cores.foldl (fun s c => s.idleCore c []) s).mapMsgs (Msg.noRefill r.cores) else s).freeWindows r.id
  { s1 with
    ridges := s1.ridges.filter (fun x => x.id != r.id)
    jobs := s1.jobs.filter (fun j => !j.setsUp r.id)
    flights := if r.image.isEmpty then s1.flights.filter (fun f => !r.cores.contains f.core) else s1.flights
    msgs := if r.image.isEmpty then s1.msgs.filter (fun m => !(m.vain && m.dev == 0 && m.slot < 17 && r.cores.contains m.core)) else s1.msgs }

/-- INSTANCE_END: an instance whose members have all left, or that a fault ends, discards the requests that never started
(05 R102), and ends once the rest is done (R354); in host-assisted mode a fault is acknowledged first (20 R428). -/
def execInstanceEnd (id : Nat) (s : State) : Out :=
  .next (match s.ridges.find? (fun r => r.id == id) with
    | none => s
    | some r =>
      if r.state = .ending ∨ ((r.state = .running ∨ r.state = .grace) ∧ s.allExited r = true) then
        let s1 := if r.image.isEmpty then
            r.cores.foldl (fun s c => s.modCore c (fun k => { k with copies := k.copies.filter (·.active) })) s else s
        let s2 := s1.modRidge id (fun r => { r with state := .ending })
        if r.image.isEmpty && !r.cores.all s2.coreOver then s2
        else match (if r.fault.isSome then s2.ask 3 id else (true, s2)) with
          | (false, s3) => s3
          | (true, s3) => (s3.release r).countEnded r
      else s)

end Sys2Proof.Machine
end

