-- ==== Sys2Proof/Machine/Power.lean ====
section
/-! DEFINITION. Load levelling, the power controller, clock pauses and the rack cap (17 R355-R359). -/

namespace Sys2Proof.Machine
open Sys2Proof

/-! ### Load levelling (R355) -/

/-- The core's neighbours inside its ridge in the order N, E, S, W. -/
def State.neighbours (s : State) (c : Nat) : List Nat :=
  match s.ridge? c with
  | none => []
  | some r =>
    let k := s.core c
    (if k.row + 1 < r.h then [r.coreAt k.col (k.row + 1)] else []) ++ (if k.col + 1 < r.w then [r.coreAt (k.col + 1) k.row] else []) ++
      (if 0 < k.row then [r.coreAt k.col (k.row - 1)] else []) ++ (if 0 < k.col then [r.coreAt (k.col - 1) k.row] else [])

/-- The core of a list with the shortest work list, the first of several. -/
def State.shortest (s : State) : List Nat → Option Nat
  | [] => none
  | c :: rest => match s.shortest rest with
    | some d => some (if (s.core d).wl.length < (s.core c).wl.length then d else c)
    | none => some c

/-- The levelling interval of a packet in core cycles (17 R342). -/
def Packet.interval (p : Packet) : Nat := if p.lvl = 0 then 4096 else 1024 * p.lvl

/-- A core's levelling falls due: a whole number of intervals since placement, once each. -/
def State.levelDue (s : State) (c : Nat) (r : Ridge) : Bool :=
  let k := s.core c
  let n := k.cycle - k.placedAt
  (r.state == .running || r.state == .grace) && decide (0 < n) && n % r.packet.interval == 0 && k.levelledAt != k.cycle

/-- Entries of a work list leave for a neighbour over the port lanes. -/
def State.shipOff (s : State) (c d : Nat) (es : List Word) : State :=
  s.fly c (.ship es) d 16 10 false (s.portDue c (hops c d) (xings c d) false)
/-- Ship the n youngest entries of a core to a neighbour: a release at neighbourhood scope, so the entries leave once the writes to the
neighbourhood that their pushers had under way have been performed (07 R153; 16 R323). -/
def State.ship (s : State) (c d n : Nat) : State :=
  let k := s.core c
  let left := k.wl.length - n
  let taken := k.wl.drop left
  let waits := (k.wlOwed.filter (fun o => taken.any (fun e => e.2 == o.1) && !s.waitsOver c o.2.1 o.2.2)).map (·.2)
  let s1 := s.modCore c (fun k => { k with
    wl := k.wl.take left, wlInflight := k.wlInflight + n,
    wlGone := taken.map (fun e => (e.2, k.cycle)) ++ k.wlGone.filter (fun t => k.cycle < t.2 + 4)
    shipping := if waits.isEmpty then k.shipping else k.shipping ++ [{ dest := d, entries := taken.map (·.1), waits := waits }] })
  if waits.isEmpty then s1.shipOff c d (taken.map (·.1)) else s1
/-- Shipments whose writes have been performed leave. -/
def State.shipReady (s : State) (c : Nat) : State :=
  let released (x : Shipment) : Bool := x.waits.all (fun w => s.waitsOver c w.1 w.2)
  if (s.core c).shipping.isEmpty then s
  else ((s.core c).shipping.filter released).foldl (fun s x => s.shipOff c x.dest x.entries)
    (s.modCore c (fun k => { k with shipping := k.shipping.filter (fun x => !released x) }))

/-- LOAD_LEVELLING: at its interval a core ships half of its surplus over its shortest neighbour, from the youngest end. -/
def execLoadLevelling (c : Nat) (s0 : State) : Out :=
  let s := s0.shipReady c
  .next (match s.ridge? c with
    | none => s
    | some r =>
      if !s.levelDue c r then s
      else
        let s1 := s.modCore c (fun k => { k with levelledAt := k.cycle })
        match s1.shortest (s1.neighbours c) with
        | none => s1
        | some d =>
          let surplus := (s1.core c).wl.length - (s1.core d).wl.length
          if surplus < 2 then s1 else s1.ship c d (surplus / 2))

/-- Entries appended at the youngest end. -/
def State.appendWl (s : State) (c : Nat) (es : List Word) : State :=
  s.modCore c (fun k => { k with wl := k.wl ++ es.map (fun x => (x, k.cycle)) })

/-- WL_SHIPMENT_ARRIVAL: the receiver appends what it has room for and returns the rest; returned entries wait for room
at the sender (log 42). -/
def execWlShipmentArrival (id : Nat) (s : State) : Out :=
  .next (match s.landed? id with
    | none => s
    | some f =>
      let room := 4096 - (s.core f.core).wl.length
      match f.load with
      | .ship es =>
        let now := es.take room
        let rest := es.drop room
        let s1 := ((s.dropFlight id).appendWl f.core now).modCore f.src (fun k => { k with wlInflight := k.wlInflight - now.length })
        if rest.isEmpty then s1
        else s1.fly f.core (.back rest) f.src 16 10 false (s1.portDue f.core (hops f.core f.src) (xings f.core f.src) false)
      | .back es =>
        if room < es.length then s
        else ((s.dropFlight id).appendWl f.core es).modCore f.core (fun k => { k with wlInflight := k.wlInflight - es.length })
      | _ => s)

/-! ### The rack cap (R359) -/

/-- The cap in force in watts: the cap accepted last while its lease lasts, otherwise the floor (log 43). -/
def State.capWatts (s : State) : Nat := match s.cap with | some (w, _) => w | none => s.floor

/-- CAP_LEASE_EXPIRY: the lease of the cap has run out; the floor applies. -/
def execCapLeaseExpiry (s : State) : Out :=
  .next (match s.cap with
    | some (_, t) => if t ≤ s.rtime then { s with cap := none } else s
    | none => s)

/-- The cores that hold a ridge instance. -/
def State.heldCores (s : State) : List Nat := s.cores.filterMap (fun x => if x.2.ridge.isSome then some x.1 else none)

/-- A window of the controllers begins: the cap and the number of cores whose share holds in it are taken (R359). -/
def State.sharesDue (s : State) : State :=
  if s.rtime % 1024 = 0 then { s with shareWas := s.shareNow, shareNow := (s.capWatts, s.heldCores.length) } else s
/-- A core's share of the cap in mW in the window that closes: what is left of it outside the cores, divided equally; the power drawn outside
the cores is not the device's to state (log 3). -/
def State.share (s : State) : Nat :=
  (s.shareWas.1 * 1000 - (Config.freeWord s.fresh).toNat % (Config.designWatts * 1000)) / max 1 s.shareWas.2

/-- A core's limit: the smallest of its packet's mxpow, its grant's power, its share, and the host's limit while one is set
(R357; 20 R428). -/
def State.powerLimit (s : State) (c : Nat) (r : Ridge) : Nat :=
  let grant := match s.asids.find? (fun a => a.id == r.asid) with | some a => a.mw | none => r.packet.mxpow
  let own := if r.packet.mxpow = 0 then grant else min r.packet.mxpow grant
  min own (match (s.core c).coreLimit with | some x => min x s.share | none => s.share)

/-! ### Power steps (R357, R358) -/

/-- The frequency to which the last frequency step in force takes a core down. -/
def Core.reduced (k : Core) : Option Nat := ((k.steps.filter (fun n => decide (32 ≤ n))).head?).map (· / 32)
/-- The frequency of a core under its steps: the lower of its caps and what the steps have left (R356, R357; log 77). -/
def State.steppedFreq (s : State) (c : Nat) (r : Ridge) : Nat :=
  let base := s.freqFor r.asid r.packet
  min base ((s.core c).reduced.getD base)

/-- The slots of a removal step. -/
def Core.stepSlots (k : Core) (n : Nat) : List Nat := if k.redundant && n < 12 then [n, n + 1] else [n]

/-- The slot may be removed: 14 only while idle, a compute slot unless its thread or pair is the only live one. -/
def State.removable (s : State) (c n : Nat) : Bool :=
  let k := s.core c
  !(k.thread n).removed &&
    (if n = 15 then true
     else if n = 14 then k.copies.isEmpty
     else (!k.redundant || n % 2 == 0) &&
      !((k.stepSlots n).any (fun x => (k.thread x).life == .live) &&
        (List.range 12).all (fun x => (k.stepSlots n).contains x || (k.thread x).life != .live)))

/-- The next step of a core over its limit. -/
def State.nextStep (s : State) (c : Nat) (r : Ridge) : Option Nat :=
  let k := s.core c
  let f := s.steppedFreq c r
  match ([15, 14] ++ (List.range 12).reverse).find? (s.removable c) with
  | some n => some n
  | none =>
    if !k.steps.contains 16 then some 16
    else if max 600 r.packet.mnfreq ≤ f - 25 ∧ 25 ≤ f then some (17 + 32 * (f - 25))
    else if 625 ≤ f then some (18 + 32 * (f - 25))
    else none

/-- Set the removed state of the slots of a step: it takes effect at each slot's next opportunity. -/
def State.setRemoved (s : State) (c n : Nat) (v : Bool) : State :=
  ((s.core c).stepSlots n).foldl (fun s x =>
    (s.modThr c x (fun t => { t with removed := v })).trace c x (if v then 11 else 12) 0 []) s

/-- Slot 14 comes back into the rotation with its step undone: a request is in the mailbox (05 R103; log
121). -/
def State.recall (s : State) (c : Nat) : State :=
  (s.modCore c (fun k => { k with steps := k.steps.erase 14 })).setRemoved c 14 false
/-- Take a step. -/
def State.takeStep (s : State) (c n : Nat) (r : Ridge) : State :=
  let entered : Bool := n % 32 == 18 && (s.core c).steps.all (fun x => x % 32 != 18)
  let s1 := s.modCore c (fun k => { k with steps := n :: k.steps }.regate)
  if n < 16 then s1.setRemoved c n true
  else if n = 16 then s1
  else
    let s2 := s1.modCore c (fun k => k.orderFreq s1.rtime (s1.steppedFreq c r))
    if entered then s2.record c 12 cFreqFloor 0 false false 0 else s2

/-- Undo the most recent step. -/
def State.undoStep (s : State) (c : Nat) (r : Ridge) : State :=
  match (s.core c).steps with
  | [] => s
  | n :: rest =>
    let s1 := s.modCore c (fun k => { k with steps := rest }.regate)
    if n < 16 then s1.setRemoved c n false
    else if n = 16 then s1
    else s1.modCore c (fun k => k.orderFreq s1.rtime (s1.steppedFreq c r))

/-- Do the same to a core and, in lockstep mode, to its mirror (19 R413). -/
def State.toBoth (s : State) (c : Nat) (r : Ridge) (f : State → Nat → Ridge → State) : State :=
  let s1 := f s c r
  match (if s.lockstep ≠ 0 ∧ c < 512 then s.ridge? (c + 512) else none) with
  | some m => if m.mirror then f s1 (c + 512) m else s1
  | none => s1
/-- The decision of one controller; a new grant's frequency takes effect with it (20 R429). -/
def State.decidePower (s : State) (c avg : Nat) (r : Ridge) : State :=
  let limit := s.powerLimit c r
  let s1 := if limit < avg then
      match s.nextStep c r with
      | some n => s.toBoth c r (fun s c r => s.takeStep c n r)
      | none => s
    else if avg * 10 < limit * 9 then s.toBoth c r (fun s c r => s.undoStep c r)
    else s
  s1.toBoth c r (fun s c r => s.modCore c (fun k => k.orderFreq s.rtime (s.steppedFreq c r)))

/-- POWER_WINDOW: a window of 1,024 rc closes with an average power in mW; a core over its limit takes one step, one below
90% of it undoes one; a mirror core follows its original (19 R413). -/
def execPowerWindow (c avg : Nat) (s : State) : Out :=
  .next (
    let k := s.core c
    if s.rtime % 1024 ≠ 0 ∨ s.rtime = 0 ∨ k.windowAt = s.rtime then s
    else
      let s1 := s.modCore c (fun k => { k with windowAt := s.rtime, windowPower := avg })
      match s1.ridge? c with
      | none => s1
      | some r =>
        if r.mirror && s.lockstep != 0 then s1
        else
          let s2 := s1.decidePower c avg r
          { s2 with fresh := s2.fresh + 1 })

/-- A new grant takes effect at the next controller window (20 R429). -/
def Asid.granted (a : Asid) : Asid :=
  match a.next with
  | some (ceil, mw, boost) => { a with ceil := ceil, mw := mw, boost := boost, next := none }
  | none => a
/-- At the end of a window the grants set in it take effect. -/
def State.grantsDue (s : State) : State := if s.rtime % 1024 = 0 then { s with asids := s.asids.map Asid.granted } else s

/-- What a core had still to send out when its clock paused leaves by the rest of the core cycles that it takes (14 R273): the pause has
lasted from one router cycle to another, and the clock goes from one frequency to another. -/
def Arrival.putOff (a : Arrival) (c since rt old new : Nat) : Arrival :=
  if a.src ≠ some c ∨ a.num ≤ (since + a.hops) * a.den then a
  else { a with num := (rt + a.hops) * a.den * new + (a.num - (since + a.hops) * a.den) * old, den := a.den * new }
/-- The clock of a core resumes at a frequency. -/
def State.resumeClock (s : State) (c f : Nat) : State :=
  let k := s.core c
  let off (a : Arrival) : Arrival := match k.gap with
    | some g => a.putOff c g.since (s.rtime - 1) k.freq f
    | none => a
  { s.modCore c (fun k => { k with pause := none, freq := f }) with
    flights := s.flights.map (fun x => { x with due := off x.due })
    msgs := s.msgs.map (fun m => { m with due := off m.due }) }
/-- CLOCK_PAUSE_END: the clock resumes at the frequency ordered last (R356). -/
def execClockPauseEnd (c : Nat) (s : State) : Out :=
  .next (match (s.core c).pause with
    | some (t, f) => if t ≤ s.rtime then s.resumeClock c f else s
    | none => s)

end Sys2Proof.Machine
end

