-- ==== Sys2Proof/Machine/Observe.lean ====
section
/-! DEFINITION. The debug block, the thread windows, the sampler and the trace unit of a core (19 R396-R408; 18 R393). -/

namespace Sys2Proof.Machine
open Sys2Proof

/-- Change a core's debug block. -/
def State.modDbg (s : State) (c : Nat) (f : Debug → Debug) : State := s.modCore c (fun k => { k with dbg := f k.dbg })

/-- The debug session reaches the core: it holds an instance of the session's ASID (R396). -/
def State.debugReach (s : State) (c : Nat) : Bool :=
  match s.debugAsid, s.ridge? c with
  | some a, some r => r.asid == a
  | _, _ => false

/-! ### Stop, resume, step (R401, R402) -/

/-- The slots a command names that can be stopped. -/
def cmdSlots (slots : BitVec 16) : List Nat := (List.range 16).filter (fun x => slots.getLsbD x && (x < 12 || x == 15))
/-- DBG_STOP: each named thread stops before its next instruction; in a pair both do. -/
def execDbgStop (c : Nat) (slots : BitVec 16) (s : State) : Out :=
  .next ((cmdSlots slots).foldl (fun s x =>
    let t := s.thr c x
    if t.stopped || t.life == .vacant then s else s.debugStop c x 0 0) s)

/-- A stopped thread goes on, for good or for one instruction, its pair with it; it ignores the breakpoints of the instruction it stopped
at. -/
def State.goOn (s : State) (c x : Nat) (step : Bool) : State :=
  let h := (s.pairOf c x).headD x
  let at' := (s.pairOf c x).findSome? (fun y => (s.thr c y).skipAt)
  if !(s.thr c x).stopped then s
  else ((s.pairOf c x).foldl (fun s y => s.modThr c y (fun t => { t with stopped := false, stepping := step, skipAt := at' })) s).trace c
    h 6 (s.thr c h).pc [if step then 1 else 0]

/-- DBG_RESUME. -/
def execDbgResume (c : Nat) (slots : BitVec 16) (s : State) : Out :=
  .next ((cmdSlots slots).foldl (fun s x => s.goOn c x false) s)
/-- DBG_STEP. -/
def execDbgStep (c : Nat) (slots : BitVec 16) (s : State) : Out :=
  .next ((cmdSlots slots).foldl (fun s x => s.goOn c x true) s)

/-! ### The account's commands and the trigger's (R398, R405) -/

/-- DBG_LATCH: the live counters are copied at the end of this rotation. -/
def execDbgLatch (c : Nat) (s : State) : Out := .next (s.modDbg c (fun d => { d with latchReq := true }))
/-- DBG_CLEAR_ACCOUNT: the live counters clear at the end of this rotation. -/
def execDbgClearAccount (c : Nat) (s : State) : Out := .next (s.modDbg c (fun d => { d with clearReq := true }))
/-- DBG_START_TRACE: a start condition in this cycle. -/
def execDbgStartTrace (c : Nat) (s : State) : Out :=
  .next (s.modDbg c (fun d => { d with startNow := d.startNow || d.trgctl.getLsbD 63 }))
/-- DBG_STOP_TRACE: a stop condition in this cycle. -/
def execDbgStopTrace (c : Nat) (s : State) : Out :=
  .next (s.modDbg c (fun d => { d with stopNow := d.stopNow || d.trgctl.getLsbD 63 }))

/-- The end of a rotation: counters, then a latch, then a clearing (R397, R398). -/
def Debug.rotationEnd (d : Debug) : Debug :=
  let live := { d.live with hist := bump d.live.hist d.issuedNow, rots := min (d.live.rots + 1) (2 ^ 48 - 1) }
  { d with
    live := if d.clearReq then Account.reset else live
    latched := if d.latchReq then live else d.latched
    latchReq := false
    clearReq := false
    issuedNow := 0
    smpCount := if d.smpctl.getLsbD 63 then d.smpCount + 1 else 0 }

/-! ### The sampler (R399) -/

/-- The next slot to sample after the previous one. -/
def Core.nextSample (k : Core) : Nat :=
  let order := (List.range 16).map (fun i => (k.dbg.smpLast + 1 + i) % 16)
  (order.find? (fun x => x == 12 || x == 15 || (k.thread x).life != .vacant)).getD 12

/-- SAMPLE_RECORD: at the end of every n-th rotation a sample of the next slot is recorded. -/
def execSampleRecord (c : Nat) (s : State) : Out :=
  .next (
    let d := (s.core c).dbg
    if d.smpctl.getLsbD 63 && decide (bitsN d.smpctl 15 0 + 1 ≤ d.smpCount) then
      let x := (s.core c).nextSample
      let t := s.thr c x
      let e : TraceEv := ⟨x, 16, t.pc, [BitVec.ofNat 8 ((d.rot[x]?).getD 3), 0, t.ctx.setWidth 8, (t.ctx >>> 8).setWidth 8]⟩
      s.modDbg c (fun d => { d with smpCount := 0, smpLast := x, events := d.events ++ [e] })
    else s)

/-! ### Trace records (R406-R408) -/

/-- A record of an event at a cycle. -/
def TraceEv.record (e : TraceEv) (cycle c : Nat) : List Byte :=
  leBytes cycle 8 ++ leBytes c 2 ++ [BitVec.ofNat 8 e.slot, BitVec.ofNat 8 e.kind] ++ leBytes e.pc.toNat 4 ++ (e.pay ++ List.replicate 16 0).take 16

/-- Before another event of the same cycle: slots, then the core; kinds. -/
def TraceEv.before (a b : TraceEv) : Bool := a.slot < b.slot || (a.slot == b.slot && a.kind ≤ b.kind)
/-- Insert into a list ordered by `before`. -/
def TraceEv.insert (e : TraceEv) : List TraceEv → List TraceEv
  | [] => [e]
  | x :: rest => if x.before e then x :: e.insert rest else e :: x :: rest

/-- The buffer takes records: none while draining has stopped (R408). -/
def Debug.takes (d : Debug) : Bool := !(d.tfull && !d.trgctl.getLsbD 62)
/-- One record enters the core's buffer, of which a number of places are to be used, or is lost. -/
def Debug.push (d : Debug) (room cycle c : Nat) (e : TraceEv) : Debug :=
  if room ≤ d.records.length || !d.takes then { d with tlost := d.tlost + 1, lostSince := d.lostSince + 1 }
  else { d with records := d.records ++ [e.record cycle c] }
/-- A 0x0D record is written once there is room again: a core event, behind the slots' events of its cycle (R407, R408). -/
def Debug.pushLost (d : Debug) (cycle c : Nat) : Debug :=
  if d.lostSince = 0 ∨ 1024 ≤ d.records.length ∨ d.takes = false then d
  else { d with lostSince := 0, records := d.records ++ [TraceEv.record ⟨0xFF, 13, 0, leBytes d.lostSince 8⟩ cycle c] }

/-- The trigger's decision at the end of a cycle, and the cycle's records of the kinds kept (R406); the last place of a buffer that has lost
records is for the record that says so. -/
def Debug.cycleEnd (d : Debug) (cycle c : Nat) : Debug :=
  let keep : Bool := d.active || d.startNow
  let kept := d.events.filter (fun e => e.kind == 16 || (keep && d.trgctl.getLsbD (16 + e.kind)))
  let room := if d.lostSince = 0 then 1024 else 1023
  let d1 := ((kept.foldl (fun l e => e.insert l) []).foldl (fun d e => d.push room cycle c e) d)
  let d2 := if d.lostSince = 0 then d1 else d1.pushLost cycle c
  { d2 with active := keep && !d.stopNow, startNow := false, stopNow := false, events := [] }

/-- TRACE_DRAIN: the oldest record leaves for the trace buffer, as a message of the core itself (R407, R408). -/
def execTraceDrain (c : Nat) (s : State) : Out :=
  .next (
    let d := (s.core c).dbg
    match d.records with
    | [] => s
    | r :: rest =>
      if d.tsize = 0 ∨ d.takes = false then s
      else
        let a := d.tbase + d.twr
        let next := d.twr + 32
        let s1 := s.modDbg c (fun d => { d with
          records := rest
          twr := BitVec.ofNat 64 (next.toNat % d.tsize.toNat)
          tfull := !d.trgctl.getLsbD 62 && decide (d.tsize ≤ next) })
        (s1.trace c 0xFF 7 0 (s1.tracedAddr (gaHome a) (gaOff a) a ++ [0])).inject (.copyWrite (r.map (fun b => (b, false)))) c 18 0
          (gaHome a) (gaOff a) a (s.debugAsid.getD 0) 0)

/-- BREAKPOINT_CYCLE_MATCH: a comparator of kind 4 matches the cycle count and is offered to the trigger (R400). -/
def execBreakpointCycleMatch (c n : Nat) (s : State) : Out :=
  .next (
    let k := s.core c
    if (k.dbg.hits 4 0 k.cycle 0x3FFFFFFFFFF).contains n then s.offer c [n] else s)

/-! ### The registers (R396, R399, R400, R405) -/

/-- TRGCTL_WRITE: trace becomes inactive and tlost clears; a stopped buffer drains again (log 44); what the next 0x0D record counts stays. -/
def execTrgctlWrite (c : Nat) (v : BitVec 64) (s : State) : Out :=
  .next (if !s.debugReach c then s
    else s.modDbg c (fun d => { d with trgctl := v &&& 0xC0000000FFFFFFFF#64, active := false, tlost := 0, tfull := false }))
/-- SMPCTL_WRITE: rotations are counted from this write. -/
def execSmpctlWrite (c : Nat) (v : BitVec 64) (s : State) : Out :=
  .next (if !s.debugReach c then s else s.modDbg c (fun d => { d with smpctl := v &&& 0x800000000000FFFF#64, smpCount := 0 }))

/-- dbgctl, a comparator, tbase or tsize; a reserved value leaves its field (00 R8). -/
def Debug.write (d : Debug) (off : Nat) (v : Word) : Debug :=
  if off = 0 then { d with dbgctl := v &&& 1#64 }
  else if 0x40 ≤ off ∧ off < 0x80 ∧ off % 8 = 0 then { d with bkpt := d.bkpt.setIfInBounds ((off - 0x40) / 8) v }
  else if off = 0x88 then (if v.toNat % 65536 = 0 then { d with tbase := v } else d)
  else if off = 0x90 then (if v.toNat % 65536 = 0 then { d with tsize := v } else d)
  else d

/-- The counter a latched register shows (R398). -/
def Account.shows (a : Account) (off : Nat) : Word :=
  BitVec.ofNat 64 (if off % 8 ≠ 0 then 0
    else if 0x100 ≤ off ∧ off < 0x300 then (a.cls[(off - 0x100) / 8]?).getD 0
    else if 0x300 ≤ off ∧ off < 0x368 then (a.hist[(off - 0x300) / 8]?).getD 0
    else if off = 0x368 then a.rots
    else 0)

/-- dbgstat. -/
def Core.dbgstatWord (k : Core) : Word :=
  let bits (p : Thread → Bool) : Nat := (List.range 16).foldl (fun n x => if p (k.thread x) then n + 2 ^ x else n) 0
  BitVec.ofNat 64 ((if k.dbg.active then 2 ^ 34 else 0) + (if k.dbg.tlost ≠ 0 then 2 ^ 33 else 0) + (if k.dbg.wref then 2 ^ 32 else 0)
    + bits (·.stepping) * 2 ^ 16 + bits (·.stopped))

/-! ### The thread window (R393, R404) -/

/-- What a write to a thread window does. -/
inductive WinWrite where
  | ok (t : Thread)
  | refused
  /-- a reserved offset -/
  | ignored

/-- A register value written: it becomes full; an empty and pending register refuses. -/
def Reg.poke {n : Nat} (r : Reg n) (v : BitVec n) : Option (Reg n) := if r.fe == .pending then none else some { r with val := v, fe := .full }

/-- Write four mask registers from the i-th. -/
def Thread.pokeMasks (t : Thread) (first n : Nat) (v : Word) : WinWrite :=
  let is := List.range n
  if is.any (fun i => (t.mAt (first + i)).fe == .pending) then .refused
  else .ok (is.foldl (fun t i => t.setM (first + i) { t.mAt (first + i) with val := v.extractLsb' (16 * i) 16, fe := .full }) t)

/-- A write to a stopped thread's record (R404; log 45). -/
def State.windowWrite (s : State) (c sl off : Nat) (v : Word) : WinWrite :=
  let t := s.thr c sl
  let gn := s.gDecl c
  let vn := s.vDecl c
  if off < 0x68 then
    match off / 8 with
    | 0 =>
      let pc := v &&& 0xFFFFFFFF#64
      if pc.toNat % 4 ≠ 0 ∨ pc.toNat < 64 ∨ s.codeSize c < pc.toNat + 4 then .refused
      else .ok { t with pc := pc, seen := false, parkSeen := false, handler := v.getLsbD 33,
                        life := if v.getLsbD 32 then .dormant else if sl = 15 ∧ v.getLsbD 34 then .asleep else .live }
    | 1 => .ok (t.writeCsr 1 v)
    | 2 => .ok (t.writeCsr 2 v)
    | 4 => .ok { t with ctx := v.setWidth 16 }
    | 10 => .ok { t with mxcfg := v &&& 1#64 }
    | 11 => .ok { t with gpcfg := (v &&& 0x100#64) ||| (if bitsN v 5 0 < 48 then v &&& 0x3F#64 else t.gpcfg &&& 0x3F#64) }
    | 12 => .ok { t with wrapX := v.getLsbD 0, wrapY := v.getLsbD 1 }
    | _ => .refused
  else if off ≤ 0x90 then .refused
  else if 0x100 ≤ off ∧ off < 0x278 then
    let i := (off - 0x100) / 8 + 1
    if gn < i then .ignored
    else match ((t.g[i]?).getD (Reg.zero 64)).poke v with | some r => .ok (t.setG i r) | none => .refused
  else if off = 0x280 then t.pokeMasks 1 4 v
  else if off = 0x288 then t.pokeMasks 5 3 v
  else if 0x290 ≤ off ∧ off < 0x3D0 then
    let i := (off - 0x290) / 40
    .ok { t with td := t.td.setIfInBounds i (((t.td[i]?).getD Desc.reset).set ((off - 0x290) % 40 / 8) v) }
  else if 0x3D0 ≤ off ∧ off < 0x478 then .refused
  else if 0x480 ≤ off ∧ off < 0x1080 then
    let i := (off - 0x480) / 64
    let j := (off - 0x480) % 64 * 8
    if vn ≤ i then .ignored
    else
      let r := (t.v[i]?).getD (Reg.zero 512)
      let whole := (r.val &&& ~~~((0xFFFFFFFFFFFFFFFF#512) <<< j)) ||| ((v.setWidth 512) <<< j)
      match r.poke whole with | some r => .ok (t.setV i r) | none => .refused
  else if off = 0x1080 ∨ (0x10C0 ≤ off ∧ off < 0x12C0) then .refused
  else .ignored

/-- THREAD_WINDOW_WRITE: a word of a stopped thread's record; a refused write sets wref, an accepted one clears it. -/
def execThreadWindowWrite (c sl off : Nat) (v : BitVec 64) (s : State) : Out :=
  .next (
    if !s.debugReach c || off % 8 != 0 || 16 ≤ sl then s
    else if !(s.thr c sl).stopped then s.modDbg c (fun d => { d with wref := true })
    else match s.windowWrite c sl off v with
      | .ok t => (s.setThr c sl t).modDbg c (fun d => { d with wref := false })
      | .refused => s.modDbg c (fun d => { d with wref := true })
      | .ignored => s)

/-- The word a debug block answers at an offset (R396). -/
def State.debugWord (s : State) (c off : Nat) : Word :=
  let d := (s.core c).dbg
  if !s.debugReach c || off % 8 != 0 then 0
  else if off = 0 then d.dbgctl
  else if off = 8 then (s.core c).dbgstatWord
  else if 0x40 ≤ off ∧ off < 0x80 then (d.bkpt[(off - 0x40) / 8]?).getD 0
  else if off = 0x80 then d.trgctl
  else if off = 0x88 then d.tbase
  else if off = 0x90 then d.tsize
  else if off = 0x98 then d.twr
  else if off = 0xA0 then d.tlost
  else if off = 0xA8 then d.smpctl
  else if off < 0x1000 then d.latched.shows off
  else
    let sl := (off - 0x1000) / 0x2000
    if sl < 16 ∧ (s.thr c sl).stopped = true then s.recordWord c sl ((off - 0x1000) % 0x2000) else 0

end Sys2Proof.Machine
end

