-- ==== Sys2Proof/Machine/Capture.lean ====
section
/-! DEFINITION. Cairns and lockstep replay mode: pre-images, the window comparison, and what commands 0x0A, 0x0B and 0x11 do
(19 R409-R415). -/

namespace Sys2Proof.Machine
open Sys2Proof

/-- The state after an outcome that is a next state; the state itself otherwise. -/
def State.after (s : State) (o : Out) : State := match o with | .next t => t | _ => s

/-! ### Pre-images (R409, R410) -/

/-- Accesses wait at their banks no more for pages that are no longer on their way to a cairn. -/
def State.preDone (s : State) : State :=
  let keep (home : Nat) (r : BankReq) : BankReq := { r with pre := r.pre && s.preImages.any (fun x => x.page == pageKey home r.off) }
  let goes (p : Pend) : Pend := { p with imaged := p.imaged.filter (fun g => s.preImages.any (fun x => x.page == g)) }
  { s with cores := s.cores.map (fun x => (x.1, { x.2 with
      banks := vecMap (fun b => { b with queue := b.queue.map (keep x.1) }) x.2.banks
      threads := vecMap (fun t => { t with pend := t.pend.map goes }) x.2.threads })) }
/-- PRE_IMAGE_COPY: the last byte of a page has reached its cairn: the cairn has the page, and the accesses that have waited for it go on; a
pool that cannot hold it ends the capture, and the cairn is incomplete. -/
def execPreImageCopy (page : Nat) (s : State) : Out :=
  .next (match s.preImages.find? (fun x => x.page == page && decide (x.due ≤ s.rtime)) with
    | none => s
    | some x =>
      let s1 := { s with preImages := s.preImages.erase x }
      match s1.cairns.find? (fun k => k.id == x.cairn) with
      | some k => (if k.live then s1.capture k page else s1).preDone
      | none => s1.preDone)

/-! ### The bytes of a cairn (R410) -/

/-- The global address of a page of this device. -/
def State.pageAddr (s : State) (page : Nat) : Word := BitVec.ofNat 64 (s.devNum * 2 ^ 53 + 65536 * page)
/-- The 64 KiB of a pre-image. -/
def pageOf (bs : List (Nat × Byte)) : List Byte := (List.range 65536).map (fun i => ((bs.find? (fun x => x.1 == i)).map (·.2)).getD 0)
/-- The sections of a cairn: kind and contents. -/
def State.cairnSections (s : State) (k : Cairn) : List (Nat × Nat × List Byte) :=
  [(0x21, 0xFF, k.raw), (0x22, 0xFF, k.code), (0x23, 0xFF, wordsBytes k.deps)] ++
  k.pages.map (fun x => (0x24, 0xFF, wordBytes (s.pageAddr x.1) ++ pageOf x.2)) ++
  (match k.status with
    | some (code, fault, clean, at') => [(0x25, 0xFF, leBytes code 2 ++ leBytes fault.toNat 2 ++ leBytes clean 4 ++ leBytes at' 8)]
    | none => []) ++
  [(0x26, 0xFF, k.foreignPages.flatMap (fun p => wordBytes (s.pageAddr p)))]
/-- The 64-byte header of a cairn with a checksum. -/
def Cairn.head (k : Cairn) (sections checksum : Nat) : List Byte :=
  leBytes 0x4E524143 4 ++ leBytes 1 2 ++ leBytes ((if k.opened then 1 else 0) + (if k.incomplete then 2 else 0)) 2 ++ leBytes k.asid 2 ++
    leBytes k.queue 2 ++ leBytes k.pages.length 4 ++ wordBytes k.seq ++ leBytes k.foreign 8 ++ leBytes sections 4 ++ leBytes checksum 4 ++
    List.replicate 24 0
/-- The bytes of a cairn. -/
def State.cairnBytes (s : State) (k : Cairn) : List Byte :=
  let ss := s.cairnSections k
  let body := directoryOf (64 + 16 * ss.length) ss ++ ss.flatMap (fun e => e.2.2)
  k.head ss.length (crc32 (k.head ss.length 0 ++ body)).toNat ++ body
/-- A cairn of this device agrees with its checksum. -/
def State.cairnSound (s : State) (k : Cairn) : Bool := k.flips.isEmpty || checksumOk 0x24 (damaged k.flips (s.cairnBytes k))

/-- The sections of a cairn's bytes: kind and contents. -/
def sectionsIn (bs : List Byte) : List (Nat × List Byte) :=
  (entries (bs.drop 64) 16 (field bs 0x20 4)).map (fun e => (field e 0 2, (bs.drop (field e 8 8)).take (field e 4 4)))
/-- The contents of a cairn's section. -/
def sectionIn (bs : List Byte) (kind : Nat) : List Byte := (((sectionsIn bs).find? (fun e => e.1 == kind)).map (·.2)).getD []
/-- The header of a code image, and whether it passes the checks of R49. -/
def headerIn (code : List Byte) : Option Header :=
  let h := code.take 64
  let part (at' n : Nat) : List Byte := (code.drop at').take n
  let ws := leaseTable (part (field h 0x28 4) (16 * field h 14 1)) (field h 14 1)
  let ds := dataTable (part (field h 0x2C 4) (16 * field h 0x22 2)) (field h 0x22 2)
  if code.length < 64 || headerBad h || tablesBad ws ds (field h 0x24 4) (field h 0x10 4) then none
  else some (headerOf h (part (field h 0x1C 4) (4 * field h 0x20 2)) (ws.map (·.1)) (ds.map (fun x => (x.1, part x.2.1 x.2.2))))
/-- The bytes of a page that are not 0, by offset. -/
def pageIn (bs : List Byte) : List (Nat × Byte) := (bs.zipIdx.filter (fun x => x.1 != 0)).map (fun x => (x.2, x.1))
/-- The cairn that some bytes hold, taken on this device or another: none where its checksum fails (R411). -/
def Cairn.ofBytes (bs : List Byte) : Option Cairn :=
  if !checksumOk 0x24 bs || field bs 0 4 != 0x4E524143 || field bs 4 2 != 1 then none
  else (headerIn (sectionIn bs 0x22)).map (fun h =>
    { id := 0, launch := 0, asid := field bs 8 2, queue := field bs 10 2, seq := fieldW bs 0x10, packet := Packet.ofBytes (sectionIn bs 0x21),
      header := h, code := sectionIn bs 0x22, deps := [fieldW (sectionIn bs 0x23) 0, fieldW (sectionIn bs 0x23) 8],
      pages := ((sectionsIn bs).filter (fun e => e.1 == 0x24)).map (fun e => (field e.2 0 8 % 2 ^ 53 / 65536, pageIn (e.2.drop 8))),
      status := none, opened := false, incomplete := false, foreign := 0, foreignPages := [], live := false, raw := sectionIn bs 0x21 })

/-! ### Commands 0x0A and 0x0B -/

/-- Capture is armed on a queue (command 0x0A). -/
def State.armCapture (s : State) (q : Nat) : Nat × State :=
  if !s.feat.getLsbD 2 then (3, s)
  else match s.queue? q with
    | none => (2, s)
    | some _ => (1, s.modQueue q (fun x => { x with armed := true }))

/-- A packet of zeros. -/
def Packet.none : Packet := Packet.ofBytes []
/-- A launch that replays some instances of a cairn, and is not there yet (R411): its serial number is the cairn's address, until the cairn has
been read. -/
def State.replayLaunch (s : State) (q : Queue) (cairn first n : Nat) (status : Word) : Launch :=
  { id := s.fresh, queue := q.id, asid := q.asid, serial := BitVec.ofNat 64 cairn, packet := Packet.none, state := .queued, header := Header.none, first := first,
    count := n, placed := 0, ended := 0, clean := 0, fault := 0, leases := [], polled := s.rtime, deps := [], readyAt := 0, reserved := none,
    status := status, done := 0, capture := none, replay := true }
/-- The chosen instances are instances of the cairn's packet, and its launch had a header. -/
def Cairn.allows (k : Cairn) (first n : Nat) : Bool := !k.live && n != 0 && first + n ≤ k.packet.count && k.header.codeSize != 0
/-- Step 1: the pages and the image that they came with are on their way back, and then the packet's lease list is read (log 46). -/
def State.replayPages (s : State) (l : Launch) (k : Cairn) : State :=
  let ops := k.pages.map (fun x => JobOp.write (s.pageAddr x.1) (pageOf x.2)) ++ [.write k.packet.code k.code] ++
    (if k.packet.gcount = 0 then [] else [.read k.packet.glist (16 * k.packet.gcount)])
  (s.modLaunch l.id (fun x => { x with serial := k.seq, packet := k.packet, header := k.header, deps := k.deps, state := .checking })).jobBegin
    l.asid (seqCore (l.queue % 4)) .replay l.id none ops

/-- The command at the head of the order finishes with a status (20 R429). -/
def State.commandDone (s : State) (st : Nat) : State :=
  match s.rung with
  | slot :: rest => { s with rung := rest }.paciaPut (0x02000000 + 64 * slot + 2) (leBytes st 2)
  | [] => s
/-- A cairn is submitted to a queue (R411): one of this device, by name, or one that another device has taken, by the address to which it has
been brought, from which it is read (log 46).  What the command comes to, unless it has still to read. -/
def State.replay (s : State) (cairn q first n : Nat) (status : Word) : Option Nat × State :=
  if !s.feat.getLsbD 2 then (some 3, s)
  else match s.queue? q with
    | none => (some 2, s)
    | some x =>
      let l := s.replayLaunch x cairn first n status
      let s1 := { s with fresh := s.fresh + 1, launches := s.launches ++ [l] }
      match s.cairns.find? (fun k => k.id == cairn) with
      | some k =>
        if !k.allows first n || !s.cairnSound k then (some 2, s) else (some 1, s1.replayPages l k)
      | none =>
        let a := BitVec.ofNat 64 cairn
        if !isGlobal a || !s.memExists x.asid a 64 || n = 0 then (some 2, s)
        else (none, s1.jobBegin x.asid (seqCore (q % 4)) .replay l.id none [.read a 64])

/-- A cairn of another device has been read as far as its job says: its header, its directory, the whole. -/
def State.replayRead (s : State) (l : Launch) (j : Job) : State :=
  let refuse : State := ({ s.dropJob j.id with launches := s.launches.filter (fun x => x.id != l.id) }).commandDone 2
  let a := l.serial
  if j.failed then refuse
  else match j.got with
    | [h] => s.setJob (j.with [.read (a + 64) (16 * field h 0x20 4)])
    | [h, d] =>
      let size := (entries d 16 (field h 0x20 4)).foldl (fun m e => max m (field e 8 8 + field e 4 4)) (64 + d.length)
      s.setJob (j.with [.read a size])
    | _ => match Cairn.ofBytes (j.got.getLastD []) with
      | none => refuse
      | some k => if !k.allows l.first l.count then refuse else ((s.dropJob j.id).replayPages l k).commandDone 1
/-- A replay goes on when its accesses have been made: the cairn has been read; the pages are back, the leases of the packet are taken next,
and both dependences are satisfied.  What cannot be written or leased ends it with the status of its launch (R344, R411). -/
def State.replayOn (s : State) (l : Launch) : State :=
  match (if l.replay then s.job? .replay l.id else none) with
  | none => s
  | some j =>
    if !j.isOver then s
    else if l.state = .queued then s.replayRead l j
    else
      let s1 := s.dropJob j.id
      let ls := if l.packet.gcount = 0 then some [] else s1.leaseList l.asid (j.got.getLastD []) l.packet.gcount
      let refuse (code : Nat) : State :=
        ({ s1 with launches := s1.launches.filter (fun x => x.id != l.id) }).postStatus l.asid l.queue l.id l.status 0 (s1.statusRecord code 0 0) 0
      if j.failed then refuse 7
      else match ls with
        | none => refuse 6
        | some ls => s1.modLaunch l.id (fun x => { x with state := .leasing, leases := ls })

/-! ### Lockstep (R413-R415) -/

/-- An instance of the device runs: it is placed and not yet saved or ended. -/
def Ridge.isRunning (r : Ridge) : Bool := r.state != .saved && r.state != .ended
/-- Lockstep replay mode is set or cleared (command 0x11). -/
def State.setLockstep (s : State) (v : Nat) : Nat × State :=
  if !s.feat.getLsbD 1 then (3, s)
  else if 1 < v then (2, s)
  else if s.ridges.any Ridge.isRunning then (4, s)
  else (1, { s with lockstep := v })

/-- The hash and the count of a finished window. -/
def Core.windowHash (k : Core) (w : Nat) : Word × Nat :=
  match k.rolled.find? (fun x => x.1 == w) with
  | some x => x.2
  | none => if k.hashWindow = w then (k.hash, k.hashCount) else (0, 0)
/-- The window has ended on a core. -/
def Core.windowOver (k : Core) (w : Nat) : Bool := k.startCycle + 4096 * (w + 1) ≤ k.cycle

/-- An entry of the Pacia log that is no fault's. -/
def LogEntry.ofRaw (raw : List Byte) : LogEntry :=
  { addr := 0, code := 0, asid := 0, who := 0, restarts := 0, core := 0, stamp := 0, tpc := 0, inst := 0, raw := some raw }
/-- A divergence report in the Pacia log: two entries of 32 bytes (R415; log 105). -/
def Divergence.entries (r : Divergence) : List LogEntry :=
  [LogEntry.ofRaw (leBytes r.core 8 ++ leBytes r.window 8 ++ wordBytes r.hashA ++ wordBytes r.hashB),
   LogEntry.ofRaw (leBytes r.countA 8 ++ leBytes r.countB 8 ++ leBytes r.stamp 8 ++ leBytes 0 8)]
/-- LOCKSTEP_WINDOW_COMPARE: a window that has ended on a P0 core and on its mirror is compared; a difference is reported and
ends the pair's comparisons (R414, R415). -/
def execLockstepWindowCompare (c : Nat) (s : State) : Out :=
  .next (
    let a := s.core c
    let b := s.core (c + 512)
    let w := a.compared
    if s.lockstep = 0 || 512 ≤ c || a.ridge.isNone || b.ridge.isNone || !s.isMirror (c + 512) || s.isMirror c || a.diverged
        || !a.windowOver w || !b.windowOver w then s
    else
      let x := a.windowHash w
      let y := b.windowHash w
      let differ : Bool := x != y
      let drop (k : Core) : Core := { k with rolled := k.rolled.filter (fun z => w < z.1) }
      let s1 := (s.modCore c (fun k => { drop k with compared := w + 1, diverged := differ })).modCore (c + 512) drop
      if differ then
        let r : Divergence := { core := c, window := w, hashA := x.1, hashB := y.1, countA := x.2, countB := y.2, stamp := s.rtime }
        { s1 with reports := s1.reports ++ [r], log := s1.log ++ r.entries, logCount := s1.logCount + 2 }
      else s1)

end Sys2Proof.Machine
end

