-- ==== Sys2Proof/Machine/Links.lean ====
section
/-! DEFINITION. The Dreard links: messages as slots, flits, delivery, acknowledgement and replay, link states, and forwarding
between devices (20 R419-R423, R444, R445). -/

namespace Sys2Proof.Machine
open Sys2Proof

/-- A link. -/
def State.link (s : State) (l : Nat) : Link := (s.links[l]?).getD Link.reset
/-- Change a link. -/
def State.modLink (s : State) (l : Nat) (f : Link → Link) : State := { s with links := s.links.set l (f (s.link l)) }

/-! ### Messages as slots (R444) -/

/-- The code of an atomic operation in a header (log 47). -/
def AtomOp.code : AtomOp → Nat
  | .swap => 0 | .add => 1 | .and => 2 | .or => 3 | .xor => 4 | .max => 5 | .min => 6 | .cas => 7
/-- The atomic operation of a code. -/
def atomOfCode (n : Nat) : AtomOp := ([AtomOp.swap, .add, .and, .or, .xor, .max, .min, .cas][n]?).getD .swap

/-- What a header and the data of a message hold: kind, channel, data bytes, operand words, the failed sectors of the far blocks that
the data come from, and the poison of the data (log 47). -/
structure Wire where
  kind : Nat
  chan : Nat
  data : List Byte
  opnd : List Word
  lost : Word := 0
  poison : Word := 0

/-- The poison of data, a bit for each 32 bytes of them (log 47). -/
def poisonBits (data : List (Byte × Bool)) : Word :=
  (data.zipIdx).foldl (fun w (x : (Byte × Bool) × Nat) => if x.1.2 then w ||| (1 <<< (x.2 / 32)) else w) 0
/-- Data with the poison that those bits give. -/
def withPoison (w : Word) (data : List Byte) : List (Byte × Bool) := (data.zipIdx).map (fun (x : Byte × Nat) => (x.1, w.getLsbD (x.2 / 32)))
/-- The failed sectors of the far blocks of an answer, four bits for each block from that of the request's first byte on (03 R59;
log 47). -/
def Msg.lostBits (m : Msg) : Word :=
  m.bad.foldl (fun w (x : Word × Nat) => w ||| (BitVec.ofNat 64 x.2 <<< (4 * ((x.1.toNat / 256) - m.va.toNat / 256)))) 0

/-- A message's kind on the wire; sizes, lengths and operation codes ride in the third operand word, and a refusal has its code alone
(log 47). -/
def Msg.wire (m : Msg) : Wire :=
  let chan := m.kind.channel (chanHome m.home m.va)
  match m.kind with
  | .rget n => { kind := 1, chan := chan, data := [], opnd := [0, 0, BitVec.ofNat 64 n] }
  | .rput n v _ => { kind := 2, chan := chan, data := leBytes v.toNat n, opnd := [] }
  | .ratom op x y => { kind := 3, chan := chan, data := [], opnd := [x, y, BitVec.ofNat 64 op.code] }
  | .amsend i x => { kind := 4, chan := chan, data := [], opnd := [x, BitVec.ofNat 64 i] }
  | .msend p x y => { kind := 5, chan := chan, data := [], opnd := [x, y, BitVec.ofNat 64 p] }
  | .copyWrite data => { kind := 6, chan := chan, data := data.map (·.1), opnd := [], poison := poisonBits data }
  | .copyRead n _ => { kind := 7, chan := chan, data := [], opnd := [0, 0, BitVec.ofNat 64 n] }
  | .reply v po none =>
    if m.rlen = 0 then { kind := 0x11, chan := chan, data := [], opnd := [] }
    else
      let po := BitVec.ofNat 64 (if po then 2 ^ ((m.rlen + 31) / 32) - 1 else 0)
      if m.rlen ≤ 8 then { kind := 0x10, chan := chan, data := [], opnd := [v.setWidth 64], lost := m.lostBits, poison := po }
      else { kind := 0x10, chan := chan, data := leBytes v.toNat m.rlen, opnd := [], lost := m.lostBits, poison := po }
  | .copyDone _ data _ none =>
    if data.isEmpty then { kind := 0x11, chan := chan, data := [], opnd := [] }
    else { kind := 0x10, chan := chan, data := data.map (·.1), opnd := [], lost := m.lostBits, poison := poisonBits data }
  | .reply _ _ (some code) | .copyDone _ _ _ (some code) => { kind := 0x12, chan := chan, data := [], opnd := [code.setWidth 64] }
  | _ => { kind := 0, chan := chan, data := [], opnd := [] }

/-- n bytes of a list, filled up with zeros. -/
def padTo (bs : List Byte) (n : Nat) : List Byte := (bs ++ List.replicate n 0).take n

/-- The slots of a message: a header, then the data in slots of 64 bytes.  An answer is addressed to the core of the request's
sender and names that sender's slot and the request's offset; its srccore is the home that the request named (log 47).  A message on its way through keeps
its slots (R423). -/
def State.slotsOf (s : State) (m : Msg) : List (List Byte) :=
  match m.kind with
  | .transit slots => slots
  | k =>
    let w := m.wire
    let addr := if k.isAnswer then m.dev * 2 ^ 53 + m.core * 2 ^ 42 + gaOff m.va else m.va.toNat
    let src := if k.isAnswer then m.vhome.getD m.off else m.core
    let head := leBytes addr 8 ++ leBytes m.asid 2 ++ [BitVec.ofNat 8 w.kind, BitVec.ofNat 8 w.chan] ++ leBytes w.data.length 4 ++
      leBytes src 2 ++ [BitVec.ofNat 8 m.slot, 0] ++ leBytes s.devNum 2 ++ leBytes m.tag.toNat 2 ++
      padTo (w.opnd.flatMap (fun x => leBytes x.toNat 8)) 24 ++ leBytes w.lost.toNat 8 ++ leBytes w.poison.toNat 8
    head :: (chunks 64 ((w.data.length + 63) / 64) w.data).map (fun d => padTo d 64)

/-- The data slots that follow a header slot. -/
def dataSlots (head : List Byte) : Nat := (field head 12 4 + 63) / 64
/-- Operand word i of a header. -/
def opndW (head : List Byte) (i : Nat) : Word := fieldW head (24 + 8 * i)
/-- A header says that some of its data are poisoned. -/
def headPoison (head : List Byte) : Word := fieldW head 56
/-- A header's fault code. -/
def headCode (head : List Byte) : BitVec 16 := (opndW head 0).setWidth 16
/-- The code is an integrity violation. -/
def isViolation (code : BitVec 16) : Bool := code &&& 0xFF00 == cIntegrity &&& 0xFF00

/-! ### Failing what a link had taken (R422) -/

/-- tinfo of a fault that another device's refusal names, which carries its code alone: the tag and line of the request for a fault of
the tags (15 R309), the address for any other (14 R278; log 47). -/
def Msg.refusalInfo (m : Msg) (code : BitVec 16) : Word :=
  if code &&& 0xFF00 == cCtxForm &&& 0xFF00 then tagInfo m.tag (gaHome m.va) (lineOf (gaOff m.va)) else m.va
/-- The answer that ends a request with a fault, and the word it carries for tinfo. -/
def Msg.failWith (m : Msg) (code : BitVec 16) (info : Word) : MsgKind :=
  match m.kind with
  | .copyRead n dst => .copyDone dst [] n (some code)
  | .copyWrite data => .copyDone 0 [] data.length (some code)
  | _ => .reply (info.setWidth 512) false (some code)
/-- A fault that the link gives names the address. -/
def Msg.failKind (m : Msg) (code : BitVec 16) : MsgKind := m.failWith code m.va
/-- An answer to a request arrives at the router of a link's core, on its way to the core or the link of the request's sender. -/
def State.answerAt (s : State) (l : Nat) (m : Msg) (kind : MsgKind) : State :=
  let to' := if m.dev = 0 then m.core else linkCore ((s.linkTo m.dev).getD 0)
  { (if m.dev = 0 then s.listCore m.core else s) with
    msgs := s.msgs ++ [{ m with id := s.fresh, kind := kind, home := m.core, off := m.home, va := if m.dev = 0 then m.va else m.answerVa,
                                due := s.routed (linkCore l) to', refused := false, retry := 0 }]
    fresh := s.fresh + 1 }
/-- A request that a link cannot carry ends with LINK_DOWN: one of this device's as a late fault, one on its way through with a refusal
to its sender (R422, R423). -/
def State.linkFails (s : State) (l detail : Nat) (m : Msg) : State := s.answerAt l m (m.failKind (det cLinkDown detail))
/-- The link goes down: its buffers are discarded, the requests it carried end with LINK_DOWN, and no home waits any more for what it
has refused that came over the link (log 50). -/
def State.linkLost (s : State) (l : Nat) : State :=
  let away := (s.link l).away
  let s := { s with behind := s.behind.filter (fun x => s.linkTo x.dev != some l) }
  let s1 := s.modLink l (fun k => { Link.reset with state := .down, failed := k.failed, peer := k.peer, replays := k.replays, retrains := k.retrains })
  away.foldl (fun s m => s.linkFails l l m) s1

/-! ### Sending (R420, R445) -/

/-- The message is a request, whose answer is to come back over the link. -/
def Msg.asks (m : Msg) : Bool :=
  match m.kind with | .transit slots => decide (field (slots.headD []) 10 1 < 0x10) | k => !k.isAnswer
/-- A message that waits at a link's router enters the outbound buffer of 64 slots, or waits on; where the link is down a request ends
with LINK_DOWN and an answer is lost. -/
def State.loadMsg (s : State) (l : Nat) (m : Msg) : State :=
  let slots := s.slotsOf m
  let k := s.link l
  let s1 := { s with msgs := s.msgs.filter (fun x => x.id != m.id) }
  if k.state = .down then (if m.asks then s1.linkFails l l m else s1)
  else if 64 < k.out.length + slots.length ∨ k.state = .training then s
  else s1.modLink l (fun k => { k with out := k.out ++ slots, away := if m.asks then k.away ++ [m] else k.away })
/-- The messages that wait at a link's router enter its outbound buffer in the order in which they came, up to the first that does not
fit. -/
def State.loadLink (s : State) (l : Nat) : State :=
  let waiting := (s.msgs.filter (s.forLink l)).foldr insertMsg []
  (waiting.foldl (fun (x : State × Bool) m =>
    if x.2 then x else
      let s1 := x.1.loadMsg l m
      (s1, s1.msgs.any (fun y => y.id == m.id))) (s, false)).1

/-- The flits a link may still send in this period of its rate. -/
def Link.periodOf (k : Link) (rt : Nat) : Nat := rt / (if k.state = .up8 then 4 else 2)
/-- The link may put a flit on the wire now. -/
def Link.free (k : Link) (rt : Nat) : Bool :=
  (k.state == .up16 || k.state == .up8) && (k.period != k.periodOf rt || k.sent < 3)

/-- The 144 bytes of a flit. -/
def Link.flit (k : Link) (seq : Nat) (slots : List (List Byte)) : List Byte :=
  let ack := (k.expected + 4095) % 4096 + (if k.got then 4096 else 0) + (if k.askNow then 8192 else 0)
  let body := leBytes seq 2 ++ leBytes ack 2 ++ [BitVec.ofNat 8 (2 ^ slots.length - 1), 0, 0, 0] ++ padTo slots.flatten 128
  body ++ leBytes (crc32 body).toNat 4 ++ [0, 0, 0, 0]

/-- A flit goes on the wire, after the others of this router cycle; it carries the acknowledgement that is due. -/
def Link.put (k : Link) (rt seq : Nat) (slots : List (List Byte)) : Link :=
  { k with
    wire := k.wire ++ [k.flit seq slots]
    sent := if k.period = k.periodOf rt then k.sent + 1 else 1
    period := k.periodOf rt
    owed := 0
    ackBy := none
    askNow := false }

/-- A new router cycle begins on the wire of every link. -/
def State.clearWires (s : State) : State := { s with links := s.links.map (fun k => { k with wire := [] }) }
/-- FLIT_SEND: waiting slots are framed into the next numbered flit, after every flit to be sent again. -/
def execFlitSend (l : Nat) (s : State) : Out :=
  .next (if 6 ≤ l then s
    else
      let s1 := s.loadLink l
      let k := s1.link l
      if !k.free s.rtime || !k.again.isEmpty || k.out.isEmpty || 512 ≤ k.buffer.length then s1
      else
        let slots := k.out.take 2
        s1.modLink l (fun k => { k.put s.rtime k.seq slots with
          out := k.out.drop 2, buffer := k.buffer ++ [(k.seq, slots)], seq := (k.seq + 1) % 4096 }))

/-- FLIT_REPLAY: the next flit to be sent again. -/
def execFlitReplay (l : Nat) (s : State) : Out :=
  .next (if 6 ≤ l then s
    else
      let k := s.link l
      match k.again with
      | [] => s
      | n :: rest =>
        if !k.free s.rtime then s
        else match k.buffer.find? (fun x => x.1 == n) with
          | some x => s.modLink l (fun k => { k.put s.rtime n x.2 with again := rest })
          | none => s.modLink l (fun k => { k with again := rest }))

/-- LINK_ACK_TIMER: an acknowledgement is due after 64 accepted flits or 256 rc, or a replay request is to be sent: a flit
without payload carries it. -/
def execLinkAckTimer (l : Nat) (s : State) : Out :=
  .next (if 6 ≤ l then s
    else
      let k := s.link l
      let due : Bool := k.askNow || 64 ≤ k.owed || (match k.ackBy with | some t => t ≤ s.rtime | none => false)
      if !due || !k.free s.rtime then s else s.modLink l (fun k => k.put s.rtime 0 []))

/-! ### Receiving (R420, R423) -/

/-- The kind of a request on the wire. -/
def wireRequest (head : List Byte) (data : List (Byte × Bool)) : Option MsgKind :=
  let n := (opndW head 2).toNat
  match field head 10 1 with
  | 1 => some (.rget n)
  | 2 => some (.rput data.length (BitVec.ofNat 512 (leNat (data.map (·.1)))) false)
  | 3 => some (.ratom (atomOfCode n) (opndW head 0) (opndW head 1))
  | 4 => some (.amsend (opndW head 1).toNat (opndW head 0))
  | 5 => some (.msend n (opndW head 0) (opndW head 1))
  | 6 => some (.copyWrite data)
  | 7 => some (.copyRead n 0)
  | _ => none

/-- The kind on the wire of a request that a link has taken. -/
def Msg.wireKind (m : Msg) : Nat := match m.kind with | .transit slots => field (slots.headD []) 10 1 | _ => m.wire.kind
/-- A kind of answer can answer a kind of request: a reply to RGET, RATOM, AMSEND and copy reads, an acknowledgement to the others, a
refusal to each. -/
def answersKind (ans req : Nat) : Bool := ans == 0x12 || [1, 3, 4, 7].contains req == (ans == 0x10)
/-- The bytes of the request that a link has taken. -/
def Msg.reach (m : Msg) : Nat :=
  match m.kind with
  | .transit slots =>
    let head := slots.headD []
    (match field head 10 1 with | 1 | 7 => (opndW head 2).toNat | 2 | 6 => field head 12 4 | _ => 8)
  | _ => m.span
/-- An answer names a request that a link has taken: its offset, or, for an integrity violation, the failing block in what it asked for
(log 47). -/
def Msg.named (m : Msg) (head : List Byte) : Bool :=
  let off := gaOff (fieldW head 0)
  if field head 10 1 = 0x12 ∧ isViolation (headCode head) = true then gaOff m.va ≤ off && off < gaOff m.va + m.reach
  else gaOff m.answerVa == off
/-- A request that waits for an answer over a link: the oldest of a device's core and slot, of a kind that the answer answers, to the home
and offset that it names (log 47). -/
def State.awayFor (s : State) (dev : Nat) (head : List Byte) : Option (Nat × Msg) :=
  let addr := fieldW head 0
  let isIt (m : Msg) : Bool := m.dev == dev && m.core == gaHome addr && m.slot == field head 18 1 && gaHome m.va == field head 16 2 &&
    m.named head && answersKind (field head 10 1) m.wireKind
  ((List.range 6).filterMap (fun l => ((s.link l).away.find? isIt).map (fun m => (l, m)))).head?
/-- The answer to a request has come: no link waits for it. -/
def State.cameBack (s : State) (x : Nat × Msg) : State := s.modLink x.1 (fun k => { k with away := k.away.erase x.2 })

/-- The far blocks of another device of which an answer is to be recorded: the lost ones of a poisoned answer with their failed sectors,
the one whose tag has failed, of which a refusal does not carry the sectors (03 R58, R59; log 84). -/
def Msg.farBlocks (m : Msg) (head : List Byte) : List (Word × Nat) :=
  let first := m.va.toNat / 256
  if gaHome m.va < 1024 || gaDev m.va = 2047 then []
  else if field head 10 1 = 0x12 then
    (if isViolation (headCode head) then
      [(BitVec.ofNat 64 (256 * (first + gaOff (fieldW head 0) / 256 - gaOff m.va / 256)), 0)] else [])
  else (List.range 16).filterMap (fun i =>
    let k := ((fieldW head 48) >>> (4 * i)).toNat % 16
    if k = 0 then none else some (BitVec.ofNat 64 (256 * (first + i)), k))
/-- What of an answer the scheduler's access has no core for is recorded when it comes over a link: the lost blocks, or the violation,
which marks the ASID suspect (03 R58). -/
def State.linkRecord (s : State) (m : Msg) (head : List Byte) : State :=
  match m.bad with
  | [] => s
  | b :: _ =>
    if m.slot < 17 then s else if field head 10 1 = 0x12 then s.violation m b else s.recordBad m
/-- An answer from another device reaches this one: the request it answers is done with; a refusal without a code sends it again (14 R276);
what of a far block is to be recorded is recorded on this device (03 R58). -/
def State.wireAnswer (s : State) (l : Nat) (head : List Byte) (data : List (Byte × Bool)) : State :=
  match s.awayFor 0 head with
  | none => s
  | some (a, m0) =>
    let code := headCode head
    let m := { m0 with bad := m0.farBlocks head }
    let s1 := (s.cameBack (a, m0)).linkRecord m head
    if field head 10 1 = 0x12 then
      if code = 0 then
        { s1.listCore m.core with msgs := s1.msgs ++ [{ m with refused := true, retry := 1, due := s1.routed (linkCore l) m.core }] }
      else s1.answerAt l m (m.failWith code (m.refusalInfo code))
    else match m.kind with
      | .copyRead n dst => s1.answerAt l m (.copyDone dst data n none)
      | .copyWrite d => s1.answerAt l m (.copyDone 0 [] d.length none)
      | _ => s1.answerAt l m (.reply (if data.isEmpty then (opndW head 0).setWidth 512 else BitVec.ofNat 512 (leNat (data.map (·.1))))
          (field head 10 1 = 0x10 && headPoison head != 0) none)

/-- A whole message from a link: for this device, it enters the mesh there; for another, it crosses the mesh to the link that the table
names, and where there is no route its sender gets a refusal with LINK_DOWN, detail 0xFF (R423; log 93). -/
def State.wireMessage (s : State) (l : Nat) (slots : List (List Byte)) : State :=
  let head := slots.headD []
  let addr := fieldW head 0
  let data := withPoison (headPoison head) ((slots.tail.flatten).take (field head 12 4))
  let answer : Bool := 0x10 ≤ field head 10 1
  let here : Msg := { id := s.fresh, kind := .transit slots, core := field head 16 2, slot := field head 18 1, pend := 0, home := gaHome addr, off := gaOff addr, va := addr, asid := field head 8 2, tag := (fieldW head 22).setWidth 16, due := s.routed (linkCore l) (routerOf (gaHome addr)), refused := false, dev := field head 20 2 }
  if s.thisDev addr then
    if answer then s.wireAnswer l head data
    else match wireRequest head data with
      | none => s
      | some k => { s.listCore (gaHome addr) with msgs := s.msgs ++ [{ here with kind := k }], fresh := s.fresh + 1 }
  else
    let s1 := if answer then (match s.awayFor (gaDev addr) head with | some x => s.cameBack x | none => s) else s
    match s1.linkTo (gaDev addr) with
    | some out => { s1 with msgs := s1.msgs ++ [{ here with due := s1.routed (linkCore l) (linkCore out) }], fresh := s1.fresh + 1 }
    | none => s1.linkFails l 0xFF here

/-- One payload slot is delivered; with the last slot of a message the message is. -/
def State.takeSlot (s : State) (l : Nat) (slot : List Byte) : State :=
  let got := (s.link l).partly ++ [slot]
  if got.length = 1 + dataSlots (got.headD []) then (s.modLink l (fun k => { k with partly := [] })).wireMessage l got
  else s.modLink l (fun k => { k with partly := got })

/-- The acknowledgement and the replay request a flit carries. -/
def Link.acked (k : Link) (ack : Nat) : Link :=
  let n := ack % 4096
  let b := if ack.testBit 12 then k.buffer.filter (fun x => (x.1 + 4096 - n - 1) % 4096 < 2048) else k.buffer
  if ack.testBit 13 then { k with buffer := b, again := b.map (·.1), replays := k.replays + 1 }
  else { k with buffer := b, again := k.again.filter (fun x => b.any (fun y => y.1 == x)) }

/-- A flit out of order or damaged is discarded; one replay request follows until the expected flit comes. -/
def Link.ask (k : Link) : Link := if k.asked then k else { k with asked := true, askNow := true }

/-- FLIT_RECEIVE: a flit with a good CRC and the expected number is accepted, and its slots are delivered in order. -/
def execFlitReceive (l : Nat) (bytes : List (BitVec 8)) (s : State) : Out :=
  .next (
    let k := s.link l
    if 6 ≤ l ∨ bytes.length ≠ 144 ∨ k.state = .down ∨ k.state = .training then s
    else if field bytes 136 4 ≠ (crc32 (bytes.take 136)).toNat then s.modLink l Link.ask
    else
      let s1 := s.modLink l (fun k => k.acked (field bytes 2 2))
      let n := field bytes 4 1 % 4
      let seq := field bytes 0 2 % 4096
      let d := (seq + 4096 - k.expected) % 4096
      if n = 0 ∨ 2048 ≤ d then s1
      else if d ≠ 0 then s1.modLink l Link.ask
      else
        let s2 := s1.modLink l (fun k => { k with
          expected := (seq + 1) % 4096, got := true, asked := false, owed := k.owed + 1
          ackBy := some (k.ackBy.getD (s.rtime + 256)) })
        let s3 := if n % 2 = 1 then s2.takeSlot l ((bytes.drop 8).take 64) else s2
        if 2 ≤ n then s3.takeSlot l ((bytes.drop 72).take 64) else s3)

/-! ### Link states (R421, R422) -/

/-- The lane belongs to the half in use. -/
def inHalf (upper : Bool) (lane : Nat) : Bool := if upper then 8 ≤ lane && lane < 16 else lane < 8
/-- The link stops and trains on one half; the replay that follows serves a request for one that is still to be sent (log 93). -/
def Link.retrain (k : Link) (upper : Bool) (lane rt : Nat) : Link :=
  { k with
    state := .training, half := some (upper, rt), failed := some lane, retrains := k.retrains + 1
    asked := k.asked && !k.askNow, askNow := false }

/-- LANE_FAULT: an up16 link trains on the half without the lane; an up8 link that uses the lane goes down, or, during a replay, trains
again; a fault of the half being trained starts the training again. -/
def execLaneFault (l lane : Nat) (s : State) : Out :=
  .next (
    let k := s.link l
    if 6 ≤ l ∨ 16 ≤ lane then s
    else match k.state with
      | .up16 => s.modLink l (fun k => k.retrain (lane < 8) lane s.rtime)
      | .up8 => if !inHalf k.upper lane then s
        else if k.again.isEmpty then s.linkLost l
        else s.modLink l (fun k => k.retrain k.upper lane s.rtime)
      | .training => match k.half with
        | some (u, _) => if inHalf u lane then s.modLink l (fun k => { k with half := some (u, s.rtime) }) else s
        | none => s
      | .down => s)

/-- RETRAIN_COMPLETE: training has succeeded on the lower half, the upper half, or both (R421); the peer is known from then on (R425; log
74). Which lane of the half that has not trained the snapshot names is a free value (log 74). -/
def execRetrainComplete (l : Nat) (lo hi : Bool) (s : State) : Out :=
  .next (
    let k := s.link l
    if 6 ≤ l ∨ k.state ≠ .training then s
    else match k.half with
      | none =>
        if lo && hi then s.modLink l (fun k => { k with state := .up16, failed := none, peer := Config.linkPeer l })
        else if lo || hi then
          let lane := (if hi then 0 else 8) + (Config.freeWord s.fresh).toNat % 8
          { s with fresh := s.fresh + 1 }.modLink l (fun k => { k with state := .up8, upper := hi, failed := some lane, peer := Config.linkPeer l })
        else s
      | some (u, t) =>
        if !(if u then hi else lo) || t + 4000 < s.rtime then s
        else
          let s1 := s.modLink l (fun k => { k with
            state := .up8, upper := u, half := none, again := k.buffer.map (·.1), replays := k.replays + 1 })
          s1.record (linkCore l) 12 (det cLinkDegraded (k.failed.getD 0)) 0 false false 0)

/-- RETRAIN_TIMEOUT: retraining on a half has not completed within 4,000 rc, in which one of exactly 4,000 rc has; the link goes
down. -/
def execRetrainTimeout (l : Nat) (s : State) : Out :=
  .next (
    let k := s.link l
    if 6 ≤ l ∨ k.state ≠ .training then s
    else match k.half with
      | some (_, t) => if t + 4000 < s.rtime then s.linkLost l else s
      | none => s)

/-- TRAINING_FAILURE: neither half trains; the link goes down. -/
def execTrainingFailure (l : Nat) (s : State) : Out :=
  .next (if 6 ≤ l ∨ (s.link l).state ≠ .training then s else s.linkLost l)

/-- Command 0x0D: a link that is down trains on all 16 lanes. -/
def State.retrainLink (s : State) (l : Nat) : Nat × State :=
  if 6 ≤ l then (2, s)
  else if (s.link l).state ≠ .down then (4, s)
  else (1, s.modLink l (fun k => { Link.reset with failed := k.failed, peer := k.peer, replays := k.replays, retrains := k.retrains + 1 }))

end Sys2Proof.Machine
end

