-- ==== Sys2Proof/Machine/Pacia.lean ====
section
/-! DEFINITION. The Pacia plane: RDMA, the snapshot, the control page, commands, host-assist answers, migration and power-on
reset (14 R291, R292; 20 R416-R418, R424-R432). -/

namespace Sys2Proof.Machine
open Sys2Proof

/-! ### Pacia's own bytes (R424) -/

/-! ### The snapshot (R425) -/

/-- A core's record in the snapshot. -/
def State.snapCore (s : State) (c : Nat) : SnapCore :=
  let k := s.core c
  { gcap := k.gcap, vcap := k.vcap, redmask := k.redmask, asid := (s.ridge? c).map (·.asid), drained := s.isDrained c,
    retains := !k.retained.isEmpty, dead := k.dead, therm := k.therm, freq := k.freq, repaired := k.rpcnt, power := k.windowPower,
    cells := 16384 - k.cells.length,
    removed := BitVec.ofNat 16 ((List.range 16).foldl (fun n x => if (k.thread x).removed then n + 2 ^ x else n) 0) }

/-- The snapshot rewritten: seq is even again. -/
def State.rewrite (s : State) : State :=
  { s with snap :=
      { seq := 2 * (s.snap.seq / 2) + 2, stamp := s.rtime, state := s.devState, dev := s.devNum, drains := s.drain, logidx := s.logCount,
        feat := s.feat, floor := s.floor, cores := s.cores.map (fun x => (x.1, s.snapCore x.1)),
        agents := (List.range 16).map (fun j => let up := !s.portsDown.contains (j / 2); (if up then (assocGet s.farCap j).getD 0 else 0, up)),
        links := s.links.map (fun k => (k.state, k.failed, k.peer, k.replays, k.retrains)),
        ports := (List.range 8).map (fun p => ((s.eth[p]?).getD false,
          ((s.asids.flatMap (fun a => (a.hostWins.filter (fun w => portOfQp w.qp == p)).map (·.qp))).eraseDups).length)),
        log := s.log } }

/-- After power-on reset no link trains any more, and the first snapshot can be published (R430; log 21). -/
def State.hasTrained (s : State) : Bool := s.booting && s.devState == 0 && s.links.all (fun k => k.state != .training)
/-- SNAPSHOT_REWRITE: every 10 ms, 20,000,000 rc; seq is odd in the router cycle before, in which the rewrite goes on (log 106).  The first
after power-on reset is published in state 1 when the links have trained (R430). -/
def execSnapshotRewrite (s : State) : Out :=
  .next (if s.booting then (if s.hasTrained then { s with booting := false, devState := 1 }.rewrite else s)
    else if s.snap.stamp + 20000000 ≤ s.rtime then s.rewrite
    else if s.snap.stamp + 20000000 = s.rtime + 1 ∧ s.snap.seq % 2 = 0 then { s with snap := { s.snap with seq := s.snap.seq + 1 } }
    else s)

/-- A log entry's 32 bytes (18 R373; 03 R59; 19 R415). -/
def LogEntry.bytes (e : LogEntry) : List Byte :=
  e.raw.getD (leBytes e.addr.toNat 8 ++ leBytes e.code.toNat 2 ++ leBytes e.asid 2 ++
    (match e.far with
     | some (m, t) => [BitVec.ofNat 8 m, BitVec.ofNat 8 t] ++ leBytes e.core 2 ++ leBytes e.stamp 8 ++ leBytes 0 8
     | none => [e.who, BitVec.ofNat 8 e.restarts] ++ leBytes e.core 2 ++ leBytes e.stamp 8 ++ leBytes e.tpc.toNat 4 ++ leBytes e.inst 4))

/-- A core record's 32 bytes. -/
def SnapCore.bytes (k : SnapCore) : List Byte :=
  leBytes (k.redmask.toNat * 2 ^ 16 + k.vcap * 2 ^ 8 + k.gcap) 8 ++ leBytes (k.asid.getD 0xFFFF) 2 ++
    [BitVec.ofNat 8 ((if k.drained then 1 else 0) + (if k.asid.isSome then 2 else 0) + (if k.retains then 4 else 0) + (if k.dead then 8 else 0)),
     BitVec.ofNat 8 k.therm] ++ leBytes k.freq 2 ++ [BitVec.ofNat 8 k.repaired, 0] ++ leBytes k.power 4 ++ leBytes k.cells 2 ++
    leBytes k.removed.toNat 2 ++ leBytes 0 8

/-- The record of a core that was not listed at the rewrite; it is drained with its massif. -/
def SnapCore.reset : SnapCore :=
  { gcap := 47, vcap := 48, redmask := 0, asid := none, drained := false, retains := false, dead := false, therm := 0, freq := 600,
    repaired := 0, power := 0, cells := 16384, removed := 0 }

/-- The state of a link in the snapshot. -/
def LinkState.num : LinkState → Nat
  | .down => 0 | .training => 1 | .up16 => 2 | .up8 => 3

/-- The header's 64 bytes. -/
def Snap.header (x : Snap) : List Byte :=
  leBytes 0x49434150 4 ++ leBytes 1 2 ++ leBytes x.state 2 ++ leBytes x.seq 8 ++ leBytes x.stamp 8 ++ leBytes x.dev 2 ++
    leBytes x.drains.toNat 2 ++ leBytes x.logidx 4 ++ leBytes x.feat.toNat 16 ++ [32, 64, 8, 0] ++ leBytes x.floor 4 ++
    leBytes Config.poolWord.toNat 8

/-- A byte of the snapshot's region (R425, R432). -/
def Snap.byte (x : Snap) (off : Nat) : Byte :=
  let at' (bs : List Byte) (i : Nat) : Byte := (bs[i]?).getD 0
  if off < 0x40 then at' x.header off
  else if 0x1000 ≤ off ∧ off < 0x9000 then
    let c := (off - 0x1000) / 32
    at' (((assocGet x.cores c).getD { SnapCore.reset with drained := x.drains.getLsbD (1 + massif c) }).bytes) ((off - 0x1000) % 32)
  else if 0x9000 ≤ off ∧ off < 0x9100 then
    match x.agents[(off - 0x9000) / 16]? with
    | some (cap, up) => at' (leBytes cap 8 ++ [if up then 1 else 0]) ((off - 0x9000) % 16)
    | none => 0
  else if 0x9100 ≤ off ∧ off < 0x9160 then
    match x.links[(off - 0x9100) / 16]? with
    | some (st, lane, peer, reps, rets) =>
      at' ([BitVec.ofNat 8 st.num, BitVec.ofNat 8 (lane.getD 0xFF)] ++ leBytes peer 2 ++ leBytes reps 4 ++ leBytes rets 4) ((off - 0x9100) % 16)
    | none => 0
  else if 0x9200 ≤ off ∧ off < 0x9280 then
    match x.ports[(off - 0x9200) / 16]? with
    | some (up, qps) => at' ([if up then 1 else 0, 0, 0, 0] ++ leBytes qps 4) ((off - 0x9200) % 16)
    | none => 0
  else if 0x10000 ≤ off ∧ off < 0x30000 then
    let i := (off - 0x10000) / 32
    match ((x.log.zipIdx).filter (fun e => (x.logidx - x.log.length + e.2) % 4096 == i)).getLast? with
    | some e => at' e.1.bytes ((off - 0x10000) % 32)
    | none => 0
  else if 0x80000 ≤ off then Config.certificate (off - 0x80000)
  else 0

/-! ### The control page (R426, R427; 17 R353) -/

/-- The features this device supports: generation 1 and the four features (R426; log 48). -/
def supported : BitVec 128 := 0x0100000000000000000000000000000F#128

/-- FEAT_REQ_WRITE: in state 1 a request of generation 1 latches the feature word, and the state is ready. -/
def execFeatReqWrite (v : BitVec 128) (s : State) : Out :=
  .next (if s.devState = 1 ∧ v.extractLsb' 120 8 = 1#8 then { s with feat := v &&& supported, devState := 2 } else s)
/-- MODES_WRITE: ignored unless feature 3 has been negotiated. -/
def execModesWrite (v : BitVec 64) (s : State) : Out := .next (if s.feat.getLsbD 3 then { s with modes := v.setWidth 5 } else s)
/-- DRAIN_WRITE: bit 0 the device, bits 4:1 the massifs; recovery accepts no write of the control page (R430). -/
def execDrainWrite (v : BitVec 64) (s : State) : Out := .next (if s.devState = 0 then s else { s with drain := v.setWidth 5 })
/-- The cores of a word of cdrain take their drain bits. -/
def State.drainWord (s : State) (first : Nat) (v : Word) : State :=
  (List.range 64).foldl (fun s i =>
    if (s.core (first + i)).drained == v.getLsbD i then s else s.modCore (first + i) (fun k => { k with drained := v.getLsbD i })) s
/-- CDRAIN_WRITE: bit n drains core n. -/
def execCdrainWrite (v : BitVec 1024) (s : State) : Out :=
  .next (if s.devState = 0 then s else (List.range 16).foldl (fun s w => s.drainWord (64 * w) (v.extractLsb' (64 * w) 64)) s)

/-- REGISTER_WRITE: a register without a behaviour of its own, of a core's debug block, or (any other number) of the control
page: the safe floor, 600 to 2,400 W. -/
def execRegisterWrite (c off : Nat) (v : BitVec 64) (s : State) : Out :=
  .next (if s.devState = 0 then s
    else if c < 1024 then (if s.debugReach c then s.modDbg c (fun d => d.write off v) else s)
    else if off = 0x20 ∧ 600 ≤ v.toNat ∧ v.toNat ≤ 2400 then { s with floor := v.toNat }
    else s)

/-! ### Host-assist answers (R428) -/

/-- HOST_ASSIST_ANSWER: the host has answered the request in a slot of a function's ring. -/
def execHostAssistAnswer (fn slot : Nat) (s : State) : Out :=
  .next { s with assist := replaceFirst (fun a => a.fn == fn && a.slot == slot && !a.answered) (fun a => { a with answered := true }) s.assist }

/-! ### Commands (R429) -/

/-- The 2 bytes of a command slot from a byte of it. -/
def State.slotField (s : State) (slot i : Nat) : Nat := leNat ((List.range 2).map (fun j => s.paciaByte (0x02000000 + 64 * slot + i + j)))
/-- The doorbell order has come to a slot, its record holds a code, and the device's state admits the command: in recovery only command 0x10
(R430). -/
def State.runs (s : State) (code slot : Nat) : Bool :=
  slot < 1024 && s.rung.head? == some slot && s.slotField slot 0 == code && (s.devState != 0 || code == 0x10)
/-- A command runs when the doorbell order has come to its slot, and writes its status.  The arguments are those of the event: the spec gives
the bytes of ATTEST's only (log 107). -/
def State.runCommand (s : State) (code slot : Nat) (f : State → Nat × State) : Out :=
  .next (if s.runs code slot then (let r := f s; r.2.commandDone r.1) else s)
/-- The command at the head of the order that can never run: a code that the table does not list returns status 2; one that recovery does not
accept is passed over (R429, R430). -/
def State.skipCommands (s : State) : State :=
  match s.rung with
  | [] => s
  | slot :: rest =>
    let code := s.slotField slot 0
    if s.devState = 0 then (if code = 0x10 then s else { s with rung := rest })
    else if 1 ≤ code ∧ code ≤ 0x11 then s
    else s.commandDone 2

/-- The page tables of a new ASID: every vault and every agent's capacity at its own address (log 49). -/
def State.newPages (s : State) : List Page :=
  (List.range 1040).map (fun h => { va := h * Config.homeSpan, bytes := if h < 1024 then Config.vaultBytes else (assocGet s.farCap (h - 1024)).getD 0, home := h, off := 0, read := true, write := true, resident := true, tagged := false })

/-- ASID_CREATE: keys, an rkey, a grant; the rkey is the result. -/
def execAsidCreate (slot asid ceil mw : Nat) (boost : Bool) (s : State) : Out :=
  s.runCommand 0x01 slot (fun (s : State) =>
    if 512 ≤ asid then (2, s)
    else if s.devState ≠ 2 ∨ s.devNum = 0 ∨ s.asids.any (fun a => a.id == asid) then (4, s)
    else
      let rkey := BitVec.ofNat 32 (asid * 2 ^ 21) ||| (Config.freeRkey s.fresh &&& 0x1FFFFF#32)
      let a : Asid := { id := asid, ceil := ceil, mw := mw, boost := boost, rkey := rkey, suspect := false, gfrn := 0, sample := 0, keyName := s.fresh + 1, pages := s.newPages, hostWins := [] }
      (1, { s with asids := s.asids ++ [a], fresh := s.fresh + 2 }.paciaPut (0x02000000 + 64 * slot + 8) (leBytes rkey.toNat 4)))

/-- ASID_RELEASE: the keys are destroyed; busy while an instance or a queue of it exists. -/
def execAsidRelease (slot asid : Nat) (s : State) : Out :=
  s.runCommand 0x02 slot (fun (s : State) =>
    if !s.asids.any (fun a => a.id == asid) then (2, s)
    else if s.ridges.any (fun r => r.asid == asid && r.state != .ended) || s.queues.any (fun q => q.asid == asid) then (4, s)
    else (1, { s with asids := s.asids.filter (fun a => a.id != asid) }))

/-- GRANT_SET: the grant takes effect at the next controller window. -/
def execGrantSet (slot asid ceil mw : Nat) (boost : Bool) (s : State) : Out :=
  s.runCommand 0x03 slot (fun (s : State) =>
    if !s.asids.any (fun a => a.id == asid) then (2, s)
    else (1, { s with asids := replaceFirst (fun a => a.id == asid) (fun a => { a with next := some (ceil, mw, boost) }) s.asids }))

/-- QUEUE_CREATE. -/
def execQueueCreate (slot q asid : Nat) (ring : BitVec 64) (n : Nat) (s : State) : Out :=
  s.runCommand 0x04 slot (fun (s : State) =>
    if 512 ≤ q ∨ n < 2 ∨ 65536 < n ∨ !s.asids.any (fun a => a.id == asid) then (2, s)
    else if (s.queue? q).isSome then (4, s)
    else (1, { s with queues := s.queues ++ [{ id := q, asid := asid, ring := ring, slots := n, head := 0, tail := 0, current := none, armed := false }] }))

/-- A launch in checking goes with its queue, and so does what the sequencer reads for it; a replay stays. -/
def State.withoutQueue (s : State) (q : Nat) : State :=
  { s with
    queues := s.queues.filter (fun x => x.id != q)
    launches := s.launches.filter (fun l => l.queue != q)
    cairns := s.cairns.map (fun (k : Cairn) => if k.live && k.queue == q then { k with live := false } else k)
    jobs := s.jobs.filter (fun j => !(j.fn == .check && j.obj == q)) }
/-- QUEUE_DESTROY: busy while the queue holds a launch past checking, or a replay. -/
def execQueueDestroy (slot q : Nat) (s : State) : Out :=
  s.runCommand 0x05 slot (fun (s : State) =>
    if (s.queue? q).isNone then (2, s)
    else if s.launches.any (fun l => l.queue == q && (l.replay || l.state != .checking)) then (4, s)
    else (1, s.withoutQueue q))

/-- CAP: a rack cap message; an old one is ignored; under host-assisted cap handling it goes to the ring (17 R359; R428). -/
def execCap (slot seq watts ms : Nat) (s : State) : Out :=
  s.runCommand 0x06 slot (fun (s : State) =>
    if s.modes.getLsbD 4 then (1, { (s.ask 4 s.fresh).2 with fresh := s.fresh + 1 })
    else if ifSome s.capSeq false (fun n => decide (seq ≤ n)) then (1, s)
    else (1, { s with capSeq := some seq, cap := some (watts, s.rtime + ms * 2000000) }))

/-- DEVICE_NUMBER: 1 to 2,046, in state 2 with no ASID. -/
def execDeviceNumber (slot n : Nat) (s : State) : Out :=
  s.runCommand 0x07 slot (fun (s : State) =>
    if n = 0 ∨ 2046 < n then (2, s)
    else if s.devState ≠ 2 ∨ !s.asids.isEmpty then (4, s)
    else (1, { s with devNum := n }))

/-- One entry of the routing table; entries 0, 2047 and the device's own are ignored. -/
def State.setRoute (s : State) (n l : Nat) : State :=
  if n = 0 ∨ n = 2047 ∨ n = s.devNum then s
  else { s with routes := assocSet s.routes n (if l < 6 then [l] else []) }
/-- ROUTE_SET: under device drain with no running instance (R423). -/
def execRouteSet (slot first : Nat) (links : List Nat) (s : State) : Out :=
  s.runCommand 0x08 slot (fun (s : State) =>
    if 2048 < first + links.length ∨ links.any (fun l => 6 ≤ l && l != 15) then (2, s)
    else if !s.drain.getLsbD 0 ∨ s.ridges.any Ridge.isRunning then (4, s)
    else (1, links.zipIdx.foldl (fun s x => s.setRoute (first + x.2) x.1) s))

/-- HOST_WINDOW: an entry of an ASID's host-window table (R418). -/
def execHostWindow (slot asid entry qp : Nat) (rkey : BitVec 32) (base : BitVec 64) (len : Nat) (s : State) : Out :=
  s.runCommand 0x09 slot (fun (s : State) =>
    if 64 ≤ entry ∨ 4096 ≤ qp ∨ !s.asids.any (fun a => a.id == asid) then (2, s)
    else
      let w : HostWin := { entry := entry, qp := qp, rkey := rkey, base := base, len := len }
      let put (a : Asid) : Asid := { a with hostWins := a.hostWins.filter (fun x => x.entry != entry) ++ [w] }
      (1, { s with asids := replaceFirst (fun a => a.id == asid) put s.asids }))

/-- CAPTURE_ARM (19 R409). -/
def execCaptureArm (slot q : Nat) (s : State) : Out := s.runCommand 0x0A slot (fun (s : State) => s.armCapture q)
/-- CAIRN_REPLAY: it finishes when a cairn of another device has been read (19 R411). -/
def execCairnReplay (slot cairn q first n : Nat) (status : BitVec 64) (s : State) : Out :=
  .next (if !s.runs 0x0B slot || s.launches.any (fun l => l.replay && l.state == .queued) then s
    else match s.replay cairn q first n status with
      | (some st, s1) => s1.commandDone st
      | (none, s1) => s1)
/-- DEBUG_SESSION: opened for an ASID, or closed with 0xFFFF (19 R396). -/
def execDebugSession (slot asid : Nat) (s : State) : Out :=
  s.runCommand 0x0C slot (fun (s : State) =>
    if asid = 0xFFFF then (1, { s with debugAsid := none })
    else if !s.asids.any (fun a => a.id == asid) then (2, s)
    else (1, { s with debugAsid := some asid }))
/-- RETRAIN (R421). -/
def execRetrain (slot link : Nat) (s : State) : Out := s.runCommand 0x0D slot (fun (s : State) => s.retrainLink link)
/-- CORE_LIMIT: host-assisted cap handling only (R428). -/
def execCoreLimit (slot core mw : Nat) (s : State) : Out :=
  s.runCommand 0x0E slot (fun (s : State) =>
    if !s.modes.getLsbD 4 then (3, s)
    else if 1024 ≤ core then (2, s)
    else (1, s.modCore core (fun k => { k with coreLimit := some mw })))

/-- The first 168 bytes of an attestation report (R432). -/
def State.reportBody (s : State) (nonce : List Byte) : List Byte :=
  leBytes 0x54544147 4 ++ leBytes 1 2 ++ leBytes 0 2 ++ padTo nonce 64 ++ padTo (Config.measurement s.fw.version) 64 ++
    leBytes s.fw.version 8 ++ leBytes s.feat.toNat 16 ++ leBytes s.devNum 2 ++ leBytes 0 6
/-- ATTEST: the command whose slot names n, a signed report over five command slots that do not include its own. -/
def execAttest (slot n : Nat) (s : State) : Out :=
  if s.slotField slot 8 ≠ n then .next s
  else s.runCommand 0x0F slot (fun (s : State) =>
    if 1023 < n + 4 ∨ (n ≤ slot ∧ slot ≤ n + 4) then (2, s)
    else
      let at' := 0x02000000 + 64 * n
      let body := s.reportBody ((List.range 64).map (fun i => s.paciaByte (at' + i)))
      (1, s.paciaPut at' (body ++ padTo (Config.signature body) 132 ++ List.replicate 20 0)))

/-- FIRMWARE_STAGE: an image whose signature passes and whose version is not below the fused minimum is installed for the next
reset, and raises the minimum (R431); it is read from where it stands, and the command finishes when it has been (log 92). -/
def execFirmwareStage (slot : Nat) (addr : BitVec 64) (len : Nat) (s : State) : Out :=
  .next (if !s.runs 0x10 slot || (s.job? .firmware slot).isSome then s
    else if !s.thisDev addr || 1040 ≤ gaHome addr then s.commandDone 2
    else s.jobBegin 512 (ethCore 0) .firmware slot none [.look (gaHome addr) (gaOff addr) len])
/-- A firmware image has been read: it is checked, and its command finishes. -/
def State.firmwareOn (s : State) (j : Job) : State :=
  if j.fn != .firmware || !j.isOver then s
  else
    let s1 := s.dropJob j.id
    match (if j.failed then none else Config.firmware (j.got.headD [])) with
    | none => s1.commandDone 2
    | some v => if v < s1.fw.minimum then s1.commandDone 2
      else { s1 with fw := { s1.fw with next := some v, minimum := v } }.commandDone 1
/-- LOCKSTEP (19 R413). -/
def execLockstep (slot v : Nat) (s : State) : Out := s.runCommand 0x11 slot (fun (s : State) => s.setLockstep v)
/-- UNKNOWN_COMMAND: a code that the table does not list. -/
def execUnknownCommand (slot code : Nat) (s : State) : Out :=
  if 1 ≤ code ∧ code ≤ 0x11 then .next s else s.runCommand code slot (fun (s : State) => (2, s))

/-! ### Reset and the watchdog (R430) -/

/-- What the self-test has found of a core: it has failed, and is never placed; or its register files have been repaired, to so many
scalar and vector registers and this mask (R430; 07 R132). -/
def Core.tested (k : Core) : Option (Nat × Nat × BitVec 12) → Core
  | none => { k with dead := true }
  | some (gcap, vcap, redmask) => { k with gcap := gcap, vcap := vcap, redmask := redmask }
/-- POWER_ON_RESET: firmware verification, then self-test and repair, initialisation and enumeration (passed or not), with the bytes of
each port's expanders; a failing step leaves the device in recovery. The links and ports train by events of their own, after which
SNAPSHOT_REWRITE publishes the first snapshot (R430; log 21). -/
def execPowerOnReset (fw passed : Bool) (caps : List Nat) (found : List (Nat × Option (Nat × Nat × BitVec 12))) (s : State) : Out :=
  let s0 : State := { State.reset with fw := { s.fw with version := s.fw.next.getD s.fw.version, next := none }, agenda := s.agenda, fresh := s.fresh }
  .next (if !fw || !passed then s0
    else
      let s1 := found.foldl (fun s x => if x.1 < 1024 then s.modCore x.1 (fun k => k.tested x.2) else s) s0
      let s2 := { s1 with
        farCap := (List.range 16).map (fun j => (j, dataCapacity ((caps[j / 2]?).getD 0 / 2)))
        portsDown := (List.range 8).filter (fun p => (caps[p]?).getD 0 == 0)
        booting := true }
      s2)

/-- MANAGEMENT_WATCHDOG: DEVICE_LOST, detail 0x01: every instance ends and the state is lost (R430; 18 R370). -/
def execManagementWatchdog (s : State) : Out :=
  let s1 := s.record 0 12 (det cDeviceLost 1) 0 false false 0
  .next { s1.actByGrade 0 12 (det cDeviceLost 1) with devState := 3 }

/-- ETHERNET_LINK_CHANGE: a port's link goes up or down (R425). -/
def execEthernetLinkChange (port : Nat) (up : Bool) (s : State) : Out := .next { s with eth := s.eth.set port up }

/-! ### Migration (14 R291, R292) -/

/-- A lease holds a part of the page: a pin of a launch, a vault window of a placed or saved instance, or the code of a launch or an
instance (R291; 04 R65). -/
def State.isLeased (s : State) (asid va bytes home off : Nat) : Bool :=
  let meets (base len : Nat) : Bool := base < va + bytes && va < base + len
  let window (w : Window) : Bool := w.base < off + bytes && off < w.base + w.len
  s.pins.any (fun p => meets (p.home * Config.homeSpan + p.off) p.bytes && s.launches.any (fun l => l.id == p.launch && l.asid == asid)) ||
    (home < 1024 && ((s.asidOf home == asid && (s.core home).windows.any window) ||
      (s.core home).retained.any (fun x => window x.2 && s.ridges.any (fun r => r.id == x.1 && r.asid == asid)))) ||
    s.ridges.any (fun r => r.asid == asid && r.state != .ended && meets (r.packet.code.toNat % 2 ^ 53) r.header.codeSize) ||
    s.launches.any (fun l => l.asid == asid && meets (l.packet.code.toNat % 2 ^ 53) l.header.codeSize)

/-- One page of a run of pages stands alone. -/
def Page.split (p : Page) (va bytes : Nat) : List Page :=
  if va < p.va ∨ p.va + p.bytes < va + bytes then [p]
  else
    let d := va - p.va
    [{ p with bytes := d }, { p with va := va, bytes := bytes, off := p.off + d },
     { p with va := va + bytes, bytes := p.bytes - d - bytes, off := p.off + d + bytes }].filter (fun x => 0 < x.bytes)

/-- The bytes of the page that holds an address: a run maps in pages of 2 MiB what it holds of aligned 2 MiB at aligned offsets, and
the rest in pages of 64 KiB (R274; log 49). -/
def Page.pageBytes (p : Page) (v : Nat) : Nat :=
  let big := 2097152
  let base := v / big * big
  if p.va % big = p.off % big ∧ p.va ≤ base ∧ base + big ≤ p.va + p.bytes then big else 65536

/-- The page may begin to move: no lease holds it, and no RDMA request of more than one line is on its way to it (R291, R292). -/
def State.mayMove (s : State) (m : Migration) : Bool :=
  let big (x : Msg) : Bool := x.slot == 17 && x.asid == m.asid && 64 < x.span && !x.kind.isAnswer &&
    decide (x.virt * Config.homeSpan + x.off < m.va + m.bytes) && decide (m.va < x.virt * Config.homeSpan + x.off + x.span)
  !s.isLeased m.asid m.va m.bytes m.home m.off && !s.msgs.any big && !(m.home < 1024 && (s.core m.home).inbuf.any big)

/-- PAGE_MIGRATION_START: a page begins to move to another home; one that a lease holds waits for the lease's release (R291). -/
def execPageMigrationStart (asid : Nat) (va : BitVec 64) (home off : Nat) (s : State) : Out :=
  let v := va.toNat % 2 ^ 53
  .next (match s.page? asid (v / Config.homeSpan) (v % Config.homeSpan) 1 with
    | none => s
    | some p =>
      let n := p.pageBytes v
      let room := if home < 1024 then Config.vaultBytes else (assocGet s.farCap (home - 1024)).getD 0
      if v % n ≠ 0 ∨ off % n ≠ 0 ∨ 1040 ≤ home ∨ room < off + n ∨ s.migrations.any (fun m => m.asid == asid && m.va == v) then s
      else
        let m : Migration := { id := s.fresh, asid := asid, va := v, bytes := n, home := p.home, off := p.off + (v - p.va), newHome := home, newOff := off, copied := 0, waiting := true, busy := false }
        { s with
          fresh := s.fresh + 1
          migrations := s.migrations ++ [{ m with waiting := !s.mayMove m }]
          asids := replaceFirst (fun a => a.id == asid) (fun a => { a with pages := a.pages.flatMap (fun x => x.split v n) }) s.asids })

/-- Change a migration. -/
def State.modMigration (s : State) (id : Nat) (f : Migration → Migration) : State :=
  { s with migrations := replaceFirst (fun m => m.id == id) f s.migrations }
/-- A home can take part in a line copy: the port of a far home is up (03 R63). -/
def State.homeUp (s : State) (home : Nat) : Bool := home < 1024 || !s.portsDown.contains ((home - 1024) / 2)

/-- PAGE_LINE_COPY: a page whose leases have been released begins to move; the next line of a moving page is asked for at its old home,
in that agent's order, and goes from there to the new home; after the last one the page is there (R291). -/
def execPageLineCopy (id : Nat) (s : State) : Out :=
  .next (match s.migrations.find? (fun m => m.id == id) with
    | none => s
    | some m =>
      if m.waiting then (if s.mayMove m then s.modMigration id (fun m => { m with waiting := false }) else s)
      else if m.busy then s
      else if m.bytes ≤ 64 * m.copied then
        let moved (p : Page) : Page := if p.va = m.va then { p with home := m.newHome, off := m.newOff } else p
        { s with
          migrations := s.migrations.filter (fun x => x.id != id)
          asids := replaceFirst (fun a => a.id == m.asid) (fun a => { a with pages := a.pages.map moved }) s.asids }
      else if !s.homeUp m.home || !s.homeUp m.newHome then s
      else (s.modMigration id (fun m => { m with busy := true })).inject (.copyRead 64 0) m.home 19 id m.home (m.off + 64 * m.copied) 0 m.asid 0)

/-! ### RDMA (R416, R417, R424) -/

/-- The complete aligned 8-byte words of a write (log 52). -/
def wordsOfWrite (off : Nat) (data : List Byte) : List (Nat × Word) :=
  (List.range ((data.length + 7) / 8 + 1)).filterMap (fun i =>
    let a := off / 8 * 8 + 8 * i
    if off ≤ a ∧ a + 8 ≤ off + data.length then some (a, fieldW data (a - off)) else none)

/-- A word written to the control page; feat_req takes a write of both its words. -/
def State.controlWrite (s : State) (ws : List (Nat × Word)) (x : Nat × Word) : State :=
  let (a, v) := x
  if a = 0 then (match ws.find? (fun y => y.1 == 8) with
    | some y => s.after (execFeatReqWrite (y.2 ++ v) s)
    | none => s)
  else if a = 0x10 then s.after (execModesWrite v s)
  else if a = 0x18 then s.after (execDrainWrite v s)
  else if 0x100 ≤ a ∧ a < 0x180 then s.drainWord ((a - 0x100) * 8) v
  else s.after (execRegisterWrite 1024 a v s)

/-- A word written to a core's debug block (19 R396). -/
def State.debugWrite (s : State) (c a : Nat) (v : Word) : State :=
  if a = 0x10 then (if s.debugReach c then s.modDbg c (fun d => { d with cmds := d.cmds ++ [v] }) else s)
  else if a = 0x80 then s.after (execTrgctlWrite c v s)
  else if a = 0xA8 then s.after (execSmpctlWrite c v s)
  else if 0x1000 ≤ a then s.after (execThreadWindowWrite c ((a - 0x1000) / 0x2000) ((a - 0x1000) % 0x2000) v s)
  else s.after (execRegisterWrite c a v s)

/-- A range of the Pacia space holds all of an access. -/
def within (off n base len : Nat) : Bool := base ≤ off && off + n ≤ base + len

/-- A write to the Pacia space, or none where the table does not allow it. -/
def State.paciaWrite (s : State) (off : Nat) (data : List Byte) : Option State :=
  let n := data.length
  let ws := wordsOfWrite off data
  if within off n 0x02000000 0x10000 then some (s.paciaPut off data)
  else if within off n 0x02010000 8 then
    some (ws.foldl (fun s x => if x.2.toNat < 1024 then { s with rung := s.rung ++ [x.2.toNat] } else s) s)
  else if s.devState = 0 then none
  else if within off n 0x01000000 4096 then
    let rel := ws.map (fun x => (x.1 - 0x01000000, x.2))
    some (rel.foldl (fun s x => s.controlWrite rel x) s)
  else if within off n 0x03000000 0x10000 then
    some (ws.foldl (fun s x =>
      let fn := (x.1 - 0x03000000) / 0x3000
      if fn < 5 ∧ (x.1 - 0x03000000) % 0x3000 = 0x2FF8 then s.after (execHostAssistAnswer fn x.2.toNat s) else s) (s.paciaPut off data))
  else if within off n 0x04000000 4096 then
    some (ws.foldl (fun s x => s.after (execQueueDoorbell ((x.1 - 0x04000000) / 8) x.2.toNat s)) s)
  else if within off n (0x10000000 + (off - 0x10000000) / 0x40000 * 0x40000) 0x40000 && (off - 0x10000000) / 0x40000 < 1024 && 0x10000000 ≤ off then
    let c := (off - 0x10000000) / 0x40000
    some (ws.foldl (fun s x => s.debugWrite c (x.1 - 0x10000000 - c * 0x40000) x.2) s)
  else none

/-- The control page's registers as they read. -/
def State.controlWord (s : State) (a : Nat) : Word :=
  if a = 0x10 then s.modes.setWidth 64
  else if a = 0x18 then s.drain.setWidth 64
  else if a = 0x20 then BitVec.ofNat 64 s.floor
  else if 0x100 ≤ a ∧ a < 0x180 then bitsOf 64 (fun i => (s.core ((a - 0x100) * 8 + i)).drained)
  else 0

/-- Byte i of a word. -/
def wbyte (w : Word) (i : Nat) : Byte := w.extractLsb' (8 * i) 8

/-- A byte of the Pacia space as a read sees it; the allowed range has been checked. -/
def State.paciaRead (s : State) (a : Nat) : Byte :=
  if a < 0x100000 then s.snap.byte a
  else if a < 0x02000000 then wbyte (s.controlWord ((a - 0x01000000) / 8 * 8)) (a % 8)
  else if a < 0x03000000 then s.paciaByte a
  else if a < 0x04000000 then
    let r := a - 0x03000000
    if r / 0x3000 < 5 ∧ 0x2000 ≤ r % 0x3000 ∧ r % 0x3000 < 0x2008 then
      wbyte (BitVec.ofNat 64 ((s.assistCount[r / 0x3000]?).getD 0)) (r % 8)
    else s.paciaByte a
  else
    let c := (a - 0x10000000) / 0x40000
    wbyte (s.debugWord c ((a - 0x10000000 - c * 0x40000) / 8 * 8)) (a % 8)

/-- The table allows a read. -/
def State.paciaReadable (s : State) (off n : Nat) : Bool :=
  within off n 0 0x100000 ||
    (s.devState != 0 && (within off n 0x01000000 4096 || within off n 0x02000000 0x10000 || within off n 0x03000000 0x10000 ||
      (0x10000000 ≤ off && (off - 0x10000000) / 0x40000 < 1024 && within off n (0x10000000 + (off - 0x10000000) / 0x40000 * 0x40000) 0x40000)))

/-- Where an rkey leads: the Pacia space, an ASID, or nowhere. -/
inductive KeyTo where
  | pacia
  | asid (n : Nat)
  | bad
  deriving DecidableEq, Repr
/-- The class, the ASID and the key value of an rkey. -/
def State.keyTo (s : State) (rkey : BitVec 32) : KeyTo :=
  match rkey.toNat / 2 ^ 30 with
  | 0 => match s.asids.find? (fun a => a.id == rkey.toNat / 2 ^ 21) with
    | some a => if a.rkey = rkey then .asid a.id else .bad
    | none => .bad
  | 1 => if rkey.toNat % 2 ^ 30 = Config.managementKey % 2 ^ 30 then .pacia else .bad
  | _ => .bad

/-- n bytes at an address lie in a page of the ASID that is resident and allows the access; the home translates them again when it
performs the access (R417). -/
def State.rdmaOpen (s : State) (asid : Nat) (x : Word × Nat) (rd wr : Bool) : Bool :=
  s.thisDev x.1 && gaHome x.1 < 1040 && (match s.page? asid (gaHome x.1) (gaOff x.1) x.2 with
    | some p => (!rd || p.read) && (!wr || p.write)
    | none => false)

/-- The parts of a request, each within one line of a core's vault or one block of a far agent (16 R319; 03 R60). -/
def rdmaParts (va : Word) (n : Nat) : List (Word × Nat) :=
  (parts (if gaHome va < 1024 then 64 else 256) va.toNat n).map (fun x => (BitVec.ofNat 64 x.1, x.2))
/-- A request to an ASID's memory. -/
def State.rdmaOf (s : State) (asid kind : Nat) (ps : List (Word × Nat)) (data : List Byte) (op : AtomOp) (x y : Word) : Rdma :=
  { id := s.fresh, asid := asid, kind := kind, parts := ps, data := data, got := [], op := op, x := x, y := y }
/-- A request whose parts are all allowed is taken; any other gets a remote access error NAK, and nothing is done. -/
def State.rdmaAsk (s : State) (rd wr : Bool) (r : Rdma) : State :=
  if r.parts.any (fun x => !s.rdmaOpen r.asid x rd wr) then s.answerHost .accessNak
  else ({ s with fresh := s.fresh + 1 }).rdmaTake r

/-- A request to the Pacia space is performed, and answered. -/
def State.rdmaPacia (s : State) (r : Rdma) : State :=
  match r.parts with
  | (va, n) :: _ =>
    if r.kind = 3 then (match s.paciaWrite va.toNat r.data with
      | some s1 => s1.answerHost .ack
      | none => s.answerHost .accessNak)
    else if s.paciaReadable va.toNat n then s.answerHost (.data ((List.range n).map (fun i => s.paciaRead (va.toNat + i))))
    else s.answerHost .accessNak
  | [] => s
/-- A request to the Pacia space is performed at once, or behind the requests that came before it (16 R330). -/
def State.rdmaSpace (s : State) (r : Rdma) : State :=
  if s.rdmas.isEmpty then s.rdmaPacia r else { s with fresh := s.fresh + 1, rdmas := s.rdmas ++ [r] }
/-- The oldest request is one to the Pacia space: it is performed, and the next one begins. -/
def State.rdmaNext (s : State) : State :=
  match s.rdmas with
  | r :: rest => if r.kind < 3 then s else (({ s with rdmas := rest }).rdmaPacia r).rdmaSend
  | [] => s

/-- RDMA_WRITE: every part must be allowed before the first is written. -/
def execRdmaWrite (rkey : BitVec 32) (va : BitVec 64) (data : List (BitVec 8)) (s : State) : Out :=
  .next (match s.keyTo rkey with
    | .bad => s.answerHost .accessNak
    | .pacia => s.rdmaSpace (s.rdmaOf 0 3 [(va, data.length)] data .swap 0 0)
    | .asid a => if data.isEmpty then s.answerHost .ack
      else s.rdmaAsk false true (s.rdmaOf a 0 (rdmaParts va data.length) data .swap 0 0))

/-- RDMA_READ. -/
def execRdmaRead (rkey : BitVec 32) (va : BitVec 64) (len : Nat) (s : State) : Out :=
  .next (match s.keyTo rkey with
    | .bad => s.answerHost .accessNak
    | .pacia => s.rdmaSpace (s.rdmaOf 0 4 [(va, len)] [] .swap 0 0)
    | .asid a => if len = 0 then s.answerHost (.data [])
      else s.rdmaAsk true false (s.rdmaOf a 1 (rdmaParts va len) [] .swap 0 0))

/-- An 8-byte atomic request: a misaligned one, or one to the Pacia space, gets a remote access error NAK. -/
def State.rdmaAtomic (s : State) (rkey : BitVec 32) (va : Word) (op : AtomOp) (x y : Word) : Out :=
  .next (match s.keyTo rkey with
    | .asid a => if va.toNat % 8 ≠ 0 then s.answerHost .accessNak else s.rdmaAsk true true (s.rdmaOf a 2 [(va, 8)] [] op x y)
    | _ => s.answerHost .accessNak)
/-- RDMA_COMPARE_AND_SWAP. -/
def execRdmaCompareAndSwap (rkey : BitVec 32) (va cmp swp : BitVec 64) (s : State) : Out := s.rdmaAtomic rkey va .cas cmp swp
/-- RDMA_FETCH_AND_ADD. -/
def execRdmaFetchAndAdd (rkey : BitVec 32) (va add : BitVec 64) (s : State) : Out := s.rdmaAtomic rkey va .add add 0
/-- RDMA_UNSUPPORTED: an invalid request NAK (R416). -/
def execRdmaUnsupported (op : BitVec 8) (s : State) : Out := .next (let _ := op; s.answerHost .requestNak)

end Sys2Proof.Machine
end

