-- ==== Sys2Proof/Machine/Dispatch.lean ====
section
/-! DEFINITION. One arm per instruction or event: a call of its meaning. -/

namespace Sys2Proof.Machine
open Sys2Proof

/-- What an instruction or event does to the state. -/
def exec (i : Instr) (s : State) : Host.Outcome State Fault Refusal :=
  match i with
  | .nonInstruction w => Sys2Proof.Machine.execNonInstruction w s
  | .add d a b => Sys2Proof.Machine.execAdd d a b s
  | .sub d a b => Sys2Proof.Machine.execSub d a b s
  | .and d a b => Sys2Proof.Machine.execAnd d a b s
  | .or d a b => Sys2Proof.Machine.execOr d a b s
  | .xor d a b => Sys2Proof.Machine.execXor d a b s
  | .andn d a b => Sys2Proof.Machine.execAndn d a b s
  | .sll d a b => Sys2Proof.Machine.execSll d a b s
  | .srl d a b => Sys2Proof.Machine.execSrl d a b s
  | .sra d a b => Sys2Proof.Machine.execSra d a b s
  | .ror d a b => Sys2Proof.Machine.execRor d a b s
  | .slt d a b => Sys2Proof.Machine.execSlt d a b s
  | .sltu d a b => Sys2Proof.Machine.execSltu d a b s
  | .min d a b => Sys2Proof.Machine.execMin d a b s
  | .minu d a b => Sys2Proof.Machine.execMinu d a b s
  | .max d a b => Sys2Proof.Machine.execMax d a b s
  | .maxu d a b => Sys2Proof.Machine.execMaxu d a b s
  | .addW d a b => Sys2Proof.Machine.execAddW d a b s
  | .subW d a b => Sys2Proof.Machine.execSubW d a b s
  | .adds d a b => Sys2Proof.Machine.execAdds d a b s
  | .subs d a b => Sys2Proof.Machine.execSubs d a b s
  | .addImmediate d a im => Sys2Proof.Machine.execAddImmediate d a im s
  | .andImmediate d a im => Sys2Proof.Machine.execAndImmediate d a im s
  | .orImmediate d a im => Sys2Proof.Machine.execOrImmediate d a im s
  | .xorImmediate d a im => Sys2Proof.Machine.execXorImmediate d a im s
  | .sllImmediate d a n => Sys2Proof.Machine.execSllImmediate d a n s
  | .srlImmediate d a n => Sys2Proof.Machine.execSrlImmediate d a n s
  | .sraImmediate d a n => Sys2Proof.Machine.execSraImmediate d a n s
  | .rorImmediate d a n => Sys2Proof.Machine.execRorImmediate d a n s
  | .sltImmediate d a im => Sys2Proof.Machine.execSltImmediate d a im s
  | .sltuImmediate d a im => Sys2Proof.Machine.execSltuImmediate d a im s
  | .movhi d im => Sys2Proof.Machine.execMovhi d im s
  | .adrhi d im => Sys2Proof.Machine.execAdrhi d im s
  | .mul d a b => Sys2Proof.Machine.execMul d a b s
  | .mulW d a b => Sys2Proof.Machine.execMulW d a b s
  | .mulh d a b sz => Sys2Proof.Machine.execMulh d a b sz s
  | .mulp d a b sz => Sys2Proof.Machine.execMulp d a b sz s
  | .div d a b l => Sys2Proof.Machine.execDiv d a b l s
  | .divu d a b l => Sys2Proof.Machine.execDivu d a b l s
  | .rem d a b l => Sys2Proof.Machine.execRem d a b l s
  | .remu d a b l => Sys2Proof.Machine.execRemu d a b l s
  | .divideCompletion c sl id => Sys2Proof.Machine.execDivideCompletion c sl id s
  | .clz d a => Sys2Proof.Machine.execClz d a s
  | .ctz d a => Sys2Proof.Machine.execCtz d a s
  | .popc d a => Sys2Proof.Machine.execPopc d a s
  | .rev8 d a => Sys2Proof.Machine.execRev8 d a s
  | .brev d a => Sys2Proof.Machine.execBrev d a s
  | .extBS d a => Sys2Proof.Machine.execExtBS d a s
  | .extHS d a => Sys2Proof.Machine.execExtHS d a s
  | .extWS d a => Sys2Proof.Machine.execExtWS d a s
  | .extBZ d a => Sys2Proof.Machine.execExtBZ d a s
  | .extHZ d a => Sys2Proof.Machine.execExtHZ d a s
  | .extWZ d a => Sys2Proof.Machine.execExtWZ d a s
  | .movTake d a => Sys2Proof.Machine.execMovTake d a s
  | .movPut d a => Sys2Proof.Machine.execMovPut d a s
  | .movV d a => Sys2Proof.Machine.execMovV d a s
  | .movMg d a => Sys2Proof.Machine.execMovMg d a s
  | .movGm d a => Sys2Proof.Machine.execMovGm d a s
  | .movM d a => Sys2Proof.Machine.execMovM d a s
  | .beq a b im => Sys2Proof.Machine.execBeq a b im s
  | .bne a b im => Sys2Proof.Machine.execBne a b im s
  | .blt a b im => Sys2Proof.Machine.execBlt a b im s
  | .bge a b im => Sys2Proof.Machine.execBge a b im s
  | .bltu a b im => Sys2Proof.Machine.execBltu a b im s
  | .bgeu a b im => Sys2Proof.Machine.execBgeu a b im s
  | .jlk d im => Sys2Proof.Machine.execJlk d im s
  | .jlkr d a im => Sys2Proof.Machine.execJlkr d a im s
  | .ldB d a l im x => Sys2Proof.Machine.execLdB d a l im x s
  | .ldH d a l im x => Sys2Proof.Machine.execLdH d a l im x s
  | .ldW d a l im x => Sys2Proof.Machine.execLdW d a l im x s
  | .ldD d a l im => Sys2Proof.Machine.execLdD d a l im s
  | .loadCompletion c sl id => Sys2Proof.Machine.execLoadCompletion c sl id s
  | .st a b sz o => Sys2Proof.Machine.execSt a b sz o s
  | .postedStorePerformed c sl id => Sys2Proof.Machine.execPostedStorePerformed c sl id s
  | .lda d a b l x sz => Sys2Proof.Machine.execLda d a b l x sz s
  | .stl d a b l sz => Sys2Proof.Machine.execStl d a b l sz s
  | .amoSwap d a b l => Sys2Proof.Machine.execAmoSwap d a b l s
  | .amoAdd d a b l => Sys2Proof.Machine.execAmoAdd d a b l s
  | .amoAnd d a b l => Sys2Proof.Machine.execAmoAnd d a b l s
  | .amoOr d a b l => Sys2Proof.Machine.execAmoOr d a b l s
  | .amoXor d a b l => Sys2Proof.Machine.execAmoXor d a b l s
  | .amoMax d a b l => Sys2Proof.Machine.execAmoMax d a b l s
  | .amoMin d a b l => Sys2Proof.Machine.execAmoMin d a b l s
  | .amoCas d a b l => Sys2Proof.Machine.execAmoCas d a b l s
  | .amoCompletion c sl id => Sys2Proof.Machine.execAmoCompletion c sl id s
  | .fadd d a b w => Sys2Proof.Machine.execFadd d a b w s
  | .fsub d a b w => Sys2Proof.Machine.execFsub d a b w s
  | .fmul d a b w => Sys2Proof.Machine.execFmul d a b w s
  | .fmin d a b w => Sys2Proof.Machine.execFmin d a b w s
  | .fmax d a b w => Sys2Proof.Machine.execFmax d a b w s
  | .fsgn d a b w => Sys2Proof.Machine.execFsgn d a b w s
  | .fsgnn d a b w => Sys2Proof.Machine.execFsgnn d a b w s
  | .fsgnx d a b w => Sys2Proof.Machine.execFsgnx d a b w s
  | .fma d a b w => Sys2Proof.Machine.execFma d a b w s
  | .fms d a b w => Sys2Proof.Machine.execFms d a b w s
  | .fnma d a b w => Sys2Proof.Machine.execFnma d a b w s
  | .fnms d a b w => Sys2Proof.Machine.execFnms d a b w s
  | .fdiv d a b l w => Sys2Proof.Machine.execFdiv d a b l w s
  | .fsqrt d a l w => Sys2Proof.Machine.execFsqrt d a l w s
  | .fdivCompletion c sl id => Sys2Proof.Machine.execFdivCompletion c sl id s
  | .feq d a b w => Sys2Proof.Machine.execFeq d a b w s
  | .flt d a b w => Sys2Proof.Machine.execFlt d a b w s
  | .fle d a b w => Sys2Proof.Machine.execFle d a b w s
  | .fclass d a w => Sys2Proof.Machine.execFclass d a w s
  | .fcvt d a b x y z => Sys2Proof.Machine.execFcvt d a b x y z s
  | .vfadd d a b m w => Sys2Proof.Machine.execVfadd d a b m w s
  | .vfsub d a b m w => Sys2Proof.Machine.execVfsub d a b m w s
  | .vfmul d a b m w => Sys2Proof.Machine.execVfmul d a b m w s
  | .vfmin d a b m w => Sys2Proof.Machine.execVfmin d a b m w s
  | .vfmax d a b m w => Sys2Proof.Machine.execVfmax d a b m w s
  | .vfsgn d a b m w => Sys2Proof.Machine.execVfsgn d a b m w s
  | .vfsgnn d a b m w => Sys2Proof.Machine.execVfsgnn d a b m w s
  | .vfsgnx d a b m w => Sys2Proof.Machine.execVfsgnx d a b m w s
  | .vand d a b m => Sys2Proof.Machine.execVand d a b m s
  | .vor d a b m => Sys2Proof.Machine.execVor d a b m s
  | .vxor d a b m => Sys2Proof.Machine.execVxor d a b m s
  | .vandn d a b m => Sys2Proof.Machine.execVandn d a b m s
  | .vadd d a b m w => Sys2Proof.Machine.execVadd d a b m w s
  | .vsub d a b m w => Sys2Proof.Machine.execVsub d a b m w s
  | .vmul d a b m w => Sys2Proof.Machine.execVmul d a b m w s
  | .vmin d a b m w => Sys2Proof.Machine.execVmin d a b m w s
  | .vmax d a b m w => Sys2Proof.Machine.execVmax d a b m w s
  | .vsll d a b m w => Sys2Proof.Machine.execVsll d a b m w s
  | .vsrl d a b m w => Sys2Proof.Machine.execVsrl d a b m w s
  | .vsra d a b m w => Sys2Proof.Machine.execVsra d a b m w s
  | .vfma d a b m w => Sys2Proof.Machine.execVfma d a b m w s
  | .vfms d a b m w => Sys2Proof.Machine.execVfms d a b m w s
  | .vfnma d a b m w => Sys2Proof.Machine.execVfnma d a b m w s
  | .vfnms d a b m w => Sys2Proof.Machine.execVfnms d a b m w s
  | .vfeq d a b m w => Sys2Proof.Machine.execVfeq d a b m w s
  | .vflt d a b m w => Sys2Proof.Machine.execVflt d a b m w s
  | .vfle d a b m w => Sys2Proof.Machine.execVfle d a b m w s
  | .veq d a b m w => Sys2Proof.Machine.execVeq d a b m w s
  | .vlt d a b m w => Sys2Proof.Machine.execVlt d a b m w s
  | .vltu d a b m w => Sys2Proof.Machine.execVltu d a b m w s
  | .mand d a b => Sys2Proof.Machine.execMand d a b s
  | .mor d a b => Sys2Proof.Machine.execMor d a b s
  | .mxor d a b => Sys2Proof.Machine.execMxor d a b s
  | .mandn d a b => Sys2Proof.Machine.execMandn d a b s
  | .mnot d a => Sys2Proof.Machine.execMnot d a s
  | .mpopc d a => Sys2Proof.Machine.execMpopc d a s
  | .mfirst d a => Sys2Proof.Machine.execMfirst d a s
  | .mlast d a => Sys2Proof.Machine.execMlast d a s
  | .mlen d a => Sys2Proof.Machine.execMlen d a s
  | .vsel d a b m w => Sys2Proof.Machine.execVsel d a b m w s
  | .vbcast d a m w => Sys2Proof.Machine.execVbcast d a m w s
  | .vins d a b w => Sys2Proof.Machine.execVins d a b w s
  | .vextWZ d a b => Sys2Proof.Machine.execVextWZ d a b s
  | .vextWS d a b => Sys2Proof.Machine.execVextWS d a b s
  | .vextD d a b => Sys2Proof.Machine.execVextD d a b s
  | .vperm d a b m w => Sys2Proof.Machine.execVperm d a b m w s
  | .vrot d a b m w => Sys2Proof.Machine.execVrot d a b m w s
  | .vfredsum d a m w => Sys2Proof.Machine.execVfredsum d a m w s
  | .vfredmin d a m w => Sys2Proof.Machine.execVfredmin d a m w s
  | .vfredmax d a m w => Sys2Proof.Machine.execVfredmax d a m w s
  | .vredadd d a m w => Sys2Proof.Machine.execVredadd d a m w s
  | .vredmin d a m w => Sys2Proof.Machine.execVredmin d a m w s
  | .vredmax d a m w => Sys2Proof.Machine.execVredmax d a m w s
  | .vcvt d a b m c => Sys2Proof.Machine.execVcvt d a b m c s
  | .vld d a b l w => Sys2Proof.Machine.execVld d a b l w s
  | .vlds d a b l w => Sys2Proof.Machine.execVlds d a b l w s
  | .vldx d a b l w => Sys2Proof.Machine.execVldx d a b l w s
  | .vst a b w m => Sys2Proof.Machine.execVst a b w m s
  | .vsts r a b w => Sys2Proof.Machine.execVsts r a b w s
  | .vstx r a b w => Sys2Proof.Machine.execVstx r a b w s
  | .mma d a b l z y x => Sys2Proof.Machine.execMma d a b l z y x s
  | .accld d a l => Sys2Proof.Machine.execAccld d a l s
  | .accst d a l => Sys2Proof.Machine.execAccst d a l s
  | .accdr d a l => Sys2Proof.Machine.execAccdr d a l s
  | .accz d => Sys2Proof.Machine.execAccz d s
  | .accq d => Sys2Proof.Machine.execAccq d s
  | .mxcfg a => Sys2Proof.Machine.execMxcfg a s
  | .engineCommandStart c => Sys2Proof.Machine.execEngineCommandStart c s
  | .mmaCompletion c sl id => Sys2Proof.Machine.execMmaCompletion c sl id s
  | .accPortCompletion c sl id => Sys2Proof.Machine.execAccPortCompletion c sl id s
  | .tldA r a b l t => Sys2Proof.Machine.execTldA r a b l t s
  | .tldB r a b l t => Sys2Proof.Machine.execTldB r a b l t s
  | .tst r a b l t => Sys2Proof.Machine.execTst r a b l t s
  | .tstKeep r a b l t => Sys2Proof.Machine.execTstKeep r a b l t s
  | .tileLoadReady c sl id => Sys2Proof.Machine.execTileLoadReady c sl id s
  | .tstCompletion c sl id => Sys2Proof.Machine.execTstCompletion c sl id s
  | .tdsetBase d a => Sys2Proof.Machine.execTdsetBase d a s
  | .tdsetDims d a => Sys2Proof.Machine.execTdsetDims d a s
  | .tdsetStrides d a => Sys2Proof.Machine.execTdsetStrides d a s
  | .tdsetForm d a => Sys2Proof.Machine.execTdsetForm d a s
  | .tdsetScale d a => Sys2Proof.Machine.execTdsetScale d a s
  | .ringcfg d a b => Sys2Proof.Machine.execRingcfg d a b s
  | .ringqry d a => Sys2Proof.Machine.execRingqry d a s
  | .tqry d a b => Sys2Proof.Machine.execTqry d a b s
  | .rowact a l => Sys2Proof.Machine.execRowact a l s
  | .rowpre a l => Sys2Proof.Machine.execRowpre a l s
  | .vqry d a l => Sys2Proof.Machine.execVqry d a l s
  | .go2d d a l n sz m => Sys2Proof.Machine.execGo2d d a l n sz m s
  | .go3d d a l n sz m => Sys2Proof.Machine.execGo3d d a l n sz m s
  | .ginc d a l n sz m => Sys2Proof.Machine.execGinc d a l n sz m s
  | .gins d a l n sz m => Sys2Proof.Machine.execGins d a l n sz m s
  | .gsegx d a l n sz m => Sys2Proof.Machine.execGsegx d a l n sz m s
  | .gpcfg a => Sys2Proof.Machine.execGpcfg a s
  | .predicateCompletion c sl id => Sys2Proof.Machine.execPredicateCompletion c sl id s
  | .bbsetR a b => Sys2Proof.Machine.execBbsetR a b s
  | .bbsetW a b => Sys2Proof.Machine.execBbsetW a b s
  | .bget d a => Sys2Proof.Machine.execBget d a s
  | .bpeek d a => Sys2Proof.Machine.execBpeek d a s
  | .bpeekPos d => Sys2Proof.Machine.execBpeekPos d s
  | .bskip a => Sys2Proof.Machine.execBskip a s
  | .bput a b => Sys2Proof.Machine.execBput a b s
  | .bflush d => Sys2Proof.Machine.execBflush d s
  | .balign d => Sys2Proof.Machine.execBalign d s
  | .bbRefill c => Sys2Proof.Machine.execBbRefill c s
  | .bbRefillArrival c => Sys2Proof.Machine.execBbRefillArrival c s
  | .bbSpill c => Sys2Proof.Machine.execBbSpill c s
  | .tdec d a b l => Sys2Proof.Machine.execTdec d a b l s
  | .ldec d a b l => Sys2Proof.Machine.execLdec d a b l s
  | .lmerge d a l => Sys2Proof.Machine.execLmerge d a l s
  | .tdecCompletion c sl id => Sys2Proof.Machine.execTdecCompletion c sl id s
  | .ldecLaneSymbol c lane => Sys2Proof.Machine.execLdecLaneSymbol c lane s
  | .lmergeCompletion c sl id => Sys2Proof.Machine.execLmergeCompletion c sl id s
  | .zrenc d a b l => Sys2Proof.Machine.execZrenc d a b l s
  | .zrencEnd d a b l => Sys2Proof.Machine.execZrencEnd d a b l s
  | .zrencCompletion c sl id => Sys2Proof.Machine.execZrencCompletion c sl id s
  | .transformWake c => Sys2Proof.Machine.execTransformWake c s
  | .rget d a l sz => Sys2Proof.Machine.execRget d a l sz s
  | .rgetV d a l => Sys2Proof.Machine.execRgetV d a l s
  | .rgetS d a l sz => Sys2Proof.Machine.execRgetS d a l sz s
  | .rput a b l sz => Sys2Proof.Machine.execRput a b l sz s
  | .rputV a b l => Sys2Proof.Machine.execRputV a b l s
  | .ratom d a b l o => Sys2Proof.Machine.execRatom d a b l o s
  | .amsend d a b l => Sys2Proof.Machine.execAmsend d a b l s
  | .amret a => Sys2Proof.Machine.execAmret a s
  | .msend d a b l p => Sys2Proof.Machine.execMsend d a b l p s
  | .mrecv d a l => Sys2Proof.Machine.execMrecv d a l s
  | .mprobe d a => Sys2Proof.Machine.execMprobe d a s
  | .remoteCompletion id => Sys2Proof.Machine.execRemoteCompletion id s
  | .messageAccept id => Sys2Proof.Machine.execMessageAccept id s
  | .homeRget c => Sys2Proof.Machine.execHomeRget c s
  | .homeRput c => Sys2Proof.Machine.execHomeRput c s
  | .homeRatom c => Sys2Proof.Machine.execHomeRatom c s
  | .homeCopyTransfer c => Sys2Proof.Machine.execHomeCopyTransfer c s
  | .homeCopyRead c => Sys2Proof.Machine.execHomeCopyRead c s
  | .handlerStart c => Sys2Proof.Machine.execHandlerStart c s
  | .mailboxDeposit id => Sys2Proof.Machine.execMailboxDeposit id s
  | .messageRetry id => Sys2Proof.Machine.execMessageRetry id s
  | .pageLineCopy id => Sys2Proof.Machine.execPageLineCopy id s
  | .ctxalloc d l => Sys2Proof.Machine.execCtxalloc d l s
  | .ctxseal a b l => Sys2Proof.Machine.execCtxseal a b l s
  | .ctxret a l => Sys2Proof.Machine.execCtxret a l s
  | .ctxmrg a l => Sys2Proof.Machine.execCtxmrg a l s
  | .ldxNow d a b l => Sys2Proof.Machine.execLdxNow d a b l s
  | .ldxWait d a b l => Sys2Proof.Machine.execLdxWait d a b l s
  | .ldxProbe d a b l => Sys2Proof.Machine.execLdxProbe d a b l s
  | .ctxset a => Sys2Proof.Machine.execCtxset a s
  | .frnset d a => Sys2Proof.Machine.execFrnset d a s
  | .frnget d => Sys2Proof.Machine.execFrnget d s
  | .frngetWait d a => Sys2Proof.Machine.execFrngetWait d a s
  | .allocatorRequest id => Sys2Proof.Machine.execAllocatorRequest id s
  | .sealMessage c => Sys2Proof.Machine.execSealMessage c s
  | .retireMessage c => Sys2Proof.Machine.execRetireMessage c s
  | .mergeMessage c => Sys2Proof.Machine.execMergeMessage c s
  | .cellStoreFull c => Sys2Proof.Machine.execCellStoreFull c s
  | .saddleTreePublish => Sys2Proof.Machine.execSaddleTreePublish s
  | .fence b => Sys2Proof.Machine.execFence b s
  | .fenceAcq b => Sys2Proof.Machine.execFenceAcq b s
  | .bararr d a b l => Sys2Proof.Machine.execBararr d a b l s
  | .barwait a b l => Sys2Proof.Machine.execBarwait a b l s
  | .barbytes a b l => Sys2Proof.Machine.execBarbytes a b l s
  | .barqry d a b l => Sys2Proof.Machine.execBarqry d a b l s
  | .barrierReport id => Sys2Proof.Machine.execBarrierReport id s
  | .barrierRelease id => Sys2Proof.Machine.execBarrierRelease id s
  | .ctrwait d a b l => Sys2Proof.Machine.execCtrwait d a b l s
  | .ctradd d a b l => Sys2Proof.Machine.execCtradd d a b l s
  | .fempty a f => Sys2Proof.Machine.execFempty a f s
  | .fetest d a f => Sys2Proof.Machine.execFetest d a f s
  | .spawn d a b l => Sys2Proof.Machine.execSpawn d a b l s
  | .launch d a b l => Sys2Proof.Machine.execLaunch d a b l s
  | .texit => Sys2Proof.Machine.execTexit s
  | .wlqry d => Sys2Proof.Machine.execWlqry d s
  | .pbind a => Sys2Proof.Machine.execPbind a s
  | .pqry d a => Sys2Proof.Machine.execPqry d a s
  | .csrrd d c => Sys2Proof.Machine.execCsrrd d c s
  | .csrwr d a c => Sys2Proof.Machine.execCsrwr d a c s
  | .csrset d a c => Sys2Proof.Machine.execCsrset d a c s
  | .csrclr d a c => Sys2Proof.Machine.execCsrclr d a c s
  | .trap a => Sys2Proof.Machine.execTrap a s
  | .tret => Sys2Proof.Machine.execTret s
  | .idem => Sys2Proof.Machine.execIdem s
  | .ebrk => Sys2Proof.Machine.execEbrk s
  | .portPush c sl port v => Sys2Proof.Machine.execPortPush c sl port v s
  | .portPop c sl port => Sys2Proof.Machine.execPortPop c sl port s
  | .portEntryArrival id => Sys2Proof.Machine.execPortEntryArrival id s
  | .portCreditReturn id => Sys2Proof.Machine.execPortCreditReturn id s
  | .wlPush c sl v => Sys2Proof.Machine.execWlPush c sl v s
  | .wlPop c sl => Sys2Proof.Machine.execWlPop c sl s
  | .tqPush c sl v => Sys2Proof.Machine.execTqPush c sl v s
  | .tqPop c => Sys2Proof.Machine.execTqPop c s
  | .vmqPop c sl => Sys2Proof.Machine.execVmqPop c sl s
  | .cqPush c sl v => Sys2Proof.Machine.execCqPush c sl v s
  | .copyRequestStart c => Sys2Proof.Machine.execCopyRequestStart c s
  | .copyBeat c => Sys2Proof.Machine.execCopyBeat c s
  | .copyWritePerformed id => Sys2Proof.Machine.execCopyWritePerformed id s
  | .copyCompletion c id => Sys2Proof.Machine.execCopyCompletion c id s
  | .bankServe c b => Sys2Proof.Machine.execBankServe c b s
  | .activationComplete c b => Sys2Proof.Machine.execActivationComplete c b s
  | .prechargeComplete c b => Sys2Proof.Machine.execPrechargeComplete c b s
  | .transferBeat c => Sys2Proof.Machine.execTransferBeat c s
  | .refreshNotice c b => Sys2Proof.Machine.execRefreshNotice c b s
  | .refreshStart c b => Sys2Proof.Machine.execRefreshStart c b s
  | .refreshEnd c b => Sys2Proof.Machine.execRefreshEnd c b s
  | .thermalStateChange c t => Sys2Proof.Machine.execThermalStateChange c t s
  | .scratchScrub c addr => Sys2Proof.Machine.execScratchScrub c addr s
  | .farRead j => Sys2Proof.Machine.execFarRead j s
  | .farWrite j => Sys2Proof.Machine.execFarWrite j s
  | .farPortDown p => Sys2Proof.Machine.execFarPortDown p s
  | .farPortRestore p cap => Sys2Proof.Machine.execFarPortRestore p cap s
  | .instructionStoreMiss c sl => Sys2Proof.Machine.execInstructionStoreMiss c sl s
  | .refillComplete c => Sys2Proof.Machine.execRefillComplete c s
  | .comparatorTimeout c pair => Sys2Proof.Machine.execComparatorTimeout c pair s
  | .timingReplay c sl => Sys2Proof.Machine.execTimingReplay c sl s
  | .queueDoorbell q tail => Sys2Proof.Machine.execQueueDoorbell q tail s
  | .packetCheck q => Sys2Proof.Machine.execPacketCheck q s
  | .dependencePoll l => Sys2Proof.Machine.execDependencePoll l s
  | .leasingComplete l => Sys2Proof.Machine.execLeasingComplete l s
  | .placementArbitration p => Sys2Proof.Machine.execPlacementArbitration p s
  | .commonStart r => Sys2Proof.Machine.execCommonStart r s
  | .instanceEnd r => Sys2Proof.Machine.execInstanceEnd r s
  | .graceExpiry r => Sys2Proof.Machine.execGraceExpiry r s
  | .saveComplete r => Sys2Proof.Machine.execSaveComplete r s
  | .loadLevelling c => Sys2Proof.Machine.execLoadLevelling c s
  | .wlShipmentArrival id => Sys2Proof.Machine.execWlShipmentArrival id s
  | .powerWindow c avg => Sys2Proof.Machine.execPowerWindow c avg s
  | .clockPauseEnd c => Sys2Proof.Machine.execClockPauseEnd c s
  | .capLeaseExpiry => Sys2Proof.Machine.execCapLeaseExpiry s
  | .dbgStop c slots => Sys2Proof.Machine.execDbgStop c slots s
  | .dbgResume c slots => Sys2Proof.Machine.execDbgResume c slots s
  | .dbgStep c slots => Sys2Proof.Machine.execDbgStep c slots s
  | .dbgLatch c => Sys2Proof.Machine.execDbgLatch c s
  | .dbgClearAccount c => Sys2Proof.Machine.execDbgClearAccount c s
  | .dbgStartTrace c => Sys2Proof.Machine.execDbgStartTrace c s
  | .dbgStopTrace c => Sys2Proof.Machine.execDbgStopTrace c s
  | .trgctlWrite c v => Sys2Proof.Machine.execTrgctlWrite c v s
  | .smpctlWrite c v => Sys2Proof.Machine.execSmpctlWrite c v s
  | .threadWindowWrite c sl off v => Sys2Proof.Machine.execThreadWindowWrite c sl off v s
  | .registerWrite c off v => Sys2Proof.Machine.execRegisterWrite c off v s
  | .breakpointCycleMatch c n => Sys2Proof.Machine.execBreakpointCycleMatch c n s
  | .sampleRecord c => Sys2Proof.Machine.execSampleRecord c s
  | .traceDrain c => Sys2Proof.Machine.execTraceDrain c s
  | .preImageCopy page => Sys2Proof.Machine.execPreImageCopy page s
  | .lockstepWindowCompare c => Sys2Proof.Machine.execLockstepWindowCompare c s
  | .rdmaWrite rkey va data => Sys2Proof.Machine.execRdmaWrite rkey va data s
  | .rdmaRead rkey va len => Sys2Proof.Machine.execRdmaRead rkey va len s
  | .rdmaCompareAndSwap rkey va cmp swp => Sys2Proof.Machine.execRdmaCompareAndSwap rkey va cmp swp s
  | .rdmaFetchAndAdd rkey va add => Sys2Proof.Machine.execRdmaFetchAndAdd rkey va add s
  | .rdmaUnsupported op => Sys2Proof.Machine.execRdmaUnsupported op s
  | .flitReceive link bytes => Sys2Proof.Machine.execFlitReceive link bytes s
  | .flitReplay link => Sys2Proof.Machine.execFlitReplay link s
  | .linkAckTimer link => Sys2Proof.Machine.execLinkAckTimer link s
  | .laneFault link lane => Sys2Proof.Machine.execLaneFault link lane s
  | .retrainComplete link lo hi => Sys2Proof.Machine.execRetrainComplete link lo hi s
  | .retrainTimeout link => Sys2Proof.Machine.execRetrainTimeout link s
  | .snapshotRewrite => Sys2Proof.Machine.execSnapshotRewrite s
  | .featReqWrite v => Sys2Proof.Machine.execFeatReqWrite v s
  | .modesWrite v => Sys2Proof.Machine.execModesWrite v s
  | .drainWrite v => Sys2Proof.Machine.execDrainWrite v s
  | .cdrainWrite v => Sys2Proof.Machine.execCdrainWrite v s
  | .hostAssistAnswer fn slot => Sys2Proof.Machine.execHostAssistAnswer fn slot s
  | .asidCreate slot asid ceil mw boost => Sys2Proof.Machine.execAsidCreate slot asid ceil mw boost s
  | .asidRelease slot asid => Sys2Proof.Machine.execAsidRelease slot asid s
  | .grantSet slot asid ceil mw boost => Sys2Proof.Machine.execGrantSet slot asid ceil mw boost s
  | .queueCreate slot q asid ring n => Sys2Proof.Machine.execQueueCreate slot q asid ring n s
  | .queueDestroy slot q => Sys2Proof.Machine.execQueueDestroy slot q s
  | .cap slot seq watts ms => Sys2Proof.Machine.execCap slot seq watts ms s
  | .deviceNumber slot n => Sys2Proof.Machine.execDeviceNumber slot n s
  | .routeSet slot first links => Sys2Proof.Machine.execRouteSet slot first links s
  | .hostWindow slot asid entry qp rkey base len => Sys2Proof.Machine.execHostWindow slot asid entry qp rkey base len s
  | .captureArm slot q => Sys2Proof.Machine.execCaptureArm slot q s
  | .cairnReplay slot cairn q first n status => Sys2Proof.Machine.execCairnReplay slot cairn q first n status s
  | .debugSession slot asid => Sys2Proof.Machine.execDebugSession slot asid s
  | .retrain slot link => Sys2Proof.Machine.execRetrain slot link s
  | .coreLimit slot core mw => Sys2Proof.Machine.execCoreLimit slot core mw s
  | .attest slot n => Sys2Proof.Machine.execAttest slot n s
  | .firmwareStage slot addr len => Sys2Proof.Machine.execFirmwareStage slot addr len s
  | .lockstep slot v => Sys2Proof.Machine.execLockstep slot v s
  | .unknownCommand slot code => Sys2Proof.Machine.execUnknownCommand slot code s
  | .powerOnReset fw bist caps dead => Sys2Proof.Machine.execPowerOnReset fw bist caps dead s
  | .managementWatchdog => Sys2Proof.Machine.execManagementWatchdog s
  | .softError addr flip parity => Sys2Proof.Machine.execSoftError addr flip parity s
  | .stlCompletion c sl id => Sys2Proof.Machine.execStlCompletion c sl id s
  | .ctraddCompletion c sl id => Sys2Proof.Machine.execCtraddCompletion c sl id s
  | .ldxCompletion c sl id => Sys2Proof.Machine.execLdxCompletion c sl id s
  | .vqryCompletion c sl id => Sys2Proof.Machine.execVqryCompletion c sl id s
  | .barrierInstructionCompletion c sl id => Sys2Proof.Machine.execBarrierInstructionCompletion c sl id s
  | .mrecvCompletion c sl id => Sys2Proof.Machine.execMrecvCompletion c sl id s
  | .pageMigrationStart asid va home off => Sys2Proof.Machine.execPageMigrationStart asid va home off s
  | .trainingFailure link => Sys2Proof.Machine.execTrainingFailure link s
  | .flitSend link => Sys2Proof.Machine.execFlitSend link s
  | .ethernetLinkChange port up => Sys2Proof.Machine.execEthernetLinkChange port up s

end Sys2Proof.Machine
end

