-- ==== Sys2Proof/Machine/Turn.lean ====
section
/-! DEFINITION. Whose turn is next: the issue opportunity of a core's cycle, the core's own events in that cycle, and the
router tick (01 R18; 17 R337-R340; 19 R396-R407; log 2). -/

namespace Sys2Proof.Machine
open Sys2Proof

/-! ### Debug commands and cycle breakpoints (19 R396, R400) -/

/-- A command of a core takes effect. -/
def State.runCmd (s : State) (c : Nat) (w : Word) : State :=
  let slots := w.setWidth 16
  match bitsN w 63 60 with
  | 1 => s.after (execDbgStop c slots s)
  | 2 => s.after (execDbgResume c slots s)
  | 3 => s.after (execDbgStep c slots s)
  | 4 => s.after (execDbgLatch c s)
  | 5 => s.after (execDbgClearAccount c s)
  | 6 => s.after (execDbgStartTrace c s)
  | 7 => s.after (execDbgStopTrace c s)
  | _ => s

/-- The first thing in a core's cycle: slot 15 wakes if its time has come (13 R254), the commands accepted before the cycle take effect,
and the comparators of kind 4 look at the cycle count. -/
def State.cycleStart (s : State) (c : Nat) : State :=
  let s0 := s.after (execTransformWake c s)
  let d := (s0.core c).dbg
  let s1 := if d.cmds.isEmpty then s0
    else d.cmds.foldl (fun s w => s.runCmd c w) (s0.modDbg c (fun d => { d with cmds := [] }))
  s1.offer c ((s1.core c).dbg.hits 4 0 (s1.core c).cycle 0x3FFFFFFFFFF)

/-! ### The issue opportunity (17 R339) -/

/-- What an opportunity comes to. -/
inductive Turn where
  /-- the instruction the slot attempts, and the state in which it does -/
  | run (i : Instr) (s : State)
  /-- a bubble, a miss, a stop or a trap -/
  | pass (s : State)

/-- A debug stop or a save waits for the slot of a pair that is behind its twin (18 R390; 19 R401). -/
def State.isBehind (s : State) (c sl : Nat) : Bool := s.isPair c sl && ((s.core c).pair (sl / 2)).behind sl

/-- The threads of a slot may issue as far as the instance's state goes: it runs or is in grace; a user handler finishes; the slot of a pair
that is behind its twin goes on in saving; in the router cycle of the fault that ends it every core's opportunity is taken, and none in
ending after it (17 R350; 18 R374, R390; log 16). -/
def State.mayIssue (s : State) (c sl : Nat) : Bool :=
  match s.ridge? c with
  | none => false
  | some r =>
    r.state == .running || (r.state == .grace && !s.graceOver c) || sl == 13 || (r.state == .ending && !s.endingSince c) ||
      ((r.state == .saving || r.state == .grace) && s.isBehind c sl)

/-- A debug stop holds the slot; of a pair the slot that is behind issues on (19 R401). -/
def State.held (s : State) (c sl : Nat) : Bool := (s.thr c sl).stopped && !s.isBehind c sl

/-- The comparators of kind 0 at the first opportunity of an instruction, offered; the one that stops the thread (19 R400,
R402). -/
def State.pcHits (s : State) (c sl : Nat) : State × Option Nat :=
  let t := s.thr c sl
  if t.seen then (s, none)
  else
    let ns := if t.skips then [] else (s.core c).dbg.hits 0 sl t.pc.toNat 0x3FFFFFFFFFF
    ((s.offer c ns).modThr c sl (fun t => { t with seen := true }), s.stopHit c sl ns)

/-- A thread that may issue fetches and decodes its next instruction; a slot whose persistent timing error waits for its twin's meets it
again (18 R388).  DESIGN CHOICE: where code_size is no multiple of 4, a thread that goes on to the word that it cuts, or past it, traps at
that address (09 R191; log 116). -/
def State.fetchTurn (s0 : State) (c sl : Nat) : Turn :=
  match s0.pcHits c sl with
  | (s1, some n) => .pass ((s1.debugStop c sl 1 n).account c sl .vacant)
  | (s, none) =>
    let t := s.thr c sl
    if s.persists c sl then .pass (s.trapped c sl (det cTimingPersistent 0) 0 0)
    else if s.codeSize c ≤ t.pc.toNat then .pass ((s.modThr c sl (fun t => { t with word := 0 })).trapped c sl (det cCodeRange 2) 0 0)
    else match (s.core c).fetchWord t.pc with
    | .miss =>
      if s.codeSize c < t.pc.toNat + 4 then .pass ((s.modThr c sl (fun t => { t with word := 0 })).trapped c sl (det cCodeRange 2) 0 0)
      else .pass ((s.missLine c (t.pc.toNat / 2048)).parked c sl .stall)
    | .bad => .pass ((s.modThr c sl (fun t => { t with word := 0 })).trapped c sl (det cPoisonConsumed 2) 0 0)
    | .word w =>
      let s2 := s.modThr c sl (fun t => { t with word := w })
      match decode w with
      | .ok i => .run i s2
      | .error _ => .run (.nonInstruction w) s2

/-- The opportunity of slot sl of core c. -/
def State.slotTurn (s : State) (c sl : Nat) : Turn :=
  let t := s.thr c sl
  if sl = 12 then .pass (s.account c 12 .vacant)
  else if sl = 14 ∧ t.removed = true then .pass ((if (s.core c).copies.isEmpty then s else s.recall c).account c 14 .vacant)
  else if sl = 14 then .pass (s.account c 14 (if (s.core c).copies.any (·.active) then .issued else .vacant))
  else if t.replayNext then .pass ((s.modThr c sl (fun t => { t with replayNext := false })).account c sl .vacant)
  else if t.life ≠ .live ∨ t.removed = true ∨ s.held c sl = true ∨ s.now c < t.wakeAt ∨ s.mayIssue c sl = false then
    .pass (s.account c sl .vacant)
  else s.fetchTurn c sl

/-- The issue opportunity of the first due core's cycle. -/
def State.turn (s : State) : Turn :=
  let c := s.curCore
  let s1 := s.cycleStart c
  s1.slotTurn c s1.curSlot

/-! ### The core's own events in a cycle -/

/-- Do an event for each of some objects, one after another. -/
def State.each {α : Type} (s : State) (xs : List α) (f : α → State → Out) : State := xs.foldl (fun s x => s.after (f x s)) s

/-- The completion of a pending instruction; those of the matrix engine come with the engine's commands. -/
def completePend (c sl : Nat) (p : Pend) (s : State) : Out :=
  match p.kind with
  | .divide _ => execDivideCompletion c sl p.id s
  | .fdiv .. => execFdivCompletion c sl p.id s
  | .load .. | .vload .. | .ctrwait .. => execLoadCompletion c sl p.id s
  | .stl .. => execStlCompletion c sl p.id s
  | .amo .. => execAmoCompletion c sl p.id s
  | .ctradd .. => execCtraddCompletion c sl p.id s
  | .vqry _ => execVqryCompletion c sl p.id s
  | .predicate .. => execPredicateCompletion c sl p.id s
  | .tile _ _ true => execTstCompletion c sl p.id s
  | .tile _ _ false => execTileLoadReady c sl p.id s
  | .tdec .. => execTdecCompletion c sl p.id s
  | .lmerge .. => execLmergeCompletion c sl p.id s
  | .zrenc .. => execZrencCompletion c sl p.id s
  | .mrecv .. => execMrecvCompletion c sl p.id s
  | .ldx .. | .ldxRemote .. => execLdxCompletion c sl p.id s
  | .bar _ | .barwait .. => execBarrierInstructionCompletion c sl p.id s
  | .launch .. => .next (s.launchOn c sl p.id)
  | _ => .next s

/-- The completions of one slot, oldest first. -/
def slotCompletions (c sl : Nat) (s : State) : Out := .next (s.each (s.thr c sl).pend (fun p s => completePend c sl p s))
/-- The posted stores of one slot, oldest first. -/
def slotStores (c sl : Nat) (s : State) : Out := .next (s.each (s.thr c sl).psq (fun e s => execPostedStorePerformed c sl e.id s))

/-- A pending access goes to its bank in this cycle, where nothing holds it up any more. -/
def PKind.asks : PKind → Bool
  | .stl .. | .amo .. | .ctradd .. | .ldx .. => true
  | _ => false
/-- The accesses of a slot that ask for their banks. -/
def slotAsks (c sl : Nat) (s : State) : Out :=
  .next (s.each ((s.thr c sl).pend.filter (fun p => p.kind.asks)) (fun p s => completePend c sl p s))

/-- The commands of the matrix engine: those that are over leave it, the next start in the same cycle, words move through the port, and
an ACCDR is over in the cycle of its last entry (11 R227, R238, R239). -/
def engineEvents (c : Nat) (s : State) : Out :=
  let complete (last : Bool) (s : State) : State :=
    s.each ((s.core c).engine.filter (fun e => (e.kind == 3 || e.follows) == last)) (fun e s =>
      if e.kind = 0 then execMmaCompletion c e.slot e.id s else execAccPortCompletion c e.slot e.id s)
  .next (complete true (((complete false s).each [execEngineCommandStart, execEngineCommandStart] (fun f s => f c s)).portMoves c))

/-- The events of the vault agent: its message asks for its bank, is performed or is answered; an LDX runs as its issuer's. -/
def agentEvents (c : Nat) (s : State) : Out :=
  let s1 := match s.agentMsg? c with
    | some m => (match m.kind with | .ldx .. => s.after (execLdxCompletion m.core m.slot m.pend s) | _ => s)
    | none => s
  .next (s1.each [execHomeRget, execHomeRput, execHomeRatom, execHomeCopyTransfer, execHomeCopyRead, execSealMessage, execRetireMessage,
    execMergeMessage, execHandlerStart] (fun f s => f c s))

/-- The events of a message. -/
def messageEvents (id : Nat) (s : State) : Out :=
  .next (s.each [execBarrierReport, execBarrierRelease, execAllocatorRequest, execMailboxDeposit, execRemoteCompletion,
    execCopyWritePerformed, execMessageRetry, execMessageAccept] (fun f s => f id s))
/-- The events of a flight. -/
def flightEvents (id : Nat) (s : State) : Out :=
  .next (s.each [execPortEntryArrival, execPortCreditReturn, execWlShipmentArrival] (fun f s => f id s))

/-- What a core has accepted from the mesh and the port lanes (14 R273; 07 R437). -/
def acceptEvents (c : Nat) (s : State) : Out :=
  let s1 := s.each (s.msgs.filter (fun m => s.landsAt m == some c)) (fun m s => messageEvents m.id s)
  .next (s1.each (s1.flights.filter (fun f => f.core == c)) (fun f s => flightEvents f.id s))

/-- The vault of a core in a cycle: every party asks for its bank, refreshes, precharges and activations begin and end, each bank begins
a command, and one beat takes the bus (04 R67-R75). -/
def vaultEvents (c : Nat) (s : State) : Out :=
  let s1 := s.each [agentEvents, execBbRefill] (fun f s => f c s)
  let s2 := s1.each (if s1.windowsMove c then [] else List.range 16) (fun sl s => slotAsks c sl s)
  let s3 := s2.each [execCopyRequestStart, execCopyRequestStart, execCopyRequestStart, execCopyRequestStart] (fun f s => f c s)
  let s4 := (s3.askRows c).askCopies c
  let s5 := s4.each (List.range 32) (fun b s => .next (s.each [execRefreshEnd, execRefreshNotice, execRefreshStart, execPrechargeComplete,
    execActivationComplete] (fun f s => f c b s)))
  .next ((s5.each (List.range 32) (fun b s => execBankServe c b s)).streamBeat c)

/-- The events of slot 15: words that have come, a spill, and the lanes. -/
def transformEvents (c : Nat) (s : State) : Out :=
  let s1 := s.each [execBbRefillArrival, execBbSpill] (fun f s => f c s)
  .next (s1.each (List.range (max 1 (s1.thr c 15).ldec.lanes.length)) (fun l s => execLdecLaneSymbol c l s))

/-- A write waits at the home for a directory entry, and no retirement or merge is under way there (15 R298). -/
def State.directoryWaits (s : State) (c : Nat) : Bool :=
  (vecAny (·.dirWait) (s.core c).threads || s.msgs.any (s.waitsEntry c)) &&
    (s.core c).inbuf.all (fun m => match m.kind with | .retire _ | .merge _ => false | _ => true)

/-- Everything the core's hardware does in a cycle, in a fixed order (log 2). -/
def State.coreEvents (s : State) (c : Nat) : State :=
  let s00 := s.each (s.soft.filter (fun e => e.seen)) (fun e s => execScratchScrub c (e.unit * 64 % Config.homeSpan) s)
  let s0 := (s00.modCore c (fun k => { k with granted := none, old := [] })).landFills c
  let s1 := (List.range 16).foldl (fun s sl => s.scratchReads c sl) s0
  let s2 := s1.each [acceptEvents, execLockstepWindowCompare, execRefillComplete, execLoadLevelling] (fun f s => f c s)
  let s3 := s2.each (List.range 6) (fun p s => execComparatorTimeout c p s)
  let s4 := s3.each [vaultEvents, engineEvents, execTransferBeat, execCopyBeat] (fun f s => f c s)
  let s5 := (s4.each (if s4.windowsMove c then [] else List.range 16) (fun sl s => slotCompletions c sl s)).each (List.range 16) (fun sl s => slotStores c sl s)
  let s6 := s5.each (s5.core c).copies (fun r s => execCopyCompletion c r.id s)
  let s7 := s6.each [transformEvents, agentEvents, execCellStoreFull] (fun f s => f c s)
  s7.modCore c (fun k => if s7.directoryWaits c then { k with fullCount := k.fullCount + 1 } else k)

/-- The end of a cycle: at the end of a rotation the account and the sampler, then the trace (19 R397-R408). -/
def State.cycleEnd (s : State) (c : Nat) : State :=
  let n := (s.core c).cycle
  let s1 := if n % 16 = 15 then
      let t := s.modDbg c Debug.rotationEnd
      t.after (execSampleRecord c t)
    else s
  (s1.after (execTraceDrain c s1)).modCore c (fun k => { k with dbg := k.dbg.cycleEnd n c })

/-! ### The router tick -/

/-- The events of a link. -/
def linkEvents (l : Nat) (s : State) : Out :=
  .next (s.each [execRetrainTimeout, execFlitReplay, execFlitReplay, execFlitReplay, execFlitSend, execFlitSend, execFlitSend,
    execLinkAckTimer] (fun f s => f l s))
/-- The events of a ridge instance. -/
def ridgeEvents (id : Nat) (s : State) : Out :=
  .next (s.each [execCommonStart, execGraceExpiry, execSaveComplete, execInstanceEnd] (fun f s => f id s))

/-- What Pacia does by itself in a router cycle: grants take effect, the next request to its space is performed, and commands that never run
or whose bytes have been read finish (20 R417, R429-R431). -/
def State.paciaEvents (s : State) : State :=
  let s1 := s.grantsDue.rdmaNext.skipCommands
  s1.jobs.foldl (fun s j => s.firmwareOn j) s1
/-- Everything outside the cores in a router cycle, in a fixed order (log 2); what a core accepts is part of the core's own cycle. -/
def State.deviceEvents (s0 : State) : State :=
  let s := s0.clearWires.paciaEvents
  let s1 := s.each (s.msgs.filter (fun m => (s.landsAt m).isNone)) (fun m s => messageEvents m.id s)
  let s3 := s1.each (List.range 16) (fun j s => .next (s.each [execFarRead, execFarWrite] (fun f s => f j s)))
  let s4 := s3.each (List.range 6) linkEvents
  let s5 := s4.each s4.preImages (fun x s => execPreImageCopy x.page s)
  let s6 := s5.each s5.migrations (fun m s => execPageLineCopy m.id s)
  let s7 := s6.each s6.queues (fun q s => execPacketCheck q.id s)
  let s8 := (s7.launches.foldl (fun s l => s.replayOn l) s7).each s7.launches (fun l s => .next (s.each [execDependencePoll, execLeasingComplete]
    (fun f s => f l.id s)))
  let s9 := s8.each [0, 1] execPlacementArbitration
  let s10 := s9.each s9.ridges (fun r s => ridgeEvents r.id s)
  (s10.each [execSaddleTreePublish, execCapLeaseExpiry, execSnapshotRewrite] (fun f s => f s)).sharesDue

/-- One router cycle of a core's clock: a core cycle begins when its phase passes 2 GHz, and the cycle count is that cycle's
(09 R203; log 83); none passes in a pause (17 R356). -/
def Core.clock (k : Core) : Bool × Core :=
  if k.pause.isSome then (false, k)
  else
    let p := k.phase + k.freq
    if Config.routerMhz ≤ p then
      (true, { k with
        phase := p - Config.routerMhz, cycle := k.cycle + 1
        gap := k.gap.bind (fun g => if g.begun then none else some { g with begun := true }) })
    else (false, { k with phase := p })

/-- The next router cycle: pauses end, clocks advance, the device's events happen, and the cores with a cycle are due. -/
def State.tick (s : State) : State :=
  let s0 := { s with rtime := s.rtime + 1 }
  let s1 := s0.each s0.cores (fun x s => execClockPauseEnd x.1 s)
  let ticked : List (Nat × Bool × Core) := s1.cores.map (fun (x : Nat × Core) => (x.1, x.2.clock))
  let s2 := { s1 with cores := ticked.map (fun (x : Nat × Bool × Core) => (x.1, x.2.2)) }
  { s2.deviceEvents with due := (ticked.filter (fun (x : Nat × Bool × Core) => x.2.1)).map (fun (x : Nat × Bool × Core) => x.1), opened := false }

end Sys2Proof.Machine
end

