-- ==== Sys2Proof/Machine/Step.lean ====
section
/-! DEFINITION. The step (log 2): an instruction or event whose turn comes from outside, an issue opportunity, the rest of a
core's cycle, or a router cycle. -/

namespace Sys2Proof.Machine
open Sys2Proof

/-- One step. -/
def step (s : State) : Host.Outcome State Fault Refusal :=
  match s.agenda with
  | i :: rest => if i.isEvent then exec i { s with agenda := rest } else .fault .badAgenda
  | [] =>
    match s.due with
    | [] => .next s.tick
    | c :: rest =>
      if s.opened then .next { (s.coreEvents c).cycleEnd c with due := rest, opened := false }
      else match s.turn with
        | .run i s1 => exec i { s1 with opened := true }
        | .pass s1 => .next { s1 with opened := true }

/-- The slot in which an instruction word runs: bit-stream instructions in slot 15, AMRET in a user handler of slot 13. -/
def slotOfWord (w : BitVec 32) : Nat :=
  let op := (w.extractLsb' 0 7).toNat
  if 0x4C ≤ op ∧ op ≤ 0x4E then 15 else if op = 0x54 then 13 else 0

/-- The header of a kernel of one member on one core that declares every register, barrier and ring. -/
def fetchHeader : Header :=
  { Header.none with regs := 47, vregs := 48, barriers := 256, rings := 16, codeSize := 2048 }

/-- The instance that holds core 0 while it runs a placed word. -/
def fetchRidge (id : Nat) : Ridge :=
  { id := id, launch := 0, inst := 0, asid := 0, header := fetchHeader, packet := Packet.ofBytes [], x := 0, y := 0, w := 1, h := 1, state := .running, graceEnd := 0, savedAt := 0, image := [], held := [], startAt := 0, mirror := false, pool := 0, freeTags := [], retiring := [], waiting := [], fault := none, raised := [] }

/-- s with an instruction stored where step fetches its next instruction: core 0 holds an instance whose image has the word at
its entry, and the next step is the issue opportunity of the slot the word runs in (log 6). -/
def State.withFetchWord (s : State) (nbits w : Nat) : State :=
  let word := BitVec.ofNat 32 (w % 2 ^ min nbits 32)
  let sl := slotOfWord word
  let k := s.core 0
  let t : Thread := { k.thread sl with life := .live, pc := 64, removed := false, stopped := false, replayNext := false, wakeAt := 0, pend := [], invocation := if sl = 13 then some { msg := 0, count := 0 } else none }
  let k1 : Core := { k with ridge := some s.fresh, col := 0, row := 0, cycle := k.cycle / 16 * 16 + sl, pause := none, redundant := false, istore := [⟨0, List.replicate 16 0 ++ [word], []⟩], dbg := Debug.reset }
  let s1 : State := { s with agenda := [], due := [0], opened := false, fresh := s.fresh + 1, ridges := fetchRidge s.fresh :: s.ridges }
  s1.setCore 0 (k1.setThread sl t)

end Sys2Proof.Machine
end

