-- ==== Sys2Proof/Safety.lean ====
section
/-! DEFINITION. The terms of the claims: a canonical memory, an attempt that reaches its instruction's own effect, what an
issue leaves, and the slots of a redundant pair. -/

namespace Sys2Proof
open Sys2Proof.Machine

/-- The memory of the state is in canonical form. -/
def MemInv (s : State) : Prop := Memory.wf s.mem = true

/-- The thread whose opportunity it is. -/
def me (s : State) : Thread := s.thr s.curCore s.curSlot

/-- An attempt of a form opens in s: no check of the slot, the registers, the lookahead window, the ports, the debug block or
the destinations holds it back (02 R26-R29, R34, R39, R40; 07 R134; 19 R400), every source is read, s1 and xs being the state
and the values after that, and no value is poisoned, or the form passes poison on.  In redundant mode it has nothing outside
its pair. -/
structure Opens (s : State) (f : Form) (s1 : State) (xs : List Val) : Prop where
  slot : f.slotOk s.curSlot (me s).invocation.isSome = true
  declared : s.undeclared s.curCore f.names = none
  handler : ∀ v, (me s).invocation = some v → v.count ≠ 256
  window : (me s).windowWait f.ordering = none
  edge : s.edgePort s.curCore s.curSlot f.names = none
  read : s.readAll s.curCore s.curSlot f.srcs = .ok s1 xs
  hits : (me s).skips = true ∨ s.accessHits s.curCore s.curSlot f xs = []
  dst : (me s).dstWait f.dsts = none
  clean : xs.any (·.poison) = false ∨ f.passes = true
  alone : s.isPair s.curCore s.curSlot = false ∨ (f.takesIn = false ∧ f.givesOut = false)

/-- A register of the thread, a shared register or a mask register: no port or queue window. -/
def PlainRegister : Opnd → Prop
  | .g n => n.toNat < 56
  | .v n => n.toNat < 48
  | .m _ => True

/-- The attempt of a form ends with the state s2 of its effect as an issue that goes on at next: older windows count it, a
region it ends closes, and the account, the trace and a debug step see it (02 R26, 18 R383, 19 R397-R406). -/
def issuedFrom (s : State) (f : Form) (s2 : State) (next : Word) : State :=
  s2.issued s.curCore s.curSlot ((me s).pend.map (·.id)) f.endsRegion next

/-- An attempt completes at issue: where the destinations take the results ws in s1, it answers the state after those
writes, issued, at next. -/
def Retires (s : State) (f : Form) (s1 : State) (ws : List (Opnd × Val)) (next : Word) (o : Out) : Prop :=
  ∀ s2, s1.putAll s.curCore s.curSlot ws = .ok s2 → o = .next (issuedFrom s f s2 next)

/-- As `Retires`, going on at the next word. -/
def Results (s : State) (f : Form) (s1 : State) (ws : List (Opnd × Val)) (o : Out) : Prop :=
  Retires s f s1 ws ((me s).pc + 4) o

/-- An attempt issues as a pending long-latency instruction: where its destinations can be reserved in s1, it answers the
state with them empty and pending and the record of the instruction added, issued, at the next word (02 R25, R27). -/
def Pends (s : State) (f : Form) (s1 : State) (kind : PKind) (due : Nat) (o : Out) : Prop :=
  ∀ s2, s1.reserveAll s.curCore s.curSlot f.dsts = .ok s2 →
    o = .next (issuedFrom s f (s2.addPend s.curCore s.curSlot f kind due (me s).pc) ((me s).pc + 4))

/-- An attempt of a slot of a redundant pair opens, at a form that takes a value from outside the pair or gives an effect that leaves it:
as `Opens`, but that the trailing slot reads only what is its own (18 R385, R386). -/
structure PairOpens (s : State) (f : Form) (s1 : State) (xs : List Val) : Prop where
  slot : f.slotOk s.curSlot (me s).invocation.isSome = true
  declared : s.undeclared s.curCore f.names = none
  handler : ∀ v, (me s).invocation = some v → v.count ≠ 256
  window : (me s).windowWait f.ordering = none
  edge : s.edgePort s.curCore s.curSlot f.names = none
  read : s.readAll s.curCore s.curSlot (f.ownSrcs (s.isTrailing s.curCore s.curSlot)) = .ok s1 xs
  hits : (me s).skips = true ∨ s.accessHits s.curCore s.curSlot f (s.allSrcs s.curCore s.curSlot f xs) = []
  dst : (me s).dstWait f.dsts = none
  clean : xs.any (·.poison) = false ∨ f.passes = true
  pair : s.isPair s.curCore s.curSlot = true
  outside : f.takesIn = true ∨ f.givesOut = true

/-- The pair of the slot whose opportunity it is. -/
def myPair (s : State) : Pair := (s.core s.curCore).pair (s.curSlot / 2)
/-- A state with another content of that pair's queues. -/
def withPair (s t : State) (p : Pair) : State := t.setPair s.curCore (s.curSlot / 2) p
/-- A slot's own deposit in a comparator, and the oldest of its twin's that no match has taken (18 R386). -/
def ownDeposit (p : Pair) (lead : Bool) : Option CmpEntry := p.cmp.find? (fun x => x.leading == lead && x.kind < 2)
def twinDeposit (p : Pair) (lead : Bool) : Option CmpEntry := p.cmp.find? (fun x => x.leading != lead && !x.matched && x.kind < 2)
/-- The comparator with a deposit matched. -/
def matchedWith (p : Pair) (o : CmpEntry) : Pair :=
  { p with cmp := replaceFirst (fun x => x == o) (fun x => { x with matched := true }) p.cmp }
/-- An attempt's effect is carried out as the answer a of its body says: it issues with its short-latency writes, or pends. -/
def CarriesOut (s : State) (f : Form) (a : Act) (o : Out) : Prop :=
  (∀ s2 ws n, a = .ret s2 ws n → Retires s f s2 ws (n.getD ((me s).pc + 4)) o) ∧
  (∀ s2 kind due, a = .pend s2 kind due → Pends s f s2 kind due o)
/-- A body answers with an effect: it issues, or pends. -/
def HasEffect (a : Act) : Prop := (∃ s2 ws n, a = .ret s2 ws n) ∨ ∃ s2 kind due, a = .pend s2 kind due

/-! ### Families of statements -/

/-- An instruction of two general sources and one destination completes at issue with a result of their values. -/
def Alu2 (i : BitVec 6 → BitVec 6 → BitVec 6 → Instr) (op : Word → Word → Word) : Prop :=
  ∀ d a b s s1 x y, Opens s (fRR d a b) s1 [x, y] →
    Results s (fRR d a b) s1 [(.g d, Val.of (op x.w y.w))] (exec (i d a b) s)

/-- An instruction of one general source and one destination completes at issue with a result of its value. -/
def Alu1 (i : BitVec 6 → BitVec 6 → Instr) (op : Word → Word) : Prop :=
  ∀ d a s s1 x, Opens s (fR d a) s1 [x] → Results s (fR d a) s1 [(.g d, Val.of (op x.w))] (exec (i d a) s)

/-- A divide pends with its result, full 36 core cycles after issue. -/
def Divides (i : BitVec 6 → BitVec 6 → BitVec 6 → BitVec 4 → Instr) (op : Word → Word → Word) : Prop :=
  ∀ d a b l s s1 x y, Opens s { fRR d a b with la := some l } s1 [x, y] →
    Pends s { fRR d a b with la := some l } s1 (.divide (op x.w y.w)) (s1.now s.curCore + 36) (exec (i d a b l) s)

/-- A scalar floating instruction of two sources: its result in the low bits of g[d], its flags ORed into fcsr. -/
def Fp2 (i : BitVec 6 → BitVec 6 → BitVec 6 → BitVec 1 → Instr) (op : Fmt → Rm → Nat → Nat → Nat × Flg) : Prop :=
  ∀ d a b w s s1 x y, Opens s (fRR d a b) s1 [x, y] →
    let r := op (fmtW w) (s1.rm s.curCore s.curSlot) (x.w.toNat % 2 ^ (fmtW w).bits) (y.w.toNat % 2 ^ (fmtW w).bits)
    Results s (fRR d a b) (s1.orFlags s.curCore s.curSlot r.2) [(.g d, Val.of (BitVec.ofNat 64 r.1))] (exec (i d a b w) s)

/-- A fused multiply-add rounds ±(x × y) ± z once, z being the old value of the destination. -/
def Fp3 (i : BitVec 6 → BitVec 6 → BitVec 6 → BitVec 1 → Instr) (negProduct negAddend : Bool) : Prop :=
  ∀ d a b w s s1 x y z, Opens s { srcs := [.g a, .g b, .g d], dsts := [.g d] } s1 [x, y, z] →
    let f := fmtW w
    let p := (f.decode x.w.toNat).mul (f.decode y.w.toNat)
    let m := s1.rm s.curCore s.curSlot
    let r := roundIeee (Machine.Num.add m (if negProduct then p.negate else p)
      (if negAddend then (f.decode z.w.toNat).negate else f.decode z.w.toNat)) f m
    Results s { srcs := [.g a, .g b, .g d], dsts := [.g d] } (s1.orFlags s.curCore s.curSlot r.2)
      [(.g d, Val.of (BitVec.ofNat 64 r.1))] (exec (i d a b w) s)

/-- A branch: untaken it goes to the next word; taken it goes to PC + 4 × sext(imm13) where that lies in the code, and
faults CODE_RANGE there otherwise. -/
def Branches (i : BitVec 6 → BitVec 6 → BitVec 13 → Instr) (taken : Word → Word → Bool) : Prop :=
  ∀ a b im s s1 x y, Opens s { srcs := [.g a, .g b], dsts := [] } s1 [x, y] →
    let target := (s1.thr s.curCore s.curSlot).pc + im.signExtend 64 * 4
    (taken x.w y.w = false → exec (i a b im) s =
      .next (issuedFrom s { srcs := [.g a, .g b], dsts := [] } s1 ((me s).pc + 4))) ∧
    (taken x.w y.w = true → 64 ≤ target.toNat → target.toNat < s1.codeSize s.curCore →
      exec (i a b im) s = .next (issuedFrom s { srcs := [.g a, .g b], dsts := [] } s1 target)) ∧
    (taken x.w y.w = true → (target.toNat < 64 ∨ s1.codeSize s.curCore ≤ target.toNat) →
      exec (i a b im) s = .next (s.trapped s.curCore s.curSlot (det cCodeRange 1) target target))

/-- A masked lanewise instruction of two vectors, n elements of b bits: active lanes take op, the others keep the old
value, flags are united (10 R206). -/
def Lanes2 (i : BitVec 6 → BitVec 6 → BitVec 6 → BitVec 3 → Instr) (b n : Nat) (op : Rm → Nat → Nat → Nat × Flg) : Prop :=
  ∀ d a c m s s1 x y k old, Opens s (maskedForm [.v a, .v c] d m) s1 (x :: y :: k :: old) →
    let r := maskLanes b n k.w (argV old 0) (fun j => op (s1.rm s.curCore s.curSlot) (lane b x.x j) (lane b y.x j))
    Results s (maskedForm [.v a, .v c] d m) (s1.orFlags s.curCore s.curSlot r.2) [(.v d, ⟨r.1, false⟩)] (exec (i d a c m) s)

/-- A lanewise instruction in both lane widths. -/
def LanesWD (i : BitVec 6 → BitVec 6 → BitVec 6 → BitVec 3 → BitVec 1 → Instr) (op : Fmt → Rm → Nat → Nat → Nat × Flg) :
    Prop :=
  Lanes2 (fun d a b m => i d a b m 0) 32 16 (op f32) ∧ Lanes2 (fun d a b m => i d a b m 1) 64 8 (op f64)

/-- An integer lanewise instruction in both lane widths: no flag. -/
def LanesInt (i : BitVec 6 → BitVec 6 → BitVec 6 → BitVec 3 → BitVec 1 → Instr)
    (op : {n : Nat} → BitVec n → BitVec n → BitVec n) : Prop :=
  Lanes2 (fun d a b m => i d a b m 0) 32 16 (fun _ x y => ((op (BitVec.ofNat 32 x) (BitVec.ofNat 32 y)).toNat, 0)) ∧
  Lanes2 (fun d a b m => i d a b m 1) 64 8 (fun _ x y => ((op (BitVec.ofNat 64 x) (BitVec.ofNat 64 y)).toNat, 0))

/-- A vector fused multiply-add accumulates into v[d] under the mask. -/
def LanesFma (i : BitVec 6 → BitVec 6 → BitVec 6 → BitVec 3 → BitVec 1 → Instr) (np nz : Bool) : Prop :=
  ∀ d a b m w s s1 x y k z, Opens s { srcs := [.v a, .v b, .m m, .v d], dsts := [.v d] } s1 [x, y, k, z] →
    let bits := laneBits w
    let dec (v : Vec) (j : Nat) : Machine.Num := (fmtL w).decode (lane bits v j)
    let r := maskLanes bits (lanesOf w) k.w z.x (fun j =>
      fused (fmtL w) (s1.rm s.curCore s.curSlot) np nz (dec x.x j) (dec y.x j) (dec z.x j))
    Results s { srcs := [.v a, .v b, .m m, .v d], dsts := [.v d] } (s1.orFlags s.curCore s.curSlot r.2) [(.v d, ⟨r.1, false⟩)]
      (exec (i d a b m w) s)

/-- A compare of n lanes of b bits into a mask: inactive lanes give 0 and no flag (10 R211). -/
def LanesCmp (i : BitVec 3 → BitVec 6 → BitVec 6 → BitVec 3 → BitVec 1 → Instr) (op : Fmt → Nat → Nat → Bool × Flg) : Prop :=
  ∀ d a b m w s s1 x y k, Opens s { srcs := [.v a, .v b, .m m], dsts := [.m d] } s1 [x, y, k] →
    let bits := laneBits w
    let r (j : Nat) : Bool × Flg := if k.w.getLsbD j then op (fmtL w) (lane bits x.x j) (lane bits y.x j) else (false, 0)
    Results s { srcs := [.v a, .v b, .m m], dsts := [.m d] }
      (s1.orFlags s.curCore s.curSlot (unionFlags ((List.range (lanesOf w)).map (fun j => (r j).2))))
      [(.m d, ⟨BitVec.ofNat 512 (maskBits (lanesOf w) (fun j => (r j).1) % 2 ^ 16), false⟩)] (exec (i d a b m w) s)

/-- A mask operation of two masks. -/
def Mask2 (i : BitVec 3 → BitVec 3 → BitVec 3 → Instr) (op : BitVec 16 → BitVec 16 → BitVec 16) : Prop :=
  ∀ d a b s s1 x y, Opens s { srcs := [.m a, .m b], dsts := [.m d] } s1 [x, y] →
    Results s { srcs := [.m a, .m b], dsts := [.m d] } s1
      [(.m d, ⟨BitVec.ofNat 512 ((op (x.w.setWidth 16) (y.w.setWidth 16)).toNat % 2 ^ 16), false⟩)] (exec (i d a b) s)

/-- A number from a mask. -/
def MaskNum (i : BitVec 6 → BitVec 3 → Instr) (op : BitVec 16 → Nat) : Prop :=
  ∀ d a s s1 x, Opens s { srcs := [.m a], dsts := [.g d] } s1 [x] →
    Results s { srcs := [.m a], dsts := [.g d] } s1 [(.g d, Val.of (BitVec.ofNat 64 (op (x.w.setWidth 16))))] (exec (i d a) s)

/-- A reduction of the active lanes in the fixed tree, in one lane width; empty where no lane is active. -/
def Reduces (i : BitVec 6 → BitVec 6 → BitVec 3 → Instr) (b n levels : Nat) (empty : Nat) (op : Rm → Nat → Nat → Nat × Flg)
    (out : Nat → Word) : Prop :=
  ∀ d a m s s1 x k, Opens s { srcs := [.v a, .m m], dsts := [.g d] } s1 [x, k] →
    let r := tree (op (s1.rm s.curCore s.curSlot)) levels
      ((List.range n).map (fun j => if k.w.getLsbD j then some (lane b x.x j) else none))
    Results s { srcs := [.v a, .m m], dsts := [.g d] } (s1.orFlags s.curCore s.curSlot r.2)
      [(.g d, Val.of (out (r.1.getD empty)))] (exec (i d a m) s)

/-- A move of one register or window to another, poison included. -/
def Moves (i : Instr) (o src : Opnd) : Prop :=
  ∀ s s1 x, Opens s { srcs := [src], dsts := [o], passes := true } s1 [x] →
    Results s { srcs := [src], dsts := [o], passes := true } s1 [(o, x)] (exec i s)

/-- An extraction of a lane of b bits, n lanes: VECTOR_INDEX beyond them. -/
def Extracts (i : BitVec 6 → BitVec 6 → BitVec 6 → Instr) (b n : Nat) (out : Nat → Word) : Prop :=
  ∀ d a c s s1 x y, Opens s { srcs := [.v a, .g c], dsts := [.g d] } s1 [x, y] →
    (y.w.toNat < n → Results s { srcs := [.v a, .g c], dsts := [.g d] } s1 [(.g d, Val.of (out (lane b x.x y.w.toNat)))]
      (exec (i d a c) s)) ∧
    (n ≤ y.w.toNat → exec (i d a c) s = .next (s.trapped s.curCore s.curSlot (det cVectorIndex 1) 0 0))

/-- A CSR write: the old value goes to g[d], and the CSR takes op of the old value and g[a] under its field map. -/
def CsrWrites (i : BitVec 6 → BitVec 6 → BitVec 12 → Instr) (op : Word → Word → Word) : Prop :=
  ∀ d a n s s1 x, let f : Form := { srcs := [.g a], dsts := [.g d], ordering := true, takes := csrOutside n.toNat }
    Opens s f s1 [x] →
    let old := s1.csr s.curCore s.curSlot n.toNat
    Results s f (s1.modThr s.curCore s.curSlot (fun t => t.writeCsr n.toNat (op old x.w))) [(.g d, Val.of old)] (exec (i d a n) s)

/-- A completion event of the pending instruction p, whose cycle has come. -/
def DuePend (s : State) (c sl id : Nat) (p : Pend) : Prop := s.pend? c sl id = some p ∧ p.due ≤ s.now c

/-- A local read of size bytes at x + off: where the checks of 04 R66 pass it pends, queued at its bank, else it traps with
the code and the address. -/
def Loads (i : BitVec 6 → BitVec 6 → BitVec 4 → Instr) (off : Word) (size : Nat) (zext : Bool) : Prop :=
  ∀ d a l s s1 x,
    let f : Form := { fR d a with la := some l, takes := true, touch := fun xs => [(arg xs 0 + off, size)], rd := true }
    let ea := x.w + off
    let tag := (s1.thr s.curCore s.curSlot).tag
    Opens s f s1 [x] →
    (s1.checkAt s.curCore ea size true false = none →
      Pends s f (s1.toBank s.curCore s.curSlot ea size tag) (.load ea size zext tag)
        (s1.now s.curCore + if inVault ea.toNat then 6 else 3) (exec (i d a l) s)) ∧
    (∀ code, s1.checkAt s.curCore ea size true false = some code →
      exec (i d a l) s = .next (s.trapped s.curCore s.curSlot code ea ea))

/-- A local atomic: where the checks pass and no tag refuses the write it pends behind its release at core scope. -/
def Atomic (i : BitVec 6 → BitVec 6 → BitVec 6 → BitVec 4 → Instr) (op : AtomOp) (srcs : BitVec 6 → BitVec 6 → List Opnd) :
    Prop :=
  ∀ d a b l s s1 xs,
    let f : Form := { srcs := srcs a b, dsts := [.g d], la := some l, ends := true, takes := true, gives := true,
                      touch := fun xs => [(arg xs 0, 8)], rd := true, wr := true }
    let ea := arg xs 0
    let tag := (s1.thr s.curCore s.curSlot).tag
    Opens s f s1 xs →
    (s1.checkAt s.curCore ea 8 true true = none → s1.storeStop s.curCore s.curSlot tag [ea.toNat] false = none →
      Pends s f s1 (.amo op ea (arg xs 1) (arg xs 2) tag (s1.releaseIds s.curCore s.curSlot 2))
        (s1.now s.curCore) (exec (i d a b l) s)) ∧
    (∀ code, s1.checkAt s.curCore ea 8 true true = some code →
      exec (i d a b l) s = .next (s.trapped s.curCore s.curSlot code ea ea))

/-- A vector load of the lanes at some addresses: VLD, VLDS and VLDX differ in form and addresses alone.  Its reads reach their banks:
one for each 128 bytes of a unit stride, or one for each lane, a lane a cycle (10 R222). -/
def VectorLoads (i : Instr) (f : Form) (w : BitVec 1) (addrs : List Val → List (Nat × Word)) (old : List Val → Vec)
    (unit : Bool) : Prop :=
  ∀ s s1 xs, Opens s f s1 xs → s1.laneFault s.curCore (laneBytes w) true false (addrs xs) = none →
    let tag := (s1.thr s.curCore s.curSlot).tag
    (addrs xs = [] → exec i s = .next (issuedFrom s f s1 ((me s).pc + 4))) ∧
    (addrs xs ≠ [] → Pends s f (s1.laneReads s.curCore s.curSlot (laneBytes w) tag (addrs xs) unit)
      (.vload (addrs xs) (laneBytes w) (old xs) tag (if unit then 0 else 1))
      (s1.now s.curCore + 3 + (if unit then 0 else (addrs xs).length - 1)) (exec i s))

/-- A vector store of the lanes at some addresses: one entry of the posted-store queue, none where no lane is active; the fault of the
first lane that fails a check (10 R224). -/
def VectorStores (i : Instr) (f : Form) (w : BitVec 1) (v : List Val → Vec) (addrs : List Val → List (Nat × Word)) (unit : Bool) :
    Prop :=
  ∀ s s1 xs, Opens s f s1 xs →
    let tag := (s1.thr s.curCore s.curSlot).tag
    (s1.laneStop s.curCore s.curSlot (laneBytes w) (addrs xs) = none →
      s1.storeStop s.curCore s.curSlot tag ((addrs xs).map (fun (x : Nat × Word) => x.2.toNat)) true = none →
      exec i s = .next (issuedFrom s f (if addrs xs = [] then s1
        else s1.post s.curCore s.curSlot (storeParts w (v xs) (addrs xs) unit) tag unit) ((me s).pc + 4))) ∧
    (∀ code info ea, s1.laneStop s.curCore s.curSlot (laneBytes w) (addrs xs) = some (.trap code info ea) →
      exec i s = .next (s.trapped s.curCore s.curSlot code info ea))

/-- The rings the kernel of a core declares. -/
def ringsOf (s : State) (c : Nat) : Nat := match s.header? c with | some h => h.rings | none => 0

/-- TLD fills the slot at the fill pointer of its ring: the slot is filling, the pointer moves on, and the transfer holds the
pieces, the pad and the scale of the tile at (i, j) of the thread's descriptor (06 R115, R123, R124). -/
def TileLoads (i : BitVec 4 → BitVec 6 → BitVec 6 → BitVec 4 → BitVec 3 → Instr) (shapeB : Bool) : Prop :=
  ∀ ring a b l n s s1 x y,
    let f : Form := { srcs := [.g a, .g b], dsts := [], la := some l, takes := true, inHandler := false }
    let c := s.curCore
    let t := s1.thr c s.curSlot
    let d := (t.td[n.toNat]?).getD Desc.reset
    let esz := fmtBytes d.fmt
    let rows := tileRows shapeB esz
    let cols := tileCols shapeB esz
    let row := hiInt x.w
    let col := loInt x.w
    let es := d.rows esz rows cols row col
    let padonly := es.all (fun (e : List (Nat × Nat × Nat)) => e.isEmpty)
    let scaled := d.sc && !padonly
    let sa := scaleAddr d t.sclp row col rows cols
    let r := (s1.core c).ring ring.toNat
    Opens s f s1 [x, y] → s1.ringCheck c ring.toNat = none → tileBytes shapeB esz ≤ r.size * 64 → s1.compCheck c y.w = none →
    s1.elemCheck c d esz true false es.flatten = none → (scaled = true → s1.checkAt c sa 4 true false = none) →
    (r.tile r.fp).state = .empty →
    let e : Tile := ⟨.filling, 0, 0, d.fmt, shapeB, false, padonly, 0⟩
    let xf : Xfer := { slot := s.curSlot, id := s1.fresh, ring := ring.toNat, rslot := r.fp, store := false,
                       pieces := es.flatMap (cutRow (s1.beatUnit c t.tag)), pad := (d.padWord, esz, d.pads esz rows cols row col),
                       scaleAt := if scaled then some sa else none, scale := 0x3F800000, comp := y.w, tbytes := tileBytes shapeB esz,
                       tag := t.tag, began := s1.now c, due := s1.now c + 1 }
    Pends s f (s1.modCore c (fun k =>
      let k1 := k.modTile ring.toNat r.fp (fun _ => e)
      { k1 with rings := k1.rings.setIfInBounds ring.toNat { k1.ring ring.toNat with fp := (r.fp + 1) % r.count }, xfers := k1.xfers ++ [xf] }))
      (.tile ring.toNat r.fp false) (s1.now c + 2) (exec (i ring a b l n) s)

/-- TST stores the tile at the pop pointer of its ring, which moves on where the form pops (06 R115, R117, R125). -/
def TileStores (i : BitVec 4 → BitVec 6 → BitVec 6 → BitVec 4 → BitVec 3 → Instr) (pop : Bool) : Prop :=
  ∀ ring a b l n s s1 x y,
    let f : Form := { srcs := [.g a, .g b], dsts := [], la := some l, gives := true, inHandler := false }
    let c := s.curCore
    let d := (((s1.thr c s.curSlot).td[n.toNat]?).getD Desc.reset)
    let esz := fmtBytes d.fmt
    let r := (s1.core c).ring ring.toNat
    let e := r.tile r.pp
    let es := d.rows esz (tileRows e.shapeB esz) (tileCols e.shapeB esz) (hiInt x.w) (loInt x.w)
    Opens s f s1 [x, y] → s1.ringCheck c ring.toNat = none → e.state = .ready → fmtBytes e.fmt = esz →
    s1.compCheck c y.w = none → s1.elemCheck c d esz false true es.flatten = none → e.poison = false →
    s1.poisoned c (r.slotBase r.pp) (tileBytes e.shapeB esz) = false →
    let xf : Xfer := { slot := s.curSlot, id := s1.fresh, ring := ring.toNat, rslot := r.pp, store := true,
                       pieces := es.flatMap (cutRow (s1.beatUnit c 0)), pad := (0, esz, []), scaleAt := none, scale := 0x3F800000,
                       comp := y.w, tbytes := tileBytes e.shapeB esz, tag := 0, began := s1.now c, due := s1.now c + 1 }
    Pends s f (s1.modCore c (fun k => { k.consume ring.toNat pop 1 with xfers := (k.consume ring.toNat pop 1).xfers ++ [xf] }))
      (.tile ring.toNat r.pp true) (s1.now c + 2) (exec (i ring a b l n) s)

/-- TDSET replaces one word of a descriptor of the thread. -/
def SetsDescriptor (i : BitVec 3 → BitVec 6 → Instr) (word : Desc → Word → Desc) : Prop :=
  ∀ d a s s1 x, let f : Form := { srcs := [.g a], dsts := [] }
    Opens s f s1 [x] → exec (i d a) s = .next (issuedFrom s f (s1.modThr s.curCore s.curSlot (fun t =>
      { t with td := t.td.setIfInBounds d.toNat (word ((t.td[d.toNat]?).getD Desc.reset) x.w) })) ((me s).pc + 4))

/-- An engine command enters the queue where its accumulator is open to the slot and fewer than four commands wait: the
accumulator locks and the instruction pends; otherwise it parks and may leave a claim (11 R226-R228). -/
def Commands (s : State) (f : Form) (s1 s2 : State) (e : EngCmd) (room : Bool) (o : Out) : Prop :=
  let a := (s1.core s.curCore).acc e.acc
  (a.open? s.curSlot = true → (s1.core s.curCore).waiting < 4 → room = true →
    Pends s f ((s2.modAcc s.curCore e.acc (fun a => a.lock s.curSlot)).modCore s.curCore (fun k => { k with engine := k.engine ++ [e] }))
      (.engine e.kind e.acc) (s1.now s.curCore) o) ∧
  (a.open? s.curSlot = false ∨ 4 ≤ (s1.core s.curCore).waiting ∨ room = false →
    o = .next ((s1.modAcc s.curCore e.acc (fun a => a.claim s.curSlot)).parked s.curCore s.curSlot .memory))

/-- The operands of a predicate in the order they are read: the run of coordinates, the index vectors of a perturbing form,
the mask, and the old value under a mask (12 R246, R249). -/
def predicateForm (p : Pred) (d a : BitVec 6) (l : BitVec 4) (sos : BitVec 1) (m : BitVec 3) (ibase : Nat) : Form :=
  { srcs := (List.range (p.points * p.coords)).map (fun j => .v (a + BitVec.ofNat 6 j)) ++
      (if sos = 1 then (List.range p.points).map (fun j => Opnd.v (BitVec.ofNat 6 (ibase + j))) else []) ++ [.m m] ++
      (if m ≠ 0 then [.v d] else []),
    dsts := [.v d], la := some l }

/-- A predicate pends with the signs of its lanes and its gstat word (12 R247-R253). -/
def Predicates (i : BitVec 6 → BitVec 6 → BitVec 4 → BitVec 1 → BitVec 1 → BitVec 3 → Instr) (p : Pred) : Prop :=
  ∀ d a l nf sos m s s1 xs,
    let ibase := bitsN (me s).gpcfg 5 0
    let n := p.points * p.coords
    let k := if sos = 1 then p.points else 0
    let f := predicateForm p d a l sos m ibase
    let coords := (List.range n).map (fun j => argV xs j)
    let ix := (List.range k).map (fun j => argV xs (n + j))
    let g := (s1.thr s.curCore s.curSlot).gpcfg
    let r := p.result coords ix (arg xs (n + k)) (argV xs (n + k + 1)) (sos == 1) (g.getLsbD 8)
    (sos = 1 → ibase + p.points ≤ 48) → Opens s f s1 xs → (s1.core s.curCore).contexts < 4 →
    (nf = 1 ∨ geomInfo coords (arg xs (n + k)) = none →
      Pends s f s1 (.predicate r.1 r.2.1) (s1.now s.curCore + r.2.2) (exec (i d a l nf sos m) s)) ∧
    (∀ info, nf = 0 → geomInfo coords (arg xs (n + k)) = some info →
      exec (i d a l nf sos m) s = .next (s.trapped s.curCore s.curSlot (det cGeomNonfinite 1) info 0))

/-- A command slot's turn: its bell is next in the order, its record holds the command's code, and the device is not in recovery (20 R429,
R430). -/
def CommandTurn (s : State) (code slot : Nat) : Prop :=
  slot < 1024 ∧ s.rung.head? = some slot ∧ s.slotField slot 0 = code ∧ s.devState ≠ 0

/-- A command of a slot ends with a status, written into the slot; the next bell's turn has come. -/
def Ends (s : State) (slot status : Nat) (t : State) (o : Out) : Prop :=
  o = .next (({ t with rung := s.rung.tail } : State).paciaPut (0x02000000 + 64 * slot + 2) (leBytes status 2))

end Sys2Proof
end

