-- ==== Sys2Proof/Certificates/Slice0/Obligations.lean ====
section
/-! DEFINITION. The statements for the provers. -/

open Sys2Proof Sys2Proof.Machine

/-- The integer register-register family writes its result to g[d] (09 R182). -/
def Obligations.IntegerRegisterResults : Prop :=
  Alu2 .add (fun x y => x + y) ∧ Alu2 .sub (fun x y => x - y) ∧ Alu2 .and (fun x y => x &&& y) ∧
  Alu2 .or (fun x y => x ||| y) ∧ Alu2 .xor (fun x y => x ^^^ y) ∧ Alu2 .andn (fun x y => x &&& ~~~y) ∧
  Alu2 .sll (fun x y => x <<< (y.toNat % 64)) ∧ Alu2 .srl (fun x y => x >>> (y.toNat % 64)) ∧
  Alu2 .sra (fun x y => x.sshiftRight (y.toNat % 64)) ∧ Alu2 .ror (fun x y => x.rotateRight (y.toNat % 64)) ∧
  Alu2 .slt (fun x y => if x.toInt < y.toInt then 1 else 0) ∧ Alu2 .sltu (fun x y => if x.toNat < y.toNat then 1 else 0) ∧
  Alu2 .min (fun x y => if x.toInt < y.toInt then x else y) ∧ Alu2 .minu (fun x y => if x.toNat < y.toNat then x else y) ∧
  Alu2 .max (fun x y => if x.toInt < y.toInt then y else x) ∧ Alu2 .maxu (fun x y => if x.toNat < y.toNat then y else x) ∧
  Alu2 .addW (fun x y => (BitVec.setWidth 32 (x + y)).signExtend 64) ∧
  Alu2 .subW (fun x y => (BitVec.setWidth 32 (x - y)).signExtend 64) ∧
  Alu2 .adds (fun x y => if x.toInt + y.toInt < -2 ^ 63 then 0x8000000000000000#64
    else if 2 ^ 63 ≤ x.toInt + y.toInt then 0x7FFFFFFFFFFFFFFF#64 else x + y) ∧
  Alu2 .subs (fun x y => if x.toInt - y.toInt < -2 ^ 63 then 0x8000000000000000#64
    else if 2 ^ 63 ≤ x.toInt - y.toInt then 0x7FFFFFFFFFFFFFFF#64 else x - y)

/-- The immediate forms use c = sext(imm13, 13), the shifts their six-bit amount, and the upper immediates build the high
part of a constant or of an image address (09 R183, R184). -/
def Obligations.ImmediateResults : Prop :=
  (∀ im : BitVec 13, let c : Word := im.signExtend 64
    Alu1 (fun d a => .addImmediate d a im) (fun x => x + c) ∧ Alu1 (fun d a => .andImmediate d a im) (fun x => x &&& c) ∧
    Alu1 (fun d a => .orImmediate d a im) (fun x => x ||| c) ∧ Alu1 (fun d a => .xorImmediate d a im) (fun x => x ^^^ c) ∧
    Alu1 (fun d a => .sltImmediate d a im) (fun x => if x.toInt < c.toInt then 1 else 0) ∧
    Alu1 (fun d a => .sltuImmediate d a im) (fun x => if x.toNat < c.toNat then 1 else 0)) ∧
  (∀ n : BitVec 6,
    Alu1 (fun d a => .sllImmediate d a n) (fun x => x <<< n.toNat) ∧ Alu1 (fun d a => .srlImmediate d a n) (fun x => x >>> n.toNat) ∧
    Alu1 (fun d a => .sraImmediate d a n) (fun x => x.sshiftRight n.toNat) ∧
    Alu1 (fun d a => .rorImmediate d a n) (fun x => x.rotateRight n.toNat)) ∧
  (∀ (d : BitVec 6) (im : BitVec 19) s s1, let f : Form := { srcs := [], dsts := [.g d] }
    let high : Word := im.signExtend 64 * 0x2000#64 + 0x1000#64
    Opens s f s1 [] →
    Results s f s1 [(.g d, Val.of high)] (exec (.movhi d im) s) ∧
    Results s f s1 [(.g d, Val.of ((s1.thr s.curCore s.curSlot).pc + high))] (exec (.adrhi d im) s))

/-- The multiply family keeps the bits of the exact product that its form names; mulp writes the register pair g[d], g[d+1]
(09 R185). Divide and remainder, signed and unsigned, with their corners: the result is known at issue and full 36 cc later
(09 R186). -/
def Obligations.MultiplyDivideResults : Prop :=
  (
    Alu2 .mul (fun x y => x * y) ∧ Alu2 .mulW (fun x y => (BitVec.setWidth 32 (x * y)).signExtend 64) ∧
    (∀ sg : BitVec 2,
      let value (signed : Bool) (x : Word) : Int := if signed then x.toInt else (x.toNat : Int)
      let exact (x y : Word) : Int := value (sg.getLsbD 1) x * value (sg.getLsbD 0) y
      Alu2 (fun d a b => .mulh d a b sg) (fun x y => BitVec.ofInt 64 (exact x y / 2 ^ 64)) ∧
      (∀ d a b s s1 x y, let f : Form := { srcs := [.g a, .g b], dsts := [.g d, .g (d + 1)] }
        Opens s f s1 [x, y] →
        Results s f s1 [(.g d, Val.of (BitVec.ofInt 64 (exact x.w y.w))),
          (.g (d + 1), Val.of (BitVec.ofInt 64 (exact x.w y.w / 2 ^ 64)))] (exec (.mulp d a b sg) s)))) ∧
  (
    Divides .div (fun x y => if y = 0 then -1 else if x = 0x8000000000000000#64 ∧ y = -1 then x
      else BitVec.ofInt 64 (x.toInt.tdiv y.toInt)) ∧
    Divides .rem (fun x y => if y = 0 then x else if x = 0x8000000000000000#64 ∧ y = -1 then 0
      else BitVec.ofInt 64 (x.toInt - y.toInt * x.toInt.tdiv y.toInt)) ∧
    Divides .divu (fun x y => if y = 0 then -1 else BitVec.ofNat 64 (x.toNat / y.toNat)) ∧
    Divides .remu (fun x y => if y = 0 then x else BitVec.ofNat 64 (x.toNat - y.toNat * (x.toNat / y.toNat))))

/-- The bit family (09 R187): each counted or moved bit by bit. -/
def Obligations.BitResults : Prop :=
  (∀ d a s s1 x, Opens s (fR d a) s1 [x] → ∃ n : Nat,
    ((x.w = 0 ∧ n = 64) ∨ (n < 64 ∧ x.w.getLsbD (63 - n) = true ∧ ∀ j, 63 - n < j → x.w.getLsbD j = false)) ∧
    Results s (fR d a) s1 [(.g d, Val.of (BitVec.ofNat 64 n))] (exec (.clz d a) s)) ∧
  (∀ d a s s1 x, Opens s (fR d a) s1 [x] → ∃ n : Nat,
    ((x.w = 0 ∧ n = 64) ∨ (n < 64 ∧ x.w.getLsbD n = true ∧ ∀ j, j < n → x.w.getLsbD j = false)) ∧
    Results s (fR d a) s1 [(.g d, Val.of (BitVec.ofNat 64 n))] (exec (.ctz d a) s)) ∧
  Alu1 .popc (fun x => BitVec.ofNat 64 ((List.range 64).filter (fun j => x.getLsbD j)).length) ∧
  (∀ d a s s1 x, Opens s (fR d a) s1 [x] → ∃ r : Word, (∀ j, j < 64 → r.getLsbD j = x.w.getLsbD (63 - j)) ∧
    Results s (fR d a) s1 [(.g d, Val.of r)] (exec (.brev d a) s)) ∧
  (∀ d a s s1 x, Opens s (fR d a) s1 [x] → ∃ r : Word,
    (∀ j, j < 8 → r.extractLsb' (8 * j) 8 = x.w.extractLsb' (8 * (7 - j)) 8) ∧
    Results s (fR d a) s1 [(.g d, Val.of r)] (exec (.rev8 d a) s)) ∧
  Alu1 .extBS (fun x => (BitVec.setWidth 8 x).signExtend 64) ∧ Alu1 .extHS (fun x => (BitVec.setWidth 16 x).signExtend 64) ∧
  Alu1 .extWS (fun x => (BitVec.setWidth 32 x).signExtend 64) ∧ Alu1 .extBZ (fun x => (BitVec.setWidth 8 x).setWidth 64) ∧
  Alu1 .extHZ (fun x => (BitVec.setWidth 16 x).setWidth 64) ∧ Alu1 .extWZ (fun x => (BitVec.setWidth 32 x).setWidth 64)

/-- Branches and jumps: offsets count words from the address of the branch or jump itself, within the ranges of their formats (02 R23);
the next PC, the link, and the target checks (09 R189-R191). -/
def Obligations.ControlFlow : Prop :=
  (let reach13 (im : BitVec 13) : Int := (im.signExtend 64 * 4#64).toInt
   let reach19 (im : BitVec 19) : Int := (im.signExtend 64 * 4#64).toInt
   (∀ im, -16384 ≤ reach13 im ∧ reach13 im ≤ 16380) ∧ reach13 0x1000 = -16384 ∧ reach13 0x0FFF = 16380 ∧
   (∀ im, -1048576 ≤ reach19 im ∧ reach19 im ≤ 1048572) ∧ reach19 0x40000 = -1048576 ∧ reach19 0x3FFFF = 1048572) ∧
  Branches .beq (fun x y => decide (x = y)) ∧ Branches .bne (fun x y => decide (x ≠ y)) ∧
  Branches .blt (fun x y => decide (x.toInt < y.toInt)) ∧ Branches .bge (fun x y => decide (y.toInt ≤ x.toInt)) ∧
  Branches .bltu (fun x y => decide (x.toNat < y.toNat)) ∧ Branches .bgeu (fun x y => decide (y.toNat ≤ x.toNat)) ∧
  (∀ d (im : BitVec 19) s s1, let f : Form := { srcs := [], dsts := [.g d] }
    Opens s f s1 [] →
    let pc := (s1.thr s.curCore s.curSlot).pc
    let target := pc + im.signExtend 64 * 4
    (64 ≤ target.toNat ∧ target.toNat < s1.codeSize s.curCore →
      Retires s f s1 [(.g d, Val.of (pc + 4))] target (exec (.jlk d im) s)) ∧
    (target.toNat < 64 ∨ s1.codeSize s.curCore ≤ target.toNat →
      exec (.jlk d im) s = .next (s.trapped s.curCore s.curSlot (det cCodeRange 1) target target))) ∧
  (∀ d a (im : BitVec 13) s s1 x, Opens s (fR d a) s1 [x] →
    let pc := (s1.thr s.curCore s.curSlot).pc
    let target := x.w + im.signExtend 64 * 4
    (x.w.toNat % 4 ≠ 0 → exec (.jlkr d a im) s = .next (s.trapped s.curCore s.curSlot (det cMisaligned 4) target target)) ∧
    (x.w.toNat % 4 = 0 → 64 ≤ target.toNat ∧ target.toNat < s1.codeSize s.curCore →
      Retires s (fR d a) s1 [(.g d, Val.of (pc + 4))] target (exec (.jlkr d a im) s)) ∧
    (x.w.toNat % 4 = 0 → target.toNat < 64 ∨ s1.codeSize s.curCore ≤ target.toNat →
      exec (.jlkr d a im) s = .next (s.trapped s.curCore s.curSlot (det cCodeRange 1) target target)))

/-- Scalar floating arithmetic: exact, then rounded once in the thread's mode; minimum, maximum and the sign forms work on
the operands (09 R193, R194). Floating divide and square root pend with result and flags, 28, 30 or 16 cc after issue (09
R195). -/
def Obligations.FloatingResults : Prop :=
  (
    Fp2 .fadd (fun f m x y => roundIeee (Machine.Num.add m (f.decode x) (f.decode y)) f m) ∧
    Fp2 .fsub (fun f m x y => roundIeee (Machine.Num.add m (f.decode x) (f.decode y).negate) f m) ∧
    Fp2 .fmul (fun f m x y => roundIeee ((f.decode x).mul (f.decode y)) f m) ∧
    Fp2 .fmin (fun f _ x y => minmax f false x y) ∧ Fp2 .fmax (fun f _ x y => minmax f true x y) ∧
    Fp2 .fsgn (fun f _ x y => (x % 2 ^ (f.bits - 1) + y / 2 ^ (f.bits - 1) * 2 ^ (f.bits - 1), 0)) ∧
    Fp2 .fsgnn (fun f _ x y => (x % 2 ^ (f.bits - 1) + (1 - y / 2 ^ (f.bits - 1)) * 2 ^ (f.bits - 1), 0)) ∧
    Fp2 .fsgnx (fun f _ x y => (x % 2 ^ (f.bits - 1) +
      (x / 2 ^ (f.bits - 1) + y / 2 ^ (f.bits - 1)) % 2 * 2 ^ (f.bits - 1), 0)) ∧
    Fp3 .fma false false ∧ Fp3 .fms false true ∧ Fp3 .fnma true false ∧ Fp3 .fnms true true) ∧
  (
    (∀ d a b l w s s1 x y, Opens s { fRR d a b with la := some l } s1 [x, y] →
      let f := fmtW w
      let m := s1.rm s.curCore s.curSlot
      let q := (f.decode x.w.toNat).div (f.decode y.w.toNat)
      let r := roundIeee q.1 f m
      Pends s { fRR d a b with la := some l } s1 (.fdiv (BitVec.ofNat 64 r.1) (r.2 ||| q.2))
        (s1.now s.curCore + (if w = 0 then 28 else 16)) (exec (.fdiv d a b l w) s)) ∧
    (∀ d a l w s s1 x, Opens s { fR d a with la := some l } s1 [x] →
      let f := fmtW w
      let r := roundIeee (f.decode x.w.toNat).sqrt f (s1.rm s.curCore s.curSlot)
      Pends s { fR d a with la := some l } s1 (.fdiv (BitVec.ofNat 64 r.1) r.2)
        (s1.now s.curCore + (if w = 0 then 30 else 16)) (exec (.fsqrt d a l w) s)))

/-- Compares give 1 or 0 and nv on a NaN as their form says; fclass gives its one-hot word; fcvt converts the exact, scaled
value and writes result and flags, or traps NARROW_RANGE (09 R196-R198). -/
def Obligations.FloatingCompareConvert : Prop :=
  let nan (all : Bool) (x y : Machine.Num) : Flg := if x.isSig || y.isSig || all && (x.isNan || y.isNan) then 16 else 0
  Fp2 .feq (fun f _ x y => (if (f.decode x).eq (f.decode y) then 1 else 0, nan false (f.decode x) (f.decode y))) ∧
  Fp2 .flt (fun f _ x y => (if (f.decode x).lt (f.decode y) then 1 else 0, nan true (f.decode x) (f.decode y))) ∧
  Fp2 .fle (fun f _ x y => (if (f.decode x).lt (f.decode y) || (f.decode x).eq (f.decode y) then 1 else 0,
    nan true (f.decode x) (f.decode y))) ∧
  (∀ w, Alu1 (fun d a => .fclass d a w) (fun x =>
    BitVec.ofNat 64 (classOf (fmtW w) (x.toNat % 2 ^ (fmtW w).bits)))) ∧
  (∀ d a b (x : BitVec 1) y z s s1 v vs, let f : Form := { srcs := if x = 1 then [.g a, .g b] else [.g a], dsts := [.g d] }
    Opens s f s1 (v :: vs) →
    let t := s1.thr s.curCore s.curSlot
    let e := scaled t (if x = 1 then some (arg (v :: vs) 1) else none) y.toNat z.toNat (valueOf z.toNat v.w)
    match convert y.toNat e (s1.rm s.curCore s.curSlot) with
    | .ok r fl => Results s f (s1.orFlags s.curCore s.curSlot fl) [(.g d, Val.of r)] (exec (.fcvt d a b x y z) s)
    | .narrow u => exec (.fcvt d a b x y z) s =
        .next (s.trapped s.curCore s.curSlot (det cNarrowRange 1) (BitVec.ofNat 64 (xexp u * 2 ^ 16 + 1)) 0))

/-- Moves copy value and poison; MOV.TAKE empties the shared register it reads and MOV.PUT fills an empty, free one (07
R138-R141). PBIND sets the wrap bits of quiet edges and PQRY reads a port; both fault PORT_FORM on their reserved bits (07
R148-R151). -/
def Obligations.RegisterAndPortMoves : Prop :=
  (
    (∀ d a, Moves (.movV d a) (.v d) (.v a)) ∧ (∀ d a, Moves (.movMg d a) (.m d) (.g a)) ∧
    (∀ d a, Moves (.movGm d a) (.g d) (.m a)) ∧ (∀ d a, Moves (.movM d a) (.m d) (.m a)) ∧
    (∀ d a s s1 x, let f : Form := { srcs := [.g a], dsts := [.g d], ends := true, passes := true, gives := true }
      let h := (s1.core s.curCore).shOf (a.toNat - 48)
      Opens s f s1 [x] → shGuard h (s1.now s.curCore) = false →
      Results s f (s1.setSh s.curCore (a.toNat - 48) { shNow h with fe := .free }) [(.g d, x)] (exec (.movTake d a) s)) ∧
    (∀ d a s s1 x, let f : Form := { srcs := [.g a], dsts := [], more := [.g d], ends := true, passes := true, gives := true }
      let h := (s1.core s.curCore).shOf (d.toNat - 48)
      Opens s f s1 [x] → shGuard h (s1.now s.curCore) = false → (shView h (s1.now s.curCore)).fe = .free →
      exec (.movPut d a) s =
        .next (issuedFrom s f (s1.setSh s.curCore (d.toNat - 48) ⟨x.w, .full, x.poison⟩) ((me s).pc + 4)))) ∧
  (
    (∀ a s s1 x, let f : Form := { srcs := [.g a], dsts := [] }
      let t := s1.thr s.curCore s.curSlot
      Opens s f s1 [x] →
      (x.w.toNat < 4 → (x.w.getLsbD 0 ≠ t.wrapX → s1.dimQuiet s.curCore s.curSlot true = true) →
        (x.w.getLsbD 1 ≠ t.wrapY → s1.dimQuiet s.curCore s.curSlot false = true) →
        exec (.pbind a) s = .next (issuedFrom s f
          (s1.setThr s.curCore s.curSlot { t with wrapX := x.w.getLsbD 0, wrapY := x.w.getLsbD 1 }) ((me s).pc + 4))) ∧
      (4 ≤ x.w.toNat → exec (.pbind a) s = .next (s.trapped s.curCore s.curSlot (det cPortForm 1) 0 0))) ∧
    (∀ d a s s1 x, let f : Form := { fR d a with takes := true }
      Opens s f s1 [x] →
      let p := x.w.toNat % 8
      (p < 5 → x.w &&& ~~~0x107#64 = 0 →
        Results s f s1 [(.g d, Val.of (s1.pqryWord s.curCore s.curSlot p (x.w.getLsbD 8)))] (exec (.pqry d a) s)) ∧
      (5 ≤ p ∨ x.w &&& ~~~0x107#64 ≠ 0 →
        exec (.pqry d a) s = .next (s.trapped s.curCore s.curSlot (det cPortForm 2) 0 0))))

/-- FEMPTY has no effect on g0 and m0, parks while its register is pending (and, for a shared register, under the change guard), and
else marks it empty and free; FETEST tells whether a register is full and never parks on it (07 R143). That the park under the change
guard is classed as memory is the model's choice (log 13: R138, R143 and 19 R397 give it no class). -/
def Obligations.FullEmptyBits : Prop :=
  (∀ a k s s1, let o := feOpnd k a
    let f : Form := { srcs := [], dsts := [], more := [o], gives := o.isShared }
    Opens s f s1 [] →
    (o = .g 0 ∨ o = .m 0 → exec (.fempty a k) s = .next (issuedFrom s f s1 ((me s).pc + 4))) ∧
    (o ≠ .g 0 → o ≠ .m 0 → (o.isShared = true → shGuard ((s1.core s.curCore).shOf (a.toNat - 48)) (s1.now s.curCore) = false) →
      s1.feOf s.curCore s.curSlot o ≠ .pending →
      exec (.fempty a k) s = .next (issuedFrom s f (s1.freeReg s.curCore s.curSlot o) ((me s).pc + 4))) ∧
    (o.isShared = true → shGuard ((s1.core s.curCore).shOf (a.toNat - 48)) (s1.now s.curCore) = true →
      exec (.fempty a k) s = .next (s.parked s.curCore s.curSlot .memory)) ∧
    (o ≠ .g 0 → o ≠ .m 0 → (o.isShared = true → shGuard ((s1.core s.curCore).shOf (a.toNat - 48)) (s1.now s.curCore) = false) →
      s1.feOf s.curCore s.curSlot o = .pending →
      exec (.fempty a k) s = .next (s.parked s.curCore s.curSlot ((s1.thr s.curCore s.curSlot).waitFor o)))) ∧
  (∀ d a k s s1, let o := feOpnd k a
    let f : Form := { srcs := [], dsts := [.g d], more := [o], takes := o.isShared }
    Opens s f s1 [] →
    Results s f s1 [(.g d, Val.of (if s1.feOf s.curCore s.curSlot o = .full then 1 else 0))] (exec (.fetest d a k) s)) ∧
  decode 0x0006405F#32 = .ok (.fempty 50 0) ∧ decode 0x200643DF#32 = .ok (.fetest 7 50 0)

/-- Lanewise vector arithmetic: floating lanes rounded one by one, integer lanes exact modulo their width, shifts by the low
bits of the amount, masked as R206 says (10 R206, R209, R210). -/
def Obligations.VectorResults : Prop :=
  LanesWD .vfadd (fun f m x y => roundIeee (Machine.Num.add m (f.decode x) (f.decode y)) f m) ∧
  LanesWD .vfsub (fun f m x y => roundIeee (Machine.Num.add m (f.decode x) (f.decode y).negate) f m) ∧
  LanesWD .vfmul (fun f m x y => roundIeee ((f.decode x).mul (f.decode y)) f m) ∧
  LanesWD .vfmin (fun f _ x y => minmax f false x y) ∧ LanesWD .vfmax (fun f _ x y => minmax f true x y) ∧
  LanesWD .vfsgn (fun f _ x y => signForm (fun _ q => q) f x y) ∧
  LanesWD .vfsgnn (fun f _ x y => signForm (fun _ q => !q) f x y) ∧
  LanesWD .vfsgnx (fun f _ x y => signForm (fun p q => p != q) f x y) ∧
  Lanes2 .vand 32 16 (fun _ x y => ((BitVec.ofNat 32 x &&& BitVec.ofNat 32 y).toNat, 0)) ∧
  Lanes2 .vor 32 16 (fun _ x y => ((BitVec.ofNat 32 x ||| BitVec.ofNat 32 y).toNat, 0)) ∧
  Lanes2 .vxor 32 16 (fun _ x y => ((BitVec.ofNat 32 x ^^^ BitVec.ofNat 32 y).toNat, 0)) ∧
  Lanes2 .vandn 32 16 (fun _ x y => ((BitVec.ofNat 32 x &&& ~~~BitVec.ofNat 32 y).toNat, 0)) ∧
  LanesInt .vadd (fun x y => x + y) ∧ LanesInt .vsub (fun x y => x - y) ∧ LanesInt .vmul (fun x y => x * y) ∧
  LanesInt .vmin (fun x y => if x.toInt < y.toInt then x else y) ∧
  LanesInt .vmax (fun x y => if x.toInt < y.toInt then y else x) ∧
  LanesInt .vsll (fun {n} x y => x <<< (y.toNat % n)) ∧ LanesInt .vsrl (fun {n} x y => x >>> (y.toNat % n)) ∧
  LanesInt .vsra (fun {n} x y => x.sshiftRight (y.toNat % n)) ∧
  LanesFma .vfma false false ∧ LanesFma .vfms false true ∧ LanesFma .vfnma true false ∧ LanesFma .vfnms true true

/-- Vector compares write a mask, and the mask instructions combine, count and search masks (10 R211, R212). Select,
broadcast, insert, extract, permute and rotate move lanes (10 R213, R214). -/
def Obligations.MaskAndLaneResults : Prop :=
  (
    let nan (all : Bool) (x y : Machine.Num) : Flg := if x.isSig || y.isSig || all && (x.isNan || y.isNan) then 16 else 0
    LanesCmp .vfeq (fun f x y => ((f.decode x).eq (f.decode y), nan false (f.decode x) (f.decode y))) ∧
    LanesCmp .vflt (fun f x y => ((f.decode x).lt (f.decode y), nan true (f.decode x) (f.decode y))) ∧
    LanesCmp .vfle (fun f x y => ((f.decode x).lt (f.decode y) || (f.decode x).eq (f.decode y), nan true (f.decode x) (f.decode y))) ∧
    LanesCmp .veq (fun _ x y => (decide (x = y), 0)) ∧ LanesCmp .vltu (fun _ x y => (decide (x < y), 0)) ∧
    LanesCmp .vlt (fun f x y => (decide ((BitVec.ofNat f.bits x).toInt < (BitVec.ofNat f.bits y).toInt), 0)) ∧
    Mask2 .mand (fun x y => x &&& y) ∧ Mask2 .mor (fun x y => x ||| y) ∧ Mask2 .mxor (fun x y => x ^^^ y) ∧
    Mask2 .mandn (fun x y => x &&& ~~~y) ∧
    (∀ d a s s1 x, let f : Form := { srcs := [.m a], dsts := [.m d] }
      Opens s f s1 [x] →
      Results s f s1 [(.m d, ⟨BitVec.ofNat 512 (~~~(BitVec.setWidth 16 x.w)).toNat, false⟩)] (exec (.mnot d a) s)) ∧
    MaskNum .mpopc (fun x => ((List.range 16).filter (fun j => x.getLsbD j)).length) ∧
    MaskNum .mfirst (fun x => ((List.range 16).find? (fun j => x.getLsbD j)).getD 16) ∧
    MaskNum .mlast (fun x => ((List.range 16).reverse.find? (fun j => x.getLsbD j)).getD 16) ∧
    (∀ d a s s1 x, let f : Form := { srcs := [.g a], dsts := [.m d] }
      Opens s f s1 [x] →
      Results s f s1 [(.m d, ⟨BitVec.ofNat 512 (if x.w.toNat < 16 then 2 ^ x.w.toNat - 1 else 0xFFFF), false⟩)]
        (exec (.mlen d a) s))) ∧
  (
    (∀ d a b m w s s1 x y k, let f : Form := { srcs := [.v a, .v b, .m m], dsts := [.v d] }
      Opens s f s1 [x, y, k] →
      Results s f s1 [(.v d, ⟨pack (laneBits w) ((List.range (lanesOf w)).map (fun j =>
        if k.w.getLsbD j then lane (laneBits w) x.x j else lane (laneBits w) y.x j)), false⟩)] (exec (.vsel d a b m w) s)) ∧
    (∀ d a m w s s1 x k old, let f : Form := maskedForm [.g a] d m
      Opens s f s1 (x :: k :: old) →
      Results s f s1 [(.v d, ⟨pack (laneBits w) ((List.range (lanesOf w)).map (fun j =>
        if k.w.getLsbD j then x.w.toNat % 2 ^ laneBits w else lane (laneBits w) (argV old 0) j)), false⟩)]
        (exec (.vbcast d a m w) s)) ∧
    (∀ d a b w s s1 x y old, let f : Form := { srcs := [.g a, .g b, .v d], dsts := [.v d] }
      Opens s f s1 [x, y, old] →
      (y.w.toNat < lanesOf w → Results s f s1 [(.v d, ⟨pack (laneBits w) ((List.range (lanesOf w)).map (fun j =>
        if j = y.w.toNat then x.w.toNat else lane (laneBits w) old.x j)), false⟩)] (exec (.vins d a b w) s)) ∧
      (lanesOf w ≤ y.w.toNat → exec (.vins d a b w) s = .next (s.trapped s.curCore s.curSlot (det cVectorIndex 1) 0 0))) ∧
    Extracts .vextWZ 32 16 (fun x => BitVec.ofNat 64 x) ∧
    Extracts .vextWS 32 16 (fun x => (BitVec.ofNat 32 x).signExtend 64) ∧
    Extracts .vextD 64 8 (fun x => BitVec.ofNat 64 x) ∧
    (∀ d a b m w s s1 x y k old, let f : Form := maskedForm [.v a, .v b] d m
      Opens s f s1 (x :: y :: k :: old) →
      Results s f s1 [(.v d, ⟨pack (laneBits w) ((List.range (lanesOf w)).map (fun j => if k.w.getLsbD j
        then lane (laneBits w) x.x (lane (laneBits w) y.x j % lanesOf w) else lane (laneBits w) (argV old 0) j)), false⟩)]
        (exec (.vperm d a b m w) s)) ∧
    (∀ d a b m w s s1 x y k old, let f : Form := maskedForm [.v a, .g b] d m
      Opens s f s1 (x :: y :: k :: old) →
      Results s f s1 [(.v d, ⟨pack (laneBits w) ((List.range (lanesOf w)).map (fun j => if k.w.getLsbD j
        then lane (laneBits w) x.x ((j + y.w.toNat) % lanesOf w) else lane (laneBits w) (argV old 0) j)), false⟩)]
        (exec (.vrot d a b m w) s)))

/-- Reductions combine the active lanes in one fixed tree; a tree without an active lane gives the form's empty value (10
R215, R216). VCVT converts every active element as FCVT does, or traps NARROW_RANGE naming every trapping element (10
R217-R219, 08 R171). -/
def Obligations.VectorReductionsAndConversion : Prop :=
  (
    let both (i : BitVec 6 → BitVec 6 → BitVec 3 → BitVec 1 → Instr) (empty : Fmt → Nat)
        (op : Fmt → Rm → Nat → Nat → Nat × Flg) (out : BitVec 1 → Nat → Word) : Prop :=
      Reduces (fun d a m => i d a m 0) 32 16 4 (empty f32) (op f32) (out 0) ∧
      Reduces (fun d a m => i d a m 1) 64 8 3 (empty f64) (op f64) (out 1)
    let word (w : BitVec 1) (x : Nat) : Word := if w = 1 then BitVec.ofNat 64 x else (BitVec.ofNat 32 x).signExtend 64
    both .vfredsum (fun _ => 0) (fun f m x y => roundIeee (Machine.Num.add m (f.decode x) (f.decode y)) f m) (fun _ x => BitVec.ofNat 64 x) ∧
    both .vfredmin (fun f => f.nanBits) (fun f _ x y => minmax f false x y) (fun _ x => BitVec.ofNat 64 x) ∧
    both .vfredmax (fun f => f.nanBits) (fun f _ x y => minmax f true x y) (fun _ x => BitVec.ofNat 64 x) ∧
    both .vredadd (fun _ => 0) (fun f _ x y => ((BitVec.ofNat f.bits x + BitVec.ofNat f.bits y).toNat, 0)) word ∧
    both .vredmin (fun _ => 0) (fun f _ x y => (if (BitVec.ofNat f.bits x).toInt < (BitVec.ofNat f.bits y).toInt
      then (BitVec.ofNat f.bits x).toNat else (BitVec.ofNat f.bits y).toNat, 0)) word ∧
    both .vredmax (fun _ => 0) (fun f _ x y => (if (BitVec.ofNat f.bits x).toInt < (BitVec.ofNat f.bits y).toInt
      then (BitVec.ofNat f.bits y).toNat else (BitVec.ofNat f.bits x).toNat, 0)) word) ∧
  (
    ∀ d a b m code s s1 xs, let k := if b = 0 then 0 else 1
      let f : Form := { srcs := [.v a] ++ (if b = 0 then [] else [.g b]) ++ [.m m] ++ (if readsOld d m then [.v d] else []),
                        dsts := [.v d] }
      Opens s f s1 xs →
      let fm := vcvtCode code
      let cv (j : Nat) : Cvt := convert fm.2.2 (scaled (s1.thr s.curCore s.curSlot) (if b = 0 then none else some (arg xs 1))
        fm.2.2 fm.2.1 (valueOf fm.2.1 (BitVec.ofNat 64 (lane (codeBits fm.2.1) (argV xs 0) j)))) (s1.rm s.curCore s.curSlot)
      ((∀ j, j < fm.1 → (arg xs (1 + k)).getLsbD j = true → ∃ r fl, cv j = .ok r fl) →
        ∃ out : Vec × Flg, out = maskLanes (codeBits fm.2.2) fm.1 (arg xs (1 + k)) (argV xs (2 + k))
            (fun j => match cv j with | .ok r fl => (r.toNat, fl) | .narrow _ => (0, 0)) ∧
          Results s f (s1.orFlags s.curCore s.curSlot out.2) [(.v d, ⟨out.1, false⟩)] (exec (.vcvt d a b m code) s)) ∧
      (∀ j u, j < fm.1 → (arg xs (1 + k)).getLsbD j = true → cv j = .narrow u →
        ∃ info : Word, info.getLsbD j = true ∧
          exec (.vcvt d a b m code) s = .next (s.trapped s.curCore s.curSlot (det cNarrowRange 2) info 0)))

/-- LD and LDA read local memory: the checks of 04 R66, then a pending read of the size at the address (04 R80, R84). ST posts its
store and STL pends with its write; a check that fails traps with its code and the address (04 R66, R81, R82, R84). That STL issues,
and waits pending for what its release names, is the model's reading of R84 (log 10). -/
def Obligations.LocalAccesses : Prop :=
  (
    (∀ im x, Loads (fun d a l => .ldB d a l im x) (im.signExtend 64) 1 (x == 1)) ∧
    (∀ im x, Loads (fun d a l => .ldH d a l im x) (im.signExtend 64 * 2) 2 (x == 1)) ∧
    (∀ im x, Loads (fun d a l => .ldW d a l im x) (im.signExtend 64 * 4) 4 (x == 1)) ∧
    (∀ im, Loads (fun d a l => .ldD d a l im) (im.signExtend 64 * 8) 8 false) ∧
    (∀ b x (sz : BitVec 2), Loads (fun d a l => .lda d a b l x sz) 0 (2 ^ sz.toNat) (x == 1))) ∧
  (
    (∀ a b (sz : BitVec 2) (o : BitVec 11) s s1 x y,
      let size := 2 ^ sz.toNat
      let off : Word := o.signExtend 64 * BitVec.ofNat 64 size
      let f : Form := { srcs := [.g a, .g b], dsts := [], gives := true, touch := fun xs => [(arg xs 0 + off, size)], wr := true }
      let ea := x.w + off
      let tag := (s1.thr s.curCore s.curSlot).tag
      Opens s f s1 [x, y] →
      (s1.checkAt s.curCore ea size false true = none → s1.storeStop s.curCore s.curSlot tag [ea.toNat] true = none →
        exec (.st a b sz o) s =
          .next (issuedFrom s f (s1.post s.curCore s.curSlot [(ea, size, y.x)] tag) ((me s).pc + 4))) ∧
      (∀ code, s1.checkAt s.curCore ea size false true = some code →
        exec (.st a b sz o) s = .next (s.trapped s.curCore s.curSlot code ea ea))) ∧
    (∀ d a b l (sz : BitVec 2) s s1 x y,
      let size := 2 ^ sz.toNat
      let f : Form := { srcs := [.g a, .g b], dsts := [], la := some l, gives := true, touch := fun xs => [(arg xs 0, size)],
                        wr := true }
      let tag := (s1.thr s.curCore s.curSlot).tag
      Opens s f s1 [x, y] →
      (s1.checkAt s.curCore x.w size false true = none → s1.storeStop s.curCore s.curSlot tag [x.w.toNat] false = none →
        Pends s f s1 (.stl x.w size y.w tag d (s1.releaseIds s.curCore s.curSlot d.toNat)) (s1.now s.curCore)
          (exec (.stl d a b l sz) s)) ∧
      (∀ code, s1.checkAt s.curCore x.w size false true = some code →
        exec (.stl d a b l sz) s = .next (s.trapped s.curCore s.curSlot code x.w x.w))))

/-- A load completes with what its reads returned, zero- or sign-extended, poison with them; a vector load fills its lanes (04
R78, R80; 10 R220). A divide, a floating divide or square root and a bank query complete with the value found at issue. -/
def Obligations.LoadCompletions : Prop :=
  (∀ c sl id p ea size zext tag s, DuePend s c sl id p → p.kind = .load ea size zext tag → p.ready ea = true →
    size = 1 ∨ size = 2 ∨ size = 4 ∨ size = 8 →
    let r := s.valueOf c sl p ea size tag
    let x : Word := BitVec.ofNat 64 r.1
    exec (.loadCompletion c sl id) s = .next (s.finish c sl p [⟨(if zext = true then x &&& BitVec.ofNat 64 (2 ^ (8 * size) - 1)
      else (x <<< (64 - 8 * size)).sshiftRight (64 - 8 * size)).setWidth 512, r.2⟩])) ∧
  (∀ c sl id p addrs size old tag step s, DuePend s c sl id p → p.kind = .vload addrs size old tag step →
    addrs.all (fun (x : Nat × Word) => p.ready x.2) = true →
    let r := s.gatherLanes c sl size tag p addrs old false
    exec (.loadCompletion c sl id) s = .next (s.finish c sl p [⟨r.1, r.2⟩])) ∧
  (∀ c sl id p v s, DuePend s c sl id p → p.kind = .divide v →
    exec (.divideCompletion c sl id) s = .next (s.finish c sl p [Val.of v])) ∧
  (∀ c sl id p v fl s, DuePend s c sl id p → p.kind = .fdiv v fl →
    exec (.fdivCompletion c sl id) s = .next ((s.finish c sl p [Val.of v]).orFlags c sl fl)) ∧
  (∀ c sl id p w s, DuePend s c sl id p → p.kind = .vqry w →
    exec (.vqryCompletion c sl id) s = .next (s.finish c sl p [Val.of w]))

/-- The local atomics (16 R332-R336). The eight operations of an atomic (16 R334): what is written over the old value. That an AMO
issues and then waits, pending, for what its release names is the model's reading of R336 (log 10). -/
def Obligations.LocalAtomics : Prop :=
  (
    let two (a b : BitVec 6) : List Opnd := [.g a, .g b]
    Atomic .amoSwap .swap two ∧ Atomic .amoAdd .add two ∧ Atomic .amoAnd .and two ∧ Atomic .amoOr .or two ∧
    Atomic .amoXor .xor two ∧ Atomic .amoMax .max two ∧ Atomic .amoMin .min two ∧
    Atomic .amoCas .cas (fun a b => [.g a, .g b, .g (b + 1)])) ∧
  (
    ∀ old x y : Word, AtomOp.newHere .swap old x y = some x ∧ AtomOp.newHere .add old x y = some (old + x) ∧
      AtomOp.newHere .and old x y = some (old &&& x) ∧ AtomOp.newHere .or old x y = some (old ||| x) ∧
      AtomOp.newHere .xor old x y = some (old ^^^ x) ∧
      (∃ m, AtomOp.newHere .max old x y = some m ∧ m.toInt = max old.toInt x.toInt) ∧
      (∃ m, AtomOp.newHere .min old x y = some m ∧ m.toInt = min old.toInt x.toInt) ∧
      AtomOp.newHere .cas x x y = some y ∧ (old ≠ x → AtomOp.newHere .cas old x y = none) ∧
      (∀ op, op ≠ .cas → AtomOp.new op old x y = op.newHere old x y) ∧ (x ≠ y → AtomOp.new .cas x x y = some y) ∧
      AtomOp.new .cas x x x = none ∧ (old ≠ x → AtomOp.new .cas old x y = none))

/-- Writes are performed at their bank or in the scratchpad: the first part of a posted store leaves its queue with its bytes written;
STL, an atomic and CTRADD begin once what their release waits for is over, write, and complete, the atomic and CTRADD with the old
value of the eight bytes, which in the scratchpad they read in one cycle and write in the next (04 R81, R82, R84; 06 R112; 16 R336; 05
R108). That STL, AMO and CTRADD begin after their issue, once their release is over (log 10), and that a CTRADD of a poisoned counter
writes the sum and delivers the old value with poison (log 29), are the model's readings. -/
def Obligations.WritesPerformed : Prop :=
  (∀ c sl id (e : Posted) ea n v (s : State), (s.thr c sl).posted? id = some e → e.parts = [(ea, n, v)] → inVault ea.toNat = false →
    (s.thr c sl).mayPerform e (s.now c) = true →
    exec (.postedStorePerformed c sl id) s = .next (((if n < 64 then s.sense c ea.toNat n else s).store c ea.toNat (leBytes v.toNat n) e.tag (e.actor.getD c)).modThr
      c sl (fun t => { t with psq := t.psq.filter (fun (x : Posted) => x.id != e.id) }))) ∧
  (∀ c sl id p ea size v tag sc waits s, DuePend s c sl id p → p.kind = .stl ea size v tag sc waits →
    (p.served = true → exec (.stlCompletion c sl id) s = .next (s.finish c sl p [])) ∧
    (p.served = false → s.waitsOver c sl waits = true → (s.core c).queued (.pend sl p.id [0]) = false →
      (inVault ea.toNat = true →
        exec (.stlCompletion c sl id) s = .next (s.request c sl (.pend sl p.id [0]) ea.toNat size false true tag)) ∧
      (let s1 := s.sense c ea.toNat size
       inVault ea.toNat = false → s1.tagRefusal c ea.toNat tag = none → exec (.stlCompletion c sl id) s =
        .next ((s1.store c ea.toNat (leBytes v.toNat size) tag ((s1.core c).actorIn c sl)).modPend c sl p.id (fun q => { q with
          got := [], served := true, due := s1.now c + 1 }))))) ∧
  (∀ c sl id p op ea x y tag waits s, DuePend s c sl id p → p.kind = .amo op ea x y tag waits →
    (∀ old, p.served = true → p.gotOf 0 = some (old, false) →
      exec (.amoCompletion c sl id) s = .next (s.finish c sl p [Val.of (BitVec.ofNat 64 old)])) ∧
    (∀ old, p.served = true → p.gotOf 0 = some (old, true) → exec (.amoCompletion c sl id) s = .next (s.consumed c sl p)) ∧
    (p.served = false → s.waitsOver c sl waits = true → (s.core c).queued (.pend sl p.id [0]) = false →
      (inVault ea.toNat = true →
        exec (.amoCompletion c sl id) s = .next (s.request c sl (.pend sl p.id [0]) ea.toNat 8 true true tag)) ∧
      (let s1 := s.sense c ea.toNat 8
       inVault ea.toNat = false →
       (let old := (s1.before c).tagged8 c ea.toNat tag
        p.got = [] → exec (.amoCompletion c sl id) s =
          .next (s1.modPend c sl p.id (fun q => { q with got := [(0, old.1.toNat, old.2)], due := s.now c + 1 }))) ∧
       (let old := s1.tagged8 c ea.toNat tag
        p.got ≠ [] → s1.tagRefusal c ea.toNat tag = none → exec (.amoCompletion c sl id) s =
          .next (((match (if old.2 = true then none else op.newHere old.1 x y) with
            | some v => s1.store c ea.toNat (leBytes v.toNat 8) tag ((s1.core c).actorIn c sl)
            | none => s1)).modPend c sl p.id (fun q => { q with
              got := [(0, old.1.toNat, old.2)], served := true, due := s1.now c + 2 })))))) ∧
  (∀ c sl id p ea x tag waits s, DuePend s c sl id p → p.kind = .ctradd ea x tag waits →
    (∀ old po, p.served = true → p.gotOf 0 = some (old, po) →
      exec (.ctraddCompletion c sl id) s = .next (s.finish c sl p [⟨BitVec.ofNat 512 old, po⟩])) ∧
    (p.served = false → s.waitsOver c sl waits = true → (s.core c).queued (.pend sl p.id [0]) = false →
      (inVault ea.toNat = true →
        exec (.ctraddCompletion c sl id) s = .next (s.request c sl (.pend sl p.id [0]) ea.toNat 8 true true tag)) ∧
      (let s1 := s.sense c ea.toNat 8
       inVault ea.toNat = false →
       (let old := (s1.before c).tagged8 c ea.toNat tag
        p.got = [] → exec (.ctraddCompletion c sl id) s =
          .next (s1.modPend c sl p.id (fun q => { q with got := [(0, old.1.toNat, old.2)], due := s.now c + 1 }))) ∧
       (let old := s1.tagged8 c ea.toNat tag
        p.got ≠ [] → s1.tagRefusal c ea.toNat tag = none → exec (.ctraddCompletion c sl id) s =
          .next ((s1.store c ea.toNat (leBytes (old.1 + x).toNat 8) tag ((s1.core c).actorIn c sl)).modPend c sl p.id (fun q => { q with
            got := [(0, old.1.toNat, old.2)], served := true, due := s1.now c + 2 }))))))

/-- CTRWAIT pends with its comparison, completes when the counter reaches its threshold and waits on otherwise; CTRADD pends behind
its release (05 R106-R108). That CTRADD issues and then waits, pending, for what its release names is the model's reading of R108 (log
10). -/
def Obligations.Counters : Prop :=
  (∀ d a b l s s1 x y,
    let f : Form := { fRR d a b with la := some l, takes := true, touch := fun xs => [(arg xs 0, 8)], rd := true }
    let tag := (s1.thr s.curCore s.curSlot).tag
    Opens s f s1 [x, y] → s1.checkAt s.curCore x.w 8 true false = none →
    Pends s f (s1.toBank s.curCore s.curSlot x.w 8 tag) (.ctrwait x.w y.w tag false none)
      (s1.now s.curCore + if inVault x.w.toNat then 6 else 3) (exec (.ctrwait d a b l) s)) ∧
  (∀ d a b l s s1 x y,
    let f : Form := { fRR d a b with la := some l, ends := true, takes := true, gives := true,
                                     touch := fun xs => [(arg xs 0, 8)], rd := true, wr := true }
    let tag := (s1.thr s.curCore s.curSlot).tag
    Opens s f s1 [x, y] → s1.checkAt s.curCore x.w 8 true true = none →
    s1.storeStop s.curCore s.curSlot tag [x.w.toNat] false = none →
    Pends s f s1 (.ctradd x.w y.w tag (s1.releaseIds s.curCore s.curSlot 2)) (s1.now s.curCore) (exec (.ctradd d a b l) s)) ∧
  (∀ c sl id p ea thr tag s, DuePend s c sl id p → p.kind = .ctrwait ea thr tag false none → p.ready ea = true →
    let r := s.valueOf c sl p ea 8 tag
    let v : Word := BitVec.ofNat 64 r.1
    (r.2 = false → thr.toNat ≤ v.toNat → exec (.loadCompletion c sl id) s = .next (s.finish c sl p [Val.of v])) ∧
    (r.2 = false → v.toNat < thr.toNat → exec (.loadCompletion c sl id) s =
      .next (s.modPend c sl p.id (fun (q : Pend) => { q with kind := .ctrwait ea thr tag true none }))) ∧
    (r.2 = true → exec (.loadCompletion c sl id) s = .next (s.consumed c sl p)))

/-- Vector loads and stores of unit stride, of a stride and of an index vector (10 R220-R224). That a vector store without an active
lane takes no entry of the posted-store queue is the model's choice (log 9). -/
def Obligations.VectorMemory : Prop :=
  (∀ d a b l w, let addrs (xs : List Val) := strided w (arg xs 0) (BitVec.ofNat 64 (laneBytes w)) (arg xs 1)
    VectorLoads (.vld d a b l w)
      { maskedForm [.g a] d b with la := some l, takes := true, touch := fun xs => touchLanes w (addrs xs), rd := true }
      w addrs (fun xs => argV xs 2) true) ∧
  (∀ d a b l w, let addrs (xs : List Val) := strided w (arg xs 0) (arg xs 1) 0xFFFF
    VectorLoads (.vlds d a b l w)
      { srcs := [.g a, .g b], dsts := [.v d], la := some l, takes := true, touch := fun xs => touchLanes w (addrs xs), rd := true }
      w addrs (fun _ => 0) false) ∧
  (∀ d a b l w, let addrs (xs : List Val) := indexed w (arg xs 0) (argV xs 1)
    VectorLoads (.vldx d a b l w)
      { srcs := [.g a, .v b], dsts := [.v d], la := some l, takes := true, touch := fun xs => touchLanes w (addrs xs), rd := true }
      w addrs (fun _ => 0) false) ∧
  (∀ a b w m, let addrs (xs : List Val) := strided w (arg xs 0) (BitVec.ofNat 64 (laneBytes w)) (arg xs 2)
    VectorStores (.vst a b w m)
      { srcs := [.g a, .v b, .m m], dsts := [], gives := true, touch := fun xs => touchLanes w (addrs xs), wr := true }
      w (fun xs => argV xs 1) addrs true) ∧
  (∀ r a b w, let addrs (xs : List Val) := strided w (arg xs 0) (arg xs 2) 0xFFFF
    VectorStores (.vsts r a b w)
      { srcs := [.g a, .v b, .g r], dsts := [], gives := true, touch := fun xs => touchLanes w (addrs xs), wr := true }
      w (fun xs => argV xs 1) addrs false) ∧
  (∀ r a b w, let addrs (xs : List Val) := indexed w (arg xs 0) (argV xs 2)
    VectorStores (.vstx r a b w)
      { srcs := [.g a, .v b, .v r], dsts := [], gives := true, touch := fun xs => touchLanes w (addrs xs), wr := true }
      w (fun xs => argV xs 1) addrs false)

/-- ROWACT and ROWPRE enter their bank's queue without a transfer, VQRY samples its bank (04 R85-R87). Rows and refresh: a
row is open 18 cc after its activation began and closed 18 cc after its precharge; the command of an access to the open row begins
with its beat four cycles later, an access to another row precharges the bank 42 cc after its activation, and the beat of a read
reads its bytes, or, where a sector fails its CRC, is made again after the rebuild, 48 cc later; a refresh notices 64 cc ahead, holds its bank for 160 cc, and for 240 more where it repairs a row (04 R67-R74).
Soft errors are held until a read meets them, and a scrub writes a corrected scratchpad word back (04 R77, 06 R113). A ROWACT whose
row is waited for already is not queued: the model's choice (log 85). -/
def Obligations.BankEvents : Prop :=
  (
    (∀ a l s s1 x, let f : Form := { srcs := [.g a], dsts := [], la := some l }
      let row : RowName := ⟨rowOf x.w.toNat, false⟩
      Opens s f s1 [x] →
      (s1.rowCheck s.curCore x.w = none →
        (((s1.core s.curCore).bank (bankOf x.w.toNat)).waitsOn row = true →
          exec (.rowact a l) s = .next (issuedFrom s f s1 ((me s).pc + 4))) ∧
        (((s1.core s.curCore).bank (bankOf x.w.toNat)).waitsOn row = false →
          exec (.rowact a l) s =
            .next (issuedFrom s f (s1.enqueueRow s.curCore s.curSlot .rowact (bankOf x.w.toNat) row) ((me s).pc + 4))) ∧
        exec (.rowpre a l) s =
          .next (issuedFrom s f (s1.enqueueRow s.curCore s.curSlot .rowpre (bankOf x.w.toNat) ⟨0, false⟩) ((me s).pc + 4))) ∧
      (∀ code, s1.rowCheck s.curCore x.w = some code →
        exec (.rowact a l) s = .next (s.trapped s.curCore s.curSlot code x.w x.w) ∧
        exec (.rowpre a l) s = .next (s.trapped s.curCore s.curSlot code x.w x.w))) ∧
    (∀ d a l s s1 x, let f : Form := { fR d a with la := some l, takes := true }
      Opens s f s1 [x] →
      (s1.rowCheck s.curCore x.w = none →
        Pends s f s1 (.vqry (s1.vqryWord s.curCore x.w.toNat)) (s1.now s.curCore + 2) (exec (.vqry d a l) s)) ∧
      (∀ code, s1.rowCheck s.curCore x.w = some code →
        exec (.vqry d a l) s = .next (s.trapped s.curCore s.curSlot code x.w x.w)))) ∧
  (
    ∀ c b s, let x := (s.core c).bank b
      let now := (s.core c).cycle
      let put (y : Bank) : State := s.modCore c (fun k => k.setBank b y)
      (∀ a, x.state = .activating → x.actAt = some a → a + 18 ≤ now →
        exec (.activationComplete c b) s = .next (put { x with state := .opened })) ∧
      (x.state = .precharging → x.preAt + 18 ≤ now →
        exec (.prechargeComplete c b) s = .next (put { x with state := .closed })) ∧
      (∀ row, (s.core c).nextBeat = none → x.opening = some row → x.heldTo ≤ now → x.notice = none →
        x.state = .closed → (∀ a, x.actAt = some a → a + 60 ≤ now) → (s.core c).recentActs < 8 →
          exec (.bankServe c b) s = .next (put { x with
            state := .activating, row := row, actAt := some now, opening := none,
            queue := x.queue.filter (fun (y : BankReq) => !(y.ref == .rowact && y.row == row)) })) ∧
      (∀ r, (s.core c).nextBeat = none → x.opening = none → s.picked c b = some r → r.mat = false → x.heldTo ≤ now →
        (s.core c).occupied b = false → x.notice = none →
        (x.state = .closed → r.ref ≠ .rowpre → (∀ a, x.actAt = some a → a + 60 ≤ now) → (s.core c).recentActs < 8 →
          exec (.bankServe c b) s = .next (put { x with
            state := .activating, row := r.row, actAt := some now,
            queue := x.queue.filter (fun (y : BankReq) => !(y.ref == .rowact && y.row == r.row)) })) ∧
        (∀ sl id lanes, x.state = .opened → r.ref = .pend sl id lanes → r.row = x.row → exec (.bankServe c b) s =
          .next ((put { x with queue := x.queue.erase r }).modCore c (fun k => { k with
            beats := k.beats ++ [{ req := r, bank := b, ready := now + 4, second := false }] }))) ∧
        (∀ a, x.state = .opened → r.ref = .rowpre ∨ r.row ≠ x.row → x.actAt = some a → a + 42 ≤ now → x.lastBeat < now →
          (∀ e ∈ (s.core c).beats, e.bank ≠ b) → exec (.bankServe c b) s =
            .next (put { x with
              state := .precharging, preAt := now, row := ⟨0, false⟩,
              queue := if r.ref = .rowpre ∨ r.ref = .rowact then x.queue.erase r else x.queue,
              opening := if r.ref = .rowact then some r.row else none }))) ∧
      (∀ e, (s.core c).nextBeat = some e → e.bank = b →
        let s1 := s.takeBeat c e
        exec (.bankServe c b) s = .next ((s1.bankCommand c b).getD s1)) ∧
      (∀ e sl id lanes p, e.req.ref = .pend sl id lanes → e.req.rd = true → e.req.wr = false → e.req.mat = false → e.second = false →
        let s1 := (s.modCore c (fun k => { k.setBank e.bank { k.bank e.bank with lastBeat := k.cycle } with
          bus := k.cycle + 1, beats := k.beats.erase e })).senseAt c e.req false ((s.core c).actorIn c sl)
        ((s.readsAt c e.req false).any (fun (x : Nat × Nat) => s.mustRebuild c x.1 x.2) = false → s1.pend? c sl id = some p →
          s.takeBeat c e = s1.readLanes c sl p lanes 2) ∧
        ((s.readsAt c e.req false).any (fun (x : Nat × Nat) => s.mustRebuild c x.1 x.2) = true → s.takeBeat c e =
          s1.modCore c (fun k => { k.setBank e.bank { k.bank e.bank with heldTo := k.cycle + 48 } with
            beats := k.beats ++ [{ e with ready := k.cycle + 48, again := true }] }))) ∧
      (∀ t, t = nextStart c b (s.core c).therm (max s.rtime (s.core c).schedFrom) → x.notice = none → x.busy = false →
        (s.core c).ccUntil s.rtime t ≤ 64 → x.marked = [] →
        exec (.refreshNotice c b) s = .next (put { x with notice := some t, repair := false })) ∧
      (∀ t, x.notice = some t → x.busy = false → (s.core c).ccUntil s.rtime t = 0 →
        exec (.refreshStart c b) s = .next (s.modCore c (fun k => { k.setBank b { x with
          state := .refreshing, row := ⟨0, false⟩, notice := none, heldTo := k.cycle + 160,
          queue := (k.beats.filter (fun (e : Beat) => e.bank == b)).foldl (fun q (e : Beat) => insertReq q e.req) x.queue } with
          beats := k.beats.filter (fun (e : Beat) => e.bank != b) }))) ∧
      (x.heldTo ≤ now →
        (x.state = .refreshing → x.repair = false → exec (.refreshEnd c b) s = .next (put { x with state := .closed })) ∧
        (x.state = .refreshing → x.repair = true → exec (.refreshEnd c b) s =
          .next (s.modCore c (fun k => k.setBank b { x with state := .repairing, heldTo := k.cycle + 240 }))) ∧
        (x.state = .repairing → exec (.refreshEnd c b) s = .next (s.modCore c (fun k => { k.setBank b { x with
          state := .closed, repair := false, marked := x.marked.tail, spares := x.spares - 1 } with
          rpcnt := Nat.min 255 (k.rpcnt + 1) }))))) ∧
  (
    (∀ addr flip parity s, addr < 1040 * Config.homeSpan → ∃ t, exec (.softError addr flip parity) s = .next t ∧
      t.soft = s.soft ++ [⟨addr / 64, flip, parity, false⟩] ∧ t.mem = s.mem ∧ t.cores = s.cores) ∧
    (∀ c addr s, ∃ t, exec (.scratchScrub c addr) s = .next t ∧ t.mem = s.mem ∧ t.cores = s.cores ∧
      ∀ e, e ∈ t.soft ↔ e ∈ s.soft ∧ ¬(e.unit = unit c addr ∧ e.parity = 0 ∧ e.seen = true ∧ inScratch addr = true)))

/-- CSRRD reads a CSR; CSRWR, CSRSET and CSRCLR return the old value and write the new one under the field map (09
R199-R201). Only fcsr, its views fflags and frm, and fmtd take a CSR write, in their writable fields (08 R161, R173; 09
R201). -/
def Obligations.CsrAccess : Prop :=
  (
    (∀ d n s s1, let f : Form := { srcs := [], dsts := [.g d], takes := csrOutside n.toNat }
      Opens s f s1 [] → Results s f s1 [(.g d, Val.of (s1.csr s.curCore s.curSlot n.toNat))] (exec (.csrrd d n) s)) ∧
    CsrWrites .csrwr (fun _ x => x) ∧ CsrWrites .csrset (fun old x => old ||| x) ∧ CsrWrites .csrclr (fun old x => old &&& ~~~x)) ∧
  (
    ∀ (t : Thread) n v, let u := t.writeCsr n v
      u = { t with fcsr := u.fcsr, fmtd := u.fmtd } ∧
      (n ≠ 1 → n ≠ 4 → n ≠ 5 → u.fcsr = t.fcsr) ∧ (n ≠ 2 → u.fmtd = t.fmtd) ∧
      (n = 2 → u.fmtd = v) ∧
      (n = 1 → ∀ j, j < 64 → u.fcsr.getLsbD j = (v.getLsbD j && (j ≤ 7 && j != 5))) ∧
      (n = 4 → ∀ j, j < 8 → j ≠ 5 → u.fcsr.getLsbD j = if j ≤ 4 then v.getLsbD j else t.fcsr.getLsbD j) ∧
      (n = 5 → ∀ j, j < 8 → j ≠ 5 → u.fcsr.getLsbD j = if 6 ≤ j then v.getLsbD (j - 6) else t.fcsr.getLsbD j))

/-- FENCE issues once every earlier write is performed at its scope and the thread has no pending instruction, and changes
nothing else; an acquire fence issues at once (16 R332, R333). TRAP takes SOFT_TRAP with the low byte of g[a] as detail and
g[a] as tinfo, its thread to resume behind it; TRET ends a handler; IDEM opens a region; EBRK completes, and stops its thread
where a comparator is armed or the debug block asks for it (18 R378-R382). -/
def Obligations.SystemInstructions : Prop :=
  (
    let f : Form := { srcs := [], dsts := [], ordering := true, fence := true }
    (∀ b s s1, Opens s f s1 [] →
      (s1.writesDone s.curCore s.curSlot b.toNat = true → exec (.fence b) s = .next (issuedFrom s f s1 ((me s).pc + 4))) ∧
      (s1.writesDone s.curCore s.curSlot b.toNat = false → exec (.fence b) s = .next (s.parked s.curCore s.curSlot .stall))) ∧
    (∀ b s s1, Opens s f s1 [] → exec (.fenceAcq b) s = .next (issuedFrom s f s1 ((me s).pc + 4)))) ∧
  (
    (∀ a s s1 x, let f : Form := { srcs := [.g a], dsts := [], ordering := true, slots := 0x8FFF }
      Opens s f s1 [x] → exec (.trap a) s =
        .next (s.trappedAt s.curCore s.curSlot (det cSoftTrap x.w.toNat) x.w 0 ((me s).pc + 4))) ∧
    (∀ s s1, let f : Form := { srcs := [], dsts := [], ordering := true, slots := 0x8FFF }
      let t := s1.thr s.curCore s.curSlot
      Opens s f s1 [] →
      (t.handler = true → exec .tret s = .next (issuedFrom s f (s1.trapReturn s.curCore s.curSlot) t.returnPc)) ∧
      (t.handler = false → exec .tret s = .next (s.trapped s.curCore s.curSlot (det cIllegalInstruction 8) 0 0)) ∧
      (t.handler = false → exec .idem s = .next (issuedFrom s f (s1.modThr s.curCore s.curSlot (fun t => { t with
        iep := (t.iep &&& 0x400000000#64) ||| 0x100000000#64 ||| ((t.pc + 4) &&& 0xFFFFFFFF#64) })) ((me s).pc + 4))) ∧
      (t.handler = true → exec .idem s = .next (s.trapped s.curCore s.curSlot (det cIllegalInstruction 8) 0 0))) ∧
    (∀ s s1, let f : Form := { srcs := [], dsts := [], ordering := true, slots := 0xAFFF }
      let d := (s1.core s.curCore).dbg
      let stops := (d.armed || d.dbgctl.getLsbD 0) && s.curSlot != 13 && !s1.isTrailing s.curCore s.curSlot
      Opens s f s1 [] → exec .ebrk s = .next (issuedFrom s f (if stops = true
        then s1.modThr s.curCore s.curSlot (fun t => { t with ebrk := true }) else s1) ((me s).pc + 4))))

/-- The barrier instructions (17 R366-R369): an arrival counts after its release and returns the generation it arrived in, a wait
pends on the generation, bytes are added, and a query reads the status word or the byte count. A core's report counts at the origin
core, the last one sends a release to every core of the ridge, and a release completes the generation of its core (17 R366). That an
arrival and a change of bytes count in the issue cycle is the model's reading of R368 (log 24). -/
def Obligations.Barriers : Prop :=
  (
    (∀ (d a b : BitVec 6) (l : BitVec 4) s s1 x,
      let f : Form := { fR d a with la := some l, ordering := true, ends := true, takes := true, gives := true,
                                    slots := if b = 0 then 0x8FFF else 0x0FFF }
      let k := (s1.core s.curCore).barrier x.w.toNat
      let form := if b = 0 then 1 else if b = 2 then 2 else 3
      Opens s f s1 [x] → s1.barrierCheck s.curCore x.w = none →
      (k.form = 0 ∨ k.form = form → s1.releaseReady s.curCore s.curSlot (if b.toNat < 4 then 2 else 4) = true →
        Pends s f (s1.arrive s.curCore x.w.toNat form) (.bar (k.gen.setWidth 64)) (s1.now s.curCore + 2) (exec (.bararr d a b l) s)) ∧
      (k.form ≠ 0 → k.form ≠ form →
        exec (.bararr d a b l) s = .next (s.trapped s.curCore s.curSlot (det cBarrierForm 1) 0 0))) ∧
    (∀ a b l s s1 x y,
      let f : Form := { srcs := [.g a, .g b], dsts := [], la := some l, takes := true, slots := 0x9FFF }
      Opens s f s1 [x, y] → s1.barrierCheck s.curCore x.w = none →
      Pends s f s1 (.barwait x.w.toNat y.w) (s1.now s.curCore) (exec (.barwait a b l) s)) ∧
    (∀ a b l s s1 x y,
      let f : Form := { srcs := [.g a, .g b], dsts := [], la := some l, gives := true, slots := 0x9FFF }
      Opens s f s1 [x, y] → s1.barrierCheck s.curCore x.w = none →
      Pends s f (s1.addBytes s.curCore x.w.toNat y.w) (.bar 0) (s1.now s.curCore + 2) (exec (.barbytes a b l) s)) ∧
    (∀ d a b l s s1 x y,
      let f : Form := { fRR d a b with la := some l, takes := true, slots := 0x9FFF }
      let k := (s1.core s.curCore).barrier x.w.toNat
      Opens s f s1 [x, y] → s1.barrierCheck s.curCore x.w = none →
      (y.w = 0 → Pends s f s1 (.bar k.word) (s1.now s.curCore + 2) (exec (.barqry d a b l) s)) ∧
      (y.w = 1 → Pends s f s1 (.bar k.pending) (s1.now s.curCore + 2) (exec (.barqry d a b l) s)) ∧
      (2 ≤ y.w.toNat → exec (.barqry d a b l) s = .next (s.trapped s.curCore s.curSlot (det cBarrierForm 2) 0 0))) ∧
    (∀ c sl id p w s, DuePend s c sl id p → p.kind = .bar w →
      exec (.barrierInstructionCompletion c sl id) s = .next (s.finish c sl p [Val.of w])) ∧
    (∀ c sl id p n w s, DuePend s c sl id p → p.kind = .barwait n w →
      (((s.core c).barrier n).gen ≠ w.setWidth 32 → exec (.barrierInstructionCompletion c sl id) s = .next (s.finish c sl p [])) ∧
      (((s.core c).barrier n).gen = w.setWidth 32 → exec (.barrierInstructionCompletion c sl id) s = .next s))) ∧
  (
    (∀ id m n s, s.arrived? id = some m → m.kind = .barReport n →
      let s1 := (s.dropMsg id).traceIn m.home m
      let b := (s1.core m.home).barrier n
      let cores := match s1.ridge? m.home with | some r => r.cores | none => [m.home]
      (b.reports + 1 < cores.length →
        exec (.barrierReport id) s = .next (s1.setBarrier m.home n { b with reports := b.reports + 1 })) ∧
      (cores.length ≤ b.reports + 1 → exec (.barrierReport id) s = .next (cores.foldl
        (fun (s : State) (c : Nat) => s.send (.barRelease n) m.home 12 0 c 0 0 0) (s1.setBarrier m.home n { b with reports := 0 })))) ∧
    (∀ id m n s, s.arrived? id = some m → m.kind = .barRelease n →
      let s1 := (s.dropMsg id).traceIn m.home m
      exec (.barrierRelease id) s =
        .next ((s1.setBarrier m.home n ((s1.core m.home).barrier n).next).settle m.home n)) ∧
    (∀ b : Barrier, b.next.gen = b.gen + 1 ∧ b.next.arrived = b.carryArr ∧ b.next.pending = b.pending + b.carryBytes ∧
      b.next.carryArr = 0 ∧ b.next.carryBytes = 0 ∧ b.next.reported = false))

/-- The remote operations (14 R277-R283, R288): after their checks each sends one message to the home of its global address and pends until
the reply. MRECV takes the message its selector picks, MPROBE tells what it would take, and AMRET answers a user handler's sender (14
R286, R289, R290). That MPROBE faults REMOTE_FORM 0x05 for a selector of 16 or more is the model's reading of R290 (log 55). That an RGET
or RATOM to the host parks while its queue pair has 16 requests outstanding is its reading of 20 R416 (log 110). -/
def Obligations.RemoteInstructions : Prop :=
  (
    (∀ i dst a l n sg, (∃ d sz, i = .rget d a l sz ∧ dst = .g d ∧ n = 2 ^ sz.toNat ∧ sg = false) ∨
        (∃ d sz, i = .rgetS d a l sz ∧ dst = .g d ∧ n = 2 ^ (sz - 1).toNat ∧ sg = true) ∨
        (∃ d, i = .rgetV d a l ∧ dst = .v d ∧ n = 64 ∧ sg = false) →
      ∀ s s1 x,
      let f : Form := { srcs := [.g a], dsts := [dst], la := some l, takes := true, slots := 0x9FFF, inHandler := false }
      Opens s f s1 [x] →
      (s1.accessCheck s.curCore x.w n = none →
        (s1.hostFull s.curCore x.w = false →
          Pends s f (s1.sendTo (.rget n) s.curCore s.curSlot x.w) (.remote n sg) (s1.now s.curCore) (exec i s)) ∧
        (s1.hostFull s.curCore x.w = true → exec i s = .next (s.parked s.curCore s.curSlot .message))) ∧
      (∀ code, s1.accessCheck s.curCore x.w n = some code →
        exec i s = .next (s.trapped s.curCore s.curSlot code x.w x.w))) ∧
    (∀ i src a l n, (∃ b sz, i = .rput a b l sz ∧ src = .g b ∧ n = 2 ^ sz.toNat) ∨ (∃ b, i = .rputV a b l ∧ src = .v b ∧ n = 64) →
      ∀ s s1 x y,
      let f : Form := { srcs := [.g a, src], dsts := [], la := some l, gives := true, slots := 0x9FFF, inHandler := false }
      Opens s f s1 [x, y] →
      (s1.accessCheck s.curCore x.w n = none →
        Pends s f (s1.sendTo (.rput n y.x false) s.curCore s.curSlot x.w) (.remote 0 false) (s1.now s.curCore) (exec i s)) ∧
      (∀ code, s1.accessCheck s.curCore x.w n = some code →
        exec i s = .next (s.trapped s.curCore s.curSlot code x.w x.w))) ∧
    (∀ d a b l o s s1 xs,
      let f : Form := { srcs := if atomOf o == .cas then [.g a, .g b, .g (b + 1)] else [.g a, .g b], dsts := [.g d],
                        la := some l, ends := true, takes := true, gives := true, slots := 0x9FFF, inHandler := false }
      Opens s f s1 xs → s1.accessCheck s.curCore (arg xs 0) 8 = none →
      (gaDev (arg xs 0) ≠ 2047 ∨ atomOf o = .add ∨ atomOf o = .cas →
        (s1.hostFull s.curCore (arg xs 0) = false →
          Pends s f (s1.sendTo (.ratom (atomOf o) (arg xs 1) (arg xs 2)) s.curCore s.curSlot (arg xs 0)) .ratom
            (s1.now s.curCore) (exec (.ratom d a b l o) s)) ∧
        (s1.hostFull s.curCore (arg xs 0) = true → exec (.ratom d a b l o) s = .next (s.parked s.curCore s.curSlot .message))) ∧
      (gaDev (arg xs 0) = 2047 → atomOf o ≠ .add → atomOf o ≠ .cas →
        exec (.ratom d a b l o) s = .next (s.trapped s.curCore s.curSlot (det cRemoteTarget 3) (arg xs 0) (arg xs 0)))) ∧
    (∀ d a b l s s1 x y z,
      let f : Form := { srcs := [.g a, .g b, .g (b + 1)], dsts := [.g d], la := some l, ends := true, takes := true,
                        gives := true, slots := 0x9FFF, inHandler := false }
      Opens s f s1 [x, y, z] → s1.sendCheck s.curCore x.w = none → z.w.toNat < 256 →
      s1.releaseReady s.curCore s.curSlot (s1.scopeTo s.curCore x.w) = true →
      Pends s f (s1.sendTo (.amsend z.w.toNat y.w) s.curCore s.curSlot x.w) (.send false (gaHome x.w) 0) (s1.now s.curCore)
        (exec (.amsend d a b l) s)) ∧
    (∀ d a b l p s s1 x y z,
      let f : Form := { srcs := [.g a, .g b, .g d], dsts := [], la := some l, ends := true, gives := true, slots := 0x9FFF,
                        inHandler := false }
      let kind : PKind := .send true (s1.coreKey x.w) p.toNat
      Opens s f s1 [x, y, z] → s1.sendCheck s.curCore x.w = none → gaOff x.w = 0 →
      (s1.thr s.curCore s.curSlot).pend.any (fun (q : Pend) => q.kind == kind) = false →
      s1.releaseReady s.curCore s.curSlot (s1.scopeTo s.curCore x.w) = true →
      Pends s f (s1.sendTo (.msend p.toNat y.w z.w) s.curCore s.curSlot x.w) kind (s1.now s.curCore) (exec (.msend d a b l p) s))) ∧
  (
    (∀ d a l s s1 x q m rest,
      let f : Form := { srcs := [.g a], dsts := [.g d, .g (d + 1), .g (d + 2)], la := some l, ends := true, takes := true,
                        slots := 0x9FFF, inHandler := false }
      Opens s f s1 [x] → x.w.toNat < 16 → (s1.core s.curCore).mailPick x.w = some q → (s1.core s.curCore).mailQ q = m :: rest →
      Pends s f (s1.modCore s.curCore (fun k => k.mailTake q)) (.mrecv m.w0 m.w1 m.sender) (s1.now s.curCore + 2)
        (exec (.mrecv d a l) s)) ∧
    (∀ c sl id p x y z s, DuePend s c sl id p → p.kind = .mrecv x y z →
      exec (.mrecvCompletion c sl id) s = .next (s.finish c sl p [Val.of x, Val.of y, Val.of z])) ∧
    (∀ d a s s1 x, let f : Form := { fR d a with takes := true }
      Opens s f s1 [x] →
      (x.w.toNat < 16 → Results s f s1 [(.g d, Val.of ((s1.core s.curCore).mprobeWord x.w))] (exec (.mprobe d a) s)) ∧
      (16 ≤ x.w.toNat → exec (.mprobe d a) s = .next (s.trapped s.curCore s.curSlot (det cRemoteForm 5) 0 0))) ∧
    (∀ a s s1 x v m, let f : Form := { srcs := [.g a], dsts := [], ordering := true, slots := 0x2000 }
      Opens s f s1 [x] → (s1.thr s.curCore s.curSlot).invocation = some v →
      (s1.core s.curCore).inbuf.find? (fun (m : Msg) => m.id == v.msg) = some m →
      s1.releaseReady s.curCore s.curSlot (s1.scopeOfMsg s.curCore m) = true →
      exec (.amret a) s = .next (issuedFrom s f
        ((s1.setThr s.curCore 13 Thread.reset).answer s.curCore m (x.w.setWidth 512) false) ((me s).pc + 4))))

/-- A reply completes its pending instruction: an RGET is extended from its size and full in the cycle after its answer was accepted,
an atomic hands over the old value, a late fault is reported with its address; the host answers with values the spec does not give (14
R277-R282; 20 R418). Messages are accepted at their home, refused by a pre-empted instance, sent again 64 router cycles after the
refusal has come back, and deposited in mailboxes (14 R275, R276, R287, R288); the claim of a SPAWN wins a dormant member, and its
set-up brings the child's state with its first flit and starts the member with its last (07 R157; log 86). That a message behind a
refused one of the same thread is refused with it is the model's choice (log 50); the host's answers are free values (log 3). -/
def Obligations.RemoteMessages : Prop :=
  (
    ∀ id m s, s.arrived? id = some m →
      (∀ val poison p, m.kind = .reply val poison none → m.slot ≠ 14 → m.slot < 17 → m.dev = 0 →
        s.pend? m.core m.slot m.pend = some p →
        (p.served = false →
          let s1 := (s.takeAnswer m).recordBad m
          (∀ sg, p.dst = [] → p.kind = .remote 0 sg → exec (.remoteCompletion id) s = .next (s1.finish m.core m.slot p [])) ∧
          (p.kind = .ratom → poison = true → exec (.remoteCompletion id) s = .next (s1.consumed m.core m.slot p)) ∧
          (p.dst ≠ [] → p.kind ≠ .ratom ∨ poison = false → exec (.remoteCompletion id) s =
            .next { s1.modPend m.core m.slot p.id (fun q => { q with served := true, due := s1.now m.core + 1 }) with msgs := s.msgs })) ∧
        (p.served = true → p.due ≤ s.now m.core →
          let s1 := s.dropMsg id
          (∀ n sg, p.kind = .remote n sg → n ≠ 0 → exec (.remoteCompletion id) s =
            .next (s1.finish m.core m.slot p [⟨rgetValue val n sg, poison⟩])) ∧
          (p.kind = .ratom → poison = false → exec (.remoteCompletion id) s = .next (s1.finish m.core m.slot p [⟨val, false⟩])) ∧
          (∀ b t pr, p.kind = .send b t pr → exec (.remoteCompletion id) s =
            .next (s1.finish m.core m.slot p [⟨val, poison⟩])))) ∧
      (∀ val poison code p, m.kind = .reply val poison (some code) → m.slot ≠ 14 → m.slot < 17 → m.dev = 0 →
        let s1 := s.takeAnswer m
        s.pend? m.core m.slot m.pend = some p → p.served = false →
        exec (.remoteCompletion id) s = .next ((s1.lateFault m.core m.slot p code (val.setWidth 64) m.va).asFar s1 m)) ∧
      ((∀ v po fl, m.kind ≠ .reply v po fl) → s.offDevice m = true → gaDev m.va = 2047 → m.slot ≠ 14 →
        let s1 := s.dropMsg id
        let s2 := { s1 with fresh := s1.fresh + 1 }
        (s.hostUp m = true → Config.hostNak s1.fresh = false →
          exec (.remoteCompletion id) s = .next (s2.outside.2.reply m s2.outside.1 false none)) ∧
        (s.hostUp m = false ∨ Config.hostNak s1.fresh = true → exec (.remoteCompletion id) s =
          .next (s2.reply m (m.va.setWidth 512) false (some (det cLeaseMiss 0xA)))))) ∧
  (
    ∀ id m s, s.arrived? id = some m →
      (m.refused = true →
        let put (x : Msg) : State := { s with msgs := replaceFirst (fun (y : Msg) => y.id == id) (fun _ => x) s.msgs }
        (m.retry = 1 → exec (.messageRetry id) s = .next (put { m with retry := 2, due := { num := s.rtime + 64, den := 1 } })) ∧
        (m.retry ≠ 1 → exec (.messageRetry id) s = .next (put { m with
          refused := false, retry := 3, due := s.routed m.core (s.exitCore m.asid m.home m.va) }))) ∧
      (m.refused = false → (s.landsAt m).isSome = true →
        (m.kind.forAgent = true → s.inOrder m = true →
          (s.preempted m = true ∨ s.behindRefused m = true → exec (.messageAccept id) s = .next (s.refuse m)) ∧
          (s.preempted m = false → s.behindRefused m = false → (s.core m.home).inbuf.length < 32 →
            exec (.messageAccept id) s = .next (({ s.dropMsg m.id with behind := s.behind.erase m.heldOp }.traceIn m.home m).modCore
              m.home (fun k => { k with
              inbuf := k.inbuf ++ [m]
              agentFree := if k.inbuf.isEmpty then max k.agentFree (k.cycle + 1) else k.agentFree })))) ∧
        (let taken := (s.dropMsg m.id).traceIn m.home m
         (∀ member, m.kind = .claim member →
           (taken.spawnFree m.home member = true →
             exec (.messageAccept id) s = .next ((taken.claim m.home member).sendBack m (.claimed true))) ∧
           (taken.spawnFree m.home member = false → exec (.messageAccept id) s = .next (taken.sendBack m (.claimed false)))) ∧
         (∀ won, m.kind = .claimed won →
           (won = false ∨ (s.thr m.core m.slot).claiming = some (m.off, m.pend, 0) → exec (.messageAccept id) s =
             .next ((s.takeAnswer m).modThr m.core m.slot (fun t => { t with claiming := t.claiming.map (fun (x : Nat × Nat × Nat) =>
               if x.1 = m.off ∧ x.2.2 = 0 then (x.1, x.2.1, if won then 1 else 2) else x) }))) ∧
           (won = true → (s.thr m.core m.slot).claiming ≠ some (m.off, m.pend, 0) →
             exec (.messageAccept id) s = .next ((s.takeAnswer m).unhold m.off m.pend))) ∧
         (∀ member child,
           (m.kind = .spawn member child true → exec (.messageAccept id) s = .next
             ((taken.startMembers m.home (taken.spawnSlots m.home member) 0).reply m 0 false none)) ∧
           (m.kind = .spawn member child false →
             let last : Msg := { m with kind := .spawn member child true, due := { m.due with num := m.due.num + child.moreFlits * m.due.den } }
             let s1 := s.setUp m.home member child
             exec (.messageAccept id) s =
               .next { s1 with msgs := replaceFirst (fun (x : Msg) => x.id == m.id) (fun _ => last) s1.msgs }))) ∧
        (∀ p x y r, m.kind = .msend p x y → s.preempted m = false → s.ridge? m.home = some r → r.asid = m.asid →
          (((s.core m.home).mailQ p).length < 16 →
            exec (.mailboxDeposit id) s = .next ((((s.dropMsg id).traceIn m.home m).modCore m.home (fun k => { k with
              mail := k.mail.setIfInBounds p (k.mailQ p ++ [⟨x, y, s.senderWord m p, (s.core m.home).cycle + 5⟩]) })).reply
                m 0 false none 4)) ∧
          (16 ≤ ((s.core m.home).mailQ p).length → exec (.mailboxDeposit id) s = .next (s.refuse m)))))

/-- The vault agent asks for its bank in the cycle after a message's turn came, performs a remote read, write or atomic at the beat it gets,
and answers; a message that a check refuses is answered with its fault, and one whose line has gone on to another home follows it (14
R275, R278, R281, R282, R292). A user handler starts in slot 13 with the offset in g1, the word sent in g2 and the sender in g3, at the
entry its index names; an index without an entry answers REMOTE_TARGET (14 R284). That the low two bits of an entry are not part of the PC
is the model's choice (log 87). That a handler acts for the party whose AMSEND it runs is its reading of 19 R409 (log 41). -/
def Obligations.AgentOperations : Prop :=
  (
    ∀ c m s, s.agentMsg? c = some m →
      let tag : BitVec 16 := if s.sameDomain m c then m.tag else 0
      (s.forwardTo m = none → s.behindRefused m = false →
        (∀ n h off, m.kind = .rget n → s.hasBeat c .agent = true → s.homeAt m n true false = .ok h off →
          let r := s.readTagged c off n tag
          exec (.homeRget c) s = .next (s.answer c m r.1 r.2)) ∧
        (∀ n data po h off, m.kind = .rput n data po → s.hasBeat c .agent = true → s.homeAt m n false true = .ok h off →
          exec (.homeRput c) s = .next ((s.store c off (vecBytes data n) tag m.actor).answer c m 0 false)) ∧
        (∀ op x y h off, m.kind = .ratom op x y → s.hasBeat c .agent = true → s.homeAt m 8 true true = .ok h off →
          let old := s.tagged8 c off tag
          (∀ v, old.2 = false → op.new old.1 x y = some v → exec (.homeRatom c) s =
            .next ((s.store c off (leBytes v.toNat 8) tag m.actor).answer c m (old.1.setWidth 512) false)) ∧
          (old.2 = true ∨ op.new old.1 x y = none → exec (.homeRatom c) s = .next (s.answer c m (old.1.setWidth 512) old.2))) ∧
        (s.hasBeat c .agent = false → (s.core c).halfDone .agent = false →
          (∀ off t, (s.core c).agentFree < s.now c → (s.core c).queued .agent = false →
            (∀ n, m.kind = .rget n → s.atHome m n true false = .ok off t → s.ownStore c m off n = false →
              exec (.homeRget c) s = .next (s.request c 13 .agent off n true false t)) ∧
            (∀ n data po, m.kind = .rput n data po → s.atHome m n false true = .ok off t → s.ownStore c m off n = false →
              exec (.homeRput c) s = .next (s.request c 13 .agent off n false true t)) ∧
            (∀ op x y, m.kind = .ratom op x y → s.atHome m 8 true true = .ok off t → s.ownStore c m off 8 = false →
              exec (.homeRatom c) s = .next (s.request c 13 .agent off 8 true true t))) ∧
          (∀ n code info, m.kind = .rget n → s.atHome m n true false = .fault code info →
            exec (.homeRget c) s = .next (s.answerFault c m code info)) ∧
          (∀ n data po code info, m.kind = .rput n data po → s.atHome m n false true = .fault code info →
            exec (.homeRput c) s = .next (s.answerFault c m code info)) ∧
          (∀ op x y code info, m.kind = .ratom op x y → s.atHome m 8 true true = .fault code info →
            exec (.homeRatom c) s = .next (s.answerFault c m code info)))) ∧
      (∀ n h, m.kind = .rget n → s.forwardTo m = some h → exec (.homeRget c) s = .next ((s.agentDone c).forward m h))) ∧
  (
    ∀ c m index x h off r s, s.agentMsg? c = some m → m.kind = .amsend index x → (s.thr c 13).pend = [] →
      s.behindRefused m = false →
      s.translate m.asid m.virt m.off 1 false false = .ok h off → s.ridge? c = some r → r.asid = m.asid →
      (∀ entry, (r.header.amTable[index]?).getD none = some entry →
        exec (.handlerStart c) s = .next (s.modThr c 13 (s.handlerThread c m off entry x)) ∧
        ∀ u : Thread, let t := s.handlerThread c m off entry x u
          t.life = .live ∧ t.pc = BitVec.ofNat 64 (entry / 4 * 4) ∧ t.ctx = (if r.header.tagged = true then m.tag else 0) ∧
          t.invocation = some ⟨m.id, 0, !s.sameDomain m c, some (s.partyOf m)⟩ ∧ t.psq = u.psq ∧ t.fcsr = 0 ∧
          t.g[1]? = some ⟨BitVec.ofNat 64 off, .full, false⟩ ∧ t.g[2]? = some ⟨x, .full, false⟩ ∧
          t.g[3]? = some ⟨s.senderWord m 0, .full, false⟩ ∧ (∀ j, 4 ≤ j → j < 48 → t.g[j]? = some ⟨0, .full, false⟩)) ∧
      ((r.header.amTable[index]?).getD none = none →
        exec (.handlerStart c) s = .next (s.answerFault c m (det cRemoteTarget 2) m.va)))

/-- CTXALLOC, CTXSEAL, CTXRET and CTXMRG send their messages and pend; CTXSET changes the thread's tag (15 R300-R304, R308).
LDX reads a line as its tag has sealed it: at the core itself as a local read, at another home by a message, outside its
ridge a late CTX_FORM fault; a local one completes with the sealed cell's bytes, the base's, or the state code (15
R305-R307). -/
def Obligations.TagInstructions : Prop :=
  (
    (∀ d l s s1,
      let f : Form := { srcs := [], dsts := [.g d], la := some l, ends := true, takes := true, gives := true, slots := 0x8FFF }
      Opens s f s1 [] →
      (s1.tagged s.curCore = true → s1.poolOf s.curCore ≠ 0 → Pends s f
        (s1.sendFor .ctxalloc s.curCore s.curSlot (s1.originOf s.curCore) 0 0 0) .ctxalloc (s1.now s.curCore)
        (exec (.ctxalloc d l) s)) ∧
      (s1.tagged s.curCore = false → exec (.ctxalloc d l) s =
        .next (s.trapped s.curCore s.curSlot (det cCtxForm 1) (tagInfo 0 s.curCore 0) 0))) ∧
    (∀ a b l s s1 x,
      let f : Form := { srcs := [.g a], dsts := [], la := some l, ordering := true, ends := true, gives := true, takes := true,
                        slots := 0x8FFF }
      let tag : BitVec 16 := x.w.setWidth 16
      let seals (homes : List Nat) := s1.sendAll (.seal tag) s.curCore s.curSlot (s1.fresh + homes.length) tag homes
      Opens s f s1 [x] →
      (2 ≤ b.toNat → b.toNat < 5 → s1.tagCheck3 s.curCore x.w false = none → s1.writesDone s.curCore s.curSlot b.toNat = true →
        let homes := s1.sealHomes s.curCore b.toNat
        Pends s f (seals homes) (.ctxop tag homes.length 0) (s1.now s.curCore) (exec (.ctxseal a b l) s)) ∧
      (s1.tagCheck3 s.curCore x.w false = none → s1.writesDone s.curCore s.curSlot 4 = true →
        Pends s f (s1.sendFor (.ctxretire tag false) s.curCore s.curSlot (s1.originOf s.curCore) 0 0 tag) (.ctxop tag 1 0)
          (s1.now s.curCore) (exec (.ctxret a l) s) ∧
        (let homes := s1.ridgeCores s.curCore;
         Pends s f (seals homes) (.ctxop tag homes.length 1) (s1.now s.curCore) (exec (.ctxmrg a l) s))) ∧
      (∀ code, s1.tagCheck3 s.curCore x.w false = some code → exec (.ctxret a l) s =
        .next (s.trapped s.curCore s.curSlot code (tagInfo tag s.curCore 0) 0))) ∧
    (∀ a s s1 x, let f : Form := { srcs := [.g a], dsts := [], ordering := true, slots := 0x8FFF }
      Opens s f s1 [x] → s1.tagged s.curCore = true → x.w.toNat < 65536 → x.w.toNat ≤ s1.poolOf s.curCore →
      exec (.ctxset a) s = .next (issuedFrom s f
        (s1.modThr s.curCore s.curSlot (fun t => { t with ctx := x.w.setWidth 16 })) ((me s).pc + 4)))) ∧
  (
    (∀ i form d a b l, (i = .ldxNow d a b l ∧ form = 0) ∨ (i = .ldxWait d a b l ∧ form = 1) ∨ (i = .ldxProbe d a b l ∧ form = 2) →
      ∀ s s1 x y,
      let f : Form := { fRR d a b with la := some l, takes := true, gives := true, slots := 0xAFFF,
                                       touch := fun xs => if isGlobal (arg xs 0) then [] else [(arg xs 0, 8)], rd := true }
      let tag : BitVec 16 := y.w.setWidth 16
      Opens s f s1 [x, y] → s1.tagged s.curCore = true → s1.badTag s.curCore y.w true = false →
      (isGlobal x.w = false → s1.checkAt s.curCore x.w 8 true false = none →
        (s1.ldxWaiting s.curCore form tag = false →
          Pends s f (s1.toBank s.curCore s.curSlot x.w 8 (s1.ldxTag s.curCore x.w.toNat tag)) (.ldx (if form = 1 then 3 else form) x.w tag)
            (s1.now s.curCore + if inVault x.w.toNat then 6 else 3) (exec i s)) ∧
        (s1.ldxWaiting s.curCore form tag = true → Pends s f s1 (.ldx form x.w tag) (s1.now s.curCore) (exec i s))) ∧
      (isGlobal x.w = true → s1.badHome (s1.asidOf s.curCore) x.w 8 = none → x.w.toNat % 8 = 0 → gaHome x.w < 1024 →
        (s1.thisDev x.w = true → (s1.ridgeCores s.curCore).contains (gaHome x.w) = true →
          Pends s f (s1.sendFor (.ldx form tag) s.curCore s.curSlot (gaHome x.w) (gaOff x.w) x.w tag) (.ldxRemote form x.w tag)
            (s1.now s.curCore) (exec i s)) ∧
        (s1.thisDev x.w = false ∨ (s1.ridgeCores s.curCore).contains (gaHome x.w) = false →
          let m : Msg := { id := 0, kind := .ldx form tag, core := s.curCore, slot := s.curSlot, pend := s1.fresh + 1, home := gaHome x.w,
                           off := gaOff x.w, va := x.w, asid := s1.asidOf s.curCore, tag := tag,
                           due := { num := 0, den := 1 }, refused := false }
          Pends s f (s1.reply m ((tagInfo tag (gaHome x.w) (s1.homeLine m)).setWidth 512) false (some (det cCtxForm 6)))
            (.ldxRemote form x.w tag) (s1.now s.curCore) (exec i s)))) ∧
    (∀ c sl id p form ea tag s, DuePend s c sl id p → p.kind = .ldx form ea tag → s.ldxAt c sl id = none →
      (∀ v po, p.gotOf 0 = some (v, po) → exec (.ldxCompletion c sl id) s = .next (s.finish c sl p [⟨BitVec.ofNat 512 v, po⟩])) ∧
      (p.gotOf 0 = none → s.ldxWaiting c form tag = false → (s.core c).queued (.pend sl p.id [0]) = false →
        (inVault ea.toNat = true → exec (.ldxCompletion c sl id) s =
          .next (s.request c sl (.pend sl p.id [0]) ea.toNat 8 true false (s.ldxTag c ea.toNat tag))) ∧
        (inVault ea.toNat = false → exec (.ldxCompletion c sl id) s =
          .next ((s.sense c ea.toNat 8).readLanes c sl p [0] 3)))) ∧
    (∀ c sl id home m form tag s, s.ldxAt c sl id = some (home, m) → m.kind = .ldx form tag →
      exec (.ldxCompletion c sl id) s = .next (s.runLdx home m form tag)) ∧
    (∀ (s : State) home k m, s.cores = [(home, k)] → s.agentMsg? home = some m → m.dev = 0 →
      s.ldxAt m.core m.slot m.pend = some (home, m)))

/-- The allocator gives the lowest free tag, queues a request while there is none, and frees a tag once every home has
acknowledged its retirement (15 R299, R301, R303). The agent seals a tag and every cell of it, drops the cells of a retired
tag, and merges them line by line (15 R302-R304), and in a critical vault it answers VAULT_THERMAL instead of a further line, the lines
merged staying (log 91); a directory that has been full for 2^20 stores fails the writes that wait
for it (15 R298). The frontier: FRNSET raises the core's own, FRNGET reads the ASID's, and the saddle tree publishes the
smallest every 256 router cycles, never lower than before (15 R311-R314). -/
def Obligations.TagEvents : Prop :=
  (
    ∀ id m r s, s.arrived? id = some m →
      let s1 := (s.dropMsg id).traceIn m.home m
      s1.ridge? m.home = some r →
      (∀ t rest, m.kind = .ctxalloc → r.freeTags = t :: rest → exec (.allocatorRequest id) s =
        .next ((s1.modRidge r.id (fun x => { x with freeTags := rest })).grant m.home t m.core m.slot m.pend)) ∧
      (m.kind = .ctxalloc → r.freeTags = [] → exec (.allocatorRequest id) s =
        .next (s1.modRidge r.id (fun x => { x with waiting := x.waiting ++ [(m.core, m.slot, m.pend)] }))) ∧
      (∀ tag b, m.kind = .ctxretire tag b → r.freeTags.contains tag.toNat = true → exec (.allocatorRequest id) s =
        .next (s1.allocReply m.home m.core m.slot m.pend (tagInfo tag m.home 0).toNat (some (det cCtxRetired 3)))) ∧
      (∀ tag e, m.kind = .retired tag → r.retiring.find? (fun (x : Retiring) => x.tag == tag.toNat) = some e → e.left = 1 →
        r.waiting = [] → exec (.allocatorRequest id) s = .next (((s1.modRidge r.id (fun x => { x with
          retiring := x.retiring.filter (fun (y : Retiring) => y.tag != tag.toNat) })).modRidge r.id (fun x => { x with
            freeTags := sinsert x.freeTags e.tag })).allocReply m.home e.core e.slot e.pend 0 none))) ∧
  (
    (∀ c m tag s, s.agentMsg? c = some m → s.tagBusy c tag = false →
      (m.kind = .seal tag → (s.core c).tagState tag = .free →
        exec (.sealMessage c) s = .next (s.answerFault c m (det cCtxRetired 4) (tagInfo tag c 0))) ∧
      (m.kind = .seal tag → (s.core c).tagState tag ≠ .free → exec (.sealMessage c) s = .next ((((s.setTag c tag .sealed).modCore c
        (fun k => { k with cells := k.cells.map (fun (x : Cell) => if x.domain == s.domain c && x.tag == tag
          then { x with isSealed := true } else x), threads := vecMap (fun t => t.goesOn tag) k.threads })).wakeLdx c tag).answer c m 0 false)) ∧
      (m.kind = .retire tag →
        let mine (x : Cell) : Bool := x.domain == s.domain c && x.tag == tag
        let s1 := (s.setTag c tag .free).modCore c (fun k =>
          { k with cells := k.cells.filter (fun (x : Cell) => !mine x), fullCount := if k.cells.any mine then 0 else k.fullCount })
        let s2 := (s1.failLdx c tag).failWaits c tag
        exec (.retireMessage c) s = .next ((s2.agentDone c).send (.retired tag) c 13 0 (s.originOf c) 0 0 tag))) ∧
    (∀ c m tag s, s.agentMsg? c = some m → m.kind = .merge tag →
      (s.nextMerge c tag = none → exec (.mergeMessage c) s = .next (s.answer c m 0 false)) ∧
      (∀ x, s.nextMerge c tag = some x →
        (s.hasBeat c .agent = true → exec (.mergeMessage c) s =
          .next ((s.mergeCell c x).modCore c (fun k => { k with agentPos := x.k + 1 }))) ∧
        (s.hasBeat c .agent = false → (s.core c).therm ≠ 3 ∨ (s.core c).halfDone .agent = true →
          (s.core c).agentFree < s.now c → (s.core c).queued .agent = false →
          exec (.mergeMessage c) s = .next (s.request c 13 .agent x.line 64 (x.mask != -1) true 0)) ∧
        (s.hasBeat c .agent = false → (s.core c).therm = 3 → (s.core c).halfDone .agent = false →
          exec (.mergeMessage c) s = .next (s.answerFault c m (det cVaultThermal 4) (tagInfo tag c x.line))))) ∧
    (∀ c s, (s.core c).fullCount < 2 ^ 20 ∨ (∀ m ∈ s.msgs, s.waitsEntry c m = false) → exec (.cellStoreFull c) s = .next s) ∧
    (∀ c m s, 2 ^ 20 ≤ (s.core c).fullCount → s.msgs = [m] → s.waitsEntry c m = true → exec (.cellStoreFull c) s =
        .next ((s.dropMsg m.id).reply m ((tagInfo m.tag c (s.homeLine m)).setWidth 512) false (some (det cCellStoreFull 1))))) ∧
  (
    (∀ d a s s1 x, let f : Form := { fR d a with ordering := true, takes := true, gives := true, slots := 0x9FFF }
      let old := (s1.core s.curCore).frn
      Opens s f s1 [x] → s1.writesDone s.curCore s.curSlot 7 = true →
      Results s f (s1.modCore s.curCore (fun k => { k with frn := if old.toNat < x.w.toNat then x.w else old }))
        [(.g d, Val.of old)] (exec (.frnset d a) s)) ∧
    (∀ d s s1, let f : Form := { srcs := [], dsts := [.g d], takes := true, slots := 0xBFFF }
      Opens s f s1 [] → Results s f s1 [(.g d, Val.of (s1.gfrnOf s.curCore))] (exec (.frnget d) s)) ∧
    (∀ d a s s1 x, let f : Form := { fR d a with takes := true, slots := 0x9FFF }
      Opens s f s1 [x] →
      (x.w.toNat ≤ (s1.gfrnOf s.curCore).toNat → Results s f s1 [(.g d, Val.of (s1.gfrnOf s.curCore))] (exec (.frngetWait d a) s)) ∧
      ((s1.gfrnOf s.curCore).toNat < x.w.toNat → exec (.frngetWait d a) s = .next (s.parked s.curCore s.curSlot .message))) ∧
    (∀ s, s.rtime % 256 = 0 → s.saddleAt ≠ s.rtime → ∃ t, exec .saddleTreePublish s = .next t ∧ t.saddleAt = s.rtime ∧
      t.asids.map (·.id) = s.asids.map (·.id) ∧
      ∀ (j : Nat) (a b : Asid), s.asids[j]? = some a → t.asids[j]? = some b → b.gfrn.toNat = max a.gfrn.toNat a.sample.toNat))

/-- Tile loads and stores, and the descriptor words they read (06 R120-R127). -/
def Obligations.TileInstructions : Prop :=
  TileLoads .tldA false ∧ TileLoads .tldB true ∧ TileStores .tst true ∧ TileStores .tstKeep false ∧
  SetsDescriptor .tdsetBase (fun d x => { d with base := x }) ∧ SetsDescriptor .tdsetDims (fun d x => { d with dims := x }) ∧
  SetsDescriptor .tdsetStrides (fun d x => { d with strides := x }) ∧
  SetsDescriptor .tdsetForm (fun d x => { d with
    form := (x &&& 0xFFFFFFFF00000010#64) ||| (if x.toNat % 16 < 6 then x &&& 0xF#64 else d.form &&& 0xF#64) }) ∧
  SetsDescriptor .tdsetScale (fun d x => { d with scale := x })

/-- RINGCFG configures a ring that is not busy, with every slot empty; RINGQRY and TQRY read rings and tiles (06 R128-R130). A transfer moves
its pad, its pieces and its scale beat by beat, and completes when nothing is left: a load makes its slot ready, a store releases it, and
the completion word posts (06 R122, R124, R125). That pad and data are written as they come, and loads see a partly filled unit as before,
is the model's reading of R118 and R124 (log 97). -/
def Obligations.RingsAndTransfers : Prop :=
  (
    (∀ d a b s s1 x y, let f : Form := { srcs := [.g a, .g b], dsts := [], gives := true }
      let size := y.w.toNat % 512
      let count := y.w.toNat / 65536 % 32
      Opens s f s1 [x, y] → d.toNat < ringsOf s1 s.curCore → inScratch x.w.toNat = true → x.w.toNat % 64 = 0 →
      y.w &&& 0x1F01FF#64 = y.w → 1 ≤ size → size ≤ 256 → 1 ≤ count → count ≤ 16 →
      (x.w.toNat + size * count * 64 ≤ Config.scratchBase + (s1.core s.curCore).scratch →
        (s1.core s.curCore).ringBusy d.toNat = false →
        exec (.ringcfg d a b) s = .next (issuedFrom s f (s1.modCore s.curCore (fun k => { k with
          rings := k.rings.setIfInBounds d.toNat ⟨x.w, size, count, 0, 0, List.replicate count Tile.reset⟩ })) ((me s).pc + 4))) ∧
      (Config.scratchBase + (s1.core s.curCore).scratch < x.w.toNat + size * count * 64 →
        exec (.ringcfg d a b) s = .next (s.trapped s.curCore s.curSlot (det cScratchBound 0) x.w x.w))) ∧
    (∀ d a s s1, let f : Form := { srcs := [], dsts := [.g d], takes := true }
      Opens s f s1 [] → a.toNat < ringsOf s1 s.curCore →
      Results s f s1 [(.g d, Val.of ((s1.core s.curCore).ring a.toNat).word)] (exec (.ringqry d a) s)) ∧
    (∀ d a b s s1 x, let f : Form := { srcs := [.g b], dsts := [.g d], takes := true }
      let r := (s1.core s.curCore).ring a.toNat
      Opens s f s1 [x] → a.toNat < ringsOf s1 s.curCore → x.w.toNat < 16 →
      Results s f s1 [(.g d, Val.of (if x.w.toNat < r.count then (r.tile x.w.toNat).word else 0))] (exec (.tqry d a b) s))) ∧
  (
    (∀ c x s, (s.core c).xfers = [x] → x.posting = false → x.pad.2.2 = [] →
      (∀ p ps, x.pieces = p :: ps → inVault p.at' = true →
        (s.hasBeat c (.xfer x.id) = true → exec (.transferBeat c) s = .next (s.pieceBeat c x p ps)) ∧
        (s.hasBeat c (.xfer x.id) = false → exec (.transferBeat c) s = .next s)) ∧
      (∀ a, x.pieces = [] → x.scaleAt = some a → x.due ≤ s.now c → inVault a.toNat = false →
        exec (.transferBeat c) s = .next (s.scaleIn c x a))) ∧
    (∀ c (x : Xfer) (p : Piece) ps (s : State), x.store = false → let s0 := s.sense c p.at' p.span
      let got := s0.pieceIn c x p.moves
      let put := s0.pour c (s.xferBase c x) x.held got
      s.pieceBeat c x p ps = (put.1.setXfer c { x with pieces := ps, due := s.now c + 1, held := put.2 }).tileLanded c x p.bytes
        (got.any (fun (e : Nat × Nat × Nat × Bool) => e.2.2.2))) ∧
    (∀ c sl id p x s, DuePend s c sl id p → s.xferDone c id = some x →
      (x.store = false → exec (.tileLoadReady c sl id) s =
        .next (((s.modCore c (fun k => k.modTile x.ring x.rslot (fun e => { e with state := .ready, scale := x.scale }))).postTile
          c x).finish c sl p [])) ∧
      (x.store = true → exec (.tstCompletion c sl id) s =
        .next (((s.modCore c (fun k => k.modTile x.ring x.rslot Tile.release)).postTile c x).finish c sl p []))) ∧
    (∀ c (x : Xfer) (s : State), (cmpKind x.comp = 0 → s.postTile c x = s.dropXfer c x.id) ∧
      (cmpKind x.comp = 2 → x.store = true →
        s.postTile c x = (s.dropXfer c x.id).addBytes c (cmpTarget x.comp) (0 - BitVec.ofNat 64 x.tbytes))))

/-- MMA takes the tiles at the pop pointers of its two rings, ACCLD, ACCST and ACCDR name an image or entries: each enters
the command queue under R228 (11 R227-R230, R237-R239). -/
def Obligations.EngineInstructions : Prop :=
  (∀ d a b l z y x s s1,
    let f : Form := { srcs := [], dsts := [], la := some l, slots := 0x7FFF, inHandler := false }
    let c := s.curCore
    let rA := (s1.core c).ring a.toNat
    let rB := (s1.core c).ring b.toNat
    let eA := rA.tile rA.pp
    let eB := rB.tile rB.pp
    let cmd : EngCmd := { cmdOf s.curSlot s1.fresh 0 d.toNat with
      ringA := a.toNat, slotA := rA.pp, ringB := b.toNat, slotB := rB.pp, zero := z == 1, half := (s1.thr c s.curSlot).mxcfg.getLsbD 0 }
    Opens s f s1 [] → s1.isPair c s.curSlot = false → s1.mmaRings c a.toNat b.toNat = none → eA.state = .ready → eB.state = .ready →
    (mmaTiles eA eB = none → eA.poison = false → eB.poison = false → s1.poisoned c (rA.slotBase rA.pp) 2048 = false →
      s1.poisoned c (rB.slotBase rB.pp) 4096 = false → z = 1 ∨ ((s1.core c).acc d.toNat).poison = false →
      Commands s f s1 (s1.modCore c (fun k => (k.consume a.toNat (x != 1) 1).consume b.toNat (y != 1) 1)) cmd true
        (exec (.mma d a b l z y x) s)) ∧
    (∀ code, mmaTiles eA eB = some code → exec (.mma d a b l z y x) s = .next (s.trapped c s.curSlot code 0 0))) ∧
  (∀ d a l s s1 x,
    let f : Form := { srcs := [.g a], dsts := [], la := some l, slots := 0x7FFF, inHandler := false, touch := fun xs => [(arg xs 0, 8192)] }
    let cmd (kind : Nat) : EngCmd := { cmdOf s.curSlot s1.fresh kind d.toNat with addr := x.w }
    s1.isPair s.curCore s.curSlot = false → s1.imageCheck s.curCore s.curSlot d x.w = none →
    (Opens s { f with rd := true } s1 [x] → Commands s { f with rd := true } s1 s1 (cmd 1) true (exec (.accld d a l) s)) ∧
    (Opens s { f with wr := true } s1 [x] → Commands s { f with wr := true } s1 s1 (cmd 2) true (exec (.accst d a l) s))) ∧
  (∀ d a l s s1 x,
    let f : Form := { srcs := [.g a], dsts := [], la := some l, inHandler := false, slots := 0x0FFF }
    let first := x.w.toNat % 128
    let n := x.w.toNat / 256 % 8 + 1
    let t := s1.thr s.curCore s.curSlot
    Opens s f s1 [x] → s1.isPair s.curCore s.curSlot = false →
    (x.w &&& 0x77F#64 = x.w → first + n ≤ 128 →
      Commands s f s1 (s1.modThr s.curCore s.curSlot (fun t => { t with vmqReserved := t.vmqReserved + n }))
        { cmdOf s.curSlot s1.fresh 3 d.toNat with addr := BitVec.ofNat 64 first, count := n }
        (t.vmq.length + t.vmqReserved + n ≤ 8) (exec (.accdr d a l) s)) ∧
    (x.w &&& 0x77F#64 ≠ x.w ∨ 128 < first + n →
      exec (.accdr d a l) s = .next (s.trapped s.curCore s.curSlot (det cMatrixForm 7) 0 0)))

/-- ACCZ clears an unlocked accumulator, and parks on a locked or claimed one; ACCQ reads the engine's state and MXCFG writes mxcfg (11
R234-R236). The engine's events: the oldest waiting command starts when its unit and its accumulator are free, a poisoned ACCST or ACCDR
being consumed instead; an MMA completes with its accumulator's new image and its flags, an ACCLD with the image its words make, an
ACCST with its words written, an ACCDR with its entries pushed (11 R227, R231, R237-R239). -/
def Obligations.EngineEvents : Prop :=
  (∀ d s s1, let f : Form := { srcs := [], dsts := [], slots := 0x7FFF }
    let a := (s1.core s.curCore).acc d.toNat
    Opens s f s1 [] → s1.isPair s.curCore s.curSlot = false →
    (a.locked = false → a.open? s.curSlot = true → exec (.accz d) s =
      .next (issuedFrom s f (s1.modAcc s.curCore d.toNat (fun _ => ⟨0, false, 0, none, false⟩)) ((me s).pc + 4))) ∧
    (a.locked = true ∨ a.open? s.curSlot = false → exec (.accz d) s =
      .next ((s1.modAcc s.curCore d.toNat (fun a => a.claim s.curSlot)).parked s.curCore s.curSlot .memory))) ∧
  (∀ d s s1, let f : Form := { srcs := [], dsts := [.g d], takes := true, slots := 0x7FFF }
    Opens s f s1 [] → Results s f s1 [(.g d, Val.of (s1.accqWord s.curCore s.curSlot))] (exec (.accq d) s)) ∧
  (∀ a s s1 x, let f : Form := { srcs := [.g a], dsts := [], slots := 0x7FFF }
    Opens s f s1 [x] →
    (x.w.toNat < 2 → exec (.mxcfg a) s = .next (issuedFrom s f (s1.modThr s.curCore s.curSlot (fun t => { t with mxcfg := x.w }))
      ((me s).pc + 4))) ∧
    (2 ≤ x.w.toNat → exec (.mxcfg a) s = .next (s.trapped s.curCore s.curSlot (det cMatrixForm 6) 0 0))) ∧
  (∀ c e s, let k := s.core c
    let begun (at' : Nat) : State := (s.traceEngine c e 9).modCore c (fun k => { k.regate with
      engine := k.engine.map (fun (x : EngCmd) => if x.id == e.id then { x with started := true, doneAt := at' } else x) })
    k.engine.find? (fun (e : EngCmd) => !e.started) = some e →
    (k.engine.any (fun (x : EngCmd) => x.blocks e) = true → exec (.engineCommandStart c) s = .next s) ∧
    (k.engine.any (fun (x : EngCmd) => x.blocks e) = false →
      (e.kind = 0 → exec (.engineCommandStart c) s =
        .next (begun (k.cycle + (if (e.half || k.regate.gatedRows) = true then 64 else 32)))) ∧
      (e.kind = 1 → e.follows = false → exec (.engineCommandStart c) s = .next (begun (k.cycle + 32))) ∧
      (e.kind = 2 → (k.acc e.acc).poison = false → exec (.engineCommandStart c) s = .next (begun (k.cycle + 32))) ∧
      (e.kind = 3 → (k.acc e.acc).poison = false → s.isPair c e.slot = false → exec (.engineCommandStart c) s =
        .next ((begun (k.cycle + e.count - 1)).modThr c e.slot (fun t => { t with
          vmq := t.vmq ++ ((List.range e.count).map (fun n => (k.acc e.acc).image.extractLsb' (512 * (e.addr.toNat + n)) 512)).zipIdx.map
            (fun (x : Vec × Nat) => (x.1, false, k.cycle + x.2 + 1))
          vmqReserved := t.vmqReserved - e.count }))) ∧
      (∀ p, e.kind = 2 → (k.acc e.acc).poison = true → (s.engineDone c e).pend? c e.slot e.id = some p →
        exec (.engineCommandStart c) s = .next ((s.engineDone c e).consumed c e.slot p)))) ∧
  (∀ c sl id p e s, DuePend s c sl id p → s.engineOver c id true = some e →
    let s0 := (s.senseTile c e.ringA e.slotA 2048).senseTile c e.ringB e.slotB 4096
    let r := s0.mmaResult c e
    DuePend s0 c sl id p → s0.tilePoisoned c e.ringA e.slotA 2048 = false → s0.tilePoisoned c e.ringB e.slotB 4096 = false →
    exec (.mmaCompletion c sl id) s = .next ((((((s0.modAcc c e.acc (fun a => { a with
      image := r.1, poison := if e.zero then false else a.poison })).orFlags c sl r.2).modCore c (fun k =>
        (k.modTile e.ringA e.slotA Tile.release).modTile e.ringB e.slotB Tile.release))).engineDone c e).finish c sl p [])) ∧
  (∀ c sl id p e s, DuePend s c sl id p → s.engineOver c id false = some e → s.isPair c sl = false →
    (e.kind = 1 → e.moved = 128 → exec (.accPortCompletion c sl id) s = .next (((((s.modAcc c e.acc (fun a => { a with
      image := BitVec.ofNat 65536 (e.got.zipIdx.foldl (fun n (x : (Vec × Bool) × Nat) => n + x.1.1.toNat * 2 ^ (512 * x.2)) 0),
      poison := e.got.any (fun (x : Vec × Bool) => x.2) })).engineDone c e).passImage c e.id e.got)).finish c sl p [])) ∧
    (e.kind = 2 → e.moved = 128 → e.solo = false → exec (.accPortCompletion c sl id) s = .next ((s.engineDone c e).finish c sl p [])) ∧
    (e.kind = 3 → e.solo = false → exec (.accPortCompletion c sl id) s = .next ((s.engineDone c e).finish c sl p []))) ∧
  (∀ c id (e : EngCmd) (s : State), s.cmd? c id = some e → e.started = true → e.follows = false → e.moved < 128 → e.kind = 2 → s.isPair c e.slot = false →
    s.portFree c e (e.addr.toNat + 64 * e.moved) 64 = true →
    s.portWord c id = (s.modCmd c id (fun e => { e with moved := e.moved + 1 })).store c (e.addr.toNat + 64 * e.moved)
      (vecBytes (((s.core c).acc e.acc).image.extractLsb' (512 * e.moved) 512) 64) 0)

/-- The geometric predicates pend with exact signs and complete with them and gstat; GPCFG writes gpcfg (12). -/
def Obligations.PredicateInstructions : Prop :=
  Predicates .go2d .go2d ∧ Predicates .go3d .go3d ∧ Predicates .ginc .ginc ∧ Predicates .gins .gins ∧
  Predicates .gsegx .gsegx ∧
  (∀ c sl id p r g s, DuePend s c sl id p → p.kind = .predicate r g →
    exec (.predicateCompletion c sl id) s = .next ((s.modThr c sl (fun t => { t with gstat := g })).finish c sl p [⟨r, false⟩])) ∧
  (∀ a s s1 x, let f : Form := { srcs := [.g a], dsts := [] }
    Opens s f s1 [x] →
    (x.w &&& 0x13F#64 = x.w → x.w.toNat % 64 < 48 → exec (.gpcfg a) s =
      .next (issuedFrom s f (s1.modThr s.curCore s.curSlot (fun t => { t with gpcfg := x.w })) ((me s).pc + 4))) ∧
    (x.w &&& 0x13F#64 ≠ x.w ∨ 48 ≤ x.w.toNat % 64 →
      exec (.gpcfg a) s = .next (s.trapped s.curCore s.curSlot (det cGeomForm 1) 0 0)))

/-- The bit-buffer instructions take and give bits of the stream (13 R256-R262). The bit buffer refills from memory and spills a full
doubleword (13 R257-R259). That a spill waits while its vault is critical (log 91), that BBSET parks for a spill that still stands in the
window only (log 119) and does not check an empty range (log 101) are the model's choices. -/
def Obligations.BitBuffer : Prop :=
  (
    let two (a b : BitVec 6) : Form := { srcs := [.g a, .g b], dsts := [], slots := 0x8000 }
    let one (a : BitVec 6) : Form := { srcs := [.g a], dsts := [], slots := 0x8000 }
    let out (d : BitVec 6) : Form := { srcs := [], dsts := [.g d], slots := 0x8000 }
    let inOut (d a : BitVec 6) : Form := { fR d a with slots := 0x8000 }
    (∀ w a b s s1 x y, Opens s (two a b) s1 [x, y] → s1.streamBusy s.curCore = false →
      x.w.toNat ≤ y.w.toNat → y.w.toNat < 2 ^ 45 → (w = true → x.w.toNat % 64 = 0 ∧ y.w.toNat % 64 = 0) →
      ((y.w.toNat + 7) / 8 ≠ x.w.toNat / 8 → (s1.core s.curCore).check (BitVec.ofNat 64 (x.w.toNat / 8))
        ((y.w.toNat + 7) / 8 - x.w.toNat / 8) 0 (!w) w false = none) →
      (s1.bb s.curCore).refill = none → (s1.bb s.curCore).spills = false →
      exec (if w = true then .bbsetW a b else .bbsetR a b) s = .next (issuedFrom s (two a b) (s1.modBb s.curCore (fun _ =>
        { BitBuf.reset with rp := x.w.toNat, fin := y.w.toNat, write := w })) ((me s).pc + 4))) ∧
    (∀ d a s s1 x, let b := s1.bb s.curCore
      let n := x.w.toNat
      s1.streamBusy s.curCore = false → n ≤ 64 → b.write = false → b.hot = false → b.poison = false →
      (Opens s (inOut d a) s1 [x] → n ≤ b.valid → n ≤ b.left → Results s (inOut d a) (s1.modBb s.curCore (fun b => b.drop n))
        [(.g d, Val.of (BitVec.ofNat 64 (b.win.toNat % 2 ^ n)))] (exec (.bget d a) s)) ∧
      (Opens s (inOut d a) s1 [x] → n ≤ b.valid ∨ b.fin ≤ b.rp → Results s (inOut d a) (s1.modBb s.curCore (fun b => b.drop 0))
        [(.g d, Val.of (BitVec.ofNat 64 (b.win.toNat % 2 ^ min n b.valid)))] (exec (.bpeek d a) s)) ∧
      (Opens s (one a) s1 [x] → n ≤ b.valid → n ≤ b.left →
        exec (.bskip a) s = .next (issuedFrom s (one a) (s1.modBb s.curCore (fun b => b.drop n)) ((me s).pc + 4))) ∧
      (Opens s (inOut d a) s1 [x] → b.left < n →
        exec (.bget d a) s = .next (s.trapped s.curCore s.curSlot (det cBitstreamEnd 1) (bitInfo 0 255) 0))) ∧
    (∀ a b s s1 x y, let bb := s1.bb s.curCore
      let n := y.w.toNat
      Opens s (two a b) s1 [x, y] → s1.streamBusy s.curCore = false → n ≤ 64 → bb.write = true →
      bb.rp + bb.valid + n ≤ bb.fin → bb.valid + n ≤ 128 → exec (.bput a b) s =
        .next (issuedFrom s (two a b) (s1.modBb s.curCore (fun b => b.append x.w.toNat n)) ((me s).pc + 4))) ∧
    (∀ d s s1, let b := s1.bb s.curCore
      let up := (b.valid + 63) / 64 * 64
      let k := (8 - b.pos % 8) % 8
      Opens s (out d) s1 [] → s1.streamBusy s.curCore = false →
      Results s (out d) s1 [(.g d, Val.of (BitVec.ofNat 64 b.pos))] (exec (.bpeekPos d) s) ∧
      (b.write = true → Results s (out d) (s1.modBb s.curCore (fun b => { b with valid := up }))
        [(.g d, Val.of (BitVec.ofNat 64 (b.rp + up)))] (exec (.bflush d) s)) ∧
      (b.write = true → b.valid + k ≤ 128 → Results s (out d) (s1.modBb s.curCore (fun b => { b with valid := b.valid + k }))
        [(.g d, Val.of (BitVec.ofNat 64 k))] (exec (.balign d) s)) ∧
      (b.write = false → b.hot = false → b.poison = false → k ≤ b.valid → Results s (out d)
        (s1.modBb s.curCore (fun b => b.drop k)) [(.g d, Val.of (BitVec.ofNat 64 k))] (exec (.balign d) s)))) ∧
  (
    ∀ c s, let b := s.bb c
      let off := b.rp / 64 * 8
      ((s.thr c 15).ldec.lanes = [] → b.write = false →
        (b.valid ≤ 64 → b.rp < b.fin → b.refill = none → b.hot = false →
          (s.thr c 15).pend.any (fun (p : Pend) => p.kind.isRead || p.kind.isAcquire) = false →
          (let s1 := s.sense c off 8
           inVault off = false → exec (.bbRefill c) s = .next (s1.modBb c (fun x => { x with
            refill := some (s1.refillRead c b (s.now c + 3)) }))) ∧
          (inVault off = true → (s.core c).therm ≠ 3 → exec (.bbRefill c) s =
            .next ((s.request c 15 (.refill none) off 8 true false 0).modBb c (fun x => { x with refill := some ⟨none, 0, false⟩ }))) ∧
          (inVault off = true → (s.core c).therm = 3 → exec (.bbRefill c) s = .next (s.modBb c (fun x => { x with hot := true })))) ∧
        (∀ r, b.refill = some r →
          (r.due = none → s.hasBeat c (.refill none) = true → exec (.bbRefillArrival c) s =
            .next (s.modBb c (fun x => { x with refill := some (s.refillRead c b (s.now c + 2)) }))) ∧
          (∀ t, r.due = some t → t ≤ s.now c →
            let n := min (64 - b.rp % 64) (b.fin - b.rp)
            exec (.bbRefillArrival c) s = .next (s.modBb c (fun _ => { (b.append (r.val.toNat / 2 ^ (b.rp % 64)) n) with
              rp := b.rp + n, refill := none, poison := b.poison || r.poison }))))) ∧
      (b.write = true → 64 ≤ b.valid → (s.thr c 15).psqFull = false → s.spillHeld c = false → exec (.bbSpill c) s =
        .next (((s.modBb c (fun b => { b.drop 64 with rp := b.rp + 64 })).post c 15
          [(BitVec.ofNat 64 (b.rp / 8), 8, (b.win.setWidth 64).setWidth 512)] 0).modThr c 15 (fun t => { t with
            psq := replaceFirst (fun (e : Posted) => e.id == s.fresh) (fun e => { e with spill := true }) t.psq }))))

/-- TDEC, LDEC, LMERGE and ZRENC pend with their words after their checks (13 R264-R270). The decoders and the encoder take symbol by symbol,
or up to 32 symbols of one bank word, and complete with their position or count (13 R265-R270). That a TDEC or ZRENC parks inside the
window of an earlier one is the model's choice (log 90). Also the model's choice are the cycle in which an LMERGE counts what is still
pending (log 100) and that a ZRENC with count 0 makes no check of its source (log 101). That a critical vault holds up a spill, and a
token that has no room, is its reading of 04 R76 (log 91). -/
def Obligations.Streams : Prop :=
  (
    let f (srcs : List Opnd) (d : BitVec 6) (l : BitVec 4) : Form := { srcs := srcs, dsts := [.g d], la := some l, slots := 0x8000 }
    (∀ d a b l s s1 x y, Opens s (f [.g a, .g b] d l) s1 [x, y] → s1.tableCheck s.curCore x.w = none → outBad y.w = false →
      (s1.bb s.curCore).write = false → s1.outCheck s.curCore y.w = none →
      (s1.streamBusy s.curCore = false →
        Pends s (f [.g a, .g b] d l) s1 (.tdec x.w y.w 0 []) (s1.now s.curCore + 1) (exec (.tdec d a b l) s)) ∧
      (s1.streamBusy s.curCore = true → exec (.tdec d a b l) s = .next (s.parked s.curCore s.curSlot .memory))) ∧
    (∀ d a b l s s1 x y, Opens s (f [.g a, .g b] d l) s1 [x, y] → s1.tableCheck s.curCore x.w = none →
      y.w &&& 0x000703FFFFFFFFFF#64 = y.w → outOff y.w % 16 = 0 →
      (s1.core s.curCore).check (BitVec.ofNat 64 (outOff y.w)) (16 * chunkCount y.w) 0 true false false = none →
      (s1.thr s.curCore s.curSlot).ldec.pending = 0 →
      (s1.thr s.curCore s.curSlot).pend.any (fun (p : Pend) => match p.kind with | .ldec .. => true | _ => false) = false →
      Pends s (f [.g a, .g b] d l) (s1.laneReads s.curCore s.curSlot 16 0 (chunkAddrs y.w) true) (.ldec x.w y.w)
        (s1.now s.curCore + latency (outOff y.w)) (exec (.ldec d a b l) s)) ∧
    (∀ d a l s s1 x, Opens s (f [.g a] d l) s1 [x] → outBad x.w = false → (s1.thr s.curCore s.curSlot).pend = [] →
      s1.outCheck s.curCore x.w = none →
      (outCount x.w ≤ (s1.thr s.curCore s.curSlot).ldec.pending →
        Pends s (f [.g a] d l) s1 (.lmerge x.w 0 []) (s1.now s.curCore + 1) (exec (.lmerge d a l) s)) ∧
      ((s1.thr s.curCore s.curSlot).ldec.pending < outCount x.w → exec (.lmerge d a l) s =
        .next (s.trapped s.curCore s.curSlot (det cBitstreamForm 6) (bitInfo 0 255) 0))) ∧
    (∀ fin d a b l s s1 x y, Opens s (f [.g a, .g b] d l) s1 [x, y] → (s1.bb s.curCore).write = true → y.w.toNat ≤ 65536 →
      (y.w ≠ 0 → isGlobal x.w = false ∧ x.w.toNat % 8 = 0 ∧
        (s1.core s.curCore).check x.w (8 * y.w.toNat) 0 true false false = none) → s1.streamBusy s.curCore = false →
      Pends s (f [.g a, .g b] d l) s1 (.zrenc x.w y.w 0 fin 0) (s1.now s.curCore + 1)
        (exec (if fin = true then .zrencEnd d a b l else .zrenc d a b l) s))) ∧
  (
    (∀ c id p table out done held s, DuePend s c 15 id p → p.kind = .tdec table out done held →
      held.find? (fun (g : Gathered) => s.hasBeat c (.word id g.first)) = none →
      let b := s.bb c
      (done = outCount out → held = [] →
        exec (.tdecCompletion c 15 id) s = .next (s.finish c 15 p [Val.of (BitVec.ofNat 64 b.pos)])) ∧
      (done ≠ outCount out → b.hot = false → tabW table ≤ b.valid → b.poison = false →
        (inVault (outOff out) = false ∨ (s.core c).therm ≠ 3) → s.symHeld c id out done = false →
        let s1 := s.sense c (tabBase table + 2 * b.peek (tabW table)) 2
        let e := s1.tabEntry c table (b.peek (tabW table))
        e.2 = false → 1 ≤ e.1 / 4096 → e.1 / 4096 ≤ tabW table → e.1 / 4096 ≤ b.left →
        exec (.tdecCompletion c 15 id) s =
          .next ((s1.modBb c (fun b => b.drop (e.1 / 4096))).takeSymbol c id table out done held e.1))) ∧
    (∀ c lane p table w s, (s.thr c 15).pend = [p] → p.kind = .ldec table w → p.ready (BitVec.ofNat 64 (outOff w)) = true →
      p.due ≤ s.now c → exec (.ldecLaneSymbol c lane) s = .next (s.startLanes c 15 p table w)) ∧
    (∀ c n l s, (s.thr c 15).pend = [] → (s.thr c 15).ldec.lanes[n]? = some l →
      let x := s.laneStep c l
      exec (.ldecLaneSymbol c n) s = .next (x.1.modThr c 15 (fun t => { t with ldec := ⟨(s.thr c 15).ldec.lanes.set n x.2⟩ }))) ∧
    (∀ c sl id p out done s, DuePend s c sl id p → p.kind = .lmerge out done [] →
      (s.thr c sl).pend.find? (fun (q : Pend) => match q.kind with | .lmerge .. => true | _ => false) = some p → p.id = id →
      (done = outCount out → exec (.lmergeCompletion c sl id) s =
        .next (s.finish c sl p [Val.of (BitVec.ofNat 64 (s.thr c sl).ldec.pending)])) ∧
      (∀ x ls, done ≠ outCount out → (inVault (outOff out) = false ∨ (s.core c).therm ≠ 3) →
        nextSym 0 (s.thr c sl).ldec.lanes = .sym x ls → s.symHeld c id out done = false →
        let r := takeSyms out 32 done (s.thr c sl).ldec.lanes
        let y := (s.modThr c sl (fun t => { t with ldec := ⟨r.2.1⟩ })).sendSyms c id out [⟨done, r.2.2⟩]
        exec (.lmergeCompletion c sl id) s = .next (y.1.setKind c sl id (.lmerge out r.1 y.2)))) ∧
    (∀ c sl id p src count done fin bits s, DuePend s c sl id p → p.kind = .zrenc src count done fin bits →
      (s.bb c).valid < 64 → (s.thr c sl).psq.length ≤ 6 →
      (done = count.toNat → fin = false → exec (.zrencCompletion c sl id) s =
        .next (s.finish c sl p [Val.of (BitVec.ofNat 64 bits)])) ∧
      (∀ v, done ≠ count.toNat → inVault (src.toNat + 8 * done) = false → (s.core c).granted = none →
        count.toNat ≤ done + p.got.length → p.gotOf done = some (v, false) → s.spillHeld c = false ∨ (s.bb c).valid ≤ 62 →
        let x : Word := BitVec.ofNat 64 v
        let b := s.bb c
        (x ≠ 0 → x ≠ b.zprev → b.rp + b.valid + 66 ≤ b.fin → exec (.zrencCompletion c sl id) s =
          .next ((((s.modBb c (fun b => { b with zprev := x })).putBits c 2 2).putBits c v 64).encoded c p.id src count (done + 1) fin
            (bits + 66))) ∧
        (∀ n, x = 0 → p.zrRun x (min 256 (count.toNat - done)) done = (n, true) →
          (List.range n).any (fun i => ((p.gotOf (done + i)).map (fun (g : Nat × Bool) => g.2)).getD false) = false →
          b.rp + b.valid + 10 ≤ b.fin → exec (.zrencCompletion c sl id) s =
            .next ((((s.modBb c (fun b => { b with zprev := x })).putBits c 0 2).putBits c (n - 1) 8).encoded c p.id src count (done + n) fin
              (bits + 10))))))

/-- SPAWN claims the dormant member it names, on its own core at once, on another by a message, and parks until it holds it and its
thread's earlier writes are released; then it pends, its child made of its parent's settings and its run of registers (log 86); TEXIT
makes its slots dormant, slot 15 sleeps and wakes with the transform queue; WLQRY reads the work list; LAUNCH pends and
reads its packet, then writes it into its queue's next slot as one access of the sequencer's kind and ends with the packet's number (07
R155-R157; 13 R254; 17 R361-R365; log 38). That LAUNCH reads with tag 0, and takes its slot when it has read (log 28), that a mirror's
LAUNCH writes no ring (log 72) and that a SPAWN on the own core answers itself (log 63) are the model's readings. -/
def Obligations.ThreadControl : Prop :=
  (∀ d a b l s s1 start w r,
    let f : Form := { fRR 0 a b with dsts := [], more := [.g d], la := some l, ordering := true, ends := true, gives := true,
                                     slots := 0x1FFF, inHandler := false }
    let c := s.curCore
    let nums := (List.range (bitsN w.w 29 24)).map (fun i => d.toNat + i)
    let far := r.coreAt (bitsN w.w 7 0) (bitsN w.w 15 8)
    let member := bitsN w.w 19 16
    Opens s f s1 [start, w] → s1.ridge? c = some r →
    (s1.spawnCheck c s.curSlot d.toNat start.w w.w = none →
      ∀ s2 vs, s1.readAll c s.curSlot (nums.map (fun n => .g (BitVec.ofNat 6 n))) = .ok s2 vs → vs.any (·.poison) = false →
      let child := childOf (s2.thr c s.curSlot) start.w (nums.zip (vs.map Val.w))
      let claims (t : State) (x : Nat) : State := t.modThr c s.curSlot (fun u => { u with claiming := some (far, member, x) })
      let goes (t : State) : Prop :=
        (t.writesDone c s.curSlot (t.smallestScope c far) = false →
          exec (.spawn d a b l) s = .next (t.parked c s.curSlot .memory)) ∧
        (t.writesDone c s.curSlot (t.smallestScope c far) = true →
          let t1 := t.modThr c s.curSlot (fun u => { u with claiming := none })
          (far ≠ c → Pends s f (t1.sendFor (.spawn member child false) c s.curSlot far 0 0 0) (.spawn far member) (t.now c)
            (exec (.spawn d a b l) s)) ∧
          (far = c →
            let own : Msg := { id := 0, kind := .spawn member child true, core := c, slot := s.curSlot, pend := t.fresh + 1, home := c,
                               off := 0, va := 0, asid := t.asidOf c, tag := 0, due := { num := 0, den := 1 }, refused := false }
            Pends s f ((t1.setUp c member child).reply own 0 false none 2) (.spawn far member) (t.now c) (exec (.spawn d a b l) s)))
      (s2.holds c s.curSlot far member = true → goes s2) ∧
      (s2.holds c s.curSlot far member = false →
        (far = c → s2.spawnFree c member = true → goes (claims (s2.claim c member) 1)) ∧
        (far = c → s2.spawnFree c member = false → exec (.spawn d a b l) s = .next (s.parked c s.curSlot .message)) ∧
        (far ≠ c → (s2.thr c s.curSlot).claiming = some (far, member, 0) →
          exec (.spawn d a b l) s = .next (s.parked c s.curSlot .message)) ∧
        (far ≠ c → (s2.thr c s.curSlot).claiming ≠ some (far, member, 0) → exec (.spawn d a b l) s =
          .next ((claims (s2.send (.claim member) c s.curSlot member far 0 0 0) 0).parked c s.curSlot .message)))) ∧
    (∀ code, s1.spawnCheck c s.curSlot d.toNat start.w w.w = some code →
      exec (.spawn d a b l) s = .next (s.trapped c s.curSlot code 0 0))) ∧
  (∀ (parent member : Thread) start regs, let child := childOf parent start regs
    let t := member.become child
    t.pc = start ∧ t.life = .claimed ∧ t.fcsr = parent.fcsr ∧ t.ctx = parent.ctx ∧ t.fmtd = parent.fmtd ∧ t.sclp = parent.sclp ∧
    t.td = parent.td ∧ t.mxcfg = parent.mxcfg ∧ t.gpcfg = parent.gpcfg ∧ t.g = child.g ∧ t.v = Thread.reset.v ∧ t.m = Thread.reset.m ∧
    t.ports = member.ports ∧ t.psq = member.psq ∧ t.pend = [] ∧ t.handler = false) ∧
  (∀ s s1, let f : Form := { srcs := [], dsts := [], ordering := true, ends := true, gives := true, slots := 0x8FFF, inHandler := false }
    let c := s.curCore
    Opens s f s1 [] →
    (s.curSlot ≠ 15 → s1.isPair c s.curSlot = false → s1.lastWaits c [s.curSlot] = false →
      exec .texit s = .next (issuedFrom s f ((s1.modCore c (fun k => k.dropClaims s.curSlot)).modThr c s.curSlot
        (fun t => { t with life := .dormant, psq := t.psq.map (fun (e : Posted) => { e with left := true }) })) ((me s).pc + 4))) ∧
    (s.curSlot ≠ 15 → s1.isPair c s.curSlot = false → s1.lastWaits c [s.curSlot] = true →
      exec .texit s = .next (s.parked c s.curSlot .memory)) ∧
    (∀ r, s.curSlot = 15 → s1.ridge? c = some r →
      exec .texit s = .next (issuedFrom s f (s1.transformSleep c) (BitVec.ofNat 64 r.header.entry)))) ∧
  (∀ c s, ((s.thr c 15).life = .asleep → (s.core c).tq.any (fun (x : Word × Nat) => x.2 + 4 ≤ s.now c) = true →
      exec (.transformWake c) s = .next (s.modThr c 15 (fun t => { t with life := .live }))) ∧
    ((s.core c).tq.any (fun (x : Word × Nat) => x.2 + 4 ≤ s.now c) = false → exec (.transformWake c) s = .next s)) ∧
  (∀ d s s1, let f : Form := { srcs := [], dsts := [.g d], takes := true, slots := 0x0FFF }
    let k := s1.core s.curCore
    let len := (k.wl.filter (fun (x : Word × Nat) => x.2 + 4 ≤ k.cycle)).length +
      (k.wlGone.filter (fun (t : Nat × Nat) => t.1 + 4 ≤ k.cycle && k.cycle < t.2 + 4)).length
    Opens s f s1 [] → Results s f s1 [(.g d, Val.of (BitVec.ofNat 64 (k.wlInflight * 2 ^ 32 + len)))] (exec (.wlqry d) s)) ∧
  (∀ d a b l s s1 x y q,
    let f : Form := { srcs := [.g a, .g b], dsts := [.g d], la := some l, ordering := true, ends := true, takes := true,
                      gives := true, slots := 0x9FFF, touch := fun xs => [(arg xs 0, 128)], rd := true }
    let c := s.curCore
    let taken := q.tail + s1.inSlots q.id + s1.launching q.id - q.head
    Opens s f s1 [x, y] → (s1.core c).check x.w 128 128 true false false = none → y.w.toNat < 512 → s1.queue? y.w.toNat = some q →
    (q.asid = s1.asidOf c → s1.releaseReady c s.curSlot 8 = true →
      (taken < q.slots → Pends s f (s1.toBank c s.curSlot x.w 128 0) (.launch 0 x.w q.id 0) (s1.now c) (exec (.launch d a b l) s)) ∧
      (q.slots ≤ taken → exec (.launch d a b l) s = .next (s.parked c s.curSlot .message))) ∧
    (q.asid = s1.asidOf c → s1.releaseReady c s.curSlot 8 = false → exec (.launch d a b l) s = .next (s.parked c s.curSlot .memory)) ∧
    (q.asid ≠ s1.asidOf c → exec (.launch d a b l) s = .next (s.trapped c s.curSlot (det cLaunchForm 1) 0 0))) ∧
  (∀ c sl id p seq ea q s, DuePend s c sl id p →
    (∀ v po, p.kind = .launch seq ea q 0 → p.gotOf 0 = some (v, po) →
      (po = true → s.launchOn c sl id = s.consumed c sl p) ∧
      (∀ x, po = false → s.queue? q = some x →
        let n := x.tail + s.inSlots q
        let goes (stage : Nat) : State := s.modPend c sl id (fun p => { p with kind := .launch (BitVec.ofNat 64 n) ea q stage })
        (s.isMirror c = false → s.launchOn c sl id = (goes 1).jobBegin x.asid c (.launch c sl) q ((s.ridge? c).map (fun r => r.launch))
          [.write (x.ring + BitVec.ofNat 64 (128 * (n % x.slots))) (leBytes v 128)]) ∧
        (s.isMirror c = true → s.launchOn c sl id = goes 2))) ∧
    (p.kind = .launch seq ea q 2 → s.launchOn c sl id = s.finish c sl p [Val.of seq]))

/-- The queue windows as events: a push takes a credit and sends its entry, a pop returns one, entries and credits land at their ports
in order, and the core queues and the staging buffer take words as the windows do; a refused push or pop of a live thread traps, and
an event that would wait changes nothing (07 R145, R148, R153; 10 R208; 05 R88, R89). That the request of a committing push to cq waits
for the push's release, at the smallest scope that holds the core and every home it names, and not the push, is the model's reading of
R88, R101 and 16 R323 (log 27); that a push of the work list notes its pusher's writes for a later move is log 122. -/
def Obligations.QueueWindows : Prop :=
  (∀ c sl port (v : BitVec 512) s,
    (∀ far fsl fp h x w, s.binding c sl port = .link far fsl fp h x w true → ((s.thr c sl).port port).credits ≠ 0 →
      let q := (s.thr c sl).port port
      let s1 := s.setThr c sl ((s.thr c sl).setPort port { q with credits := q.credits - 1 })
      exec (.portPush c sl port v) s = .next (s1.fly c (.entry v false) far fsl fp (port % 5 == 4)
        (if port % 5 = 4 then { num := s1.now c + 4, den := 1 } else s1.portDue c h x (decide (5 ≤ port))))) ∧
    (s.binding c sl port ≠ .edge → ((s.thr c sl).port port).credits = 0 → exec (.portPush c sl port v) s = .next s) ∧
    (s.binding c sl port = .edge → (s.thr c sl).life = .live →
      exec (.portPush c sl port v) s = .next (s.trapped c sl (det cPortEdge (port % 5 + (if 5 ≤ port then 16 else 0))) 0 0) ∧
      exec (.portPop c sl port) s = .next (s.trapped c sl (det cPortEdge (port % 5 + (if 5 ≤ port then 16 else 0))) 0 0)) ∧
    (∀ x po at' rest, s.binding c sl port ≠ .edge → ((s.thr c sl).port port).queue = (x, po, at') :: rest → at' ≤ s.now c →
      exec (.portPop c sl port) s = .next ((s.setThr c sl ((s.thr c sl).setPort port
        { (s.thr c sl).port port with queue := rest })).sendCredit c sl port))) ∧
  (∀ c sl (v : Word) s,
    ((s.core c).wl.length + unseen ((s.core c).wlGone.map (fun g => g.2)) (s.now c) < 4096 → s.releaseReady c sl 2 = true → exec (.wlPush c sl v) s =
      .next ((s.oweWl c sl).modCore c (fun k => { k with wl := k.wl ++ [(v, k.cycle)] }))) ∧
    ((s.core c).tq.length + unseen (s.core c).tqGone (s.now c) < 16 → s.releaseReady c sl 2 = true → exec (.tqPush c sl v) s =
      .next (s.modCore c (fun k => { k with tq := k.tq ++ [(v, k.cycle)] }))) ∧
    (4096 ≤ (s.core c).wl.length + unseen ((s.core c).wlGone.map (fun g => g.2)) (s.now c) → exec (.wlPush c sl v) s = .next s) ∧
    (16 ≤ (s.core c).tq.length + unseen (s.core c).tqGone (s.now c) → exec (.tqPush c sl v) s = .next s) ∧
    (∀ x t rest, (s.core c).wl = (x, t) :: rest → t + 4 ≤ s.now c → exec (.wlPop c sl) s = .next (s.modCore c (fun k =>
      { k with wl := rest, wlGone := (t, k.cycle) :: k.wlGone.filter (fun (g : Nat × Nat) => k.cycle < g.2 + 4) }))) ∧
    (∀ x t rest, (s.core c).tq = (x, t) :: rest → t + 4 ≤ s.now c →
      exec (.tqPop c) s = .next (s.modCore c (fun k =>
        { k with tq := rest, tqGone := k.cycle :: k.tqGone.filter (fun (t : Nat) => k.cycle < t + 4) }))) ∧
    (∀ x po at' rest, (s.thr c sl).vmq = (x, po, at') :: rest → at' ≤ s.now c →
      exec (.vmqPop c sl) s = .next (s.setThr c sl { s.thr c sl with vmq := rest })) ∧
    ((s.thr c sl).staging.length < 3 →
      exec (.cqPush c sl v) s = .next (s.setThr c sl { s.thr c sl with staging := (s.thr c sl).staging ++ [v] })) ∧
    (∀ a b len, (s.thr c sl).staging = [a, b, len] → reqWords len = 4 →
      (∀ f, s.checkRequest c [a, b, len, v] = some f → (s.thr c sl).life = .live → exec (.cqPush c sl v) s =
        .next ((s.modThr c sl (fun t => { t with staging := [] })).trapped c sl f.1 f.2 f.2)) ∧
      (s.checkRequest c [a, b, len, v] = none → lfReg len = false →
        ((s.core c).copies.filter (fun (r : CopyReq) => !r.active)).length < 16 →
        let req : CopyReq := { id := s.fresh, slot := sl, words := [a, b, len, v], active := false, before := 0, issued := 0,
                               performed := 0, outstanding := 0, due := s.now c + 1,
                               waits := s.releaseIds c sl (s.scopeOf c (reqSrcs [a, b, len, v] ++ reqDests [a, b, len, v])),
                               actor := if sl = 13 then (s.thr c 13).invocation.bind (fun v => v.actor) else none }
        let s1 := { s with fresh := s.fresh + 1 }
        exec (.cqPush c sl v) s = .next ((s1.modCore c (fun k => { k with copies := k.copies ++ [req] })).modThr c sl
          (fun t => { t with staging := [] }))))) ∧
  (∀ id f s, s.landed? id = some f →
    let s1 := { s with flights := s.flights.filter (fun (x : Flight) => x.id != id) }
    let at' (g : Port → Port) : State := s1.modThr f.core f.slot (fun t => t.setPort f.port (g (t.port f.port)))
    (∀ v po, f.load = .entry v po → exec (.portEntryArrival id) s =
      .next (at' (fun q => { q with queue := q.queue ++ [(v, po, s.now f.core + 1)] }))) ∧
    (f.load = .credit → exec (.portCreditReturn id) s = .next (at' (fun q => { q with credits := q.credits + 1 }))))

/-- A request starts when fewer than four issue and its release is over, in a slot 14 that is in the rotation (17 R358) and behind the
vault windows of a resumed instance (18 R395); its beats and messages go one a cycle: bytes that have come are written, bytes of the
source are read and, when the piece is whole, go to a home in a message or to their destination; the homes serve its messages a beat
at a time and acknowledge them; a write that has been performed counts, and when all have the completion posts and the request is gone
(05 R96-R102; 26 R441). That the write of a vault piece to the vault takes beats of its own is a reading of the model (log 34). That a
counter posted into a critical vault ends the copy with VAULT_THERMAL 0x05 is another (log 91). -/
def Obligations.CopyRequests : Prop :=
  (∀ c r s, (s.core c).copies.find? (fun (r : CopyReq) => !r.active) = some r →
    ((s.core c).activeCopies.length < 4 → r.due ≤ s.now c → s.waitsOver c r.slot r.waits = true → (s.thr c 14).removed = false →
      s.windowsMove c = false →
      exec (.copyRequestStart c) s = .next (s.modCopy c r.id (fun r => { r with active := true, due := s.now c }))) ∧
    (4 ≤ (s.core c).activeCopies.length ∨ s.waitsOver c r.slot r.waits = false ∨ (s.thr c 14).removed = true ∨
      s.windowsMove c = true → exec (.copyRequestStart c) s = .next s)) ∧
  (∀ c id r s, (s.core c).copyGoes = some id → s.copy? c id = some r →
    let s1 := s.modCore c (fun k => { k with copyTurn := r.id, copyNext := k.cycle + 1, granted := none })
    (∀ dst data rest, r.landing = (dst, data) :: rest → r.fill = false →
      let n := beatBytes dst.toNat data.length
      exec (.copyBeat c) s = .next (((s1.modCopy c r.id (fun r => { r with
        landing := if n < data.length then (dst + BitVec.ofNat 64 n, data.drop n) :: rest else rest })).deliverBytes c dst.toNat
          (data.take n) (r.actor.getD c)).wrote c r (data.take n).length)) ∧
    (r.landing = [] →
      let src := (s1.piece c r).1
      let dst := (s1.piece c r).2.1
      let n := (s1.piece c r).2.2
      let a := src.toNat + r.gath.length
      let left := n - r.gath.length
      let k := if inVault a = false ∧ r.fill = false ∧ isGlobal dst = false ∧ inVault dst.toNat = true then left else beatBytes a left
      let s2 := s1.sense c a k (r.actor.getD c)
      let data := r.gath ++ s2.copyBytes c a k
      let s3 := s2.modCopy c r.id (fun r => { r with issued := r.issued + data.length, gath := [] })
      (isGlobal src = true → exec (.copyBeat c) s = .next (((s1.modCopy c r.id (fun r => { r with
        issued := r.issued + n, outstanding := r.outstanding + 1 })).send (.copyRead n dst) c 14 r.id (gaHome src) (gaOff src) src 0).asParty r.actor)) ∧
      (isGlobal src = false → k < left → exec (.copyBeat c) s = .next (s2.modCopy c r.id (fun r => { r with gath := data }))) ∧
      (isGlobal src = false → left ≤ k →
        (r.fill = true → exec (.copyBeat c) s = .next ((s3.fillReg c r data).wrote c r data.length)) ∧
        (r.fill = false → isGlobal dst = true → exec (.copyBeat c) s = .next (((s3.modCopy c r.id (fun r => { r with
          outstanding := r.outstanding + 1 })).send (.copyWrite data) c 14 r.id (gaHome dst) (gaOff dst) dst 0).asParty r.actor)) ∧
        (r.fill = false → isGlobal dst = false → inVault src.toNat = true → inVault dst.toNat = true →
          exec (.copyBeat c) s = .next (s3.modCopy c r.id (fun r => { r with landing := [(dst, data)] }))) ∧
        (r.fill = false → isGlobal dst = false → inVault src.toNat = false ∨ inVault dst.toNat = false →
          exec (.copyBeat c) s = .next ((s3.deliverBytes c dst.toNat data (r.actor.getD c)).wrote c r data.length))))) ∧
  (∀ c m s, s.agentMsg? c = some m → s.forwardTo m = none → s.behindRefused m = false →
    (∀ data h off, m.kind = .copyWrite data → s.copyAt m data.length false true = .ok h off → s.hasBeat c .agentRun = true →
      let pos := (s.core c).agentPos
      let n := beatBytes (off + pos) (data.length - pos)
      let s1 := (s.deliverBytes c (off + pos) ((data.drop pos).take n) m.actor).modCore c (fun k =>
        { k with granted := none, agentPos := pos + n })
      (pos + n < data.length → exec (.homeCopyTransfer c) s = .next s1) ∧
      (data.length ≤ pos + n → exec (.homeCopyTransfer c) s = .next ((s1.agentDone c).sendBack m (.copyDone 0 [] data.length none)))) ∧
    (∀ data code, m.kind = .copyWrite data → s.copyAt m data.length false true = .fault code →
      exec (.homeCopyTransfer c) s = .next ((s.agentDone c).sendBack m (.copyDone 0 [] data.length (some code)))) ∧
    (∀ n dst h off, m.kind = .copyRead n dst → m.slot ≠ 19 → s.copyAt m n true false = .ok h off → s.hasBeat c .agentRun = true →
      let got := (s.core c).agentGot
      let k := beatBytes (off + got.length) (n - got.length)
      let s1 := s.sense c (off + got.length) k m.actor
      let all := got ++ s1.copyBytes c (off + got.length) k
      (all.length < n → exec (.homeCopyRead c) s = .next (s1.modCore c (fun k => { k with granted := none, agentGot := all }))) ∧
      (n ≤ all.length → exec (.homeCopyRead c) s = .next ((s1.agentDone c).sendBack m (.copyDone dst all n none)))) ∧
    (∀ n dst code, m.kind = .copyRead n dst → s.copyAt m n true false = .fault code →
      exec (.homeCopyRead c) s = .next ((s.agentDone c).sendBack m (.copyDone dst [] n (some code))))) ∧
  (∀ id m r dst data n s, s.arrived? id = some m → m.slot < 20 → m.slot ≠ 16 → m.slot ≠ 17 → m.slot ≠ 19 → m.dev = 0 →
    s.copy? m.core m.pend = some r →
    let s2 := (s.takeAnswer m).modCopy m.core r.id (fun r => { r with outstanding := r.outstanding - 1 })
    (m.kind = .copyDone dst [] n none → exec (.copyWritePerformed id) s = .next (s2.wrote m.core r n)) ∧
    (m.kind = .copyDone dst data n none → data ≠ [] → r.fill = true → exec (.copyWritePerformed id) s =
      .next (((s2.recordBad m).fillReg m.core r data).wrote m.core r data.length)) ∧
    (m.kind = .copyDone dst data n none → data ≠ [] → r.fill = false → exec (.copyWritePerformed id) s =
      .next ((s2.recordBad m).modCopy m.core r.id (fun r => { r with landing := r.landing ++ [(dst, data)] }))) ∧
    (∀ code, m.kind = .copyDone dst data n (some code) → exec (.copyWritePerformed id) s =
      .next ((s2.failCopy m.core r.id code m.va).asFar s2 m))) ∧
  (∀ c id r s, s.copy? c id = some r → r.active = true → r.allIssued = true → r.total ≤ r.performed →
    let a := cmpTarget (r.w 3)
    let amount := if cmpAmount (r.w 3) = 0 then 1 else BitVec.ofNat 64 (r.before + r.total)
    (cmpKind (r.w 3) = 0 → exec (.copyCompletion c id) s = .next (s.dropCopy c id)) ∧
    (cmpKind (r.w 3) = 1 → inVault a = true → (s.core c).therm = 3 → s.hasBeat c (.post id) = false →
      (s.core c).halfDone (.post id) = false →
      exec (.copyCompletion c id) s = .next (s.failCopy c id (det cVaultThermal 5) (BitVec.ofNat 64 a))) ∧
    (cmpKind (r.w 3) = 1 → inVault a = true → (s.core c).therm ≠ 3 → s.hasBeat c (.post id) = false → (s.core c).queued (.post id) = false →
      exec (.copyCompletion c id) s = .next (s.request c 14 (.post id) a 8 true true 0)) ∧
    (cmpKind (r.w 3) = 1 → inVault a = true → s.hasBeat c (.post id) = true →
      let s1 := s.modCore c (fun k => { k with granted := none })
      exec (.copyCompletion c id) s =
        .next ((s1.store c a (leBytes (s1.readW c a 8 + amount).toNat 8) 0 ((s.core c).actorOf c (.post id))).dropCopy c id)) ∧
    (cmpKind (r.w 3) = 1 → inVault a = false →
      let s1 := s.sense c a 8
      exec (.copyCompletion c id) s =
        .next ((s1.store c a (leBytes (s1.readW c a 8 + amount).toNat 8) 0 ((s.core c).actorOf c (.post id))).dropCopy c id)) ∧
    (cmpKind (r.w 3) = 2 → r.fill = true → exec (.copyCompletion c id) s =
      .next ((s.dropCopy c id).addBytes c a (0 - BitVec.ofNat 64 (r.before + r.total)))))

/-- The pieces of a row: each is non-empty, lies in the part of the row that is left, at its low end going up and at its high
end going down, and crosses no boundary (05 R96, R99; log 34). -/
def Obligations.CopyPieces : Prop :=
  ∀ cut unit len done : Nat, done < len → 0 < unit → ∀ down : Bool,
    let p := nextPiece cut unit len done down
    0 < p.2 ∧ p.2 ≤ unit ∧ p.2 ≤ len - done ∧ (down = false → p.1 = done) ∧ (down = true → p.1 + p.2 = len - done) ∧
    (cut + p.1) / unit = (cut + p.1 + p.2 - 1) / unit

/-- A thermal change takes effect at once; between normal and any other state it starts the new refresh schedule, and the
entry to critical alone abandons accesses, transfers and copies of the vault (04 R70, R75, R76; log 91). -/
def Obligations.ThermalChanges : Prop :=
  ∀ c (t : BitVec 2) s, let k := s.core c
    let from' := if (k.therm = 0 ↔ t.toNat = 0) then k.schedFrom else s.rtime + k.rcOf 64
    let s1 := s.modCore c (fun k => { k with therm := t.toNat, schedFrom := from' })
    (t.toNat ≠ 3 ∨ k.therm = 3 → exec (.thermalStateChange c t) s = .next s1) ∧
    (t.toNat = 3 → k.therm ≠ 3 → exec (.thermalStateChange c t) s =
      .next ((((s1.loseAccesses c).loseTransfers c).loseCopies c).modCore c Core.enterCritical))

/-- A far agent reads and writes for its oldest request that no older one of its groups precedes; where every block is clean and under its
keys the bytes are those of memory; a request that reads a block whose tag fails ends with INTEGRITY_VIOLATION; a down port answers with
FAR_PORT_DOWN until it is restored with the capacity of its expander (03 R53-R63; 14 R282). That a message that reads a bad block delivers
none of its blocks is the model's choice (log 112). -/
def Obligations.FarAgents : Prop :=
  let plain (bs : List Byte) : List (Byte × Bool) := bs.map (fun (b : Byte) => (b, false))
  (∀ j m s, s.portsDown.contains (j / 2) = false → s.forwardTo m = none → s.ask 1 m.id = (true, s) → m.slot < 17 →
    (s.farNext j MsgKind.farReads = some m →
      (∀ n off, m.kind = .rget n → s.homeAt m n true false = .ok m.home off → s.farHeld m true false = none →
        let g := s.farGet m.home off n m.asid m.actor
        (g.broken = none → exec (.farRead j) s = .next ((g.st.dropMsg m.id).reply { m with bad := g.lost }
          (BitVec.ofNat 512 (leNat (g.data.map (fun (x : Byte × Bool) => x.1)))) (g.data.any (fun (x : Byte × Bool) => x.2)) none)) ∧
        (∀ b, g.broken = some b → m.dev = 0 → exec (.farRead j) s = .next (g.st.farFail { m with bad := [b] } (det cIntegrity 0)))) ∧
      (∀ n dst off, m.kind = .copyRead n dst → s.homeAt m n true false = .ok m.home off → s.farHeld m true false = none →
        let g := s.farGet m.home off n m.asid m.actor
        g.broken = none → exec (.farRead j) s =
          .next ((g.st.dropMsg m.id).sendBack { m with bad := g.lost } (.copyDone dst g.data n none))) ∧
      (∀ n code, m.kind = .rget n → s.homeAt m n true false = .fault code → exec (.farRead j) s = .next (s.farFail m code))) ∧
    (s.farNext j MsgKind.farWrites = some m →
      (∀ n v po off s1, m.kind = .rput n v po → m.tag = 0 → s.homeAt m n false true = .ok m.home off → s.farHeld m false true = none →
        s.farPut m.home off m.asid m.actor (plain (vecBytes v n)) = (s1, none) →
        exec (.farWrite j) s = .next ((s1.dropMsg m.id).sendBack m (.reply 0 false none))) ∧
      (∀ data off s1, m.kind = .copyWrite data → s.homeAt m data.length false true = .ok m.home off → s.farHeld m false true = none →
        s.farPut m.home off m.asid m.actor data = (s1, none) →
        exec (.farWrite j) s = .next ((s1.dropMsg m.id).sendBack m (.copyDone 0 [] data.length none))) ∧
      (∀ op x y off v s1, m.kind = .ratom op x y → m.tag = 0 → s.homeAt m 8 true true = .ok m.home off → s.farHeld m true true = none →
        let g := s.farGet m.home off 8 m.asid m.actor
        let old : Word := BitVec.ofNat 64 (leNat (g.data.map (fun (x : Byte × Bool) => x.1)))
        g.broken = none → g.data.any (fun (x : Byte × Bool) => x.2) = false → g.st.isMirror m.core = false → op.new old x y = some v →
        g.st.farPut m.home off m.asid m.actor (plain (leBytes v.toNat 8)) = (s1, none) →
        exec (.farWrite j) s = .next ((s1.dropMsg m.id).sendBack m (.reply (old.setWidth 512) false none))))) ∧
  (∀ j m n s, s.portsDown.contains (j / 2) = true → m.kind = .rget n → s.farNext j MsgKind.farReads = some m →
    exec (.farRead j) s = .next ((s.dropMsg m.id).reply m (m.va.setWidth 512) false (some (det cFarPortDown 0)))) ∧
  (∀ home off n asid core (s : State), 0 < n → off / 256 = (off + n - 1) / 256 → s.checkBlock home off = .clean →
    s.tagBad home off asid [] = false →
    let g := s.farGet home off n asid core
    g.data = plain (s.bytes home off n) ∧ g.lost = [] ∧ g.broken = none) ∧
  (∀ p s, let s1 := { s with portsDown := sinsert s.portsDown p }
    exec (.farPortDown p) s =
      .next ((s1.atAgent (2 * p) ++ s1.atAgent (2 * p + 1)).foldl (fun s m => s.farFail m (det cFarPortDown 0)) s1)) ∧
  (∀ p cap s, (s.portsDown.contains p = true → ∃ t, exec (.farPortRestore p cap) s = .next t ∧
      t.portsDown = s.portsDown.filter (fun (x : Nat) => x != p) ∧ t.mem = s.mem ∧ t.cores = s.cores ∧
      t.farCap = assocSet (assocSet s.farCap (2 * p) (dataCapacity (cap / 2))) (2 * p + 1) (dataCapacity (cap / 2))) ∧
    (s.portsDown.contains p = false → exec (.farPortRestore p cap) s = .next s))

/-- A word that is not an instruction traps with the detail of its first failing check; a miss queues one refill of its line,
which is resident 16 cycles after the reply. In a redundant pair, for whatever instruction: an effect that leaves the pair waits in the
comparator for its twin, is released once, on the leading slot's behalf, when both agree, and is a mismatch when they differ; a value
from outside is read once and passed on through the load-value queue, whose entry the trailing slot takes when it is there and its own; a
trap is delivered once when both slots take it; a deposit unmatched for 4,096 cycles is a mismatch of its pair. A flagged
instruction issues again, and the fourth flag in a row is TIMING_PERSISTENT, in a pair a trap of both slots (02 R34; 17 R340; 18
R385-R388). When the two sides are compared, and the pair's trap of both slots at the fourth flag, are the model's reading (log 33), and so
is one TIMING_REPLAY record for each flagged attempt up to the third (log 56). -/
def Obligations.InstructionSupply : Prop :=
  (∀ w r s, decode w = .error r → exec (.nonInstruction w) s =
    .next (s.trapped s.curCore s.curSlot (det cIllegalInstruction r.detail.toNat) 0 0)) ∧
  (∀ c sl s, let line := (s.thr c sl).pc.toNat / 2048
    ((s.core c).resident line = true → exec (.instructionStoreMiss c sl) s = .next s) ∧
    ((s.core c).resident line = false → (s.core c).ridge ≠ none → (s.core c).refills = [] →
      exec (.instructionStoreMiss c sl) s = .next ((s.modCore c (fun k => { k with refills := [line] })).readLine c line)) ∧
    ((s.core c).resident line = false → (s.core c).ridge ≠ none → (s.core c).refills ≠ [] → (s.core c).refills.contains line = false →
      exec (.instructionStoreMiss c sl) s = .next (s.modCore c (fun k => { k with refills := k.refills ++ [line] })))) ∧
  (∀ c m s, s.refillReply c = some m → s.staleLines c = [] →
    ((s.core c).refillDue = none →
      exec (.refillComplete c) s = .next (s.modCore c (fun k => { k with refillDue := some (k.cycle + 16) }))) ∧
    (∀ t, (s.core c).refillDue = some t → (s.core c).cycle < t → exec (.refillComplete c) s = .next s) ∧
    (∀ t dst data n, (s.core c).refillDue = some t → t ≤ (s.core c).cycle → m.kind = .copyDone dst data n none →
      (s.core c).refills = [m.pend] → exec (.refillComplete c) s =
        .next ((((s.takeAnswer m).modCore c (fun k => { k with refillDue := none, refills := [] })).modCore c
          (fun k => k.installLine m.pend data)).recordBad m))) ∧
  (∀ c pair s, let late := ((s.core c).pair pair).cmp.filter (fun (e : CmpEntry) => !e.matched && decide (e.at' + 4096 ≤ s.now c))
    (∀ e es, late = e :: es → exec (.comparatorTimeout c pair) s =
      .next ((s.restart c (2 * pair) 2 e.pc (decide (2 ≤ e.kind))).loseDeposits c pair late)) ∧
    (late = [] → exec (.comparatorTimeout c pair) s = .next s)) ∧
  (∀ s f (body : State → Nat → Nat → List Val → Act) s1 xs, PairOpens s f s1 xs →
    f.takes = false → f.srcsIn = false → f.givesOut = true → (myPair s).lvq.length ≤ 32 → HasEffect (body s1 s.curCore s.curSlot xs) →
    let c := s.curCore
    let sl := s.curSlot
    let p := myPair s
    let lead : Bool := sl % 2 == 0
    let e : CmpEntry := ⟨lead, (me s).pc, 0, ownData (if lead then pickSrcs false f.srcs xs else xs), s.now c, false⟩
    let agrees (o : CmpEntry) : Prop := o.pc = e.pc ∧ o.kind = e.kind ∧ o.data = e.data
    (ownDeposit p lead = none → twinDeposit p lead = none →
      (p.cmp.length < 8 → s.issueStep f body = .next ((withPair s s { p with cmp := p.cmp ++ [e] }).parked c sl .memory)) ∧
      (8 ≤ p.cmp.length → s.issueStep f body = .next ((withPair s s p).parked c sl .memory))) ∧
    (∀ o, ownDeposit p lead = none → twinDeposit p lead = some o → ¬agrees o →
      s.issueStep f body = .next ((s.restart c sl 2 (me s).pc false).account c sl .issued)) ∧
    (∀ o, lead = true → ownDeposit p lead = none → twinDeposit p lead = some o → agrees o → let s2 := withPair s s1 (matchedWith p o)
      CarriesOut s f (body s2 c sl xs) (s.issueStep f body)) ∧
    (∀ o, lead = true → ownDeposit p lead = some o → o.matched = true → let s2 := withPair s s1 { p with cmp := p.cmp.erase o }
      CarriesOut s f (body s2 c sl xs) (s.issueStep f body)) ∧
    (∀ o, lead = false → ownDeposit p lead = none → twinDeposit p lead = some o → agrees o → f.gives = true → f.dsts = [] →
      let s2 := withPair s s1 (matchedWith p o)
      (∀ s3 kind due, body s2 c sl xs = .pend s3 kind due → s.issueStep f body = .next (issuedFrom s f s2 ((me s).pc + 4))) ∧
      (∀ s3 n, body s2 c sl xs = .ret s3 [] n → s.issueStep f body = .next (issuedFrom s f s2 (n.getD ((me s).pc + 4)))))) ∧
  (∀ s f (body : State → Nat → Nat → List Val → Act) s1 xs, PairOpens s f s1 xs → f.takes = true → f.srcsIn = false → f.givesOut = false →
    let c := s.curCore
    let sl := s.curSlot
    let p := (s1.core c).pair (sl / 2)
    (sl % 2 = 0 → 32 ≤ (myPair s).lvq.length → s.issueStep f body = .next (s.parked c sl .memory)) ∧
    (sl % 2 = 0 → (myPair s).lvq.length < 32 → ∀ s2 kind due, body s1 c sl xs = .pend s2 kind due →
      Pends s f (s2.passOn c sl ⟨(me s).pc, ownData (pickSrcs false f.srcs xs), s2.fresh, [], false, none⟩) kind due (s.issueStep f body)) ∧
    (sl % 2 = 1 → (myPair s).leadTrap (me s).pc = none →
      (p.lvq = [] → s.issueStep f body = .next (s.parked c sl .memory)) ∧
      (∀ e rest, p.lvq = e :: rest →
        (e.pc ≠ (me s).pc ∨ e.ops ≠ ownData xs →
          s.issueStep f body = .next ((s.restart c sl 2 (me s).pc false).account c sl .issued)) ∧
        (e.pc = (me s).pc → e.ops = ownData xs → e.ready = false → s.issueStep f body = .next (s.parked c sl .memory)) ∧
        (e.pc = (me s).pc → e.ops = ownData xs → e.ready = true →
          let got : List (Opnd × Val) := f.dsts.zip (e.vals.map (fun (x : Vec × Bool) => ⟨x.1, x.2⟩))
          s.issueStep f body = .next (issuedFrom s f ((withPair s s1 { p with lvq := rest }).fillAll c sl
            (got.filter (fun (x : Opnd × Val) => !x.1.isOutside))) ((me s).pc + 4)))))) ∧
  (∀ s f (body : State → Nat → Nat → List Val → Act) s1 xs, PairOpens s f s1 xs → f.takes = false → f.srcsIn = true → f.givesOut = false →
    let c := s.curCore
    let sl := s.curSlot
    let own := ownData (pickSrcs false f.srcs xs)
    let outs : List (Vec × Bool) := (pickSrcs true f.srcs xs).map (fun (v : Val) => (v.x, v.poison))
    (sl % 2 = 0 → (myPair s).lvq.length < 32 → ∀ s2 ws n, body (s1.passOn c sl ⟨(me s).pc, own, 0, outs, true, none⟩) c sl xs = .ret s2 ws n →
      Retires s f s2 ws (n.getD ((me s).pc + 4)) (s.issueStep f body)) ∧
    (sl % 2 = 1 → (myPair s).leadTrap (me s).pc = none → ((s1.core c).pair (sl / 2)).lvq = [] →
      s.issueStep f body = .next (s.parked c sl .memory))) ∧
  (∀ (s : State) c sl id e rest vals, s.isPair c sl = true → sl % 2 = 0 → ((s.core c).pair (sl / 2)).lvq = e :: rest → e.id = id →
    e.ready = false → (((s.supply c sl id vals).core c).pair (sl / 2)).lvq =
      { e with vals := vals.map (fun (v : Val) => (v.x, v.poison)), ready := true } :: rest) ∧
  (∀ (s : State) c sl code info addr pc, let p := (s.core c).pair (sl / 2)
    let lead : Bool := sl % 2 == 0
    let e : CmpEntry := ⟨lead, pc, 1, [code.setWidth 64, info, addr], s.now c, false⟩
    let agrees (o : CmpEntry) : Prop := o.pc = e.pc ∧ o.kind = e.kind ∧ o.data = e.data
    ownDeposit p lead = none →
    (twinDeposit p lead = none → p.cmp.length < 8 →
      s.pairTrap c sl code info addr pc = (s.setPair c (sl / 2) { p with cmp := p.cmp ++ [e] }).parked c sl .memory) ∧
    (∀ o, twinDeposit p lead = some o → ¬agrees o → s.pairTrap c sl code info addr pc = (s.restart c sl 2 pc false).account c sl .issued) ∧
    (∀ o, twinDeposit p lead = some o → agrees o →
      let s1 := s.setPair c (sl / 2) { p with cmp := p.cmp.filter (fun (x : CmpEntry) => decide (2 ≤ x.kind)) }
      let s2 := s1.deliver c (sl / 2 * 2) code info addr pc false 0
      (s2.thr c (sl / 2 * 2)).handler = (s.thr c (sl / 2 * 2)).handler → s.pairTrap c sl code info addr pc = s2.account c sl .issued)) ∧
  (∀ c sl s, (s.thr c sl).life = .live →
    ((s.thr c sl).replays < 3 → exec (.timingReplay c sl) s =
      .next ((s.record c sl cTimingReplay 0 false (s.thr c sl).handler (s.thr c sl).pc).modThr c sl
        (fun t => { t with replays := t.replays + 1, replayNext := true }))) ∧
    (∀ w, 3 ≤ (s.thr c sl).replays → (s.core c).fetchWord (s.thr c sl).pc = .word w →
      let s1 := s.modThr c sl (fun t => { t with replays := 0, replayNext := false, word := w })
      (s.isPair c sl = false → exec (.timingReplay c sl) s =
        .next (s1.deliver c sl (det cTimingPersistent 0) 0 0 (s.thr c sl).pc false 0)) ∧
      (s.isPair c sl = true → exec (.timingReplay c sl) s =
        .next (s1.pairTrap c sl (det cTimingPersistent 0) 0 0 (s.thr c sl).pc))))

/-- The doorbell moves a queue's tail; the sequencer reads the packet at the head, which becomes a launch in checking, and what its checks ask
for, in the order of R345; a packet is refused with its status, or waits for its dependences, which are read every 256 router cycles, and
then for its leases (17 R341-R346; 20 R424). That the sequencer's accesses take the time of messages is the model's choice (log 38). A
header's ranges that R49's list does not name are checked by the model's choice (log 111). -/
def Obligations.LaunchEvents : Prop :=
  (∀ q tail x s, s.queue? q = some x →
    (x.tail ≤ tail → tail ≤ x.head + x.slots →
      exec (.queueDoorbell q tail) s = .next (s.modQueue q (fun x => { x with tail := tail }))) ∧
    (tail < x.tail ∨ x.head + x.slots < tail → exec (.queueDoorbell q tail) s = .next s)) ∧
  (∀ q x a s, s.queue? q = some x → s.devState = 2 → s.serves q = true → x.head < x.tail →
    s.asids.find? (fun (a : Asid) => a.id == x.asid) = some a →
    (x.current = none → s.job? .check q = none → exec (.packetCheck q) s =
      .next (s.jobBegin a.id (seqCore (q % 4)) .check q none [.read (x.ring + BitVec.ofNat 64 (128 * (x.head % x.slots))) 128])) ∧
    (∀ j, s.job? .check q = some j → j.ops ≠ [] → x.current ≠ none → exec (.packetCheck q) s = .next s) ∧
    (∀ j, s.job? .check q = some j → j.ops = [] →
      (x.current = none → j.failed = false →
        let bs := j.got.headD []
        let s1 (l : Launch) : State := { (s.modQueue x.id (fun x => { x with current := some l.id, armed := false })) with
          fresh := s.fresh + 1, launches := s.launches ++ [l] }
        ∃ l : Launch, exec (.packetCheck q) s = .next (if x.armed = true then (s1 l).openCairn l bs else s1 l) ∧
          l.id = s.fresh ∧ l.queue = x.id ∧ l.asid = a.id ∧ l.packet = Packet.ofBytes bs ∧ l.state = .checking ∧
          l.count = (Packet.ofBytes bs).count ∧ l.placed = 0 ∧ l.status = (Packet.ofBytes bs).status ∧ l.done = (Packet.ofBytes bs).done) ∧
      (∀ l, x.current.bind s.launch? = some l → j.launch.isSome = true →
        (∀ ops, s.checkNext a l.packet j.got j.failed = .read ops →
          exec (.packetCheck q) s = .next (s.setJob (({ j with launch := some l.id } : Job).with ops))) ∧
        (∀ code h, s.checkNext a l.packet j.got j.failed = .refused code h →
          exec (.packetCheck q) s = .next ((s.dropJob j.id).refusePacket l code h j.got)) ∧
        (∀ h ls, s.checkNext a l.packet j.got j.failed = .ok h ls →
          exec (.packetCheck q) s = .next ((s.dropJob j.id).acceptPacket l h ls))))) ∧
  (∀ (s : State) (l : Launch) code h got, l.capture = none → ∃ t : State, t.cairns = s.cairns ∧
    s.refusePacket l code h got = t.postStatus l.asid l.queue l.id l.status l.done (s.statusRecord code 0 0) l.packet.count ∧
    t.launches = s.launches.filter (fun (x : Launch) => x.id != l.id) ∧ t.mem = s.mem ∧ t.jobs = s.jobs ∧
    t.queues = (s.modQueue l.queue (fun x => { x with head := x.head + 1, current := none })).queues) ∧
  (∀ (s : State) (l : Launch) h ls, l.capture = none → s.acceptPacket l h ls =
    s.modLaunch l.id (fun x => { x with state := .depwait, header := h, leases := ls, polled := s.rtime })) ∧
  (∀ (s : State) a p,
    (s.drain.getLsbD 0 = true → s.checkPacket a p = .refused 8 none) ∧
    (s.drain.getLsbD 0 = false → s.badForm a.id p = true → s.checkPacket a p = .refused 3 none) ∧
    (s.drain.getLsbD 0 = false → s.badForm a.id p = false → (33 ≤ p.w ∨ 17 ≤ p.h) → s.checkPacket a p = .refused 4 none) ∧
    (s.drain.getLsbD 0 = false → s.badForm a.id p = false → p.w < 33 → p.h < 17 → a.ceil < p.mnfreq →
      s.checkPacket a p = .refused 2 none) ∧
    (s.drain.getLsbD 0 = false → s.badForm a.id p = false → p.w < 33 → p.h < 17 → p.mnfreq ≤ a.ceil →
      (s.memExists a.id p.code 64 = false → s.checkPacket a p = .refused 7 none) ∧
      (s.memExists a.id p.code 64 = true → s.checkPacket a p = .read [.read p.code 64]))) ∧
  (∀ (s : State) a p slot h am lt dt more,
    (headerBad h = true → s.checkNext a p [slot, h] false = .refused 1 none) ∧
    (headerBad h = false → s.memExists a.id p.code (field h 0x24 4) = false → s.checkNext a p [slot, h] false = .refused 7 none) ∧
    (tablesBad (leaseTable lt (field h 14 1)) (dataTable dt (field h 0x22 2)) (field h 0x24 4) (field h 0x10 4) = true →
      s.checkNext a p (slot :: h :: am :: lt :: dt :: more) false = .refused 1 none) ∧
    (∀ hd : Header, (s.capacity p hd = false → s.checkCapacity a.id p hd = .refused 5 (some hd)) ∧
      (s.capacity p hd = true → p.gcount = 0 → s.checkCapacity a.id p hd = .ok hd []) ∧
      (s.capacity p hd = true → p.gcount ≠ 0 → s.memExists a.id p.glist (16 * p.gcount) = false →
        s.checkCapacity a.id p hd = .refused 6 (some hd)))) ∧
  (∀ l x s, s.launch? l = some x → x.state = .depwait →
    let met (t : State) (vs : List Word) : State := let s1 := t.modLaunch l (fun x => { x with state := .leasing, deps := vs })
      { s1 with cairns := s1.cairns.map (fun (k : Cairn) => if k.launch == l then { k with deps := vs } else k) }
    (x.packet.dep0 = 0 → x.packet.dep1 = 0 → exec (.dependencePoll l) s = .next (met s [0, 0])) ∧
    (x.packet.dep0 ≠ 0 → x.packet.dep1 = 0 →
      (s.job? .poll l = none → s.rtime < x.polled → exec (.dependencePoll l) s = .next s) ∧
      (s.job? .poll l = none → x.polled ≤ s.rtime → exec (.dependencePoll l) s =
        .next ((s.modLaunch l (fun x => { x with polled := s.rtime + 256 })).jobBegin x.asid (seqCore (x.queue % 4)) .poll l (some l)
          [.read x.packet.dep0 8])) ∧
      (∀ j bs, s.job? .poll l = some j → j.ops = [] → j.got = [bs] → j.failed = false →
        let v : Word := BitVec.ofNat 64 (leNat bs)
        (v.toNat < x.packet.thr0.toNat → exec (.dependencePoll l) s = .next (s.dropJob j.id)) ∧
        (x.packet.thr0.toNat ≤ v.toNat → exec (.dependencePoll l) s = .next (met (s.dropJob j.id) [v, 0]))))) ∧
  (∀ l x s, s.launch? l = some x → x.state = .leasing → s.leasesReady x = true → s.ask 0 l = (true, s) →
    ∃ t, exec (.leasingComplete l) s = .next t ∧ t.launch? l = some { x with state := .placing, readyAt := s.rtime } ∧
      t.cores = s.cores ∧ t.mem = s.mem ∧ t.pins = s.pins ++ x.leases.map (fun (e : Word × Nat × Bool × Bool) =>
        (⟨l, gaHome e.1, gaOff e.1, e.2.1, e.2.2.1, e.2.2.2⟩ : Pin)))

/-- An arbiter serves the first priority level of its partition that can be served; an instance starts, is pre-empted, saved, resumed and
ended as its members and cores allow (17 R347-R354; 18 R390, R395): its banks are precharged at its start (21 R433) and its hash begins
anew (19 R414); both copies of a mirrored placement start together (19 R413). That the deposits of unmatched pairs are withdrawn when a
victim quiesces is the model's reading (log 33), and that windows are copied one after another is its choice (log 38). That a parked SPAWN
gives its member back then is its reading of 07 R134 (log 86), and that an unserved queue's launch is not placed is its reading of R413 (log 73). -/
def Obligations.PlacementEvents : Prop :=
  (∀ p s, ((∀ n, n < 64 → s.serveLevel p n = none) → exec (.placementArbitration p) s = .next s) ∧
    (∀ n t, n < 64 → s.serveLevel p n = some t → (∀ m, m < n → s.serveLevel p m = none) →
      exec (.placementArbitration p) s = .next t)) ∧
  (∀ (s : State) part prio x o, s.ridges = [] → s.turnOrder part prio = [x] → s.rectFor part x = some o → s.serves x.queue = true →
    s.waitsHost x.id = false → s.ask 2 x.id = (true, s) → s.serveLevel part prio = some { s.place' x o with turns := tblSet s.turns (part, prio) x.queue }) ∧
  (∀ (s : State) part prio r o, s.ridges = [r] → r.state = .saved → r.packet.prio = prio → r.y / 16 = part → s.rectOf part r = some o →
    s.waitsHost r.id = false → s.ask 2 r.id = (true, s) →
    (s.imagesSound r = true → s.serveLevel part prio = some (s.resume r o)) ∧
    (s.imagesSound r = false → s.serveLevel part prio = some (s.damagedImage r))) ∧
  (∀ id r s, s.ridges.find? (fun (r : Ridge) => r.id == id) = some r →
    let copying := s.jobs.any (fun (j : Job) => j.obj == id && j.fn == .resume)
    (r.state = .resuming → copying = true →
      (s.jobs.all (fun (j : Job) => !j.setsUp id || j.isOver) = true → exec (.commonStart id) s = .next (s.rearm r)) ∧
      (s.jobs.all (fun (j : Job) => !j.setsUp id || j.isOver) = false → exec (.commonStart id) s = .next s)) ∧
    (r.state = .starting ∨ r.state = .resuming ∧ copying = false →
      (r.startAt ≤ s.rtime → s.isSetUp r = true → s.twinSetUp r = true → s.recommitted r = true → exec (.commonStart id) s =
        .next (r.cores.foldl (fun (s : State) (c : Nat) => s.modCore c (fun k => { k.precharged with
          startCycle := k.cycle, hash := 0, hashCount := 0, hashWindow := 0, rolled := [], compared := 0, diverged := false }))
            (({ s.freeWindows id with jobs := s.jobs.filter (fun (j : Job) => !j.setsUp id) } : State).modRidge id
              (fun r => { r with state := .running })))) ∧
      (s.rtime < r.startAt ∨ s.isSetUp r = false ∨ s.twinSetUp r = false ∨ s.recommitted r = false → exec (.commonStart id) s = .next s)) ∧
    (r.state = .grace → r.graceEnd ≤ s.rtime → exec (.graceExpiry id) s =
      .next (r.cores.foldl (fun (s : State) (c : Nat) => ((List.range 12).foldl (fun (s : State) sl => s.unclaim c sl) s).modCore c Core.withdrawn)
        (s.modRidge id (fun r => { r with state := .saving })))) ∧
    (r.state = .grace → s.rtime < r.graceEnd → exec (.graceExpiry id) s = .next s) ∧
    (r.state = .saving → r.retiring = [] → r.cores.all (s.coreQuiet r) = true →
      (∀ m ∈ s.msgs, m.refused = true → m.dev = 0 → m.slot < 17 → r.cores.contains m.core = false) →
      let s1 := s.modRidge id (fun r => { r with state := .saved, image := r.cores.map (s.saveCore r.header), held := [] })
      exec (.saveComplete id) s = .next (r.cores.foldl
        (fun (s : State) (c : Nat) => (s.idleCore c (r.header.vaultWindows.map (fun (w : Window) => (id, w)))).modCore c Core.precharged) s1)) ∧
    (r.state = .saving → r.cores.all (s.coreQuiet r) = false → exec (.saveComplete id) s = .next s) ∧
    (r.state = .running → s.allExited r = false → exec (.instanceEnd id) s = .next s) ∧
    ((r.state = .running ∨ r.state = .grace) → s.allExited r = true → r.image = [] → r.fault = none →
      let s2 := (r.cores.foldl (fun (s : State) (c : Nat) => s.modCore c (fun k =>
        { k with copies := k.copies.filter (fun (x : CopyReq) => x.active) })) s).modRidge id (fun r => { r with state := .ending })
      (r.cores.all s2.coreOver = true → exec (.instanceEnd id) s = .next ((s2.release r).countEnded r)) ∧
      (r.cores.all s2.coreOver = false → exec (.instanceEnd id) s = .next s2)))

/-- A core ships half of its surplus to its shortest neighbour, once the writes of the pushers to the neighbourhood have been performed
(R153, R323); the neighbour appends what it has room for and returns the rest, which waits in flight where its sender has no room (the
model's choice: log 42); a power window takes or undoes one step, under the share that held when it began; the clock resumes at the
frequency ordered last; a cap ends with its lease (17 R355-R359; log 77: what caps and steps leave of a frequency). -/
def Obligations.PowerEvents : Prop :=
  (∀ c r s, (s.core c).shipping = [] → s.ridge? c = some r →
    (s.levelDue c r = false → exec (.loadLevelling c) s = .next s) ∧
    (∀ d, s.levelDue c r = true →
      let s1 := s.modCore c (fun k => { k with levelledAt := k.cycle })
      s1.shortest (s1.neighbours c) = some d →
      let surplus := (s1.core c).wl.length - (s1.core d).wl.length
      (surplus < 2 → exec (.loadLevelling c) s = .next s1) ∧
      (2 ≤ surplus → exec (.loadLevelling c) s = .next (s1.ship c d (surplus / 2))))) ∧
  (∀ c r x s, (s.core c).shipping = [x] → s.ridge? c = some r →
    (x.waits.all (fun w => s.waitsOver c w.1 w.2) = false → s.levelDue c r = false → ∃ t, exec (.loadLevelling c) s = .next t ∧
      t.flights = s.flights ∧ (t.core c).shipping = [x] ∧ (t.core c).wl = (s.core c).wl) ∧
    (x.waits.all (fun w => s.waitsOver c w.1 w.2) = true →
      let s1 := (s.modCore c (fun k => { k with shipping := [] })).shipOff c x.dest x.entries
      s1.ridge? c = some r → s1.levelDue c r = false → exec (.loadLevelling c) s = .next s1)) ∧
  (∀ id f es s, s.landed? id = some f →
    (f.load = .ship es → (s.core f.core).wl.length + es.length ≤ 4096 → exec (.wlShipmentArrival id) s =
      .next (((s.dropFlight id).appendWl f.core es).modCore f.src (fun k => { k with wlInflight := k.wlInflight - es.length }))) ∧
    (f.load = .back es → (s.core f.core).wl.length + es.length ≤ 4096 → exec (.wlShipmentArrival id) s =
      .next (((s.dropFlight id).appendWl f.core es).modCore f.core (fun k => { k with wlInflight := k.wlInflight - es.length }))) ∧
    (f.load = .back es → 4096 < (s.core f.core).wl.length + es.length → (s.core f.core).wl.length ≤ 4096 →
      exec (.wlShipmentArrival id) s = .next s)) ∧
  (∀ c avg s, s.rtime % 1024 = 0 → s.rtime ≠ 0 → (s.core c).windowAt ≠ s.rtime →
    let s1 := s.modCore c (fun k => { k with windowAt := s.rtime, windowPower := avg })
    (s1.ridge? c = none → exec (.powerWindow c avg) s = .next s1) ∧
    (∀ r, s1.ridge? c = some r → r.mirror = false → s1.lockstep = 0 →
      let set (t : State) : State := t.modCore c (fun k => k.orderFreq t.rtime (t.steppedFreq c r))
      (∀ n, s1.powerLimit c r < avg → s1.nextStep c r = some n → exec (.powerWindow c avg) s =
        .next { set (s1.takeStep c n r) with fresh := (set (s1.takeStep c n r)).fresh + 1 }) ∧
      (avg ≤ s1.powerLimit c r → avg * 10 < s1.powerLimit c r * 9 → exec (.powerWindow c avg) s =
        .next { set (s1.undoStep c r) with fresh := (set (s1.undoStep c r)).fresh + 1 }) ∧
      (avg ≤ s1.powerLimit c r → s1.powerLimit c r * 9 ≤ avg * 10 → exec (.powerWindow c avg) s =
        .next { set s1 with fresh := (set s1).fresh + 1 }))) ∧
  (∀ (s : State),
    (s.rtime % 1024 = 0 → s.sharesDue.shareWas = s.shareNow ∧ s.sharesDue.shareNow = (s.capWatts, s.heldCores.length)) ∧
    (s.rtime % 1024 ≠ 0 → s.sharesDue = s)) ∧
  (∀ c t f s, (s.core c).pause = some (t, f) →
    (t ≤ s.rtime → ∃ u, exec (.clockPauseEnd c) s = .next u ∧ (∀ x, u.core x =
        (s.modCore c (fun k => { k with pause := none, freq := f })).core x) ∧ u.mem = s.mem ∧ u.rtime = s.rtime ∧
      u.msgs.length = s.msgs.length ∧ u.flights.length = s.flights.length ∧
      (∀ m ∈ s.msgs, m.due.src ≠ some c → m ∈ u.msgs) ∧ ((s.core c).gap = none → u.msgs = s.msgs ∧ u.flights = s.flights)) ∧
    (s.rtime < t → exec (.clockPauseEnd c) s = .next s)) ∧
  (∀ w t s, s.cap = some (w, t) →
    (t ≤ s.rtime → exec .capLeaseExpiry s = .next { s with cap := none }) ∧
    (s.rtime < t → exec .capLeaseExpiry s = .next s))

/-- The debug block: stop, resume and step of named slots, the account's commands, the trigger's, register and thread window writes of
a session that reaches the core, a cycle breakpoint, the sampler, and the drain of the trace (19 R396-R408). What a write of trgctl
does to a trace that is lost or stopped is the model's choice (log 44). That a stop of a dormant or sleeping thread takes effect at
once, and that a vacant slot ignores it, is another (log 22). -/
def Obligations.DebugEvents : Prop :=
  (∀ c s,
    (∀ slots, exec (.dbgStop c slots) s = .next ((cmdSlots slots).foldl (fun (s : State) (x : Nat) =>
      if (s.thr c x).stopped || (s.thr c x).life == .vacant then s else s.debugStop c x 0 0) s)) ∧
    (∀ sl, (s.thr c sl).stopped = false → (s.thr c sl).life ≠ .vacant → ∀ x ∈ s.pairOf c sl, x < 16 →
      ((s.debugStop c sl 0 0).thr c x).stopped = true ∧ ((s.debugStop c sl 0 0).thr c x).pc = (s.thr c x).pc) ∧
    (∀ sl, (sl < 12 ∨ sl = 15) → s.isPair c sl = false → (s.thr c sl).stopped = true →
      let go (step : Bool) := s.modThr c sl (fun t => { t with stopped := false, stepping := step, skipAt := (s.thr c sl).skipAt })
      exec (.dbgResume c (BitVec.ofNat 16 (2 ^ sl))) s = .next ((go false).trace c sl 6 (s.thr c sl).pc [0]) ∧
      exec (.dbgStep c (BitVec.ofNat 16 (2 ^ sl))) s = .next ((go true).trace c sl 6 (s.thr c sl).pc [1])) ∧
    (∀ sl, (s.thr c sl).stopped = false →
      exec (.dbgResume c (BitVec.ofNat 16 (2 ^ sl))) s = .next s ∧ exec (.dbgStep c (BitVec.ofNat 16 (2 ^ sl))) s = .next s) ∧
    exec (.dbgLatch c) s = .next (s.modDbg c (fun d => { d with latchReq := true })) ∧
    exec (.dbgClearAccount c) s = .next (s.modDbg c (fun d => { d with clearReq := true })) ∧
    ((s.core c).dbg.trgctl.getLsbD 63 = true →
      exec (.dbgStartTrace c) s = .next (s.modDbg c (fun d => { d with startNow := true })) ∧
      exec (.dbgStopTrace c) s = .next (s.modDbg c (fun d => { d with stopNow := true }))) ∧
    (∀ n, ((s.core c).dbg.hits 4 0 (s.core c).cycle 0x3FFFFFFFFFF).contains n = true →
      exec (.breakpointCycleMatch c n) s = .next (s.offer c [n])) ∧
    (∀ n, ((s.core c).dbg.hits 4 0 (s.core c).cycle 0x3FFFFFFFFFF).contains n = false →
      exec (.breakpointCycleMatch c n) s = .next s)) ∧
  (∀ c v s, s.debugReach c = true →
    exec (.trgctlWrite c v) s = .next (s.modDbg c (fun d => { d with
      trgctl := v &&& 0xC0000000FFFFFFFF#64, active := false, tlost := 0, tfull := false })) ∧
    exec (.smpctlWrite c v) s = .next (s.modDbg c (fun d => { d with smpctl := v &&& 0x800000000000FFFF#64, smpCount := 0 })) ∧
    (∀ i, i < 8 → c < 1024 → exec (.registerWrite c (0x40 + 8 * i) v) s =
      .next (s.modDbg c (fun d => { d with bkpt := d.bkpt.setIfInBounds i v }))) ∧
    (∀ sl off, off % 8 = 0 → sl < 16 →
      ((s.thr c sl).stopped = false → exec (.threadWindowWrite c sl off v) s = .next (s.modDbg c (fun d => { d with wref := true }))) ∧
      (∀ t, (s.thr c sl).stopped = true → s.windowWrite c sl off v = .ok t →
        exec (.threadWindowWrite c sl off v) s = .next ((s.setThr c sl t).modDbg c (fun d => { d with wref := false }))) ∧
      ((s.thr c sl).stopped = true → s.windowWrite c sl off v = .refused →
        exec (.threadWindowWrite c sl off v) s = .next (s.modDbg c (fun d => { d with wref := true }))))) ∧
  (∀ c v sl off s, s.debugReach c = false → exec (.trgctlWrite c v) s = .next s ∧ exec (.smpctlWrite c v) s = .next s ∧
    exec (.threadWindowWrite c sl off v) s = .next s ∧ (c < 1024 → exec (.registerWrite c off v) s = .next s)) ∧
  (∀ v s, 600 ≤ v.toNat → v.toNat ≤ 2400 → exec (.registerWrite 1024 0x20 v) s = .next { s with floor := v.toNat }) ∧
  (∀ c (s : State), let d := (s.core c).dbg
    let x := (s.core c).nextSample
    let t : Thread := s.thr c x
    (d.smpctl.getLsbD 63 = true → bitsN d.smpctl 15 0 + 1 ≤ d.smpCount → exec (.sampleRecord c) s =
      .next (s.modDbg c (fun d => { d with smpCount := 0, smpLast := x, events := d.events ++
        [⟨x, 16, t.pc, [BitVec.ofNat 8 ((d.rot[x]?).getD 3), 0, t.ctx.setWidth 8, (t.ctx >>> 8).setWidth 8]⟩] }))) ∧
    (d.smpctl.getLsbD 63 = false ∨ d.smpCount < bitsN d.smpctl 15 0 + 1 → exec (.sampleRecord c) s = .next s) ∧
    (d.records = [] → exec (.traceDrain c) s = .next s) ∧
    (∀ r rest, d.records = r :: rest → d.tsize ≠ 0 → d.tfull = false ∨ d.trgctl.getLsbD 62 = true →
      let a := d.tbase + d.twr
      let s1 := s.modDbg c (fun d => { d with
        records := rest, twr := BitVec.ofNat 64 ((d.twr + 32).toNat % d.tsize.toNat),
        tfull := !d.trgctl.getLsbD 62 && decide (d.tsize ≤ d.twr + 32) })
      exec (.traceDrain c) s = .next ((s1.trace c 0xFF 7 0 (s1.tracedAddr (gaHome a) (gaOff a) a ++ [0])).inject
        (.copyWrite (r.map (fun (b : Byte) => (b, false)))) c 18 0 (gaHome a) (gaOff a) a (s.debugAsid.getD 0) 0)) ∧
    (d.tsize = 0 ∨ (d.tfull = true ∧ d.trgctl.getLsbD 62 = false) → exec (.traceDrain c) s = .next s)) ∧
  (∀ (d : Debug) cycle c,
    (0 < d.lostSince → d.records.length < 1024 → d.tfull = false ∨ d.trgctl.getLsbD 62 = true →
      d.pushLost cycle c = { d with
        lostSince := 0, records := d.records ++ [TraceEv.record ⟨0xFF, 13, 0, leBytes d.lostSince 8⟩ cycle c] }) ∧
    (d.lostSince = 0 ∨ 1024 ≤ d.records.length → d.pushLost cycle c = d))

/-- A page's pre-image reaches its cairn, when its last byte has come, while the pool has room and ends the capture otherwise, and accesses
wait for it no more; a cairn's bytes begin with its header; a window that has ended on a core and its mirror is compared, and a
difference is reported once, in two entries of the Pacia log (log 105) (19 R409, R410, R414, R415). -/
def Obligations.CaptureEvents : Prop :=
  (∀ page x k s, s.preImages.find? (fun (x : PreImage) => x.page == page && decide (x.due ≤ s.rtime)) = some x →
    s.cairns.find? (fun (k : Cairn) => k.id == x.cairn) = some k → k.live = true →
    let s1 := { s with preImages := s.preImages.erase x }
    let held := ((s.cairns.filter (fun (y : Cairn) => y.asid == k.asid)).map (fun (y : Cairn) => y.pages.length)).foldl (· + ·) 0
    exec (.preImageCopy page) s = .next (if held < Config.cairnPages then State.preDone { s1 with
        cairns := replaceFirst (fun (y : Cairn) => y.id == k.id) (fun _ => { k with pages := k.pages ++ [(page, s.pageBytes page)] }) s.cairns }
      else State.preDone { s1 with
        cairns := replaceFirst (fun (y : Cairn) => y.id == k.id) (fun _ => { k with incomplete := true, live := false }) s.cairns,
        preImages := s1.preImages.filter (fun (y : PreImage) => y.cairn != k.id) })) ∧
  (∀ page s, s.preImages.find? (fun (x : PreImage) => x.page == page && decide (x.due ≤ s.rtime)) = none →
    exec (.preImageCopy page) s = .next s) ∧
  (∀ c b r (s : State), r ∈ ((s.core c).bank b).queue → r.pre = true → s.preImages = [] →
    ∃ q ∈ ((s.preDone.core c).bank b).queue, q = { r with pre := false }) ∧
  (∀ (s : State) (k : Cairn), ∃ sum, (s.cairnBytes k).take 64 = k.head (s.cairnSections k).length sum ∧
    (k.head (s.cairnSections k).length sum).length = 64) ∧
  (∀ c s, s.lockstep ≠ 0 → c < 512 → (s.core c).ridge ≠ none → (s.core (c + 512)).ridge ≠ none → s.isMirror (c + 512) = true →
    s.isMirror c = false → (s.core c).diverged = false →
    let w := (s.core c).compared
    (s.core c).windowOver w = true → (s.core (c + 512)).windowOver w = true →
    let x := (s.core c).windowHash w
    let y := (s.core (c + 512)).windowHash w
    let drop (k : Core) : Core := { k with rolled := k.rolled.filter (fun (z : Nat × Word × Nat) => w < z.1) }
    let s1 (differ : Bool) := (s.modCore c (fun k => { drop k with compared := w + 1, diverged := differ })).modCore (c + 512) drop
    (x = y → exec (.lockstepWindowCompare c) s = .next (s1 false)) ∧
    (x ≠ y → ∃ e1 e2 : LogEntry, exec (.lockstepWindowCompare c) s = .next { s1 true with
        reports := s.reports ++ [⟨c, w, x.1, y.1, x.2, y.2, s.rtime⟩], log := s.log ++ [e1, e2], logCount := s.logCount + 2 } ∧
      e1.bytes = leBytes c 8 ++ leBytes w 8 ++ wordBytes x.1 ++ wordBytes y.1 ∧
      e2.bytes = leBytes x.2 8 ++ leBytes y.2 8 ++ leBytes s.rtime 8 ++ leBytes 0 8))

/-- The links: a good flit in order is accepted and its slots delivered, any other answers with one replay request; the
buffer keeps a flit until it is acknowledged and sends it again when asked; lanes that fail retrain one half (a replay request still
to be sent is served by the replay that follows: log 93), and a link that cannot train goes down, its requests failing (20 R420-R423;
27 R444, R445). Which device is at the far end of a link, and which lane of the half that has not come up in a training of both is the
failed one, are free values of the machine (log 74). -/
def Obligations.LinkEvents : Prop :=
  (∀ l bytes s, l < 6 → bytes.length = 144 → ((s.link l).state = .up16 ∨ (s.link l).state = .up8) →
    let good := field bytes 136 4 = (crc32 (bytes.take 136)).toNat
    let s1 := s.modLink l (fun k => k.acked (field bytes 2 2))
    let slots := field bytes 4 1 % 4
    let seq := field bytes 0 2 % 4096
    let s2 := s1.modLink l (fun k => { k with
      expected := (seq + 1) % 4096, got := true, asked := false, owed := k.owed + 1, ackBy := some (k.ackBy.getD (s.rtime + 256)) })
    (¬good → (s.link l).asked = false →
      exec (.flitReceive l bytes) s = .next (s.modLink l (fun k => { k with asked := true, askNow := true }))) ∧
    (good → slots = 0 → exec (.flitReceive l bytes) s = .next s1) ∧
    (good → slots = 1 → seq = (s.link l).expected →
      exec (.flitReceive l bytes) s = .next (s2.takeSlot l ((bytes.drop 8).take 64))) ∧
    (good → slots = 3 → seq = (s.link l).expected → exec (.flitReceive l bytes) s =
      .next ((s2.takeSlot l ((bytes.drop 8).take 64)).takeSlot l ((bytes.drop 72).take 64))) ∧
    (good → slots ≠ 0 → 0 < (seq + 4096 - (s.link l).expected) % 4096 → (seq + 4096 - (s.link l).expected) % 4096 < 2048 →
      exec (.flitReceive l bytes) s = .next (s1.modLink l (fun k => if k.asked then k else { k with asked := true, askNow := true }))) ∧
    (good → slots ≠ 0 → 2048 ≤ (seq + 4096 - (s.link l).expected) % 4096 → exec (.flitReceive l bytes) s = .next s1)) ∧
  (∀ l s, l < 6 → (s.link l).state = .down ∨ (s.link l).state = .training → ∀ bytes, exec (.flitReceive l bytes) s = .next s) ∧
  (∀ l s, l < 6 → let s1 := s.loadLink l
    let k := s1.link l
    (k.free s.rtime = true → k.again = [] → k.out ≠ [] → k.buffer.length < 512 →
      exec (.flitSend l) s = .next (s1.modLink l (fun k => { k.put s.rtime k.seq (k.out.take 2) with
        out := k.out.drop 2, buffer := k.buffer ++ [(k.seq, k.out.take 2)], seq := (k.seq + 1) % 4096 }))) ∧
    (k.free s.rtime = false ∨ k.again ≠ [] ∨ k.out = [] ∨ 512 ≤ k.buffer.length → exec (.flitSend l) s = .next s1) ∧
    (∀ n slots, (k.put s.rtime n slots).wire = k.wire ++ [k.flit n slots] ∧ (k.put s.rtime n slots).askNow = false) ∧
    (s.msgs.find? (s.forLink l) = none → s1 = s)) ∧
  (∀ l s, l < 6 → let k := s.link l
    (∀ n rest x, k.again = n :: rest → k.free s.rtime = true →
      k.buffer.find? (fun (x : Nat × List (List Byte)) => x.1 == n) = some x →
      exec (.flitReplay l) s = .next (s.modLink l (fun k => { k.put s.rtime n x.2 with again := rest }))) ∧
    ((k.askNow = true ∨ 64 ≤ k.owed ∨ ∃ t, k.ackBy = some t ∧ t ≤ s.rtime) → k.free s.rtime = true →
      exec (.linkAckTimer l) s = .next (s.modLink l (fun k => k.put s.rtime 0 []))) ∧
    (k.askNow = false → k.owed < 64 → k.ackBy = none → exec (.linkAckTimer l) s = .next s)) ∧
  (∀ l s, l < 6 → let k := s.link l
    (∀ lane, lane < 16 → k.state = .up16 → exec (.laneFault l lane) s = .next (s.modLink l (fun k => { k with
      state := .training, half := some (decide (lane < 8), s.rtime), failed := some lane, retrains := k.retrains + 1,
      asked := k.asked && !k.askNow, askNow := false }))) ∧
    (∀ lane, lane < 16 → k.state = .up8 → exec (.laneFault l lane) s =
      .next (if (lane < 8 ↔ k.upper = false) then (if k.again = [] then s.linkLost l
        else s.modLink l (fun k => { k with
          state := .training, half := some (k.upper, s.rtime), failed := some lane, retrains := k.retrains + 1,
          asked := k.asked && !k.askNow, askNow := false })) else s)) ∧
    (∀ lane u t, lane < 16 → k.state = .training → k.half = some (u, t) → (lane < 8 ↔ u = false) →
      exec (.laneFault l lane) s = .next (s.modLink l (fun k => { k with half := some (u, s.rtime) }))) ∧
    (k.state = .training → k.half = none →
      exec (.retrainComplete l true true) s =
        .next (s.modLink l (fun k => { k with state := .up16, failed := none, peer := Config.linkPeer l })) ∧
      let any : Nat := (Config.freeWord s.fresh).toNat % 8
      exec (.retrainComplete l true false) s = .next (({ s with fresh := s.fresh + 1 } : State).modLink l (fun k =>
        { k with state := .up8, upper := false, failed := some (8 + any), peer := Config.linkPeer l })) ∧
      exec (.retrainComplete l false true) s = .next (({ s with fresh := s.fresh + 1 } : State).modLink l (fun k =>
        { k with state := .up8, upper := true, failed := some (0 + any), peer := Config.linkPeer l }))) ∧
    (∀ u t, k.state = .training → k.half = some (u, t) → s.rtime ≤ t + 4000 →
      exec (.retrainComplete l true true) s = .next ((s.modLink l (fun k => { k with
        state := .up8, upper := u, half := none, again := k.buffer.map (fun (x : Nat × List (List Byte)) => x.1), replays := k.replays + 1 })).record
          (linkCore l) 12 (det cLinkDegraded (k.failed.getD 0)) 0 false false 0)) ∧
    (∀ u t, k.state = .training → k.half = some (u, t) →
      (t + 4000 < s.rtime → exec (.retrainTimeout l) s = .next (s.linkLost l)) ∧
      (s.rtime ≤ t + 4000 → exec (.retrainTimeout l) s = .next s)) ∧
    (k.state = .training → exec (.trainingFailure l) s = .next (s.linkLost l)) ∧
    (k.state ≠ .training → exec (.trainingFailure l) s = .next s))

/-- What the host does outside the command slots: an RDMA request is answered by the space its key opens, one to an ASID's memory by
messages to the homes of its parts and when the last of them has been performed, the control page negotiates features, modes and
drains, the snapshot is rewritten every 10 ms, a page migrates line by line in the order of its old home's agent, and reset and the
watchdog leave the states R430 names (14 R275, R291; 16 R330; 20 R416-R418, R424-R432). That a rewrite of the snapshot keeps seq odd
for one router cycle is the model's choice (log 106). So are one RDMA request after another whatever their queue pairs (log 96), the
supported feature word of generation 1 with bits 0 to 3 (log 48), what becomes of a line copy that fails (log 92), and that the first
snapshot after a power-on is published when the last link has trained (log 21). -/
def Obligations.HostEvents : Prop :=
  (∀ rkey va s, s.keyTo rkey = .bad → let nak : State := { s with hostAnswer := .accessNak }
    (∀ data, exec (.rdmaWrite rkey va data) s = .next nak) ∧ (∀ n, exec (.rdmaRead rkey va n) s = .next nak) ∧
    (∀ x y, exec (.rdmaCompareAndSwap rkey va x y) s = .next nak) ∧ (∀ x, exec (.rdmaFetchAndAdd rkey va x) s = .next nak)) ∧
  (∀ rkey a va s, s.keyTo rkey = .asid a →
    let taken (r : Rdma) : State := ({ s with fresh := s.fresh + 1 } : State).rdmaTake r
    let shut (ps : List (Word × Nat)) (rd wr : Bool) : Bool := ps.any (fun (x : Word × Nat) => !s.rdmaOpen a x rd wr)
    (∀ data, data ≠ [] → let r := s.rdmaOf a 0 (rdmaParts va data.length) data .swap 0 0
      (shut r.parts false true = true → exec (.rdmaWrite rkey va data) s = .next { s with hostAnswer := .accessNak }) ∧
      (shut r.parts false true = false → exec (.rdmaWrite rkey va data) s = .next (taken r))) ∧
    (∀ n, 0 < n → let r := s.rdmaOf a 1 (rdmaParts va n) [] .swap 0 0
      (shut r.parts true false = true → exec (.rdmaRead rkey va n) s = .next { s with hostAnswer := .accessNak }) ∧
      (shut r.parts true false = false → exec (.rdmaRead rkey va n) s = .next (taken r))) ∧
    (∀ x y, let cas := s.rdmaOf a 2 [(va, 8)] [] .cas x y
      let add := s.rdmaOf a 2 [(va, 8)] [] .add x 0
      (va.toNat % 8 ≠ 0 ∨ s.rdmaOpen a (va, 8) true true = false →
        exec (.rdmaCompareAndSwap rkey va x y) s = .next { s with hostAnswer := .accessNak } ∧
        exec (.rdmaFetchAndAdd rkey va x) s = .next { s with hostAnswer := .accessNak }) ∧
      (va.toNat % 8 = 0 → s.rdmaOpen a (va, 8) true true = true →
        exec (.rdmaCompareAndSwap rkey va x y) s = .next (taken cas) ∧ exec (.rdmaFetchAndAdd rkey va x) s = .next (taken add)))) ∧
  (∀ rkey va s, s.keyTo rkey = .pacia → (s.rdmas ≠ [] → ∀ data, ∃ r : Rdma, r.kind = 3 ∧ r.data = data ∧ r.parts = [(va, data.length)] ∧
      exec (.rdmaWrite rkey va data) s = .next { s with fresh := s.fresh + 1, rdmas := s.rdmas ++ [r] })) ∧
  (∀ rkey va s, s.keyTo rkey = .pacia → s.rdmas = [] →
    (∀ data t, s.paciaWrite va.toNat data = some t → exec (.rdmaWrite rkey va data) s = .next { t with hostAnswer := .ack }) ∧
    (∀ data, s.paciaWrite va.toNat data = none → exec (.rdmaWrite rkey va data) s = .next { s with hostAnswer := .accessNak }) ∧
    (∀ n, s.paciaReadable va.toNat n = true → exec (.rdmaRead rkey va n) s =
      .next { s with hostAnswer := .data ((List.range n).map (fun i => s.paciaRead (va.toNat + i))) }) ∧
    (∀ n, s.paciaReadable va.toNat n = false → exec (.rdmaRead rkey va n) s = .next { s with hostAnswer := .accessNak }) ∧
    (∀ x y, exec (.rdmaCompareAndSwap rkey va x y) s = .next { s with hostAnswer := .accessNak } ∧
      exec (.rdmaFetchAndAdd rkey va x) s = .next { s with hostAnswer := .accessNak })) ∧
  (∀ (r : Rdma) a n rest (s : State), r.parts = (a, n) :: rest → r.kind < 3 → s.rdmas = [] → s.migrations = [] → ∃ m : Msg,
    (s.rdmaTake r).msgs = s.msgs ++ [m] ∧ (s.rdmaTake r).rdmas = [r] ∧ m.home = gaHome a ∧ m.off = gaOff a ∧ m.asid = r.asid ∧
    m.slot = 17 ∧ m.pend = r.id ∧ m.kind = (if r.kind = 0 then .copyWrite ((r.data.take n).map (fun (b : Byte) => (b, false)))
      else if r.kind = 1 then .copyRead n 0 else .ratom r.op r.x r.y)) ∧
  (∀ id m r x rest s, s.arrived? id = some m → m.slot = 17 → m.dev = 0 → s.rdmas = r :: rest → r.id = m.pend → r.parts = [x] →
    let s1 (a : Answer) : State := ({ s.dropMsg m.id with rdmas := rest, hostAnswer := a } : State).rdmaSend
    (∀ dst data n, m.kind = .copyDone dst data n none → data.any (fun (y : Byte × Bool) => y.2) = false →
      exec (.copyWritePerformed id) s =
        .next (s1 (if r.kind = 0 then .ack else .data (r.got ++ data.map (fun (y : Byte × Bool) => y.1))))) ∧
    (∀ dst data n code, m.kind = .copyDone dst data n (some code) → exec (.copyWritePerformed id) s = .next (s1 .accessNak))) ∧
  (∀ op s, exec (.rdmaUnsupported op) s = .next { s with hostAnswer := .requestNak }) ∧
  (∀ s, s.booting = false → (s.snap.stamp + 20000000 ≤ s.rtime → ∃ x, exec .snapshotRewrite s = .next { s with snap := x } ∧ x.seq % 2 = 0 ∧
      s.snap.seq < x.seq ∧ x.stamp = s.rtime ∧ x.state = s.devState ∧ x.dev = s.devNum ∧ x.logidx = s.logCount ∧ x.log = s.log ∧
      x.links.length = s.links.length) ∧
    (s.snap.stamp + 20000000 = s.rtime + 1 → s.snap.seq % 2 = 0 →
      exec .snapshotRewrite s = .next { s with snap := { s.snap with seq := s.snap.seq + 1 } }) ∧
    (s.rtime + 1 < s.snap.stamp + 20000000 → exec .snapshotRewrite s = .next s)) ∧
  (∀ s, s.booting = true → s.devState = 0 →
    (s.links.all (fun (k : Link) => k.state != .training) = true → ∃ x, exec .snapshotRewrite s =
      .next { s with booting := false, devState := 1, snap := x } ∧ x.state = 1 ∧ x.stamp = s.rtime) ∧
    (s.links.all (fun (k : Link) => k.state != .training) = false → exec .snapshotRewrite s = .next s)) ∧
  (∀ (v : BitVec 128) s, (s.devState = 1 → v.extractLsb' 120 8 = 1#8 → ∃ w, exec (.featReqWrite v) s =
      .next { s with feat := w, devState := 2 } ∧ ∀ j, w.getLsbD j = (v.getLsbD j && (j < 4 || j == 120))) ∧
    (s.devState ≠ 1 → exec (.featReqWrite v) s = .next s)) ∧
  (∀ v s, (s.feat.getLsbD 3 = true → exec (.modesWrite v) s = .next { s with modes := v.setWidth 5 }) ∧
    (s.feat.getLsbD 3 = false → exec (.modesWrite v) s = .next s) ∧
    (s.devState ≠ 0 → exec (.drainWrite v) s = .next { s with drain := v.setWidth 5 }) ∧
    (s.devState = 0 → exec (.drainWrite v) s = .next s)) ∧
  (∀ v s, s.devState ≠ 0 → ∃ t, exec (.cdrainWrite v) s = .next t ∧ t.mem = s.mem ∧ t.drain = s.drain ∧
    ∀ n, n < 1024 → (t.core n).drained = v.getLsbD n) ∧
  (∀ v w (s : State), s.devState = 0 → exec (.cdrainWrite v) s = .next s ∧ ∀ c off, exec (.registerWrite c off w) s = .next s) ∧
  (∀ fn slot s, let done := replaceFirst (fun (a : Assist) => a.fn == fn && a.slot == slot && !a.answered) (fun a => { a with answered := true }) s.assist
    exec (.hostAssistAnswer fn slot) s = .next { s with assist := done }) ∧
  (∀ bist caps dead s, ∃ t, exec (.powerOnReset false bist caps dead) s = .next t ∧ t.devState = 0 ∧ t.booting = false ∧ t.mem = [] ∧
    t.cores = [] ∧ t.asids = [] ∧ t.queues = []) ∧
  (∀ caps s, ∃ t, exec (.powerOnReset true true caps []) s = .next t ∧ t.devState = 0 ∧ t.booting = true ∧ t.mem = [] ∧ t.ridges = [] ∧
    t.links = State.reset.links) ∧
  (∀ caps n x s, n < 1024 → ∃ t, exec (.powerOnReset true true caps [(n, x)]) s = .next t ∧ t.devState = 0 ∧ t.booting = true ∧
    (x = none → (t.core n).dead = true) ∧
    (∀ gcap vcap redmask, x = some (gcap, vcap, redmask) → (t.core n).dead = false ∧ (t.core n).gcap = gcap ∧ (t.core n).vcap = vcap ∧
      (t.core n).redmask = redmask)) ∧
  (∀ s, ∃ t, exec .managementWatchdog s = .next t ∧ t.devState = 3 ∧ t.logCount = s.logCount + 1 ∧
    ∀ r ∈ t.ridges, r.state = .ending ∨ r.state = .ended) ∧
  (∀ port up s, exec (.ethernetLinkChange port up) s = .next { s with eth := s.eth.set port up }) ∧
  (∀ asid va home off p s, let v := va.toNat % 2 ^ 53
    s.page? asid (v / Config.homeSpan) (v % Config.homeSpan) 1 = some p →
    let n := p.pageBytes v
    v % n = 0 → off % n = 0 → home < 1040 →
    off + n ≤ (if home < 1024 then Config.vaultBytes else (assocGet s.farCap (home - 1024)).getD 0) →
    s.migrations.any (fun (m : Migration) => m.asid == asid && m.va == v) = false →
    let m (waiting : Bool) : Migration := ⟨s.fresh, asid, v, n, p.home, p.off + (v - p.va), home, off, 0, waiting, false⟩
    exec (.pageMigrationStart asid va home off) s = .next { s with
      fresh := s.fresh + 1, migrations := s.migrations ++ [m (!s.mayMove (m true))],
      asids := replaceFirst (fun (a : Asid) => a.id == asid) (fun a => { a with pages := a.pages.flatMap (fun (x : Page) => x.split v n) }) s.asids }) ∧
  (∀ id m s, s.migrations.find? (fun (m : Migration) => m.id == id) = some m →
    let set (f : Migration → Migration) : State :=
      { s with migrations := replaceFirst (fun (x : Migration) => x.id == id) f s.migrations }
    (m.waiting = true → s.mayMove m = true → exec (.pageLineCopy id) s = .next (set (fun x => { x with waiting := false }))) ∧
    (m.waiting = true → s.mayMove m = false → exec (.pageLineCopy id) s = .next s) ∧
    (m.waiting = false → m.busy = false → 64 * m.copied < m.bytes → m.home < 1024 → m.newHome < 1024 →
      exec (.pageLineCopy id) s = .next ((set (fun x => { x with busy := true })).inject (.copyRead 64 0) m.home 19 id m.home
        (m.off + 64 * m.copied) 0 m.asid 0)) ∧
    (m.waiting = false → m.busy = false → m.bytes ≤ 64 * m.copied →
      let moved (p : Page) : Page := if p.va = m.va then { p with home := m.newHome, off := m.newOff } else p
      exec (.pageLineCopy id) s = .next { s with
        migrations := s.migrations.filter (fun (x : Migration) => x.id != id)
        asids := replaceFirst (fun (a : Asid) => a.id == m.asid) (fun a => { a with pages := a.pages.map moved }) s.asids })) ∧
  (∀ c m dst n h off g s, s.agentMsg? c = some m → s.forwardTo m = none → s.behindRefused m = false → m.slot = 19 →
    m.kind = .copyRead n dst → s.hasBeat c .agentRun = true → s.copyAt m n true false = .ok h off → n ≤ beatBytes off n → (s.core c).agentGot = [] →
    let s1 := s.sense c off (beatBytes off n) m.actor
    (s1.agentDone c).migrations.find? (fun (x : Migration) => x.id == m.pend) = some g →
    ∃ t, exec (.homeCopyRead c) s = .next t ∧ (∃ w : Msg, t.msgs.getLast? = some w ∧ w.home = g.newHome ∧
      w.off = g.newOff + 64 * g.copied ∧ w.kind = .copyWrite (s1.copyBytes c off (beatBytes off n)))) ∧
  (∀ id m dst data n s, s.arrived? id = some m → m.slot = 19 → m.dev = 0 → m.kind = .copyDone dst data n none →
    exec (.copyWritePerformed id) s = .next { s.dropMsg m.id with
      migrations :=
      replaceFirst (fun (x : Migration) => x.id == m.pend) (fun x => { x with busy := false, copied := x.copied }) s.migrations }) ∧
  (∀ id m dst data n code s, s.arrived? id = some m → m.slot = 19 → m.dev = 0 → m.kind = .copyDone dst data n (some code) →
    exec (.copyWritePerformed id) s = .next { s.dropMsg m.id with
      migrations :=
      replaceFirst (fun (x : Migration) => x.id == m.pend)
        (fun x => { x with busy := false, copied := if m.off = x.newHome then x.copied - 1 else x.copied }) s.migrations })

/-- The commands of R429, each with its effect and status 1, its bad argument (2), its missing feature (3) or its wrong state (4) (14;
17; 19; 20 R429-R432). That a command's arguments are the operands of its event is the model's choice (log 107). So are the statuses
that R429 gives no case for (log 75), and that a command of another code leaves the order in recovery without running (log 76). -/
def Obligations.PaciaCommands : Prop :=
  ∀ slot s,
    let turn (code : Nat) : Prop := CommandTurn s code slot
    let known (a : Nat) : Bool := s.asids.any (fun (x : Asid) => x.id == a)
    (∀ n ceil mw boost, turn 0x01 → 512 ≤ n → Ends s slot 2 s (exec (.asidCreate slot n ceil mw boost) s)) ∧
    (∀ n ceil mw boost, turn 0x01 → n < 512 → known n = true → Ends s slot 4 s (exec (.asidCreate slot n ceil mw boost) s)) ∧
    (∀ n ceil mw boost, turn 0x01 → n < 512 → known n = false → s.devState = 2 → s.devNum ≠ 0 → ∃ a : Asid, ∃ t : State,
      exec (.asidCreate slot n ceil mw boost) s = .next t ∧ t.asids = s.asids ++ [a] ∧ a.id = n ∧ a.ceil = ceil ∧ a.mw = mw ∧
      a.boost = boost ∧ a.rkey.toNat / 2 ^ 21 = n ∧ a.gfrn = 0 ∧ a.suspect = false ∧ a.hostWins = []) ∧
    (∀ n, turn 0x02 → (known n = false → Ends s slot 2 s (exec (.asidRelease slot n) s)) ∧
      (known n = true → (s.ridges.any (fun (r : Ridge) => r.asid == n && r.state != .ended) ||
          s.queues.any (fun (q : Queue) => q.asid == n)) = true → Ends s slot 4 s (exec (.asidRelease slot n) s)) ∧
      (known n = true → (s.ridges.any (fun (r : Ridge) => r.asid == n && r.state != .ended) ||
          s.queues.any (fun (q : Queue) => q.asid == n)) = false →
        Ends s slot 1 { s with asids := s.asids.filter (fun (a : Asid) => a.id != n) } (exec (.asidRelease slot n) s))) ∧
    (∀ n ceil mw boost, turn 0x03 → (known n = false → Ends s slot 2 s (exec (.grantSet slot n ceil mw boost) s)) ∧
      (let granted := replaceFirst (fun (a : Asid) => a.id == n) (fun a => { a with next := some (ceil, mw, boost) }) s.asids
       known n = true → Ends s slot 1 { s with asids := granted } (exec (.grantSet slot n ceil mw boost) s))) ∧
    (∀ q a ring n, turn 0x04 → q < 512 → 2 ≤ n → n ≤ 65536 → known a = true →
      (s.queue? q = none → Ends s slot 1 { s with queues := s.queues ++ [⟨q, a, ring, n, 0, 0, none, false⟩] }
        (exec (.queueCreate slot q a ring n) s)) ∧
      (s.queue? q ≠ none → Ends s slot 4 s (exec (.queueCreate slot q a ring n) s))) ∧
    (∀ q, turn 0x05 → (s.queue? q = none → Ends s slot 2 s (exec (.queueDestroy slot q) s)) ∧
      (s.queue? q ≠ none → (∃ l ∈ s.launches, l.queue = q ∧ (l.state ≠ .checking ∨ l.replay = true)) →
        Ends s slot 4 s (exec (.queueDestroy slot q) s)) ∧
      (s.queue? q ≠ none → (∀ l ∈ s.launches, l.queue = q → l.state = .checking ∧ l.replay = false) → Ends s slot 1 { s with
        queues := s.queues.filter (fun (x : Queue) => x.id != q)
        launches := s.launches.filter (fun (l : Launch) => l.queue != q)
        cairns := s.cairns.map (fun (k : Cairn) => if k.live && k.queue == q then { k with live := false } else k)
        jobs := s.jobs.filter (fun (j : Job) => !(j.fn == .check && j.obj == q)) } (exec (.queueDestroy slot q) s))) ∧
    (∀ seq watts ms, turn 0x06 → s.modes.getLsbD 4 = false →
      ((∀ n, s.capSeq = some n → n < seq) → Ends s slot 1 { s with capSeq := some seq, cap := some (watts, s.rtime + ms * 2000000) }
        (exec (.cap slot seq watts ms) s)) ∧
      (∀ n, s.capSeq = some n → seq ≤ n → Ends s slot 1 s (exec (.cap slot seq watts ms) s))) ∧
    (∀ seq watts ms, turn 0x06 → s.modes.getLsbD 4 = true →
      Ends s slot 1 { (s.ask 4 s.fresh).2 with fresh := s.fresh + 1 } (exec (.cap slot seq watts ms) s)) ∧
    (∀ n, turn 0x07 → (n = 0 ∨ 2046 < n → Ends s slot 2 s (exec (.deviceNumber slot n) s)) ∧
      (1 ≤ n → n ≤ 2046 → s.asids ≠ [] → Ends s slot 4 s (exec (.deviceNumber slot n) s)) ∧
      (1 ≤ n → n ≤ 2046 → s.asids = [] → s.devState = 2 → Ends s slot 1 { s with devNum := n } (exec (.deviceNumber slot n) s))) ∧
    (∀ first l, turn 0x08 → 1 ≤ first → first < 2047 → first ≠ s.devNum → l < 6 →
      (s.drain.getLsbD 0 = true → s.ridges = [] → Ends s slot 1 { s with routes := assocSet s.routes first [l] }
        (exec (.routeSet slot first [l]) s)) ∧
      (s.drain.getLsbD 0 = false → Ends s slot 4 s (exec (.routeSet slot first [l]) s))) ∧
    (∀ a entry qp rkey base len, turn 0x09 →
      (let wins (x : Asid) : List HostWin := x.hostWins.filter (fun (w : HostWin) => w.entry != entry) ++ [⟨entry, qp, rkey, base, len⟩]
       let put := replaceFirst (fun (x : Asid) => x.id == a) (fun x => { x with hostWins := wins x }) s.asids
       entry < 64 → qp < 4096 → known a = true →
        Ends s slot 1 { s with asids := put } (exec (.hostWindow slot a entry qp rkey base len) s)) ∧
      (64 ≤ entry → Ends s slot 2 s (exec (.hostWindow slot a entry qp rkey base len) s))) ∧
    (∀ q, turn 0x0A → (s.feat.getLsbD 2 = false → Ends s slot 3 s (exec (.captureArm slot q) s)) ∧
      (s.feat.getLsbD 2 = true → s.queue? q ≠ none → Ends s slot 1 (s.modQueue q (fun x => { x with armed := true }))
        (exec (.captureArm slot q) s))) ∧
    (∀ n q first count status, turn 0x0B → (∀ l ∈ s.launches, l.replay = true → l.state ≠ .queued) →
      (s.feat.getLsbD 2 = false → Ends s slot 3 s (exec (.cairnReplay slot n q first count status) s)) ∧
      (s.feat.getLsbD 2 = true → s.queue? q = none → Ends s slot 2 s (exec (.cairnReplay slot n q first count status) s)) ∧
      (∀ k x, s.feat.getLsbD 2 = true → s.cairns.find? (fun (k : Cairn) => k.id == n) = some k → s.queue? q = some x →
        (k.live = true ∨ count = 0 ∨ k.packet.count < first + count ∨ s.cairnSound k = false →
          Ends s slot 2 s (exec (.cairnReplay slot n q first count status) s)) ∧
        (k.live = false → 0 < count → first + count ≤ k.packet.count → k.header.codeSize ≠ 0 → s.cairnSound k = true →
          s.launch? s.fresh = none → ∃ l : Launch, ∃ t : State, exec (.cairnReplay slot n q first count status) s = .next t ∧
          t.launches = s.launches ++ [l] ∧ t.rung = s.rung.tail ∧
          l.state = .checking ∧ l.queue = q ∧ l.asid = x.asid ∧ l.packet = k.packet ∧ l.header = k.header ∧ l.deps = k.deps ∧
          l.first = first ∧ l.count = count ∧ l.replay = true)) ∧
      (∀ x, let a : Word := BitVec.ofNat 64 n
        s.feat.getLsbD 2 = true → s.cairns.find? (fun (k : Cairn) => k.id == n) = none → s.queue? q = some x →
        (isGlobal a = false ∨ s.memExists x.asid a 64 = false → Ends s slot 2 s (exec (.cairnReplay slot n q first count status) s)) ∧
        (isGlobal a = true → s.memExists x.asid a 64 = true → 0 < count → ∃ l : Launch, l.state = .queued ∧ l.replay = true ∧
          exec (.cairnReplay slot n q first count status) s =
            .next (({ s with fresh := s.fresh + 1, launches := s.launches ++ [l] } : State).jobBegin x.asid (seqCore (q % 4)) .replay s.fresh none
              [.read a 64])))) ∧
    (∀ n, turn 0x0C → (n = 0xFFFF → Ends s slot 1 { s with debugAsid := none } (exec (.debugSession slot n) s)) ∧
      (n ≠ 0xFFFF → known n = true → Ends s slot 1 { s with debugAsid := some n } (exec (.debugSession slot n) s)) ∧
      (n ≠ 0xFFFF → known n = false → Ends s slot 2 s (exec (.debugSession slot n) s))) ∧
    (∀ l, turn 0x0D → (l < 6 → (s.link l).state = .down → Ends s slot 1 (s.modLink l (fun k => { Link.reset with
        failed := k.failed, peer := k.peer, replays := k.replays, retrains := k.retrains + 1 })) (exec (.retrain slot l) s)) ∧
      (l < 6 → (s.link l).state ≠ .down → Ends s slot 4 s (exec (.retrain slot l) s))) ∧
    (∀ c mw, turn 0x0E → (s.modes.getLsbD 4 = false → Ends s slot 3 s (exec (.coreLimit slot c mw) s)) ∧
      (s.modes.getLsbD 4 = true → c < 1024 → Ends s slot 1 (s.modCore c (fun k => { k with coreLimit := some mw }))
        (exec (.coreLimit slot c mw) s))) ∧
    (∀ n, turn 0x0F → (s.slotField slot 8 ≠ n → exec (.attest slot n) s = .next s) ∧ (s.slotField slot 8 = n →
      (1023 < n + 4 ∨ n ≤ slot ∧ slot ≤ n + 4 → Ends s slot 2 s (exec (.attest slot n) s)) ∧
      (n + 4 ≤ 1023 → (slot < n ∨ n + 4 < slot) →
        let body := s.reportBody ((List.range 64).map (fun i => s.paciaByte (0x02000000 + 64 * n + i)))
        exec (.attest slot n) s = .next ((({ s with rung := s.rung.tail } : State).paciaPut (0x02000000 + 64 * n)
          (body ++ padTo (Config.signature body) 132 ++ List.replicate 20 0)).paciaPut (0x02000000 + 64 * slot + 2) (leBytes 1 2))))) ∧
    (∀ addr len, slot < 1024 → s.rung.head? = some slot → s.slotField slot 0 = 0x10 →
      (s.job? .firmware slot = none → s.thisDev addr = false ∨ 1040 ≤ gaHome addr → Ends s slot 2 s (exec (.firmwareStage slot addr len) s)) ∧
      (s.job? .firmware slot = none → s.thisDev addr = true → gaHome addr < 1040 → exec (.firmwareStage slot addr len) s =
        .next (s.jobBegin 512 (ethCore 0) .firmware slot none [.look (gaHome addr) (gaOff addr) len])) ∧
      (∀ (j : Job) image, j.fn = .firmware → j.ops = [] → j.got = [image] →
        (∀ v, Config.firmware image = some v → s.fw.minimum ≤ v → j.failed = false →
          Ends s slot 1 { s.dropJob j.id with fw := ⟨s.fw.version, some v, v⟩ } (.next (s.firmwareOn j))) ∧
        (j.failed = true ∨ (∀ v, Config.firmware image = some v → v < s.fw.minimum) →
          Ends s slot 2 (s.dropJob j.id) (.next (s.firmwareOn j))))) ∧
    (∀ v, turn 0x11 → (s.feat.getLsbD 1 = false → Ends s slot 3 s (exec (.lockstep slot v) s)) ∧
      (s.feat.getLsbD 1 = true → v ≤ 1 → s.ridges = [] → Ends s slot 1 { s with lockstep := v } (exec (.lockstep slot v) s)) ∧
      (s.feat.getLsbD 1 = true → 1 < v → Ends s slot 2 s (exec (.lockstep slot v) s))) ∧
    (∀ code, code = 0 ∨ 0x11 < code → turn code → Ends s slot 2 s (exec (.unknownCommand slot code) s)) ∧
    (∀ rest, s.rung = slot :: rest → s.devState = 0 → s.slotField slot 0 ≠ 0x10 → s.skipCommands = { s with rung := rest })

/-! ### The machine as a whole -/

/-- The machine right after reset (20 R430; 04 R67; 09 R203; 17 R356): no memory written, no instance, no message, the device in
recovery until it has come up with the floor of 1,440 W; a core idles at 600 MHz with its registers 0 and its banks closed, but for bank
0 of each core whose number is a multiple of 32, whose refresh begins at router cycle 0 (04 R70; log 14); the values of registers that
the spec gives only at a launch are the model's (log 20); and reset memory is canonical. -/
def Obligations.ResetValues : Prop :=
  MemInv State.reset ∧ State.reset.mem = [] ∧ State.reset.ridges = [] ∧ State.reset.msgs = [] ∧ State.reset.asids = [] ∧
  State.reset.devState = 0 ∧ State.reset.devNum = 0 ∧ State.reset.floor = 1440 ∧ State.reset.lockstep = 0 ∧
  (State.reset.links.all (fun (k : Link) => k.state == .training)) = true ∧
  (∀ c, c < 1024 → (State.reset.core c).freq = 600 ∧ (State.reset.core c).cycle = 0 ∧ (State.reset.core c).ridge = none ∧
    (State.reset.core c).therm = 0 ∧ (State.reset.core c).gcap = 47 ∧ (State.reset.core c).vcap = 48 ∧
    (∀ b, ((State.reset.core c).bank b).state = if b = 0 ∧ c % 32 = 0 then .refreshing else .closed) ∧
    ∀ sl, (State.reset.thr c sl).life = .vacant ∧ (State.reset.thr c sl).pc = 0 ∧ (State.reset.thr c sl).fcsr = 0 ∧
      (State.reset.thr c sl).pend = [] ∧ (State.reset.thr c sl).psq = [])

/-- A step runs the decoded instruction: at the issue opportunity of a core's cycle, the word that a live thread fetches at its
PC runs as the instruction it decodes to, in the state after the core's debug commands and breakpoints; a word that is none
runs as a non-instruction; an instruction or event whose turn comes from outside runs as it is; the other steps are the rest of
the core's cycle and the next router cycle (17 R338-R340; log 2). -/
def Obligations.StepRunsDecoded : Prop :=
  ∀ s : State,
    (∀ i rest, s.agenda = i :: rest → i.isEvent = true → step s = exec i { s with agenda := rest }) ∧
    (∀ i rest, s.agenda = i :: rest → i.isEvent = false → step s = .fault .badAgenda) ∧
    (s.agenda = [] → s.due = [] → step s = .next s.tick) ∧
    (∀ c rest, s.agenda = [] → s.due = c :: rest →
      (s.opened = true → step s = .next { (s.coreEvents c).cycleEnd c with due := rest, opened := false }) ∧
      (∀ w s2, let s1 := s.cycleStart c
        let sl := s1.curSlot
        let t := s1.thr c sl
        s.opened = false → sl ≠ 12 → sl ≠ 14 → t.life = .live → t.removed = false → t.replayNext = false → s1.held c sl = false →
        t.wakeAt ≤ s1.now c → s1.mayIssue c sl = true → s1.pcHits c sl = (s2, none) → s2.persists c sl = false →
        (s2.thr c sl).pc.toNat < s2.codeSize c → (s2.core c).fetchWord (s2.thr c sl).pc = .word w →
        let s3 : State := { s2.modThr c sl (fun t => { t with word := w }) with opened := true }
        (∀ i, decode w = .ok i → step s = exec i s3) ∧
        (∀ r, decode w = .error r → step s = exec (.nonInstruction w) s3)))

/-- Words of the spec decode to the instructions they stand for (the encoding examples of 02 and of the entries). -/
def Obligations.DecodeWords : Prop :=
  decode 0x00000001#32 = .ok (.add 0 0 0) ∧ decode 0x02288181#32 = .ok (.sub 3 4 5) ∧
  decode 0x04384106#32 = .ok (.sraImmediate 2 2 7) ∧ decode 0x12344089#32 = .ok (.movhi 1 0x91A2) ∧
  decode 0x1E30A20B#32 = .ok (.mulp 4 5 6 3) ∧ decode 0x2040E30C#32 = .ok (.div 6 7 8 2) ∧
  decode 0x3080429B#32 = .ok (.ldD 5 2 3 8) ∧ decode 0x0006405F#32 = .ok (.fempty 50 0) ∧
  decode 0x002881B0#32 = .ok (.vfadd 3 4 5 0 0)

/-- Decoding reads back what encoding wrote: for every instruction that some word encodes, with every operand at every value its
encoding admits (02 R22-R39 and the encodings of the entries). -/
def Obligations.DecodeEncode : Prop :=
  ∀ i : Instr, i.wf = true → decode (encode i) = .ok i ∧ decodeTableWord 32 (encode i).toNat = some i

/-- Memory keeps its canonical form: from every state whose memory is canonical, whatever runs, a step leaves it canonical
(04 R64, 06 R109; log 1). -/
def Obligations.MemoryStaysCanonical : Prop :=
  ∀ s t : State, MemInv s → step s = .next t → MemInv t

/-- Reading and writing registers: g0 reads 0 and discards, m0 reads all ones and discards, cq reads 0; a private register, general,
vector or mask, gives its value when full, parks while its producer is pending, and traps REGISTER_EMPTY with its number when free; a
write fills a register that is not pending, and what was written is what is read (02 R37; 07 R131-R134). -/
def Obligations.RegisterAccess : Prop :=
  ∀ (s : State) c sl,
    (s.readOp c sl (.g 0) = .ok s ⟨0, false⟩ ∧ s.readOp c sl (.g 63) = .ok s ⟨0, false⟩ ∧ s.readOp c sl (.m 0) = .ok s ⟨0xFFFF, false⟩ ∧
      ∀ v, s.put c sl (.g 0) v = .ok s ∧ s.put c sl (.m 0) v = .ok s) ∧
    (∀ n : BitVec 6, 1 ≤ n.toNat → n.toNat < 48 →
      (∀ r, (s.thr c sl).g[n.toNat]? = some r →
        (r.fe = .full → s.readOp c sl (.g n) = .ok s ⟨r.val.setWidth 512, r.poison⟩) ∧
        (r.fe = .pending → s.readOp c sl (.g n) = .park ((s.thr c sl).waitFor (.g n)) ∧
          ∀ v, s.put c sl (.g n) v = .park ((s.thr c sl).waitFor (.g n))) ∧
        (r.fe = .free → s.readOp c sl (.g n) = .trap (det cRegisterEmpty n.toNat)) ∧
        (∀ v, r.fe ≠ .pending → sl < 16 → ∃ t, s.put c sl (.g n) v = .ok t ∧
          t.readOp c sl (.g n) = .ok t ⟨v.w.setWidth 512, v.poison⟩ ∧
          (∀ k : BitVec 6, k ≠ n → k.toNat < 48 → (t.thr c sl).g[k.toNat]? = (s.thr c sl).g[k.toNat]?) ∧
          (t.thr c sl).v = (s.thr c sl).v ∧ (t.thr c sl).m = (s.thr c sl).m ∧ t.mem = s.mem))) ∧
    (∀ n : BitVec 6, n.toNat < 48 → ∀ r, (s.thr c sl).v[n.toNat]? = some r →
      (r.fe = .full → s.readOp c sl (.v n) = .ok s ⟨r.val, r.poison⟩) ∧
      (r.fe = .pending → s.readOp c sl (.v n) = .park ((s.thr c sl).waitFor (.v n)) ∧
        ∀ v, s.put c sl (.v n) v = .park ((s.thr c sl).waitFor (.v n))) ∧
      (r.fe = .free → s.readOp c sl (.v n) = .trap (det cRegisterEmpty (64 + n.toNat))) ∧
      (∀ v, r.fe ≠ .pending → sl < 16 → ∃ t, s.put c sl (.v n) v = .ok t ∧ t.readOp c sl (.v n) = .ok t v ∧
        (t.thr c sl).g = (s.thr c sl).g ∧ (t.thr c sl).m = (s.thr c sl).m ∧ t.mem = s.mem)) ∧
    (∀ n : BitVec 3, n ≠ 0 → ∀ r, (s.thr c sl).m[n.toNat]? = some r →
      (r.fe = .full → s.readOp c sl (.m n) = .ok s ⟨r.val.setWidth 512, r.poison⟩) ∧
      (r.fe = .pending → s.readOp c sl (.m n) = .park ((s.thr c sl).waitFor (.m n)) ∧
        ∀ v, s.put c sl (.m n) v = .park ((s.thr c sl).waitFor (.m n))) ∧
      (r.fe = .free → s.readOp c sl (.m n) = .trap (det cRegisterEmpty (128 + n.toNat))) ∧
      (∀ v, r.fe ≠ .pending → sl < 16 → ∃ t, s.put c sl (.m n) v = .ok t ∧
        t.readOp c sl (.m n) = .ok t ⟨(v.x.setWidth 16).setWidth 512, v.poison⟩ ∧
        (∀ k : BitVec 3, k ≠ n → (t.thr c sl).m[k.toNat]? = (s.thr c sl).m[k.toNat]?) ∧
        (t.thr c sl).g = (s.thr c sl).g ∧ (t.thr c sl).v = (s.thr c sl).v ∧ t.mem = s.mem))

/-- The frame of an issue: whatever an attempt's effect s2 of register writes and reads leaves, issuing it changes no byte of memory, no
poison, no other core (but for a member that a SPAWN of the thread still claims there), no register that is not a destination, and no
control register but the region's valid bit, which the end of the region clears (02 R26; 07 R134; 18 R383); a performed store changes, in canonical memory, exactly the bytes it names (04 R81, 06 R110); a posted store changes none before
it is performed. -/
def Obligations.Frames : Prop :=
  (∀ (s : State) f ws s2 next, (∀ x ∈ ws, PlainRegister x.1) → s.putAll s.curCore s.curSlot ws = .ok s2 →
    let c := s.curCore
    let sl := s.curSlot
    let t := issuedFrom s f s2 next
    let old := s.thr c sl
    let new := t.thr c sl
    t.mem = s.mem ∧ t.poison = s.poison ∧ (∀ home off, t.byte home off = s.byte home off) ∧ t.msgs = s.msgs ∧
    ((∀ x ∈ s.pairOf c sl, (s.thr c x).claiming = none) → ∀ k, k ≠ c → t.core k = s.core k) ∧
    (∀ k, k ≠ sl → k < 16 → (t.thr c k).g = (s.thr c k).g ∧ (t.thr c k).v = (s.thr c k).v ∧ (t.thr c k).m = (s.thr c k).m ∧
      (t.thr c k).pc = (s.thr c k).pc) ∧
    (∀ n : BitVec 6, n.toNat < 48 → (∀ x ∈ ws, x.1 ≠ .g n) → new.g[n.toNat]? = old.g[n.toNat]?) ∧
    (∀ n : BitVec 6, n.toNat < 48 → (∀ x ∈ ws, x.1 ≠ .v n) → new.v[n.toNat]? = old.v[n.toNat]?) ∧
    (∀ n : BitVec 3, (∀ x ∈ ws, x.1 ≠ .m n) → new.m[n.toNat]? = old.m[n.toNat]?) ∧
    new.fcsr = old.fcsr ∧ new.fmtd = old.fmtd ∧ new.sclp = old.sclp ∧ new.ctx = old.ctx ∧ new.tpc = old.tpc ∧
    new.tcause = old.tcause ∧ new.tinfo = old.tinfo ∧ new.gstat = old.gstat ∧ new.mxcfg = old.mxcfg ∧ new.gpcfg = old.gpcfg ∧
    new.td = old.td ∧ new.handler = old.handler ∧ new.psq = old.psq ∧ new.ports = old.ports ∧ new.staging = old.staging ∧
    new.iep = (if f.endsRegion then old.iep &&& ~~~(0x100000000#64) else old.iep) ∧ (t.core c).frn = (s.core c).frn ∧
    (t.core c).barriers = (s.core c).barriers ∧ (t.core c).rings = (s.core c).rings ∧ (t.core c).windows = (s.core c).windows ∧
    (sl < 16 → new.pc = next)) ∧
  (∀ (s : State) c off bs actor, MemInv s → off + bs.length ≤ Config.homeSpan → ∀ home a, a < Config.homeSpan →
    (home ≠ c ∨ a < off ∨ off + bs.length ≤ a → (s.store c off bs 0 actor).byte home a = s.byte home a) ∧
    (home = c → ∀ j b, bs[j]? = some b → a = off + j → (s.store c off bs 0 actor).byte home a = b)) ∧
  (∀ (s : State) c sl parts tag home a, (s.post c sl parts tag).byte home a = s.byte home a ∧
    ((s.post c sl parts tag).thr c sl).g = (s.thr c sl).g)

/-- Entry to the user trap handler (18 R375-R377): for a code the kernel may handle, with a handler declared and none running, the
trap registers are written, the idempotent region is suspended, the handler state is set and the PC is the handler's entry,
while registers, masks, fcsr and ctx are unchanged; a trap raised inside a handler goes to the supervisor with nested set and
ends the task. -/
def Obligations.ExceptionEntry : Prop :=
  ∀ (s : State) c sl code info addr pc, sl < 16 →
    let t := s.takeTrap c sl code info addr pc false 0
    let old := s.thr c sl
    let new := t.thr c sl
    (new.tpc = pc &&& 0xFFFFFFFF#64 ∧ new.tinfo = info ∧ new.tcause.extractLsb' 0 16 = code ∧
      new.tcause.getLsbD 34 = old.handler ∧ new.tcause.getLsbD 35 = false ∧ new.tcause.extractLsb' 36 4 = 0#4) ∧
    (new.g = old.g ∧ new.v = old.v ∧ new.m = old.m ∧ new.fcsr = old.fcsr ∧ new.ctx = old.ctx ∧ t.mem = s.mem) ∧
    (∀ entry, (code &&& 0xFF00 = cNarrowRange ∨ code &&& 0xFF00 = cGeomNonfinite ∨ code &&& 0xFF00 = cSoftTrap) →
      old.handler = false → s.trapEntry? c = some entry →
      new.handler = true ∧ new.pc = BitVec.ofNat 64 entry ∧ new.iep.getLsbD 32 = false ∧
      new.iep.getLsbD 34 = old.iep.getLsbD 32 ∧ t.log = s.log) ∧
    (old.handler = true ∨ s.trapEntry? c = none → t.logCount = s.logCount + 1 ∧ new.handler = old.handler) ∧
    (∀ r x, old.handler = true → (s.core c).ridge = some r → s.ridges.find? (fun (x : Ridge) => x.id == r) = some x →
      2 ≤ grade code → grade code < 7 → x.state ≠ .ended →
      ∃ y, t.ridges.find? (fun (x : Ridge) => x.id == r) = some y ∧ y.state = .ending)

/-- TRET returns from the user trap handler: it traps where no handler runs; otherwise it clears the handler state, restores the
suspended region, and goes on at tpc.pc (18 R380). -/
def Obligations.ExceptionReturn : Prop :=
  ∀ s s1, Opens s { srcs := [], dsts := [], ordering := true, slots := 0x8FFF } s1 [] → s.curSlot < 16 →
    let c := s.curCore
    let sl := s.curSlot
    let old := s1.thr c sl
    (old.handler = false → exec .tret s = .next (s.trapped c sl (det cIllegalInstruction 8) 0 0)) ∧
    (old.handler = true → ∃ t, exec .tret s = .next t ∧ (t.thr c sl).handler = false ∧
      (t.thr c sl).pc = old.tpc &&& 0xFFFFFFFF#64 ∧ (t.thr c sl).iep.getLsbD 32 = old.iep.getLsbD 34 ∧
      (t.thr c sl).iep.getLsbD 34 = false ∧ (t.thr c sl).g = old.g ∧ (t.thr c sl).fcsr = old.fcsr ∧ t.mem = s1.mem)

/-- The checks at an attempted issue, in order: the slot, the declared registers, the lookahead window, the operands, poison
(02 R26, R28, R34, R39; 07 R134; 18 R384); a remote operation holds nothing back once its reply has been accepted (14 R277). -/
def Obligations.IssueChecks : Prop :=
  (∀ (s : State) f body, let c := s.curCore
    let sl := s.curSlot
    let t := s.thr c sl
    (f.slotOk sl t.invocation.isSome = false → s.issueStep f body = .next (s.trapped c sl (det cIllegalInstruction 7) 0 0)) ∧
    (f.slotOk sl t.invocation.isSome = true →
      (∀ n, s.undeclared c f.names = some n → s.issueStep f body = .next (s.trapped c sl (det cIllegalRegister n) 0 0)) ∧
      (s.undeclared c f.names = none → t.invocation = none →
        (∀ w, t.windowWait f.ordering = some w → s.issueStep f body = .next (s.parked c sl (if f.fence then .stall else w))) ∧
        (t.windowWait f.ordering = none → s.edgePort c sl f.names = none → s.isPair c sl = false →
          (∀ code, s.readAll c sl f.srcs = .trap code → s.issueStep f body = .next (s.trapped c sl code 0 0)) ∧
          (∀ w, s.readAll c sl f.srcs = .park w → s.issueStep f body = .next (s.parked c sl w)) ∧
          (∀ s1 xs, s.readAll c sl f.srcs = .ok s1 xs → s.accessHits c sl f xs = [] → t.dstWait f.dsts = none →
            f.passes = false → xs.any (·.poison) = true →
            s.issueStep f body = .next ((s.restart c sl 1 t.pc false).account c sl .issued)))))) ∧
  (∀ (s : State) c os, s.undeclared c os = none ↔
    ∀ o ∈ os, (∀ n : BitVec 6, o = .g n → n.toNat ≤ s.gDecl c ∨ 48 ≤ n.toNat) ∧
      (∀ n : BitVec 6, o = .v n → n.toNat < s.vDecl c ∨ 48 ≤ n.toNat)) ∧
  (∀ (t : Thread) ordering, t.windowWait ordering = none ↔
    ∀ p ∈ t.pend, p.answered = true ∨ (ordering = false ∧ p.issued < p.la)) ∧
  (∀ (p : Pend), p.answered = true ↔ p.served = true ∧ ((∃ form f, p.kind = .remote form f) ∨ p.kind = .ratom ∨
    (∃ dep target prio, p.kind = .send dep target prio) ∨ p.kind = .ctxalloc ∨ ∃ form ga tag, p.kind = .ldxRemote form ga tag))

/-- The checks of a local access of n bytes at ea, in order, the first that fails being the one reported (04 R66): a read, a write or row
control, in the scratchpad or in the one of the core's windows that holds all n bytes (windows never overlap, R65). -/
def Obligations.AccessChecks : Prop :=
  ∀ (k : Core) (ea : Word) (n : Nat) (rd wr row : Bool), 0 < n →
    let a := ea.toNat
    let check := k.check ea n n rd wr row
    let scratch : Prop := 2 ^ 40 ≤ a ∧ a < 2 ^ 40 + 2 ^ 21
    (2 ^ 42 ≤ a → check = some (det cNonlocal 0)) ∧
    (a < 2 ^ 42 → a % n ≠ 0 → check = some (det cMisaligned n)) ∧
    (a < 2 ^ 42 → a % n = 0 →
      (2 ^ 30 ≤ a → ¬scratch → check = some (det cLeaseMiss 2)) ∧
      (scratch → (2 ^ 40 + k.scratch ≤ a + n - 1 → check = some (det cScratchBound 0)) ∧
        (a + n - 1 < 2 ^ 40 + k.scratch → check = none)) ∧
      (a < 2 ^ 30 →
        ((∀ w ∈ k.windows, ¬(w.base ≤ a ∧ a + n ≤ w.base + w.len)) → check = some (det cLeaseMiss 1)) ∧
        (∀ w ∈ k.windows, w.base ≤ a → a + n ≤ w.base + w.len →
          (∀ v ∈ k.windows, v.base ≤ a → a + n ≤ v.base + v.len → v = w) →
          let unread : Prop := w.read = false ∧ (rd = true ∨ row = true ∧ w.write = false)
          (unread → check = some (det cLeaseMiss 5)) ∧
          (¬unread → wr = true → w.write = false → check = some (det cLeaseMiss 4)) ∧
          (¬unread → (wr = false ∨ w.write = true) →
            (k.therm = 3 → check = some (det cVaultThermal 1)) ∧ (k.therm ≠ 3 → check = none)))))
end

