-- ==== Sys2Proof/Laws/Image.lean ====
section
/-! SUPPORT. What damage to a save image or a cairn does to its checksum (18 R391, R395; 19 R410, R411). -/

namespace Sys2Proof.Laws
open Sys2Proof.Machine

/-- A flip at a place before a list changes nothing of it. -/
theorem damaged_past (n : Nat) (v : Byte) (l : List Byte) : ∀ k, n < k →
    (l.zipIdx k).map (fun x => (([(n, v)] : List (Nat × Byte)).filter (fun f => f.1 == x.2)).foldl (fun b f => b ^^^ f.2) x.1) = l := by
  induction l with
  | nil => intro k _; rfl
  | cons b l ih =>
    intro k h
    have hn : (n == k) = false := by simp; omega
    simp [List.zipIdx_cons, hn]
    simpa using ih (k + 1) (by omega)
/-- A flip at a place of a list changes that byte alone. -/
theorem damaged_at (v : Byte) (b : Byte) (rest : List Byte) : ∀ (a : List Byte) (k : Nat),
    ((a ++ b :: rest).zipIdx k).map (fun x => (([(k + a.length, v)] : List (Nat × Byte)).filter (fun f => f.1 == x.2)).foldl (fun b f => b ^^^ f.2) x.1) =
      a ++ (b ^^^ v) :: rest := by
  intro a
  induction a with
  | nil => intro k; simp [List.zipIdx_cons]; simpa using damaged_past k v rest (k + 1) (by omega)
  | cons c a ih =>
    intro k
    have hn : (k + (c :: a).length == k) = false := by simp
    simp only [List.cons_append, List.zipIdx_cons, List.map_cons, List.filter_cons, hn]
    simp
    have := ih (k + 1)
    simp only [show k + 1 + a.length = k + (c :: a).length by simp; omega, List.filter_cons, List.filter_nil] at this
    simpa using this
/-- The four bytes of a checksum. -/
theorem leNat_checksum (c : BitVec 32) : ∃ b0 b1 b2 b3 : Byte, leBytes c.toNat 4 = [b0, b1, b2, b3] ∧ leNat [b0, b1, b2, b3] = c.toNat := by
  refine ⟨_, _, _, _, rfl, ?_⟩
  have h := c.isLt
  simp only [leNat, BitVec.toNat_ofNat]
  omega
/-- A checksum whose lowest byte has changed disagrees with the bytes it stands for. -/
theorem flip_seen (a rest : List Byte) :
    checksumOk a.length (damaged [(a.length, 1)] (a ++ (leBytes (crc32 (a ++ [0, 0, 0, 0] ++ rest)).toNat 4 ++ rest))) = false := by
  obtain ⟨b0, b1, b2, b3, e, h⟩ := leNat_checksum (crc32 (a ++ [0, 0, 0, 0] ++ rest))
  have d := damaged_at 1 b0 (b1 :: b2 :: b3 :: rest) a 0
  have e2 : (a ++ (b0 ^^^ 1) :: b1 :: b2 :: b3 :: rest).drop (a.length + 4) = rest := by
    rw [← List.drop_drop, List.drop_left]; rfl
  rw [e, damaged]
  simp only [Nat.zero_add] at d
  simp only [List.cons_append, List.nil_append, checksumOk, field]
  rw [d, e2, List.take_left, List.drop_left, ← h]
  simp only [List.take_succ_cons, List.take_zero, leNat, beq_eq_false_iff_ne, ne_eq]
  intro hh
  have h4 : (b0 ^^^ 1).toNat = b0.toNat := by omega
  have h5 := BitVec.eq_of_toNat_eq h4
  clear hh h4 d e2 h e
  revert h5; revert b0; decide

/-- So many bytes of a number. -/
theorem leBytes_length (n : Nat) : ∀ x, (leBytes x n).length = n := by
  induction n with
  | zero => intro x; rfl
  | succ n ih => intro x; simp [leBytes, ih]
/-- The checksum of an image's header stands at byte 0x24 of it. -/
theorem header_head (x : Saved) (r : Ridge) (sections length : Nat) : ∃ a rest : List Byte, a.length = 0x24 ∧
    ∀ sum, x.imageHeader r sections length sum = a ++ (leBytes sum 4 ++ rest) :=
  ⟨leBytes 0x56535847 4 ++ leBytes 1 2 ++ leBytes sections 2 ++ leBytes x.num 2 ++ leBytes x.core.col 1 ++ leBytes x.core.row 1 ++
      leBytes r.header.crew 1 ++
      leBytes ((if r.header.redundant then 1 else 0) + (if r.header.tagged then 2 else 0) + (if x.core.col = 0 ∧ x.core.row = 0 then 4 else 0)) 1 ++
      leBytes 0 2 ++ leBytes x.stamp 8 ++ leBytes length 8 ++ leBytes r.inst 4, List.replicate 24 0,
    by simp only [List.length_append, leBytes_length], fun sum => by simp only [Saved.imageHeader, List.append_assoc]⟩
/-- An image has bytes before its checksum, its checksum, and bytes after it. -/
theorem image_head (s : State) (r : Ridge) (x : Saved) : ∃ a rest : List Byte, a.length = 0x24 ∧
    s.imageOf r x = a ++ (leBytes (crc32 (a ++ [0, 0, 0, 0] ++ rest)).toNat 4 ++ rest) := by
  unfold State.imageOf
  generalize (s.asSaved r).sections r x = ss
  simp only []
  generalize directoryOf (64 + 16 * ss.length) ss ++ ss.flatMap (fun e => e.2.2) = body
  obtain ⟨a, rest, h, e⟩ := header_head x r ss.length (64 + body.length)
  refine ⟨a, rest ++ body, h, ?_⟩
  have z : leBytes 0 4 = [0, 0, 0, 0] := rfl
  simp only [e, z, List.append_assoc]

/-- Damage to the checksum of a save image is seen at its resume. -/
theorem damage_seen (s : State) (r : Ridge) (x : Saved) : checksumOk 0x24 (damaged [(0x24, 1)] (s.imageOf r x)) = false := by
  obtain ⟨a, rest, h, e⟩ := image_head s r x
  rw [e, ← h]
  exact flip_seen a rest
/-- An instance of one core whose image is damaged there is not resumed. -/
theorem damaged_unsound {s : State} {r : Ridge} {x : Saved} (h : r.image = [x]) (hf : x.flips = [(0x24, 1)]) : s.imagesSound r = false := by
  simp [State.imagesSound, h, hf]
  exact damage_seen s r x
/-- A cairn has bytes before its checksum, its checksum, and bytes after it. -/
theorem cairn_head (s : State) (k : Cairn) : ∃ a rest : List Byte, a.length = 0x24 ∧
    s.cairnBytes k = a ++ (leBytes (crc32 (a ++ [0, 0, 0, 0] ++ rest)).toNat 4 ++ rest) := by
  unfold State.cairnBytes
  generalize s.cairnSections k = ss
  simp only []
  generalize directoryOf (64 + 16 * ss.length) ss ++ ss.flatMap (fun e => e.2.2) = body
  refine ⟨leBytes 0x4E524143 4 ++ leBytes 1 2 ++ leBytes ((if k.opened then 1 else 0) + (if k.incomplete then 2 else 0)) 2 ++ leBytes k.asid 2 ++
    leBytes k.queue 2 ++ leBytes k.pages.length 4 ++ wordBytes k.seq ++ leBytes k.foreign 8 ++ leBytes ss.length 4, List.replicate 24 0 ++ body, ?_, ?_⟩
  · simp [List.length_append, leBytes_length, wordBytes]
  · have z : leBytes 0 4 = [0, 0, 0, 0] := rfl
    simp only [Cairn.head, z, List.append_assoc]
/-- Damage to the checksum of a cairn is seen. -/
theorem damaged_cairn {s : State} {k : Cairn} (hf : k.flips = [(0x24, 1)]) : s.cairnSound k = false := by
  obtain ⟨a, rest, h, e⟩ := cairn_head s k
  have d := flip_seen a rest
  rw [← e, h] at d
  simp only [State.cairnSound, hf, d]
  rfl

end Sys2Proof.Laws
end

