-- ==== Sys2Proof/Laws/Issue.lean ====
section
/-! SUPPORT. What an attempted issue does, once for every instruction. -/

namespace Sys2Proof
open Sys2Proof.Machine

@[simp] theorem offer_nil (s : State) (c : Nat) : s.offer c [] = s := by
  simp [State.offer]

/-- A pair that takes no operand from outside reads its own sources. -/
theorem ownSrcs_of_alone {f : Form} {tr : Bool} (h : tr = false ∨ f.takesIn = false) : f.ownSrcs tr = f.srcs := by
  unfold Form.ownSrcs
  rcases h with h | h
  · simp [h]
  · have : f.srcs.any Opnd.isOutside = false := by
      unfold Form.takesIn Form.srcsIn at h
      exact (Bool.or_eq_false_iff.mp h).2
    cases tr with
    | false => rfl
    | true => simpa using this

theorem stopHit_nil (s : State) (c sl : Nat) : s.stopHit c sl [] = none := by
  unfold State.stopHit; split <;> rfl

/-- An attempt that opens carries out the body's answer. -/
theorem issue_of_opens {s s1 : State} {f : Form} {xs : List Val} (body : Body) (h : Opens s f s1 xs) :
    s.issue f body = s.perform s.curCore s.curSlot f (body s1 s.curCore s.curSlot xs) := by
  obtain ⟨h1, h2, h3, h4, h5, h6, h7, h8, h9, h10⟩ := h
  have ho : f.ownSrcs (s.isTrailing s.curCore s.curSlot) = f.srcs := by
    apply ownSrcs_of_alone
    rcases h10 with h | h
    · left; simp [State.isTrailing, h]
    · exact .inr h.1
  have hp : (s.isPair s.curCore s.curSlot && (f.takesIn || f.givesOut)) = false := by
    rcases h10 with h | ⟨ha, hb⟩
    · simp [h]
    · simp [ha, hb]
  have hc : (xs.any (·.poison) && !f.passes) = false := by
    rcases h9 with h | h <;> simp [h]
  have ha : s.allSrcs s.curCore s.curSlot f xs = xs := by
    unfold State.allSrcs
    rcases h10 with h | h
    · simp [State.isTrailing, h]
    · have : f.srcsIn = false := (Bool.or_eq_false_iff.mp h.1).2
      simp [Form.found, this]
  have hn : (if ((me s).skips || xs.isEmpty) = true then [] else s.accessHits s.curCore s.curSlot f xs) = [] := by
    rcases h7 with h | h <;> simp [h]
  unfold me at *
  simp only [State.issue, h1, h2, h4, h5, h6, ha, hn, h8, ho, hp, hc, offer_nil, stopHit_nil, Bool.not_true, Bool.false_eq_true,
    if_false]
  split
  · rename_i x hx
    exact absurd rfl (h3 _ hx)
  · rfl

/-- The outcome of an attempt that opens. -/
theorem step_of_opens {s s1 : State} {f : Form} {xs : List Val} (body : Body) (h : Opens s f s1 xs) :
    s.issueStep f body = .next (s.perform s.curCore s.curSlot f (body s1 s.curCore s.curSlot xs)) := by
  rw [State.issueStep, issue_of_opens body h]

/-- A body that answers results retires with them. -/
theorem retires_of_ret {s s1 s2 : State} {f : Form} {xs : List Val} {body : Body} {ws : List (Opnd × Val)} {next : Option Word}
    (h : Opens s f s1 xs) (hb : body s1 s.curCore s.curSlot xs = .ret s2 ws next) :
    Retires s f s2 ws (next.getD ((me s).pc + 4)) (s.issueStep f body) := by
  intro t ht
  rw [step_of_opens body h, hb]
  simp only [State.perform, ht]
  rfl

/-- A body that answers results and goes on at the next word. -/
theorem results_of_ret {s s1 s2 : State} {f : Form} {xs : List Val} {body : Body} {ws : List (Opnd × Val)}
    (h : Opens s f s1 xs) (hb : body s1 s.curCore s.curSlot xs = .ret s2 ws none) : Results s f s2 ws (s.issueStep f body) := by
  have := retires_of_ret h hb
  rw [Option.getD_none] at this
  exact this

/-- A body that answers a pending instruction. -/
theorem pends_of_pend {s s1 s2 : State} {f : Form} {xs : List Val} {body : Body} {kind : PKind} {due : Nat}
    (h : Opens s f s1 xs) (hb : body s1 s.curCore s.curSlot xs = .pend s2 kind due) : Pends s f s2 kind due (s.issueStep f body) := by
  intro t ht
  rw [step_of_opens body h, hb]
  simp only [State.perform, ht]
  rfl

/-- A body without results. -/
theorem issued_of_ret {s s1 s2 : State} {f : Form} {xs : List Val} {body : Body} {next : Option Word}
    (h : Opens s f s1 xs) (hb : body s1 s.curCore s.curSlot xs = .ret s2 [] next) :
    s.issueStep f body = .next (issuedFrom s f s2 (next.getD ((me s).pc + 4))) :=
  retires_of_ret h hb s2 rfl

/-- A body that faults. -/
theorem trapped_of_trap {s s1 : State} {f : Form} {xs : List Val} {body : Body} {code : BitVec 16} {info addr : Word}
    (h : Opens s f s1 xs) (hb : body s1 s.curCore s.curSlot xs = .trap code info addr) :
    s.issueStep f body = .next (s.trapped s.curCore s.curSlot code info addr) := by
  rw [step_of_opens body h, hb]; rfl

/-- A body that parks. -/
theorem parked_of_park {s s1 : State} {f : Form} {xs : List Val} {body : Body} {w : Wait}
    (h : Opens s f s1 xs) (hb : body s1 s.curCore s.curSlot xs = .park w) :
    s.issueStep f body = .next (s.parked s.curCore s.curSlot w) := by
  rw [step_of_opens body h, hb]; rfl

/-- A body that parks after a change of its own. -/
theorem parked_of_parkIn {s s1 s2 : State} {f : Form} {xs : List Val} {body : Body} {w : Wait}
    (h : Opens s f s1 xs) (hb : body s1 s.curCore s.curSlot xs = .parkIn s2 w) :
    s.issueStep f body = .next (s2.parked s.curCore s.curSlot w) := by
  rw [step_of_opens body h, hb]; rfl

end Sys2Proof
end

