-- ==== Sys2Proof/Laws/Memory.lean ====
section
/-! SUPPORT. Memory's canonical form: every operation over memory keeps it, and a read after a write (04 R64; log 1). -/

namespace Sys2Proof.Machine
open Sys2Proof

/-! ### The list -/

/-- A memory with a first entry is canonical exactly if that entry is listed rightly, lies below the others, and the rest is
canonical. -/
theorem memWf_cons (k : Nat) (b : Byte) (rest : List Host.Cell) :
    memWf ((k, b) :: rest) = true ↔ b ≠ unlisted ∧ (∀ x ∈ rest, k < x.1) ∧ memWf rest = true := by
  induction rest generalizing k b with
  | nil => simp [memWf]
  | cons x rest ih =>
    obtain ⟨k', b'⟩ := x
    constructor
    · intro h
      simp only [memWf, Bool.and_eq_true, bne_iff_ne, ne_eq, decide_eq_true_eq] at h
      refine ⟨h.1.1, ?_, h.2⟩
      intro y hy
      rcases List.mem_cons.mp hy with rfl | hy
      · exact h.1.2
      · exact Nat.lt_trans h.1.2 (((ih k' b').mp h.2).2.1 y hy)
    · rintro ⟨h1, h2, h3⟩
      simp only [memWf, Bool.and_eq_true, bne_iff_ne, ne_eq, decide_eq_true_eq]
      exact ⟨⟨h1, h2 (k', b') (by simp)⟩, h3⟩

/-- Every entry after a write is the written one or was there. -/
theorem mem_memSet {m : List Host.Cell} {n : Nat} {v : Byte} {x : Host.Cell} (h : x ∈ memSet m n v) : x = (n, v) ∨ x ∈ m := by
  induction m with
  | nil =>
    simp only [memSet] at h
    split at h <;> simp_all
  | cons y rest ih =>
    obtain ⟨k, b⟩ := y
    simp only [memSet] at h
    split at h
    · split at h <;> simp_all
    · split at h
      · split at h
        · exact .inr (List.mem_cons_of_mem _ h)
        · rcases List.mem_cons.mp h with h | h
          · left; simp_all
          · exact .inr (List.mem_cons_of_mem _ h)
      · rcases List.mem_cons.mp h with h | h
        · exact .inr (h ▸ List.mem_cons_self ..)
        · rcases ih h with h | h
          · exact .inl h
          · exact .inr (List.mem_cons_of_mem _ h)

/-- A write keeps the canonical form. -/
theorem memWf_memSet {m : List Host.Cell} (n : Nat) (v : Byte) (h : memWf m = true) : memWf (memSet m n v) = true := by
  induction m with
  | nil => simp only [memSet]; split <;> simp_all [memWf]
  | cons y rest ih =>
    obtain ⟨k, b⟩ := y
    have ⟨h1, h2, h3⟩ := (memWf_cons k b rest).mp h
    simp only [memSet]
    split
    · rename_i hn
      split
      · exact h
      · rename_i hv
        refine (memWf_cons _ _ _).mpr ⟨hv, ?_, h⟩
        intro x hx
        rcases List.mem_cons.mp hx with rfl | hx
        · exact hn
        · exact Nat.lt_trans hn (h2 x hx)
    · split
      · split
        · exact h3
        · rename_i hv
          exact (memWf_cons _ _ _).mpr ⟨hv, h2, h3⟩
      · refine (memWf_cons _ _ _).mpr ⟨h1, ?_, ih h3⟩
        intro x hx
        rcases mem_memSet hx with rfl | hx
        · show k < n; omega
        · exact h2 x hx

/-- An address below every entry reads as unlisted. -/
theorem memGet_below {m : List Host.Cell} {n : Nat} (h : ∀ x ∈ m, n < x.1) : memGet m n = unlisted := by
  cases m with
  | nil => rfl
  | cons y rest =>
    obtain ⟨k, b⟩ := y
    have : n < k := h (k, b) (by simp)
    simp [memGet, this, Nat.ne_of_lt this]

/-- A read after a write to the same address gives what was written. -/
theorem memGet_memSet_same {m : List Host.Cell} (n : Nat) (v : Byte) (h : memWf m = true) : memGet (memSet m n v) n = v := by
  induction m with
  | nil => simp only [memSet]; split <;> simp_all [memGet]
  | cons y rest ih =>
    obtain ⟨k, b⟩ := y
    have ⟨_, h2, h3⟩ := (memWf_cons k b rest).mp h
    simp only [memSet]
    split
    · rename_i hn
      split
      · simp_all [memGet, Nat.ne_of_lt hn]
      · simp [memGet]
    · split
      · split
        · rename_i hn hv
          rw [hv]
          exact memGet_below (fun x hx => hn ▸ h2 x hx)
        · rename_i hn _
          simp [memGet, hn]
      · rename_i h4 h5
        simp [memGet, h4, h5, ih h3]

/-- A write leaves every other address alone. -/
theorem memGet_memSet_other {m : List Host.Cell} {n a : Nat} (v : Byte) (h : memWf m = true) (ha : a ≠ n) :
    memGet (memSet m n v) a = memGet m a := by
  induction m with
  | nil =>
    simp only [memSet]
    split
    · rfl
    · simp only [memGet, ha, if_false]
      split <;> rfl
  | cons y rest ih =>
    obtain ⟨k, b⟩ := y
    have ⟨_, h2, h3⟩ := (memWf_cons k b rest).mp h
    simp only [memSet]
    split
    · rename_i hn
      split
      · rfl
      · simp only [memGet, ha, if_false]
        split
        · rename_i hl
          simp [Nat.ne_of_lt (Nat.lt_trans hl hn), Nat.lt_trans hl hn]
        · rfl
    · split
      · rename_i hn
        subst hn
        split
        · simp only [memGet, ha, if_false]
          split
          · rename_i hl
            exact memGet_below (fun x hx => Nat.lt_trans hl (h2 x hx))
          · rfl
        · simp [memGet, ha]
      · simp only [memGet, ih h3]

/-- Keeping only some entries keeps the canonical form. -/
theorem memWf_filter {m : List Host.Cell} (p : Host.Cell → Bool) (h : memWf m = true) : memWf (m.filter p) = true := by
  induction m with
  | nil => rfl
  | cons y rest ih =>
    obtain ⟨k, b⟩ := y
    have ⟨h1, h2, h3⟩ := (memWf_cons k b rest).mp h
    rw [List.filter_cons]
    split
    · exact (memWf_cons _ _ _).mpr ⟨h1, fun x hx => h2 x (List.mem_filter.mp hx).1, ih h3⟩
    · exact ih h3

/-- Several writes keep the canonical form. -/
theorem memWf_foldl_memSet {α : Type} (f : α → Nat) (g : α → Byte) (xs : List α) {m : List Host.Cell} (h : memWf m = true) :
    memWf (xs.foldl (fun m x => memSet m (f x) (g x)) m) = true := by
  induction xs generalizing m with
  | nil => exact h
  | cons x xs ih => exact ih (memWf_memSet _ _ h)

/-! ### The state's memory -/

/-- Reset memory is canonical. -/
theorem reset_mem_wf : Memory.wf State.reset.mem = true := rfl

theorem setByte_wf {s : State} (home off : Nat) (b : Byte) (h : Memory.wf s.mem = true) :
    Memory.wf (s.setByte home off b).mem = true := memWf_memSet _ _ h

theorem setBytes_wf {s : State} (home off : Nat) (bs : List Byte) (h : Memory.wf s.mem = true) :
    Memory.wf (s.setBytes home off bs).mem = true := by
  induction bs generalizing s off with
  | nil => exact h
  | cons b bs ih => exact ih _ (setByte_wf _ _ _ h)

theorem setLanes_wf {s : State} (c off : Nat) (bs : List (Option Byte)) (h : Memory.wf s.mem = true) :
    Memory.wf (s.setLanes c off bs).mem = true := by
  induction bs generalizing s off with
  | nil => exact h
  | cons b bs ih =>
    cases b with
    | none => exact ih _ h
    | some b => exact ih _ (setByte_wf _ _ _ h)

/-- Offsets of a home's span are distinct keys. -/
theorem key_inj {home home' off off' : Nat} (h : off < Config.homeSpan) (h' : off' < Config.homeSpan)
    (hk : key home off = key home' off') : home = home' ∧ off = off' := by
  have h1 : 0 < Config.homeSpan := Nat.lt_of_le_of_lt (Nat.zero_le _) h
  unfold key at hk
  rw [Nat.mod_eq_of_lt h, Nat.mod_eq_of_lt h'] at hk
  have hd := congrArg (· / Config.homeSpan) hk
  have hm := congrArg (· % Config.homeSpan) hk
  simp only [Nat.mul_comm _ Config.homeSpan, Nat.mul_add_div h1, Nat.div_eq_of_lt h, Nat.div_eq_of_lt h', Nat.mul_add_mod,
    Nat.mod_eq_of_lt h, Nat.mod_eq_of_lt h', Nat.add_zero] at hd hm
  exact ⟨hd, hm⟩

/-- The byte written is the byte read. -/
theorem byte_setByte_same {s : State} (home off : Nat) (b : Byte) (h : Memory.wf s.mem = true) :
    (s.setByte home off b).byte home off = b := memGet_memSet_same _ _ h

/-- Another byte stays. -/
theorem byte_setByte_other {s : State} {home off home' off' : Nat} (b : Byte) (h : Memory.wf s.mem = true)
    (h1 : off < Config.homeSpan) (h2 : off' < Config.homeSpan) (h3 : home' ≠ home ∨ off' ≠ off) :
    (s.setByte home off b).byte home' off' = s.byte home' off' := by
  refine memGet_memSet_other _ h (fun hk => ?_)
  have := key_inj h2 h1 hk
  omega

/-- A write of several bytes leaves the bytes outside it. -/
theorem byte_setBytes_other {s : State} {home off home' off' : Nat} (bs : List Byte) (h : Memory.wf s.mem = true)
    (h1 : off + bs.length ≤ Config.homeSpan) (h2 : off' < Config.homeSpan)
    (h3 : home' ≠ home ∨ off' < off ∨ off + bs.length ≤ off') :
    (s.setBytes home off bs).byte home' off' = s.byte home' off' := by
  induction bs generalizing s off with
  | nil => rfl
  | cons b bs ih =>
    simp only [List.length_cons] at h1 h3
    rw [State.setBytes, ih (setByte_wf _ _ _ h) (by omega) (by omega), byte_setByte_other b h (by omega) h2 (by omega)]

/-- Each byte written is read back. -/
theorem byte_setBytes_same {s : State} {home off : Nat} (bs : List Byte) (h : Memory.wf s.mem = true)
    (h1 : off + bs.length ≤ Config.homeSpan) {j : Nat} {b : Byte} (hj : bs[j]? = some b) :
    (s.setBytes home off bs).byte home (off + j) = b := by
  induction bs generalizing s off j with
  | nil => simp at hj
  | cons x bs ih =>
    simp only [List.length_cons] at h1
    cases j with
    | zero =>
      simp only [List.getElem?_cons_zero, Option.some.injEq] at hj
      subst hj
      rw [State.setBytes, Nat.add_zero, byte_setBytes_other bs (setByte_wf _ _ _ h) (by omega) (by omega) (.inr (.inl (by omega)))]
      exact byte_setByte_same _ _ _ h
    | succ j =>
      rw [List.getElem?_cons_succ] at hj
      have := ih (s := s.setByte home off x) (off := off + 1) (setByte_wf _ _ _ h) (by omega) hj
      rw [State.setBytes, ← this]
      congr 1
      omega

theorem wipe_wf {s : State} (home off n : Nat) (h : Memory.wf s.mem = true) : Memory.wf (s.wipe home off n).mem = true :=
  memWf_filter _ h

/-- Of memory a whole write changes the bytes written, and nothing else. -/
theorem writeAt_mem (s : State) (home off : Nat) (bs : List Byte) : (s.writeAt home off bs).mem = (s.setBytes home off bs).mem := by
  have hk : (s.keepOld home off bs.length).mem = s.mem := by unfold State.keepOld; split <;> rfl
  have hs : ∀ (xs : List Byte) (o : Nat) (a b : State), a.mem = b.mem → (a.setBytes home o xs).mem = (b.setBytes home o xs).mem := by
    intro xs
    induction xs with
    | nil => intro _ _ _ h; exact h
    | cons x xs ih => intro o a b h; exact ih _ _ _ (by simp [State.setByte, h])
  have hd : ∀ a : State, (a.dirtied home off bs.length).mem = a.mem := by intro a; unfold State.dirtied; split <;> rfl
  rw [State.writeAt, hd]
  exact hs bs off _ _ hk

theorem writeAt_wf {s : State} (home off : Nat) (bs : List Byte) (h : Memory.wf s.mem = true) :
    Memory.wf (s.writeAt home off bs).mem = true := by
  rw [writeAt_mem]
  exact setBytes_wf _ _ _ h

end Sys2Proof.Machine
end

