-- ==== Sys2Proof/Laws/Pacia.lean ====
section
/-! SUPPORT. What a command slot's turn does, once for every command. -/

namespace Sys2Proof.Laws
open Sys2Proof.Machine

/-- At its turn a command is one that runs. -/
theorem runs_at_turn {s : State} {code slot : Nat} (h : CommandTurn s code slot) : s.runs code slot = true := by
  obtain ⟨h1, h2, h3, h4⟩ := h
  simp [State.runs, h1, h2, h3, h4]

/-- At a command slot's turn the command runs, and finishes with its status. -/
theorem runCommand_at_turn {s : State} {code slot : Nat} (h : CommandTurn s code slot) (f : State → Nat × State) :
    s.runCommand code slot f = .next ((f s).2.commandDone (f s).1) := by
  simp [State.runCommand, runs_at_turn h]

/-- A command whose bell is at the head of the order finishes in its slot. -/
theorem commandDone_at_head {s t : State} {slot st : Nat} (h : s.rung.head? = some slot) (ht : t.rung = s.rung) :
    t.commandDone st = ({ t with rung := s.rung.tail } : State).paciaPut (0x02000000 + 64 * slot + 2) (leBytes st 2) := by
  unfold State.commandDone
  rw [ht]
  cases hr : s.rung with
  | nil => simp [hr] at h
  | cons x rest =>
    obtain rfl : x = slot := by simpa [hr] using h
    rfl

/-- A command that answers a status and a state with the same order ends so. -/
theorem runCommand_ends {s t : State} {code slot st : Nat} (h : CommandTurn s code slot) {f : State → Nat × State}
    (hf : f s = (st, t)) (ht : t.rung = s.rung) : Ends s slot st t (s.runCommand code slot f) := by
  unfold Ends
  rw [runCommand_at_turn h, hf, commandDone_at_head h.2.1 ht]

end Sys2Proof.Laws
end

