-- ==== Sys2Proof/Laws/State.lean ====
section
/-! SUPPORT. What each update of the state leaves: one lemma per field and update, and the core or thread an update changed. -/

namespace Sys2Proof.Machine
open Sys2Proof

/-! ### Tables -/

theorem assocGet_assocSet_same {α : Type} (xs : List (Nat × α)) (n : Nat) (a : α) : assocGet (assocSet xs n a) n = some a := by
  induction xs with
  | nil => simp [assocSet, assocGet]
  | cons x rest ih =>
    obtain ⟨m, b⟩ := x
    simp only [assocSet]
    split
    · simp [assocGet]
    · split
      · simp [assocGet]
      · rename_i h
        simp [assocGet, h, ih]

theorem assocGet_assocSet_other {α : Type} (xs : List (Nat × α)) {n k : Nat} (a : α) (h : k ≠ n) :
    assocGet (assocSet xs n a) k = assocGet xs k := by
  induction xs with
  | nil => simp [assocSet, assocGet, h]
  | cons x rest ih =>
    obtain ⟨m, b⟩ := x
    simp only [assocSet]
    split
    · simp [assocGet, h]
    · split
      · rename_i hm
        subst hm
        simp [assocGet, h]
      · simp [assocGet, ih]

/-! ### Cores and threads -/

@[simp] theorem State.core_setCore (s : State) (c : Nat) (k : Core) : (s.setCore c k).core c = k := by
  simp [State.core, State.setCore, assocGet_assocSet_same]
theorem State.core_setCore_other (s : State) {c d : Nat} (k : Core) (h : d ≠ c) : (s.setCore c k).core d = s.core d := by
  simp [State.core, State.setCore, assocGet_assocSet_other _ _ h]
@[simp] theorem State.core_modCore (s : State) (c : Nat) (f : Core → Core) : (s.modCore c f).core c = f (s.core c) :=
  State.core_setCore ..
theorem State.core_modCore_other (s : State) {c d : Nat} (f : Core → Core) (h : d ≠ c) : (s.modCore c f).core d = s.core d :=
  State.core_setCore_other _ _ h
theorem Core.thread_setThread (k : Core) {sl : Nat} (t : Thread) (h : sl < 16) : (k.setThread sl t).thread sl = t := by
  simp [Core.thread, Core.setThread, h]
theorem Core.thread_setThread_other (k : Core) {sl i : Nat} (t : Thread) (h : i ≠ sl) : (k.setThread sl t).thread i = k.thread i := by
  simp [Core.thread, Core.setThread, Ne.symm h]
theorem State.thr_setThr (s : State) (c : Nat) {sl : Nat} (t : Thread) (h : sl < 16) : (s.setThr c sl t).thr c sl = t := by
  simp [State.thr, State.setThr, Core.thread_setThread _ _ h]
theorem State.thr_setThr_slot (s : State) (c : Nat) {sl i : Nat} (t : Thread) (h : i ≠ sl) :
    (s.setThr c sl t).thr c i = s.thr c i := by
  simp [State.thr, State.setThr, Core.thread_setThread_other _ _ h]
theorem State.thr_setThr_core (s : State) {c d : Nat} (sl i : Nat) (t : Thread) (h : d ≠ c) :
    (s.setThr c sl t).thr d i = s.thr d i := by
  simp [State.thr, State.setThr, State.core_modCore_other _ _ h]
theorem State.thr_modThr (s : State) (c : Nat) {sl : Nat} (f : Thread → Thread) (h : sl < 16) :
    (s.modThr c sl f).thr c sl = f (s.thr c sl) := State.thr_setThr _ _ _ h
theorem State.thr_modThr_slot (s : State) (c : Nat) {sl i : Nat} (f : Thread → Thread) (h : i ≠ sl) :
    (s.modThr c sl f).thr c i = s.thr c i := State.thr_setThr_slot _ _ _ h
theorem State.thr_modThr_core (s : State) {c d : Nat} (sl i : Nat) (f : Thread → Thread) (h : d ≠ c) :
    (s.modThr c sl f).thr d i = s.thr d i := State.thr_setThr_core _ _ _ _ h
/-- A change of a core that leaves its threads leaves every thread. -/
theorem State.thr_modCore (s : State) (c d i : Nat) (f : Core → Core) (h : ∀ k, (f k).threads = k.threads) :
    (s.modCore c f).thr d i = s.thr d i := by
  by_cases hd : d = c
  · subst hd; simp [State.thr, Core.thread, h]
  · simp [State.thr, State.core_modCore_other _ _ hd]

/-! ### State.setCore -/

@[simp] theorem State.setCore_mem (s : State) (c : Nat) (k : Core) : (s.setCore c k).mem = s.mem := rfl
@[simp] theorem State.setCore_poison (s : State) (c : Nat) (k : Core) : (s.setCore c k).poison = s.poison := rfl
@[simp] theorem State.setCore_soft (s : State) (c : Nat) (k : Core) : (s.setCore c k).soft = s.soft := rfl
@[simp] theorem State.setCore_rtime (s : State) (c : Nat) (k : Core) : (s.setCore c k).rtime = s.rtime := rfl
@[simp] theorem State.setCore_devNum (s : State) (c : Nat) (k : Core) : (s.setCore c k).devNum = s.devNum := rfl
@[simp] theorem State.setCore_msgs (s : State) (c : Nat) (k : Core) : (s.setCore c k).msgs = s.msgs := rfl
@[simp] theorem State.setCore_flights (s : State) (c : Nat) (k : Core) : (s.setCore c k).flights = s.flights := rfl
@[simp] theorem State.setCore_asids (s : State) (c : Nat) (k : Core) : (s.setCore c k).asids = s.asids := rfl
@[simp] theorem State.setCore_pins (s : State) (c : Nat) (k : Core) : (s.setCore c k).pins = s.pins := rfl
@[simp] theorem State.setCore_queues (s : State) (c : Nat) (k : Core) : (s.setCore c k).queues = s.queues := rfl
@[simp] theorem State.setCore_launches (s : State) (c : Nat) (k : Core) : (s.setCore c k).launches = s.launches := rfl
@[simp] theorem State.setCore_ridges (s : State) (c : Nat) (k : Core) : (s.setCore c k).ridges = s.ridges := rfl
@[simp] theorem State.setCore_log (s : State) (c : Nat) (k : Core) : (s.setCore c k).log = s.log := rfl
@[simp] theorem State.setCore_logCount (s : State) (c : Nat) (k : Core) : (s.setCore c k).logCount = s.logCount := rfl
@[simp] theorem State.setCore_routes (s : State) (c : Nat) (k : Core) : (s.setCore c k).routes = s.routes := rfl
@[simp] theorem State.setCore_saddleAt (s : State) (c : Nat) (k : Core) : (s.setCore c k).saddleAt = s.saddleAt := rfl
@[simp] theorem State.setCore_farCap (s : State) (c : Nat) (k : Core) : (s.setCore c k).farCap = s.farCap := rfl
@[simp] theorem State.setCore_farKeys (s : State) (c : Nat) (k : Core) : (s.setCore c k).farKeys = s.farKeys := rfl
@[simp] theorem State.setCore_portsDown (s : State) (c : Nat) (k : Core) : (s.setCore c k).portsDown = s.portsDown := rfl
@[simp] theorem State.setCore_lockstep (s : State) (c : Nat) (k : Core) : (s.setCore c k).lockstep = s.lockstep := rfl
@[simp] theorem State.setCore_devState (s : State) (c : Nat) (k : Core) : (s.setCore c k).devState = s.devState := rfl
@[simp] theorem State.setCore_feat (s : State) (c : Nat) (k : Core) : (s.setCore c k).feat = s.feat := rfl
@[simp] theorem State.setCore_modes (s : State) (c : Nat) (k : Core) : (s.setCore c k).modes = s.modes := rfl
@[simp] theorem State.setCore_drain (s : State) (c : Nat) (k : Core) : (s.setCore c k).drain = s.drain := rfl
@[simp] theorem State.setCore_floor (s : State) (c : Nat) (k : Core) : (s.setCore c k).floor = s.floor := rfl
@[simp] theorem State.setCore_capSeq (s : State) (c : Nat) (k : Core) : (s.setCore c k).capSeq = s.capSeq := rfl
@[simp] theorem State.setCore_cap (s : State) (c : Nat) (k : Core) : (s.setCore c k).cap = s.cap := rfl
@[simp] theorem State.setCore_debugAsid (s : State) (c : Nat) (k : Core) : (s.setCore c k).debugAsid = s.debugAsid := rfl
@[simp] theorem State.setCore_pacia (s : State) (c : Nat) (k : Core) : (s.setCore c k).pacia = s.pacia := rfl
@[simp] theorem State.setCore_rung (s : State) (c : Nat) (k : Core) : (s.setCore c k).rung = s.rung := rfl
@[simp] theorem State.setCore_assist (s : State) (c : Nat) (k : Core) : (s.setCore c k).assist = s.assist := rfl
@[simp] theorem State.setCore_assistCount (s : State) (c : Nat) (k : Core) : (s.setCore c k).assistCount = s.assistCount := rfl
@[simp] theorem State.setCore_snap (s : State) (c : Nat) (k : Core) : (s.setCore c k).snap = s.snap := rfl
@[simp] theorem State.setCore_links (s : State) (c : Nat) (k : Core) : (s.setCore c k).links = s.links := rfl
@[simp] theorem State.setCore_eth (s : State) (c : Nat) (k : Core) : (s.setCore c k).eth = s.eth := rfl
@[simp] theorem State.setCore_hostAnswer (s : State) (c : Nat) (k : Core) : (s.setCore c k).hostAnswer = s.hostAnswer := rfl
@[simp] theorem State.setCore_cairns (s : State) (c : Nat) (k : Core) : (s.setCore c k).cairns = s.cairns := rfl
@[simp] theorem State.setCore_preImages (s : State) (c : Nat) (k : Core) : (s.setCore c k).preImages = s.preImages := rfl
@[simp] theorem State.setCore_migrations (s : State) (c : Nat) (k : Core) : (s.setCore c k).migrations = s.migrations := rfl
@[simp] theorem State.setCore_turns (s : State) (c : Nat) (k : Core) : (s.setCore c k).turns = s.turns := rfl
@[simp] theorem State.setCore_reports (s : State) (c : Nat) (k : Core) : (s.setCore c k).reports = s.reports := rfl
@[simp] theorem State.setCore_fw (s : State) (c : Nat) (k : Core) : (s.setCore c k).fw = s.fw := rfl
@[simp] theorem State.setCore_agenda (s : State) (c : Nat) (k : Core) : (s.setCore c k).agenda = s.agenda := rfl
@[simp] theorem State.setCore_due (s : State) (c : Nat) (k : Core) : (s.setCore c k).due = s.due := rfl
@[simp] theorem State.setCore_opened (s : State) (c : Nat) (k : Core) : (s.setCore c k).opened = s.opened := rfl
@[simp] theorem State.setCore_fresh (s : State) (c : Nat) (k : Core) : (s.setCore c k).fresh = s.fresh := rfl
@[simp] theorem State.setCore_rdmas (s : State) (c : Nat) (k : Core) : (s.setCore c k).rdmas = s.rdmas := rfl
@[simp] theorem State.setCore_jobs (s : State) (c : Nat) (k : Core) : (s.setCore c k).jobs = s.jobs := rfl
@[simp] theorem State.setCore_behind (s : State) (c : Nat) (k : Core) : (s.setCore c k).behind = s.behind := rfl
@[simp] theorem State.setCore_booting (s : State) (c : Nat) (k : Core) : (s.setCore c k).booting = s.booting := rfl
@[simp] theorem State.setCore_shareNow (s : State) (c : Nat) (k : Core) : (s.setCore c k).shareNow = s.shareNow := rfl
@[simp] theorem State.setCore_shareWas (s : State) (c : Nat) (k : Core) : (s.setCore c k).shareWas = s.shareWas := rfl

/-! ### State.modCore -/

@[simp] theorem State.modCore_mem (s : State) (c : Nat) (f : Core → Core) : (s.modCore c f).mem = s.mem := rfl
@[simp] theorem State.modCore_poison (s : State) (c : Nat) (f : Core → Core) : (s.modCore c f).poison = s.poison := rfl
@[simp] theorem State.modCore_soft (s : State) (c : Nat) (f : Core → Core) : (s.modCore c f).soft = s.soft := rfl
@[simp] theorem State.modCore_rtime (s : State) (c : Nat) (f : Core → Core) : (s.modCore c f).rtime = s.rtime := rfl
@[simp] theorem State.modCore_devNum (s : State) (c : Nat) (f : Core → Core) : (s.modCore c f).devNum = s.devNum := rfl
@[simp] theorem State.modCore_msgs (s : State) (c : Nat) (f : Core → Core) : (s.modCore c f).msgs = s.msgs := rfl
@[simp] theorem State.modCore_flights (s : State) (c : Nat) (f : Core → Core) : (s.modCore c f).flights = s.flights := rfl
@[simp] theorem State.modCore_asids (s : State) (c : Nat) (f : Core → Core) : (s.modCore c f).asids = s.asids := rfl
@[simp] theorem State.modCore_pins (s : State) (c : Nat) (f : Core → Core) : (s.modCore c f).pins = s.pins := rfl
@[simp] theorem State.modCore_queues (s : State) (c : Nat) (f : Core → Core) : (s.modCore c f).queues = s.queues := rfl
@[simp] theorem State.modCore_launches (s : State) (c : Nat) (f : Core → Core) : (s.modCore c f).launches = s.launches := rfl
@[simp] theorem State.modCore_ridges (s : State) (c : Nat) (f : Core → Core) : (s.modCore c f).ridges = s.ridges := rfl
@[simp] theorem State.modCore_log (s : State) (c : Nat) (f : Core → Core) : (s.modCore c f).log = s.log := rfl
@[simp] theorem State.modCore_logCount (s : State) (c : Nat) (f : Core → Core) : (s.modCore c f).logCount = s.logCount := rfl
@[simp] theorem State.modCore_routes (s : State) (c : Nat) (f : Core → Core) : (s.modCore c f).routes = s.routes := rfl
@[simp] theorem State.modCore_saddleAt (s : State) (c : Nat) (f : Core → Core) : (s.modCore c f).saddleAt = s.saddleAt := rfl
@[simp] theorem State.modCore_farCap (s : State) (c : Nat) (f : Core → Core) : (s.modCore c f).farCap = s.farCap := rfl
@[simp] theorem State.modCore_farKeys (s : State) (c : Nat) (f : Core → Core) : (s.modCore c f).farKeys = s.farKeys := rfl
@[simp] theorem State.modCore_portsDown (s : State) (c : Nat) (f : Core → Core) : (s.modCore c f).portsDown = s.portsDown := rfl
@[simp] theorem State.modCore_lockstep (s : State) (c : Nat) (f : Core → Core) : (s.modCore c f).lockstep = s.lockstep := rfl
@[simp] theorem State.modCore_devState (s : State) (c : Nat) (f : Core → Core) : (s.modCore c f).devState = s.devState := rfl
@[simp] theorem State.modCore_feat (s : State) (c : Nat) (f : Core → Core) : (s.modCore c f).feat = s.feat := rfl
@[simp] theorem State.modCore_modes (s : State) (c : Nat) (f : Core → Core) : (s.modCore c f).modes = s.modes := rfl
@[simp] theorem State.modCore_drain (s : State) (c : Nat) (f : Core → Core) : (s.modCore c f).drain = s.drain := rfl
@[simp] theorem State.modCore_floor (s : State) (c : Nat) (f : Core → Core) : (s.modCore c f).floor = s.floor := rfl
@[simp] theorem State.modCore_capSeq (s : State) (c : Nat) (f : Core → Core) : (s.modCore c f).capSeq = s.capSeq := rfl
@[simp] theorem State.modCore_cap (s : State) (c : Nat) (f : Core → Core) : (s.modCore c f).cap = s.cap := rfl
@[simp] theorem State.modCore_debugAsid (s : State) (c : Nat) (f : Core → Core) : (s.modCore c f).debugAsid = s.debugAsid := rfl
@[simp] theorem State.modCore_pacia (s : State) (c : Nat) (f : Core → Core) : (s.modCore c f).pacia = s.pacia := rfl
@[simp] theorem State.modCore_rung (s : State) (c : Nat) (f : Core → Core) : (s.modCore c f).rung = s.rung := rfl
@[simp] theorem State.modCore_assist (s : State) (c : Nat) (f : Core → Core) : (s.modCore c f).assist = s.assist := rfl
@[simp] theorem State.modCore_assistCount (s : State) (c : Nat) (f : Core → Core) : (s.modCore c f).assistCount = s.assistCount := rfl
@[simp] theorem State.modCore_snap (s : State) (c : Nat) (f : Core → Core) : (s.modCore c f).snap = s.snap := rfl
@[simp] theorem State.modCore_links (s : State) (c : Nat) (f : Core → Core) : (s.modCore c f).links = s.links := rfl
@[simp] theorem State.modCore_eth (s : State) (c : Nat) (f : Core → Core) : (s.modCore c f).eth = s.eth := rfl
@[simp] theorem State.modCore_hostAnswer (s : State) (c : Nat) (f : Core → Core) : (s.modCore c f).hostAnswer = s.hostAnswer := rfl
@[simp] theorem State.modCore_cairns (s : State) (c : Nat) (f : Core → Core) : (s.modCore c f).cairns = s.cairns := rfl
@[simp] theorem State.modCore_preImages (s : State) (c : Nat) (f : Core → Core) : (s.modCore c f).preImages = s.preImages := rfl
@[simp] theorem State.modCore_migrations (s : State) (c : Nat) (f : Core → Core) : (s.modCore c f).migrations = s.migrations := rfl
@[simp] theorem State.modCore_turns (s : State) (c : Nat) (f : Core → Core) : (s.modCore c f).turns = s.turns := rfl
@[simp] theorem State.modCore_reports (s : State) (c : Nat) (f : Core → Core) : (s.modCore c f).reports = s.reports := rfl
@[simp] theorem State.modCore_fw (s : State) (c : Nat) (f : Core → Core) : (s.modCore c f).fw = s.fw := rfl
@[simp] theorem State.modCore_agenda (s : State) (c : Nat) (f : Core → Core) : (s.modCore c f).agenda = s.agenda := rfl
@[simp] theorem State.modCore_due (s : State) (c : Nat) (f : Core → Core) : (s.modCore c f).due = s.due := rfl
@[simp] theorem State.modCore_opened (s : State) (c : Nat) (f : Core → Core) : (s.modCore c f).opened = s.opened := rfl
@[simp] theorem State.modCore_fresh (s : State) (c : Nat) (f : Core → Core) : (s.modCore c f).fresh = s.fresh := rfl
@[simp] theorem State.modCore_rdmas (s : State) (c : Nat) (f : Core → Core) : (s.modCore c f).rdmas = s.rdmas := rfl
@[simp] theorem State.modCore_jobs (s : State) (c : Nat) (f : Core → Core) : (s.modCore c f).jobs = s.jobs := rfl
@[simp] theorem State.modCore_behind (s : State) (c : Nat) (f : Core → Core) : (s.modCore c f).behind = s.behind := rfl
@[simp] theorem State.modCore_booting (s : State) (c : Nat) (f : Core → Core) : (s.modCore c f).booting = s.booting := rfl
@[simp] theorem State.modCore_shareNow (s : State) (c : Nat) (f : Core → Core) : (s.modCore c f).shareNow = s.shareNow := rfl
@[simp] theorem State.modCore_shareWas (s : State) (c : Nat) (f : Core → Core) : (s.modCore c f).shareWas = s.shareWas := rfl

/-! ### State.setThr -/

@[simp] theorem State.setThr_mem (s : State) (c sl : Nat) (t : Thread) : (s.setThr c sl t).mem = s.mem := rfl
@[simp] theorem State.setThr_poison (s : State) (c sl : Nat) (t : Thread) : (s.setThr c sl t).poison = s.poison := rfl
@[simp] theorem State.setThr_soft (s : State) (c sl : Nat) (t : Thread) : (s.setThr c sl t).soft = s.soft := rfl
@[simp] theorem State.setThr_rtime (s : State) (c sl : Nat) (t : Thread) : (s.setThr c sl t).rtime = s.rtime := rfl
@[simp] theorem State.setThr_devNum (s : State) (c sl : Nat) (t : Thread) : (s.setThr c sl t).devNum = s.devNum := rfl
@[simp] theorem State.setThr_msgs (s : State) (c sl : Nat) (t : Thread) : (s.setThr c sl t).msgs = s.msgs := rfl
@[simp] theorem State.setThr_flights (s : State) (c sl : Nat) (t : Thread) : (s.setThr c sl t).flights = s.flights := rfl
@[simp] theorem State.setThr_asids (s : State) (c sl : Nat) (t : Thread) : (s.setThr c sl t).asids = s.asids := rfl
@[simp] theorem State.setThr_pins (s : State) (c sl : Nat) (t : Thread) : (s.setThr c sl t).pins = s.pins := rfl
@[simp] theorem State.setThr_queues (s : State) (c sl : Nat) (t : Thread) : (s.setThr c sl t).queues = s.queues := rfl
@[simp] theorem State.setThr_launches (s : State) (c sl : Nat) (t : Thread) : (s.setThr c sl t).launches = s.launches := rfl
@[simp] theorem State.setThr_ridges (s : State) (c sl : Nat) (t : Thread) : (s.setThr c sl t).ridges = s.ridges := rfl
@[simp] theorem State.setThr_log (s : State) (c sl : Nat) (t : Thread) : (s.setThr c sl t).log = s.log := rfl
@[simp] theorem State.setThr_logCount (s : State) (c sl : Nat) (t : Thread) : (s.setThr c sl t).logCount = s.logCount := rfl
@[simp] theorem State.setThr_routes (s : State) (c sl : Nat) (t : Thread) : (s.setThr c sl t).routes = s.routes := rfl
@[simp] theorem State.setThr_saddleAt (s : State) (c sl : Nat) (t : Thread) : (s.setThr c sl t).saddleAt = s.saddleAt := rfl
@[simp] theorem State.setThr_farCap (s : State) (c sl : Nat) (t : Thread) : (s.setThr c sl t).farCap = s.farCap := rfl
@[simp] theorem State.setThr_farKeys (s : State) (c sl : Nat) (t : Thread) : (s.setThr c sl t).farKeys = s.farKeys := rfl
@[simp] theorem State.setThr_portsDown (s : State) (c sl : Nat) (t : Thread) : (s.setThr c sl t).portsDown = s.portsDown := rfl
@[simp] theorem State.setThr_lockstep (s : State) (c sl : Nat) (t : Thread) : (s.setThr c sl t).lockstep = s.lockstep := rfl
@[simp] theorem State.setThr_devState (s : State) (c sl : Nat) (t : Thread) : (s.setThr c sl t).devState = s.devState := rfl
@[simp] theorem State.setThr_feat (s : State) (c sl : Nat) (t : Thread) : (s.setThr c sl t).feat = s.feat := rfl
@[simp] theorem State.setThr_modes (s : State) (c sl : Nat) (t : Thread) : (s.setThr c sl t).modes = s.modes := rfl
@[simp] theorem State.setThr_drain (s : State) (c sl : Nat) (t : Thread) : (s.setThr c sl t).drain = s.drain := rfl
@[simp] theorem State.setThr_floor (s : State) (c sl : Nat) (t : Thread) : (s.setThr c sl t).floor = s.floor := rfl
@[simp] theorem State.setThr_capSeq (s : State) (c sl : Nat) (t : Thread) : (s.setThr c sl t).capSeq = s.capSeq := rfl
@[simp] theorem State.setThr_cap (s : State) (c sl : Nat) (t : Thread) : (s.setThr c sl t).cap = s.cap := rfl
@[simp] theorem State.setThr_debugAsid (s : State) (c sl : Nat) (t : Thread) : (s.setThr c sl t).debugAsid = s.debugAsid := rfl
@[simp] theorem State.setThr_pacia (s : State) (c sl : Nat) (t : Thread) : (s.setThr c sl t).pacia = s.pacia := rfl
@[simp] theorem State.setThr_rung (s : State) (c sl : Nat) (t : Thread) : (s.setThr c sl t).rung = s.rung := rfl
@[simp] theorem State.setThr_assist (s : State) (c sl : Nat) (t : Thread) : (s.setThr c sl t).assist = s.assist := rfl
@[simp] theorem State.setThr_assistCount (s : State) (c sl : Nat) (t : Thread) : (s.setThr c sl t).assistCount = s.assistCount := rfl
@[simp] theorem State.setThr_snap (s : State) (c sl : Nat) (t : Thread) : (s.setThr c sl t).snap = s.snap := rfl
@[simp] theorem State.setThr_links (s : State) (c sl : Nat) (t : Thread) : (s.setThr c sl t).links = s.links := rfl
@[simp] theorem State.setThr_eth (s : State) (c sl : Nat) (t : Thread) : (s.setThr c sl t).eth = s.eth := rfl
@[simp] theorem State.setThr_hostAnswer (s : State) (c sl : Nat) (t : Thread) : (s.setThr c sl t).hostAnswer = s.hostAnswer := rfl
@[simp] theorem State.setThr_cairns (s : State) (c sl : Nat) (t : Thread) : (s.setThr c sl t).cairns = s.cairns := rfl
@[simp] theorem State.setThr_preImages (s : State) (c sl : Nat) (t : Thread) : (s.setThr c sl t).preImages = s.preImages := rfl
@[simp] theorem State.setThr_migrations (s : State) (c sl : Nat) (t : Thread) : (s.setThr c sl t).migrations = s.migrations := rfl
@[simp] theorem State.setThr_turns (s : State) (c sl : Nat) (t : Thread) : (s.setThr c sl t).turns = s.turns := rfl
@[simp] theorem State.setThr_reports (s : State) (c sl : Nat) (t : Thread) : (s.setThr c sl t).reports = s.reports := rfl
@[simp] theorem State.setThr_fw (s : State) (c sl : Nat) (t : Thread) : (s.setThr c sl t).fw = s.fw := rfl
@[simp] theorem State.setThr_agenda (s : State) (c sl : Nat) (t : Thread) : (s.setThr c sl t).agenda = s.agenda := rfl
@[simp] theorem State.setThr_due (s : State) (c sl : Nat) (t : Thread) : (s.setThr c sl t).due = s.due := rfl
@[simp] theorem State.setThr_opened (s : State) (c sl : Nat) (t : Thread) : (s.setThr c sl t).opened = s.opened := rfl
@[simp] theorem State.setThr_fresh (s : State) (c sl : Nat) (t : Thread) : (s.setThr c sl t).fresh = s.fresh := rfl
@[simp] theorem State.setThr_rdmas (s : State) (c sl : Nat) (t : Thread) : (s.setThr c sl t).rdmas = s.rdmas := rfl
@[simp] theorem State.setThr_jobs (s : State) (c sl : Nat) (t : Thread) : (s.setThr c sl t).jobs = s.jobs := rfl
@[simp] theorem State.setThr_behind (s : State) (c sl : Nat) (t : Thread) : (s.setThr c sl t).behind = s.behind := rfl
@[simp] theorem State.setThr_booting (s : State) (c sl : Nat) (t : Thread) : (s.setThr c sl t).booting = s.booting := rfl
@[simp] theorem State.setThr_shareNow (s : State) (c sl : Nat) (t : Thread) : (s.setThr c sl t).shareNow = s.shareNow := rfl
@[simp] theorem State.setThr_shareWas (s : State) (c sl : Nat) (t : Thread) : (s.setThr c sl t).shareWas = s.shareWas := rfl

/-! ### State.modThr -/

@[simp] theorem State.modThr_mem (s : State) (c sl : Nat) (f : Thread → Thread) : (s.modThr c sl f).mem = s.mem := rfl
@[simp] theorem State.modThr_poison (s : State) (c sl : Nat) (f : Thread → Thread) : (s.modThr c sl f).poison = s.poison := rfl
@[simp] theorem State.modThr_soft (s : State) (c sl : Nat) (f : Thread → Thread) : (s.modThr c sl f).soft = s.soft := rfl
@[simp] theorem State.modThr_rtime (s : State) (c sl : Nat) (f : Thread → Thread) : (s.modThr c sl f).rtime = s.rtime := rfl
@[simp] theorem State.modThr_devNum (s : State) (c sl : Nat) (f : Thread → Thread) : (s.modThr c sl f).devNum = s.devNum := rfl
@[simp] theorem State.modThr_msgs (s : State) (c sl : Nat) (f : Thread → Thread) : (s.modThr c sl f).msgs = s.msgs := rfl
@[simp] theorem State.modThr_flights (s : State) (c sl : Nat) (f : Thread → Thread) : (s.modThr c sl f).flights = s.flights := rfl
@[simp] theorem State.modThr_asids (s : State) (c sl : Nat) (f : Thread → Thread) : (s.modThr c sl f).asids = s.asids := rfl
@[simp] theorem State.modThr_pins (s : State) (c sl : Nat) (f : Thread → Thread) : (s.modThr c sl f).pins = s.pins := rfl
@[simp] theorem State.modThr_queues (s : State) (c sl : Nat) (f : Thread → Thread) : (s.modThr c sl f).queues = s.queues := rfl
@[simp] theorem State.modThr_launches (s : State) (c sl : Nat) (f : Thread → Thread) : (s.modThr c sl f).launches = s.launches := rfl
@[simp] theorem State.modThr_ridges (s : State) (c sl : Nat) (f : Thread → Thread) : (s.modThr c sl f).ridges = s.ridges := rfl
@[simp] theorem State.modThr_log (s : State) (c sl : Nat) (f : Thread → Thread) : (s.modThr c sl f).log = s.log := rfl
@[simp] theorem State.modThr_logCount (s : State) (c sl : Nat) (f : Thread → Thread) : (s.modThr c sl f).logCount = s.logCount := rfl
@[simp] theorem State.modThr_routes (s : State) (c sl : Nat) (f : Thread → Thread) : (s.modThr c sl f).routes = s.routes := rfl
@[simp] theorem State.modThr_saddleAt (s : State) (c sl : Nat) (f : Thread → Thread) : (s.modThr c sl f).saddleAt = s.saddleAt := rfl
@[simp] theorem State.modThr_farCap (s : State) (c sl : Nat) (f : Thread → Thread) : (s.modThr c sl f).farCap = s.farCap := rfl
@[simp] theorem State.modThr_farKeys (s : State) (c sl : Nat) (f : Thread → Thread) : (s.modThr c sl f).farKeys = s.farKeys := rfl
@[simp] theorem State.modThr_portsDown (s : State) (c sl : Nat) (f : Thread → Thread) : (s.modThr c sl f).portsDown = s.portsDown := rfl
@[simp] theorem State.modThr_lockstep (s : State) (c sl : Nat) (f : Thread → Thread) : (s.modThr c sl f).lockstep = s.lockstep := rfl
@[simp] theorem State.modThr_devState (s : State) (c sl : Nat) (f : Thread → Thread) : (s.modThr c sl f).devState = s.devState := rfl
@[simp] theorem State.modThr_feat (s : State) (c sl : Nat) (f : Thread → Thread) : (s.modThr c sl f).feat = s.feat := rfl
@[simp] theorem State.modThr_modes (s : State) (c sl : Nat) (f : Thread → Thread) : (s.modThr c sl f).modes = s.modes := rfl
@[simp] theorem State.modThr_drain (s : State) (c sl : Nat) (f : Thread → Thread) : (s.modThr c sl f).drain = s.drain := rfl
@[simp] theorem State.modThr_floor (s : State) (c sl : Nat) (f : Thread → Thread) : (s.modThr c sl f).floor = s.floor := rfl
@[simp] theorem State.modThr_capSeq (s : State) (c sl : Nat) (f : Thread → Thread) : (s.modThr c sl f).capSeq = s.capSeq := rfl
@[simp] theorem State.modThr_cap (s : State) (c sl : Nat) (f : Thread → Thread) : (s.modThr c sl f).cap = s.cap := rfl
@[simp] theorem State.modThr_debugAsid (s : State) (c sl : Nat) (f : Thread → Thread) : (s.modThr c sl f).debugAsid = s.debugAsid := rfl
@[simp] theorem State.modThr_pacia (s : State) (c sl : Nat) (f : Thread → Thread) : (s.modThr c sl f).pacia = s.pacia := rfl
@[simp] theorem State.modThr_rung (s : State) (c sl : Nat) (f : Thread → Thread) : (s.modThr c sl f).rung = s.rung := rfl
@[simp] theorem State.modThr_assist (s : State) (c sl : Nat) (f : Thread → Thread) : (s.modThr c sl f).assist = s.assist := rfl
@[simp] theorem State.modThr_assistCount (s : State) (c sl : Nat) (f : Thread → Thread) : (s.modThr c sl f).assistCount = s.assistCount := rfl
@[simp] theorem State.modThr_snap (s : State) (c sl : Nat) (f : Thread → Thread) : (s.modThr c sl f).snap = s.snap := rfl
@[simp] theorem State.modThr_links (s : State) (c sl : Nat) (f : Thread → Thread) : (s.modThr c sl f).links = s.links := rfl
@[simp] theorem State.modThr_eth (s : State) (c sl : Nat) (f : Thread → Thread) : (s.modThr c sl f).eth = s.eth := rfl
@[simp] theorem State.modThr_hostAnswer (s : State) (c sl : Nat) (f : Thread → Thread) : (s.modThr c sl f).hostAnswer = s.hostAnswer := rfl
@[simp] theorem State.modThr_cairns (s : State) (c sl : Nat) (f : Thread → Thread) : (s.modThr c sl f).cairns = s.cairns := rfl
@[simp] theorem State.modThr_preImages (s : State) (c sl : Nat) (f : Thread → Thread) : (s.modThr c sl f).preImages = s.preImages := rfl
@[simp] theorem State.modThr_migrations (s : State) (c sl : Nat) (f : Thread → Thread) : (s.modThr c sl f).migrations = s.migrations := rfl
@[simp] theorem State.modThr_turns (s : State) (c sl : Nat) (f : Thread → Thread) : (s.modThr c sl f).turns = s.turns := rfl
@[simp] theorem State.modThr_reports (s : State) (c sl : Nat) (f : Thread → Thread) : (s.modThr c sl f).reports = s.reports := rfl
@[simp] theorem State.modThr_fw (s : State) (c sl : Nat) (f : Thread → Thread) : (s.modThr c sl f).fw = s.fw := rfl
@[simp] theorem State.modThr_agenda (s : State) (c sl : Nat) (f : Thread → Thread) : (s.modThr c sl f).agenda = s.agenda := rfl
@[simp] theorem State.modThr_due (s : State) (c sl : Nat) (f : Thread → Thread) : (s.modThr c sl f).due = s.due := rfl
@[simp] theorem State.modThr_opened (s : State) (c sl : Nat) (f : Thread → Thread) : (s.modThr c sl f).opened = s.opened := rfl
@[simp] theorem State.modThr_fresh (s : State) (c sl : Nat) (f : Thread → Thread) : (s.modThr c sl f).fresh = s.fresh := rfl
@[simp] theorem State.modThr_rdmas (s : State) (c sl : Nat) (f : Thread → Thread) : (s.modThr c sl f).rdmas = s.rdmas := rfl
@[simp] theorem State.modThr_jobs (s : State) (c sl : Nat) (f : Thread → Thread) : (s.modThr c sl f).jobs = s.jobs := rfl
@[simp] theorem State.modThr_behind (s : State) (c sl : Nat) (f : Thread → Thread) : (s.modThr c sl f).behind = s.behind := rfl
@[simp] theorem State.modThr_booting (s : State) (c sl : Nat) (f : Thread → Thread) : (s.modThr c sl f).booting = s.booting := rfl
@[simp] theorem State.modThr_shareNow (s : State) (c sl : Nat) (f : Thread → Thread) : (s.modThr c sl f).shareNow = s.shareNow := rfl
@[simp] theorem State.modThr_shareWas (s : State) (c sl : Nat) (f : Thread → Thread) : (s.modThr c sl f).shareWas = s.shareWas := rfl

/-! ### State.setByte -/

@[simp] theorem State.setByte_poison (s : State) (h a : Nat) (b : Byte) : (s.setByte h a b).poison = s.poison := rfl
@[simp] theorem State.setByte_soft (s : State) (h a : Nat) (b : Byte) : (s.setByte h a b).soft = s.soft := rfl
@[simp] theorem State.setByte_rtime (s : State) (h a : Nat) (b : Byte) : (s.setByte h a b).rtime = s.rtime := rfl
@[simp] theorem State.setByte_devNum (s : State) (h a : Nat) (b : Byte) : (s.setByte h a b).devNum = s.devNum := rfl
@[simp] theorem State.setByte_cores (s : State) (h a : Nat) (b : Byte) : (s.setByte h a b).cores = s.cores := rfl
@[simp] theorem State.setByte_msgs (s : State) (h a : Nat) (b : Byte) : (s.setByte h a b).msgs = s.msgs := rfl
@[simp] theorem State.setByte_flights (s : State) (h a : Nat) (b : Byte) : (s.setByte h a b).flights = s.flights := rfl
@[simp] theorem State.setByte_asids (s : State) (h a : Nat) (b : Byte) : (s.setByte h a b).asids = s.asids := rfl
@[simp] theorem State.setByte_pins (s : State) (h a : Nat) (b : Byte) : (s.setByte h a b).pins = s.pins := rfl
@[simp] theorem State.setByte_queues (s : State) (h a : Nat) (b : Byte) : (s.setByte h a b).queues = s.queues := rfl
@[simp] theorem State.setByte_launches (s : State) (h a : Nat) (b : Byte) : (s.setByte h a b).launches = s.launches := rfl
@[simp] theorem State.setByte_ridges (s : State) (h a : Nat) (b : Byte) : (s.setByte h a b).ridges = s.ridges := rfl
@[simp] theorem State.setByte_log (s : State) (h a : Nat) (b : Byte) : (s.setByte h a b).log = s.log := rfl
@[simp] theorem State.setByte_logCount (s : State) (h a : Nat) (b : Byte) : (s.setByte h a b).logCount = s.logCount := rfl
@[simp] theorem State.setByte_routes (s : State) (h a : Nat) (b : Byte) : (s.setByte h a b).routes = s.routes := rfl
@[simp] theorem State.setByte_saddleAt (s : State) (h a : Nat) (b : Byte) : (s.setByte h a b).saddleAt = s.saddleAt := rfl
@[simp] theorem State.setByte_farCap (s : State) (h a : Nat) (b : Byte) : (s.setByte h a b).farCap = s.farCap := rfl
@[simp] theorem State.setByte_farKeys (s : State) (h a : Nat) (b : Byte) : (s.setByte h a b).farKeys = s.farKeys := rfl
@[simp] theorem State.setByte_portsDown (s : State) (h a : Nat) (b : Byte) : (s.setByte h a b).portsDown = s.portsDown := rfl
@[simp] theorem State.setByte_lockstep (s : State) (h a : Nat) (b : Byte) : (s.setByte h a b).lockstep = s.lockstep := rfl
@[simp] theorem State.setByte_devState (s : State) (h a : Nat) (b : Byte) : (s.setByte h a b).devState = s.devState := rfl
@[simp] theorem State.setByte_feat (s : State) (h a : Nat) (b : Byte) : (s.setByte h a b).feat = s.feat := rfl
@[simp] theorem State.setByte_modes (s : State) (h a : Nat) (b : Byte) : (s.setByte h a b).modes = s.modes := rfl
@[simp] theorem State.setByte_drain (s : State) (h a : Nat) (b : Byte) : (s.setByte h a b).drain = s.drain := rfl
@[simp] theorem State.setByte_floor (s : State) (h a : Nat) (b : Byte) : (s.setByte h a b).floor = s.floor := rfl
@[simp] theorem State.setByte_capSeq (s : State) (h a : Nat) (b : Byte) : (s.setByte h a b).capSeq = s.capSeq := rfl
@[simp] theorem State.setByte_cap (s : State) (h a : Nat) (b : Byte) : (s.setByte h a b).cap = s.cap := rfl
@[simp] theorem State.setByte_debugAsid (s : State) (h a : Nat) (b : Byte) : (s.setByte h a b).debugAsid = s.debugAsid := rfl
@[simp] theorem State.setByte_pacia (s : State) (h a : Nat) (b : Byte) : (s.setByte h a b).pacia = s.pacia := rfl
@[simp] theorem State.setByte_rung (s : State) (h a : Nat) (b : Byte) : (s.setByte h a b).rung = s.rung := rfl
@[simp] theorem State.setByte_assist (s : State) (h a : Nat) (b : Byte) : (s.setByte h a b).assist = s.assist := rfl
@[simp] theorem State.setByte_assistCount (s : State) (h a : Nat) (b : Byte) : (s.setByte h a b).assistCount = s.assistCount := rfl
@[simp] theorem State.setByte_snap (s : State) (h a : Nat) (b : Byte) : (s.setByte h a b).snap = s.snap := rfl
@[simp] theorem State.setByte_links (s : State) (h a : Nat) (b : Byte) : (s.setByte h a b).links = s.links := rfl
@[simp] theorem State.setByte_eth (s : State) (h a : Nat) (b : Byte) : (s.setByte h a b).eth = s.eth := rfl
@[simp] theorem State.setByte_hostAnswer (s : State) (h a : Nat) (b : Byte) : (s.setByte h a b).hostAnswer = s.hostAnswer := rfl
@[simp] theorem State.setByte_cairns (s : State) (h a : Nat) (b : Byte) : (s.setByte h a b).cairns = s.cairns := rfl
@[simp] theorem State.setByte_preImages (s : State) (h a : Nat) (b : Byte) : (s.setByte h a b).preImages = s.preImages := rfl
@[simp] theorem State.setByte_migrations (s : State) (h a : Nat) (b : Byte) : (s.setByte h a b).migrations = s.migrations := rfl
@[simp] theorem State.setByte_turns (s : State) (h a : Nat) (b : Byte) : (s.setByte h a b).turns = s.turns := rfl
@[simp] theorem State.setByte_reports (s : State) (h a : Nat) (b : Byte) : (s.setByte h a b).reports = s.reports := rfl
@[simp] theorem State.setByte_fw (s : State) (h a : Nat) (b : Byte) : (s.setByte h a b).fw = s.fw := rfl
@[simp] theorem State.setByte_agenda (s : State) (h a : Nat) (b : Byte) : (s.setByte h a b).agenda = s.agenda := rfl
@[simp] theorem State.setByte_due (s : State) (h a : Nat) (b : Byte) : (s.setByte h a b).due = s.due := rfl
@[simp] theorem State.setByte_opened (s : State) (h a : Nat) (b : Byte) : (s.setByte h a b).opened = s.opened := rfl
@[simp] theorem State.setByte_fresh (s : State) (h a : Nat) (b : Byte) : (s.setByte h a b).fresh = s.fresh := rfl
@[simp] theorem State.setByte_rdmas (s : State) (h a : Nat) (b : Byte) : (s.setByte h a b).rdmas = s.rdmas := rfl
@[simp] theorem State.setByte_jobs (s : State) (h a : Nat) (b : Byte) : (s.setByte h a b).jobs = s.jobs := rfl
@[simp] theorem State.setByte_behind (s : State) (h a : Nat) (b : Byte) : (s.setByte h a b).behind = s.behind := rfl
@[simp] theorem State.setByte_booting (s : State) (h a : Nat) (b : Byte) : (s.setByte h a b).booting = s.booting := rfl
@[simp] theorem State.setByte_shareNow (s : State) (h a : Nat) (b : Byte) : (s.setByte h a b).shareNow = s.shareNow := rfl
@[simp] theorem State.setByte_shareWas (s : State) (h a : Nat) (b : Byte) : (s.setByte h a b).shareWas = s.shareWas := rfl

/-! ### State.modRidge -/

@[simp] theorem State.modRidge_mem (s : State) (r : Nat) (f : Ridge → Ridge) : (s.modRidge r f).mem = s.mem := rfl
@[simp] theorem State.modRidge_poison (s : State) (r : Nat) (f : Ridge → Ridge) : (s.modRidge r f).poison = s.poison := rfl
@[simp] theorem State.modRidge_soft (s : State) (r : Nat) (f : Ridge → Ridge) : (s.modRidge r f).soft = s.soft := rfl
@[simp] theorem State.modRidge_rtime (s : State) (r : Nat) (f : Ridge → Ridge) : (s.modRidge r f).rtime = s.rtime := rfl
@[simp] theorem State.modRidge_devNum (s : State) (r : Nat) (f : Ridge → Ridge) : (s.modRidge r f).devNum = s.devNum := rfl
@[simp] theorem State.modRidge_cores (s : State) (r : Nat) (f : Ridge → Ridge) : (s.modRidge r f).cores = s.cores := rfl
@[simp] theorem State.modRidge_msgs (s : State) (r : Nat) (f : Ridge → Ridge) : (s.modRidge r f).msgs = s.msgs := rfl
@[simp] theorem State.modRidge_flights (s : State) (r : Nat) (f : Ridge → Ridge) : (s.modRidge r f).flights = s.flights := rfl
@[simp] theorem State.modRidge_asids (s : State) (r : Nat) (f : Ridge → Ridge) : (s.modRidge r f).asids = s.asids := rfl
@[simp] theorem State.modRidge_pins (s : State) (r : Nat) (f : Ridge → Ridge) : (s.modRidge r f).pins = s.pins := rfl
@[simp] theorem State.modRidge_queues (s : State) (r : Nat) (f : Ridge → Ridge) : (s.modRidge r f).queues = s.queues := rfl
@[simp] theorem State.modRidge_launches (s : State) (r : Nat) (f : Ridge → Ridge) : (s.modRidge r f).launches = s.launches := rfl
@[simp] theorem State.modRidge_log (s : State) (r : Nat) (f : Ridge → Ridge) : (s.modRidge r f).log = s.log := rfl
@[simp] theorem State.modRidge_logCount (s : State) (r : Nat) (f : Ridge → Ridge) : (s.modRidge r f).logCount = s.logCount := rfl
@[simp] theorem State.modRidge_routes (s : State) (r : Nat) (f : Ridge → Ridge) : (s.modRidge r f).routes = s.routes := rfl
@[simp] theorem State.modRidge_saddleAt (s : State) (r : Nat) (f : Ridge → Ridge) : (s.modRidge r f).saddleAt = s.saddleAt := rfl
@[simp] theorem State.modRidge_farCap (s : State) (r : Nat) (f : Ridge → Ridge) : (s.modRidge r f).farCap = s.farCap := rfl
@[simp] theorem State.modRidge_farKeys (s : State) (r : Nat) (f : Ridge → Ridge) : (s.modRidge r f).farKeys = s.farKeys := rfl
@[simp] theorem State.modRidge_portsDown (s : State) (r : Nat) (f : Ridge → Ridge) : (s.modRidge r f).portsDown = s.portsDown := rfl
@[simp] theorem State.modRidge_lockstep (s : State) (r : Nat) (f : Ridge → Ridge) : (s.modRidge r f).lockstep = s.lockstep := rfl
@[simp] theorem State.modRidge_devState (s : State) (r : Nat) (f : Ridge → Ridge) : (s.modRidge r f).devState = s.devState := rfl
@[simp] theorem State.modRidge_feat (s : State) (r : Nat) (f : Ridge → Ridge) : (s.modRidge r f).feat = s.feat := rfl
@[simp] theorem State.modRidge_modes (s : State) (r : Nat) (f : Ridge → Ridge) : (s.modRidge r f).modes = s.modes := rfl
@[simp] theorem State.modRidge_drain (s : State) (r : Nat) (f : Ridge → Ridge) : (s.modRidge r f).drain = s.drain := rfl
@[simp] theorem State.modRidge_floor (s : State) (r : Nat) (f : Ridge → Ridge) : (s.modRidge r f).floor = s.floor := rfl
@[simp] theorem State.modRidge_capSeq (s : State) (r : Nat) (f : Ridge → Ridge) : (s.modRidge r f).capSeq = s.capSeq := rfl
@[simp] theorem State.modRidge_cap (s : State) (r : Nat) (f : Ridge → Ridge) : (s.modRidge r f).cap = s.cap := rfl
@[simp] theorem State.modRidge_debugAsid (s : State) (r : Nat) (f : Ridge → Ridge) : (s.modRidge r f).debugAsid = s.debugAsid := rfl
@[simp] theorem State.modRidge_pacia (s : State) (r : Nat) (f : Ridge → Ridge) : (s.modRidge r f).pacia = s.pacia := rfl
@[simp] theorem State.modRidge_rung (s : State) (r : Nat) (f : Ridge → Ridge) : (s.modRidge r f).rung = s.rung := rfl
@[simp] theorem State.modRidge_assist (s : State) (r : Nat) (f : Ridge → Ridge) : (s.modRidge r f).assist = s.assist := rfl
@[simp] theorem State.modRidge_assistCount (s : State) (r : Nat) (f : Ridge → Ridge) : (s.modRidge r f).assistCount = s.assistCount := rfl
@[simp] theorem State.modRidge_snap (s : State) (r : Nat) (f : Ridge → Ridge) : (s.modRidge r f).snap = s.snap := rfl
@[simp] theorem State.modRidge_links (s : State) (r : Nat) (f : Ridge → Ridge) : (s.modRidge r f).links = s.links := rfl
@[simp] theorem State.modRidge_eth (s : State) (r : Nat) (f : Ridge → Ridge) : (s.modRidge r f).eth = s.eth := rfl
@[simp] theorem State.modRidge_hostAnswer (s : State) (r : Nat) (f : Ridge → Ridge) : (s.modRidge r f).hostAnswer = s.hostAnswer := rfl
@[simp] theorem State.modRidge_cairns (s : State) (r : Nat) (f : Ridge → Ridge) : (s.modRidge r f).cairns = s.cairns := rfl
@[simp] theorem State.modRidge_preImages (s : State) (r : Nat) (f : Ridge → Ridge) : (s.modRidge r f).preImages = s.preImages := rfl
@[simp] theorem State.modRidge_migrations (s : State) (r : Nat) (f : Ridge → Ridge) : (s.modRidge r f).migrations = s.migrations := rfl
@[simp] theorem State.modRidge_turns (s : State) (r : Nat) (f : Ridge → Ridge) : (s.modRidge r f).turns = s.turns := rfl
@[simp] theorem State.modRidge_reports (s : State) (r : Nat) (f : Ridge → Ridge) : (s.modRidge r f).reports = s.reports := rfl
@[simp] theorem State.modRidge_fw (s : State) (r : Nat) (f : Ridge → Ridge) : (s.modRidge r f).fw = s.fw := rfl
@[simp] theorem State.modRidge_agenda (s : State) (r : Nat) (f : Ridge → Ridge) : (s.modRidge r f).agenda = s.agenda := rfl
@[simp] theorem State.modRidge_due (s : State) (r : Nat) (f : Ridge → Ridge) : (s.modRidge r f).due = s.due := rfl
@[simp] theorem State.modRidge_opened (s : State) (r : Nat) (f : Ridge → Ridge) : (s.modRidge r f).opened = s.opened := rfl
@[simp] theorem State.modRidge_fresh (s : State) (r : Nat) (f : Ridge → Ridge) : (s.modRidge r f).fresh = s.fresh := rfl
@[simp] theorem State.modRidge_rdmas (s : State) (r : Nat) (f : Ridge → Ridge) : (s.modRidge r f).rdmas = s.rdmas := rfl
@[simp] theorem State.modRidge_jobs (s : State) (r : Nat) (f : Ridge → Ridge) : (s.modRidge r f).jobs = s.jobs := rfl
@[simp] theorem State.modRidge_behind (s : State) (r : Nat) (f : Ridge → Ridge) : (s.modRidge r f).behind = s.behind := rfl
@[simp] theorem State.modRidge_booting (s : State) (r : Nat) (f : Ridge → Ridge) : (s.modRidge r f).booting = s.booting := rfl
@[simp] theorem State.modRidge_shareNow (s : State) (r : Nat) (f : Ridge → Ridge) : (s.modRidge r f).shareNow = s.shareNow := rfl
@[simp] theorem State.modRidge_shareWas (s : State) (r : Nat) (f : Ridge → Ridge) : (s.modRidge r f).shareWas = s.shareWas := rfl

/-! ### State.modQueue -/

@[simp] theorem State.modQueue_mem (s : State) (q : Nat) (f : Queue → Queue) : (s.modQueue q f).mem = s.mem := rfl
@[simp] theorem State.modQueue_poison (s : State) (q : Nat) (f : Queue → Queue) : (s.modQueue q f).poison = s.poison := rfl
@[simp] theorem State.modQueue_soft (s : State) (q : Nat) (f : Queue → Queue) : (s.modQueue q f).soft = s.soft := rfl
@[simp] theorem State.modQueue_rtime (s : State) (q : Nat) (f : Queue → Queue) : (s.modQueue q f).rtime = s.rtime := rfl
@[simp] theorem State.modQueue_devNum (s : State) (q : Nat) (f : Queue → Queue) : (s.modQueue q f).devNum = s.devNum := rfl
@[simp] theorem State.modQueue_cores (s : State) (q : Nat) (f : Queue → Queue) : (s.modQueue q f).cores = s.cores := rfl
@[simp] theorem State.modQueue_msgs (s : State) (q : Nat) (f : Queue → Queue) : (s.modQueue q f).msgs = s.msgs := rfl
@[simp] theorem State.modQueue_flights (s : State) (q : Nat) (f : Queue → Queue) : (s.modQueue q f).flights = s.flights := rfl
@[simp] theorem State.modQueue_asids (s : State) (q : Nat) (f : Queue → Queue) : (s.modQueue q f).asids = s.asids := rfl
@[simp] theorem State.modQueue_pins (s : State) (q : Nat) (f : Queue → Queue) : (s.modQueue q f).pins = s.pins := rfl
@[simp] theorem State.modQueue_launches (s : State) (q : Nat) (f : Queue → Queue) : (s.modQueue q f).launches = s.launches := rfl
@[simp] theorem State.modQueue_ridges (s : State) (q : Nat) (f : Queue → Queue) : (s.modQueue q f).ridges = s.ridges := rfl
@[simp] theorem State.modQueue_log (s : State) (q : Nat) (f : Queue → Queue) : (s.modQueue q f).log = s.log := rfl
@[simp] theorem State.modQueue_logCount (s : State) (q : Nat) (f : Queue → Queue) : (s.modQueue q f).logCount = s.logCount := rfl
@[simp] theorem State.modQueue_routes (s : State) (q : Nat) (f : Queue → Queue) : (s.modQueue q f).routes = s.routes := rfl
@[simp] theorem State.modQueue_saddleAt (s : State) (q : Nat) (f : Queue → Queue) : (s.modQueue q f).saddleAt = s.saddleAt := rfl
@[simp] theorem State.modQueue_farCap (s : State) (q : Nat) (f : Queue → Queue) : (s.modQueue q f).farCap = s.farCap := rfl
@[simp] theorem State.modQueue_farKeys (s : State) (q : Nat) (f : Queue → Queue) : (s.modQueue q f).farKeys = s.farKeys := rfl
@[simp] theorem State.modQueue_portsDown (s : State) (q : Nat) (f : Queue → Queue) : (s.modQueue q f).portsDown = s.portsDown := rfl
@[simp] theorem State.modQueue_lockstep (s : State) (q : Nat) (f : Queue → Queue) : (s.modQueue q f).lockstep = s.lockstep := rfl
@[simp] theorem State.modQueue_devState (s : State) (q : Nat) (f : Queue → Queue) : (s.modQueue q f).devState = s.devState := rfl
@[simp] theorem State.modQueue_feat (s : State) (q : Nat) (f : Queue → Queue) : (s.modQueue q f).feat = s.feat := rfl
@[simp] theorem State.modQueue_modes (s : State) (q : Nat) (f : Queue → Queue) : (s.modQueue q f).modes = s.modes := rfl
@[simp] theorem State.modQueue_drain (s : State) (q : Nat) (f : Queue → Queue) : (s.modQueue q f).drain = s.drain := rfl
@[simp] theorem State.modQueue_floor (s : State) (q : Nat) (f : Queue → Queue) : (s.modQueue q f).floor = s.floor := rfl
@[simp] theorem State.modQueue_capSeq (s : State) (q : Nat) (f : Queue → Queue) : (s.modQueue q f).capSeq = s.capSeq := rfl
@[simp] theorem State.modQueue_cap (s : State) (q : Nat) (f : Queue → Queue) : (s.modQueue q f).cap = s.cap := rfl
@[simp] theorem State.modQueue_debugAsid (s : State) (q : Nat) (f : Queue → Queue) : (s.modQueue q f).debugAsid = s.debugAsid := rfl
@[simp] theorem State.modQueue_pacia (s : State) (q : Nat) (f : Queue → Queue) : (s.modQueue q f).pacia = s.pacia := rfl
@[simp] theorem State.modQueue_rung (s : State) (q : Nat) (f : Queue → Queue) : (s.modQueue q f).rung = s.rung := rfl
@[simp] theorem State.modQueue_assist (s : State) (q : Nat) (f : Queue → Queue) : (s.modQueue q f).assist = s.assist := rfl
@[simp] theorem State.modQueue_assistCount (s : State) (q : Nat) (f : Queue → Queue) : (s.modQueue q f).assistCount = s.assistCount := rfl
@[simp] theorem State.modQueue_snap (s : State) (q : Nat) (f : Queue → Queue) : (s.modQueue q f).snap = s.snap := rfl
@[simp] theorem State.modQueue_links (s : State) (q : Nat) (f : Queue → Queue) : (s.modQueue q f).links = s.links := rfl
@[simp] theorem State.modQueue_eth (s : State) (q : Nat) (f : Queue → Queue) : (s.modQueue q f).eth = s.eth := rfl
@[simp] theorem State.modQueue_hostAnswer (s : State) (q : Nat) (f : Queue → Queue) : (s.modQueue q f).hostAnswer = s.hostAnswer := rfl
@[simp] theorem State.modQueue_cairns (s : State) (q : Nat) (f : Queue → Queue) : (s.modQueue q f).cairns = s.cairns := rfl
@[simp] theorem State.modQueue_preImages (s : State) (q : Nat) (f : Queue → Queue) : (s.modQueue q f).preImages = s.preImages := rfl
@[simp] theorem State.modQueue_migrations (s : State) (q : Nat) (f : Queue → Queue) : (s.modQueue q f).migrations = s.migrations := rfl
@[simp] theorem State.modQueue_turns (s : State) (q : Nat) (f : Queue → Queue) : (s.modQueue q f).turns = s.turns := rfl
@[simp] theorem State.modQueue_reports (s : State) (q : Nat) (f : Queue → Queue) : (s.modQueue q f).reports = s.reports := rfl
@[simp] theorem State.modQueue_fw (s : State) (q : Nat) (f : Queue → Queue) : (s.modQueue q f).fw = s.fw := rfl
@[simp] theorem State.modQueue_agenda (s : State) (q : Nat) (f : Queue → Queue) : (s.modQueue q f).agenda = s.agenda := rfl
@[simp] theorem State.modQueue_due (s : State) (q : Nat) (f : Queue → Queue) : (s.modQueue q f).due = s.due := rfl
@[simp] theorem State.modQueue_opened (s : State) (q : Nat) (f : Queue → Queue) : (s.modQueue q f).opened = s.opened := rfl
@[simp] theorem State.modQueue_fresh (s : State) (q : Nat) (f : Queue → Queue) : (s.modQueue q f).fresh = s.fresh := rfl
@[simp] theorem State.modQueue_rdmas (s : State) (q : Nat) (f : Queue → Queue) : (s.modQueue q f).rdmas = s.rdmas := rfl
@[simp] theorem State.modQueue_jobs (s : State) (q : Nat) (f : Queue → Queue) : (s.modQueue q f).jobs = s.jobs := rfl
@[simp] theorem State.modQueue_behind (s : State) (q : Nat) (f : Queue → Queue) : (s.modQueue q f).behind = s.behind := rfl
@[simp] theorem State.modQueue_booting (s : State) (q : Nat) (f : Queue → Queue) : (s.modQueue q f).booting = s.booting := rfl
@[simp] theorem State.modQueue_shareNow (s : State) (q : Nat) (f : Queue → Queue) : (s.modQueue q f).shareNow = s.shareNow := rfl
@[simp] theorem State.modQueue_shareWas (s : State) (q : Nat) (f : Queue → Queue) : (s.modQueue q f).shareWas = s.shareWas := rfl

/-! ### State.modLaunch -/

@[simp] theorem State.modLaunch_mem (s : State) (l : Nat) (f : Launch → Launch) : (s.modLaunch l f).mem = s.mem := rfl
@[simp] theorem State.modLaunch_poison (s : State) (l : Nat) (f : Launch → Launch) : (s.modLaunch l f).poison = s.poison := rfl
@[simp] theorem State.modLaunch_soft (s : State) (l : Nat) (f : Launch → Launch) : (s.modLaunch l f).soft = s.soft := rfl
@[simp] theorem State.modLaunch_rtime (s : State) (l : Nat) (f : Launch → Launch) : (s.modLaunch l f).rtime = s.rtime := rfl
@[simp] theorem State.modLaunch_devNum (s : State) (l : Nat) (f : Launch → Launch) : (s.modLaunch l f).devNum = s.devNum := rfl
@[simp] theorem State.modLaunch_cores (s : State) (l : Nat) (f : Launch → Launch) : (s.modLaunch l f).cores = s.cores := rfl
@[simp] theorem State.modLaunch_msgs (s : State) (l : Nat) (f : Launch → Launch) : (s.modLaunch l f).msgs = s.msgs := rfl
@[simp] theorem State.modLaunch_flights (s : State) (l : Nat) (f : Launch → Launch) : (s.modLaunch l f).flights = s.flights := rfl
@[simp] theorem State.modLaunch_asids (s : State) (l : Nat) (f : Launch → Launch) : (s.modLaunch l f).asids = s.asids := rfl
@[simp] theorem State.modLaunch_pins (s : State) (l : Nat) (f : Launch → Launch) : (s.modLaunch l f).pins = s.pins := rfl
@[simp] theorem State.modLaunch_queues (s : State) (l : Nat) (f : Launch → Launch) : (s.modLaunch l f).queues = s.queues := rfl
@[simp] theorem State.modLaunch_ridges (s : State) (l : Nat) (f : Launch → Launch) : (s.modLaunch l f).ridges = s.ridges := rfl
@[simp] theorem State.modLaunch_log (s : State) (l : Nat) (f : Launch → Launch) : (s.modLaunch l f).log = s.log := rfl
@[simp] theorem State.modLaunch_logCount (s : State) (l : Nat) (f : Launch → Launch) : (s.modLaunch l f).logCount = s.logCount := rfl
@[simp] theorem State.modLaunch_routes (s : State) (l : Nat) (f : Launch → Launch) : (s.modLaunch l f).routes = s.routes := rfl
@[simp] theorem State.modLaunch_saddleAt (s : State) (l : Nat) (f : Launch → Launch) : (s.modLaunch l f).saddleAt = s.saddleAt := rfl
@[simp] theorem State.modLaunch_farCap (s : State) (l : Nat) (f : Launch → Launch) : (s.modLaunch l f).farCap = s.farCap := rfl
@[simp] theorem State.modLaunch_farKeys (s : State) (l : Nat) (f : Launch → Launch) : (s.modLaunch l f).farKeys = s.farKeys := rfl
@[simp] theorem State.modLaunch_portsDown (s : State) (l : Nat) (f : Launch → Launch) : (s.modLaunch l f).portsDown = s.portsDown := rfl
@[simp] theorem State.modLaunch_lockstep (s : State) (l : Nat) (f : Launch → Launch) : (s.modLaunch l f).lockstep = s.lockstep := rfl
@[simp] theorem State.modLaunch_devState (s : State) (l : Nat) (f : Launch → Launch) : (s.modLaunch l f).devState = s.devState := rfl
@[simp] theorem State.modLaunch_feat (s : State) (l : Nat) (f : Launch → Launch) : (s.modLaunch l f).feat = s.feat := rfl
@[simp] theorem State.modLaunch_modes (s : State) (l : Nat) (f : Launch → Launch) : (s.modLaunch l f).modes = s.modes := rfl
@[simp] theorem State.modLaunch_drain (s : State) (l : Nat) (f : Launch → Launch) : (s.modLaunch l f).drain = s.drain := rfl
@[simp] theorem State.modLaunch_floor (s : State) (l : Nat) (f : Launch → Launch) : (s.modLaunch l f).floor = s.floor := rfl
@[simp] theorem State.modLaunch_capSeq (s : State) (l : Nat) (f : Launch → Launch) : (s.modLaunch l f).capSeq = s.capSeq := rfl
@[simp] theorem State.modLaunch_cap (s : State) (l : Nat) (f : Launch → Launch) : (s.modLaunch l f).cap = s.cap := rfl
@[simp] theorem State.modLaunch_debugAsid (s : State) (l : Nat) (f : Launch → Launch) : (s.modLaunch l f).debugAsid = s.debugAsid := rfl
@[simp] theorem State.modLaunch_pacia (s : State) (l : Nat) (f : Launch → Launch) : (s.modLaunch l f).pacia = s.pacia := rfl
@[simp] theorem State.modLaunch_rung (s : State) (l : Nat) (f : Launch → Launch) : (s.modLaunch l f).rung = s.rung := rfl
@[simp] theorem State.modLaunch_assist (s : State) (l : Nat) (f : Launch → Launch) : (s.modLaunch l f).assist = s.assist := rfl
@[simp] theorem State.modLaunch_assistCount (s : State) (l : Nat) (f : Launch → Launch) : (s.modLaunch l f).assistCount = s.assistCount := rfl
@[simp] theorem State.modLaunch_snap (s : State) (l : Nat) (f : Launch → Launch) : (s.modLaunch l f).snap = s.snap := rfl
@[simp] theorem State.modLaunch_links (s : State) (l : Nat) (f : Launch → Launch) : (s.modLaunch l f).links = s.links := rfl
@[simp] theorem State.modLaunch_eth (s : State) (l : Nat) (f : Launch → Launch) : (s.modLaunch l f).eth = s.eth := rfl
@[simp] theorem State.modLaunch_hostAnswer (s : State) (l : Nat) (f : Launch → Launch) : (s.modLaunch l f).hostAnswer = s.hostAnswer := rfl
@[simp] theorem State.modLaunch_cairns (s : State) (l : Nat) (f : Launch → Launch) : (s.modLaunch l f).cairns = s.cairns := rfl
@[simp] theorem State.modLaunch_preImages (s : State) (l : Nat) (f : Launch → Launch) : (s.modLaunch l f).preImages = s.preImages := rfl
@[simp] theorem State.modLaunch_migrations (s : State) (l : Nat) (f : Launch → Launch) : (s.modLaunch l f).migrations = s.migrations := rfl
@[simp] theorem State.modLaunch_turns (s : State) (l : Nat) (f : Launch → Launch) : (s.modLaunch l f).turns = s.turns := rfl
@[simp] theorem State.modLaunch_reports (s : State) (l : Nat) (f : Launch → Launch) : (s.modLaunch l f).reports = s.reports := rfl
@[simp] theorem State.modLaunch_fw (s : State) (l : Nat) (f : Launch → Launch) : (s.modLaunch l f).fw = s.fw := rfl
@[simp] theorem State.modLaunch_agenda (s : State) (l : Nat) (f : Launch → Launch) : (s.modLaunch l f).agenda = s.agenda := rfl
@[simp] theorem State.modLaunch_due (s : State) (l : Nat) (f : Launch → Launch) : (s.modLaunch l f).due = s.due := rfl
@[simp] theorem State.modLaunch_opened (s : State) (l : Nat) (f : Launch → Launch) : (s.modLaunch l f).opened = s.opened := rfl
@[simp] theorem State.modLaunch_fresh (s : State) (l : Nat) (f : Launch → Launch) : (s.modLaunch l f).fresh = s.fresh := rfl
@[simp] theorem State.modLaunch_rdmas (s : State) (l : Nat) (f : Launch → Launch) : (s.modLaunch l f).rdmas = s.rdmas := rfl
@[simp] theorem State.modLaunch_jobs (s : State) (l : Nat) (f : Launch → Launch) : (s.modLaunch l f).jobs = s.jobs := rfl
@[simp] theorem State.modLaunch_behind (s : State) (l : Nat) (f : Launch → Launch) : (s.modLaunch l f).behind = s.behind := rfl
@[simp] theorem State.modLaunch_booting (s : State) (l : Nat) (f : Launch → Launch) : (s.modLaunch l f).booting = s.booting := rfl
@[simp] theorem State.modLaunch_shareNow (s : State) (l : Nat) (f : Launch → Launch) : (s.modLaunch l f).shareNow = s.shareNow := rfl
@[simp] theorem State.modLaunch_shareWas (s : State) (l : Nat) (f : Launch → Launch) : (s.modLaunch l f).shareWas = s.shareWas := rfl

/-! ### State.modLink -/

@[simp] theorem State.modLink_mem (s : State) (l : Nat) (f : Link → Link) : (s.modLink l f).mem = s.mem := rfl
@[simp] theorem State.modLink_poison (s : State) (l : Nat) (f : Link → Link) : (s.modLink l f).poison = s.poison := rfl
@[simp] theorem State.modLink_soft (s : State) (l : Nat) (f : Link → Link) : (s.modLink l f).soft = s.soft := rfl
@[simp] theorem State.modLink_rtime (s : State) (l : Nat) (f : Link → Link) : (s.modLink l f).rtime = s.rtime := rfl
@[simp] theorem State.modLink_devNum (s : State) (l : Nat) (f : Link → Link) : (s.modLink l f).devNum = s.devNum := rfl
@[simp] theorem State.modLink_cores (s : State) (l : Nat) (f : Link → Link) : (s.modLink l f).cores = s.cores := rfl
@[simp] theorem State.modLink_msgs (s : State) (l : Nat) (f : Link → Link) : (s.modLink l f).msgs = s.msgs := rfl
@[simp] theorem State.modLink_flights (s : State) (l : Nat) (f : Link → Link) : (s.modLink l f).flights = s.flights := rfl
@[simp] theorem State.modLink_asids (s : State) (l : Nat) (f : Link → Link) : (s.modLink l f).asids = s.asids := rfl
@[simp] theorem State.modLink_pins (s : State) (l : Nat) (f : Link → Link) : (s.modLink l f).pins = s.pins := rfl
@[simp] theorem State.modLink_queues (s : State) (l : Nat) (f : Link → Link) : (s.modLink l f).queues = s.queues := rfl
@[simp] theorem State.modLink_launches (s : State) (l : Nat) (f : Link → Link) : (s.modLink l f).launches = s.launches := rfl
@[simp] theorem State.modLink_ridges (s : State) (l : Nat) (f : Link → Link) : (s.modLink l f).ridges = s.ridges := rfl
@[simp] theorem State.modLink_log (s : State) (l : Nat) (f : Link → Link) : (s.modLink l f).log = s.log := rfl
@[simp] theorem State.modLink_logCount (s : State) (l : Nat) (f : Link → Link) : (s.modLink l f).logCount = s.logCount := rfl
@[simp] theorem State.modLink_routes (s : State) (l : Nat) (f : Link → Link) : (s.modLink l f).routes = s.routes := rfl
@[simp] theorem State.modLink_saddleAt (s : State) (l : Nat) (f : Link → Link) : (s.modLink l f).saddleAt = s.saddleAt := rfl
@[simp] theorem State.modLink_farCap (s : State) (l : Nat) (f : Link → Link) : (s.modLink l f).farCap = s.farCap := rfl
@[simp] theorem State.modLink_farKeys (s : State) (l : Nat) (f : Link → Link) : (s.modLink l f).farKeys = s.farKeys := rfl
@[simp] theorem State.modLink_portsDown (s : State) (l : Nat) (f : Link → Link) : (s.modLink l f).portsDown = s.portsDown := rfl
@[simp] theorem State.modLink_lockstep (s : State) (l : Nat) (f : Link → Link) : (s.modLink l f).lockstep = s.lockstep := rfl
@[simp] theorem State.modLink_devState (s : State) (l : Nat) (f : Link → Link) : (s.modLink l f).devState = s.devState := rfl
@[simp] theorem State.modLink_feat (s : State) (l : Nat) (f : Link → Link) : (s.modLink l f).feat = s.feat := rfl
@[simp] theorem State.modLink_modes (s : State) (l : Nat) (f : Link → Link) : (s.modLink l f).modes = s.modes := rfl
@[simp] theorem State.modLink_drain (s : State) (l : Nat) (f : Link → Link) : (s.modLink l f).drain = s.drain := rfl
@[simp] theorem State.modLink_floor (s : State) (l : Nat) (f : Link → Link) : (s.modLink l f).floor = s.floor := rfl
@[simp] theorem State.modLink_capSeq (s : State) (l : Nat) (f : Link → Link) : (s.modLink l f).capSeq = s.capSeq := rfl
@[simp] theorem State.modLink_cap (s : State) (l : Nat) (f : Link → Link) : (s.modLink l f).cap = s.cap := rfl
@[simp] theorem State.modLink_debugAsid (s : State) (l : Nat) (f : Link → Link) : (s.modLink l f).debugAsid = s.debugAsid := rfl
@[simp] theorem State.modLink_pacia (s : State) (l : Nat) (f : Link → Link) : (s.modLink l f).pacia = s.pacia := rfl
@[simp] theorem State.modLink_rung (s : State) (l : Nat) (f : Link → Link) : (s.modLink l f).rung = s.rung := rfl
@[simp] theorem State.modLink_assist (s : State) (l : Nat) (f : Link → Link) : (s.modLink l f).assist = s.assist := rfl
@[simp] theorem State.modLink_assistCount (s : State) (l : Nat) (f : Link → Link) : (s.modLink l f).assistCount = s.assistCount := rfl
@[simp] theorem State.modLink_snap (s : State) (l : Nat) (f : Link → Link) : (s.modLink l f).snap = s.snap := rfl
@[simp] theorem State.modLink_eth (s : State) (l : Nat) (f : Link → Link) : (s.modLink l f).eth = s.eth := rfl
@[simp] theorem State.modLink_hostAnswer (s : State) (l : Nat) (f : Link → Link) : (s.modLink l f).hostAnswer = s.hostAnswer := rfl
@[simp] theorem State.modLink_cairns (s : State) (l : Nat) (f : Link → Link) : (s.modLink l f).cairns = s.cairns := rfl
@[simp] theorem State.modLink_preImages (s : State) (l : Nat) (f : Link → Link) : (s.modLink l f).preImages = s.preImages := rfl
@[simp] theorem State.modLink_migrations (s : State) (l : Nat) (f : Link → Link) : (s.modLink l f).migrations = s.migrations := rfl
@[simp] theorem State.modLink_turns (s : State) (l : Nat) (f : Link → Link) : (s.modLink l f).turns = s.turns := rfl
@[simp] theorem State.modLink_reports (s : State) (l : Nat) (f : Link → Link) : (s.modLink l f).reports = s.reports := rfl
@[simp] theorem State.modLink_fw (s : State) (l : Nat) (f : Link → Link) : (s.modLink l f).fw = s.fw := rfl
@[simp] theorem State.modLink_agenda (s : State) (l : Nat) (f : Link → Link) : (s.modLink l f).agenda = s.agenda := rfl
@[simp] theorem State.modLink_due (s : State) (l : Nat) (f : Link → Link) : (s.modLink l f).due = s.due := rfl
@[simp] theorem State.modLink_opened (s : State) (l : Nat) (f : Link → Link) : (s.modLink l f).opened = s.opened := rfl
@[simp] theorem State.modLink_fresh (s : State) (l : Nat) (f : Link → Link) : (s.modLink l f).fresh = s.fresh := rfl
@[simp] theorem State.modLink_rdmas (s : State) (l : Nat) (f : Link → Link) : (s.modLink l f).rdmas = s.rdmas := rfl
@[simp] theorem State.modLink_jobs (s : State) (l : Nat) (f : Link → Link) : (s.modLink l f).jobs = s.jobs := rfl
@[simp] theorem State.modLink_behind (s : State) (l : Nat) (f : Link → Link) : (s.modLink l f).behind = s.behind := rfl
@[simp] theorem State.modLink_booting (s : State) (l : Nat) (f : Link → Link) : (s.modLink l f).booting = s.booting := rfl
@[simp] theorem State.modLink_shareNow (s : State) (l : Nat) (f : Link → Link) : (s.modLink l f).shareNow = s.shareNow := rfl
@[simp] theorem State.modLink_shareWas (s : State) (l : Nat) (f : Link → Link) : (s.modLink l f).shareWas = s.shareWas := rfl

/-! ### Core.setThread -/

@[simp] theorem Core.setThread_cycle (k : Core) (sl : Nat) (t : Thread) : (k.setThread sl t).cycle = k.cycle := rfl
@[simp] theorem Core.setThread_freq (k : Core) (sl : Nat) (t : Thread) : (k.setThread sl t).freq = k.freq := rfl
@[simp] theorem Core.setThread_phase (k : Core) (sl : Nat) (t : Thread) : (k.setThread sl t).phase = k.phase := rfl
@[simp] theorem Core.setThread_pause (k : Core) (sl : Nat) (t : Thread) : (k.setThread sl t).pause = k.pause := rfl
@[simp] theorem Core.setThread_gcap (k : Core) (sl : Nat) (t : Thread) : (k.setThread sl t).gcap = k.gcap := rfl
@[simp] theorem Core.setThread_vcap (k : Core) (sl : Nat) (t : Thread) : (k.setThread sl t).vcap = k.vcap := rfl
@[simp] theorem Core.setThread_redmask (k : Core) (sl : Nat) (t : Thread) : (k.setThread sl t).redmask = k.redmask := rfl
@[simp] theorem Core.setThread_ridge (k : Core) (sl : Nat) (t : Thread) : (k.setThread sl t).ridge = k.ridge := rfl
@[simp] theorem Core.setThread_col (k : Core) (sl : Nat) (t : Thread) : (k.setThread sl t).col = k.col := rfl
@[simp] theorem Core.setThread_row (k : Core) (sl : Nat) (t : Thread) : (k.setThread sl t).row = k.row := rfl
@[simp] theorem Core.setThread_placedAt (k : Core) (sl : Nat) (t : Thread) : (k.setThread sl t).placedAt = k.placedAt := rfl
@[simp] theorem Core.setThread_windows (k : Core) (sl : Nat) (t : Thread) : (k.setThread sl t).windows = k.windows := rfl
@[simp] theorem Core.setThread_scratch (k : Core) (sl : Nat) (t : Thread) : (k.setThread sl t).scratch = k.scratch := rfl
@[simp] theorem Core.setThread_retained (k : Core) (sl : Nat) (t : Thread) : (k.setThread sl t).retained = k.retained := rfl
@[simp] theorem Core.setThread_istore (k : Core) (sl : Nat) (t : Thread) : (k.setThread sl t).istore = k.istore := rfl
@[simp] theorem Core.setThread_refills (k : Core) (sl : Nat) (t : Thread) : (k.setThread sl t).refills = k.refills := rfl
@[simp] theorem Core.setThread_refillDue (k : Core) (sl : Nat) (t : Thread) : (k.setThread sl t).refillDue = k.refillDue := rfl
@[simp] theorem Core.setThread_sh (k : Core) (sl : Nat) (t : Thread) : (k.setThread sl t).sh = k.sh := rfl
@[simp] theorem Core.setThread_frn (k : Core) (sl : Nat) (t : Thread) : (k.setThread sl t).frn = k.frn := rfl
@[simp] theorem Core.setThread_copies (k : Core) (sl : Nat) (t : Thread) : (k.setThread sl t).copies = k.copies := rfl
@[simp] theorem Core.setThread_copyTurn (k : Core) (sl : Nat) (t : Thread) : (k.setThread sl t).copyTurn = k.copyTurn := rfl
@[simp] theorem Core.setThread_copyNext (k : Core) (sl : Nat) (t : Thread) : (k.setThread sl t).copyNext = k.copyNext := rfl
@[simp] theorem Core.setThread_wl (k : Core) (sl : Nat) (t : Thread) : (k.setThread sl t).wl = k.wl := rfl
@[simp] theorem Core.setThread_wlGone (k : Core) (sl : Nat) (t : Thread) : (k.setThread sl t).wlGone = k.wlGone := rfl
@[simp] theorem Core.setThread_wlInflight (k : Core) (sl : Nat) (t : Thread) : (k.setThread sl t).wlInflight = k.wlInflight := rfl
@[simp] theorem Core.setThread_gap (k : Core) (sl : Nat) (t : Thread) : (k.setThread sl t).gap = k.gap := rfl
@[simp] theorem Core.setThread_wlOwed (k : Core) (sl : Nat) (t : Thread) : (k.setThread sl t).wlOwed = k.wlOwed := rfl
@[simp] theorem Core.setThread_shipping (k : Core) (sl : Nat) (t : Thread) : (k.setThread sl t).shipping = k.shipping := rfl
@[simp] theorem Core.setThread_tq (k : Core) (sl : Nat) (t : Thread) : (k.setThread sl t).tq = k.tq := rfl
@[simp] theorem Core.setThread_rings (k : Core) (sl : Nat) (t : Thread) : (k.setThread sl t).rings = k.rings := rfl
@[simp] theorem Core.setThread_xfers (k : Core) (sl : Nat) (t : Thread) : (k.setThread sl t).xfers = k.xfers := rfl
@[simp] theorem Core.setThread_accs (k : Core) (sl : Nat) (t : Thread) : (k.setThread sl t).accs = k.accs := rfl
@[simp] theorem Core.setThread_engine (k : Core) (sl : Nat) (t : Thread) : (k.setThread sl t).engine = k.engine := rfl
@[simp] theorem Core.setThread_gatedRows (k : Core) (sl : Nat) (t : Thread) : (k.setThread sl t).gatedRows = k.gatedRows := rfl
@[simp] theorem Core.setThread_barriers (k : Core) (sl : Nat) (t : Thread) : (k.setThread sl t).barriers = k.barriers := rfl
@[simp] theorem Core.setThread_mail (k : Core) (sl : Nat) (t : Thread) : (k.setThread sl t).mail = k.mail := rfl
@[simp] theorem Core.setThread_skips (k : Core) (sl : Nat) (t : Thread) : (k.setThread sl t).skips = k.skips := rfl
@[simp] theorem Core.setThread_banks (k : Core) (sl : Nat) (t : Thread) : (k.setThread sl t).banks = k.banks := rfl
@[simp] theorem Core.setThread_therm (k : Core) (sl : Nat) (t : Thread) : (k.setThread sl t).therm = k.therm := rfl
@[simp] theorem Core.setThread_schedFrom (k : Core) (sl : Nat) (t : Thread) : (k.setThread sl t).schedFrom = k.schedFrom := rfl
@[simp] theorem Core.setThread_bus (k : Core) (sl : Nat) (t : Thread) : (k.setThread sl t).bus = k.bus := rfl
@[simp] theorem Core.setThread_rpcnt (k : Core) (sl : Nat) (t : Thread) : (k.setThread sl t).rpcnt = k.rpcnt := rfl
@[simp] theorem Core.setThread_inbuf (k : Core) (sl : Nat) (t : Thread) : (k.setThread sl t).inbuf = k.inbuf := rfl
@[simp] theorem Core.setThread_agentFree (k : Core) (sl : Nat) (t : Thread) : (k.setThread sl t).agentFree = k.agentFree := rfl
@[simp] theorem Core.setThread_cells (k : Core) (sl : Nat) (t : Thread) : (k.setThread sl t).cells = k.cells := rfl
@[simp] theorem Core.setThread_ldxWaits (k : Core) (sl : Nat) (t : Thread) : (k.setThread sl t).ldxWaits = k.ldxWaits := rfl
@[simp] theorem Core.setThread_tags (k : Core) (sl : Nat) (t : Thread) : (k.setThread sl t).tags = k.tags := rfl
@[simp] theorem Core.setThread_fullCount (k : Core) (sl : Nat) (t : Thread) : (k.setThread sl t).fullCount = k.fullCount := rfl
@[simp] theorem Core.setThread_dirty (k : Core) (sl : Nat) (t : Thread) : (k.setThread sl t).dirty = k.dirty := rfl
@[simp] theorem Core.setThread_pairs (k : Core) (sl : Nat) (t : Thread) : (k.setThread sl t).pairs = k.pairs := rfl
@[simp] theorem Core.setThread_redundant (k : Core) (sl : Nat) (t : Thread) : (k.setThread sl t).redundant = k.redundant := rfl
@[simp] theorem Core.setThread_steps (k : Core) (sl : Nat) (t : Thread) : (k.setThread sl t).steps = k.steps := rfl
@[simp] theorem Core.setThread_windowPower (k : Core) (sl : Nat) (t : Thread) : (k.setThread sl t).windowPower = k.windowPower := rfl
@[simp] theorem Core.setThread_coreLimit (k : Core) (sl : Nat) (t : Thread) : (k.setThread sl t).coreLimit = k.coreLimit := rfl
@[simp] theorem Core.setThread_windowAt (k : Core) (sl : Nat) (t : Thread) : (k.setThread sl t).windowAt = k.windowAt := rfl
@[simp] theorem Core.setThread_levelledAt (k : Core) (sl : Nat) (t : Thread) : (k.setThread sl t).levelledAt = k.levelledAt := rfl
@[simp] theorem Core.setThread_dead (k : Core) (sl : Nat) (t : Thread) : (k.setThread sl t).dead = k.dead := rfl
@[simp] theorem Core.setThread_drained (k : Core) (sl : Nat) (t : Thread) : (k.setThread sl t).drained = k.drained := rfl
@[simp] theorem Core.setThread_dbg (k : Core) (sl : Nat) (t : Thread) : (k.setThread sl t).dbg = k.dbg := rfl
@[simp] theorem Core.setThread_startCycle (k : Core) (sl : Nat) (t : Thread) : (k.setThread sl t).startCycle = k.startCycle := rfl
@[simp] theorem Core.setThread_hash (k : Core) (sl : Nat) (t : Thread) : (k.setThread sl t).hash = k.hash := rfl
@[simp] theorem Core.setThread_hashCount (k : Core) (sl : Nat) (t : Thread) : (k.setThread sl t).hashCount = k.hashCount := rfl
@[simp] theorem Core.setThread_hashWindow (k : Core) (sl : Nat) (t : Thread) : (k.setThread sl t).hashWindow = k.hashWindow := rfl
@[simp] theorem Core.setThread_rolled (k : Core) (sl : Nat) (t : Thread) : (k.setThread sl t).rolled = k.rolled := rfl
@[simp] theorem Core.setThread_compared (k : Core) (sl : Nat) (t : Thread) : (k.setThread sl t).compared = k.compared := rfl
@[simp] theorem Core.setThread_diverged (k : Core) (sl : Nat) (t : Thread) : (k.setThread sl t).diverged = k.diverged := rfl
@[simp] theorem Core.setThread_shLate (k : Core) (sl : Nat) (t : Thread) : (k.setThread sl t).shLate = k.shLate := rfl
@[simp] theorem Core.setThread_tqGone (k : Core) (sl : Nat) (t : Thread) : (k.setThread sl t).tqGone = k.tqGone := rfl
@[simp] theorem Core.setThread_beats (k : Core) (sl : Nat) (t : Thread) : (k.setThread sl t).beats = k.beats := rfl
@[simp] theorem Core.setThread_granted (k : Core) (sl : Nat) (t : Thread) : (k.setThread sl t).granted = k.granted := rfl
@[simp] theorem Core.setThread_old (k : Core) (sl : Nat) (t : Thread) : (k.setThread sl t).old = k.old := rfl
@[simp] theorem Core.setThread_agentPos (k : Core) (sl : Nat) (t : Thread) : (k.setThread sl t).agentPos = k.agentPos := rfl
@[simp] theorem Core.setThread_agentGot (k : Core) (sl : Nat) (t : Thread) : (k.setThread sl t).agentGot = k.agentGot := rfl

/-! ### Thread.setG -/

@[simp] theorem Thread.setG_life (t : Thread) (i : Nat) (r : Reg 64) : (t.setG i r).life = t.life := rfl
@[simp] theorem Thread.setG_pc (t : Thread) (i : Nat) (r : Reg 64) : (t.setG i r).pc = t.pc := rfl
@[simp] theorem Thread.setG_v (t : Thread) (i : Nat) (r : Reg 64) : (t.setG i r).v = t.v := rfl
@[simp] theorem Thread.setG_m (t : Thread) (i : Nat) (r : Reg 64) : (t.setG i r).m = t.m := rfl
@[simp] theorem Thread.setG_td (t : Thread) (i : Nat) (r : Reg 64) : (t.setG i r).td = t.td := rfl
@[simp] theorem Thread.setG_fcsr (t : Thread) (i : Nat) (r : Reg 64) : (t.setG i r).fcsr = t.fcsr := rfl
@[simp] theorem Thread.setG_fmtd (t : Thread) (i : Nat) (r : Reg 64) : (t.setG i r).fmtd = t.fmtd := rfl
@[simp] theorem Thread.setG_sclp (t : Thread) (i : Nat) (r : Reg 64) : (t.setG i r).sclp = t.sclp := rfl
@[simp] theorem Thread.setG_ctx (t : Thread) (i : Nat) (r : Reg 64) : (t.setG i r).ctx = t.ctx := rfl
@[simp] theorem Thread.setG_iep (t : Thread) (i : Nat) (r : Reg 64) : (t.setG i r).iep = t.iep := rfl
@[simp] theorem Thread.setG_tpc (t : Thread) (i : Nat) (r : Reg 64) : (t.setG i r).tpc = t.tpc := rfl
@[simp] theorem Thread.setG_tcause (t : Thread) (i : Nat) (r : Reg 64) : (t.setG i r).tcause = t.tcause := rfl
@[simp] theorem Thread.setG_tinfo (t : Thread) (i : Nat) (r : Reg 64) : (t.setG i r).tinfo = t.tinfo := rfl
@[simp] theorem Thread.setG_gstat (t : Thread) (i : Nat) (r : Reg 64) : (t.setG i r).gstat = t.gstat := rfl
@[simp] theorem Thread.setG_mxcfg (t : Thread) (i : Nat) (r : Reg 64) : (t.setG i r).mxcfg = t.mxcfg := rfl
@[simp] theorem Thread.setG_gpcfg (t : Thread) (i : Nat) (r : Reg 64) : (t.setG i r).gpcfg = t.gpcfg := rfl
@[simp] theorem Thread.setG_wrapX (t : Thread) (i : Nat) (r : Reg 64) : (t.setG i r).wrapX = t.wrapX := rfl
@[simp] theorem Thread.setG_wrapY (t : Thread) (i : Nat) (r : Reg 64) : (t.setG i r).wrapY = t.wrapY := rfl
@[simp] theorem Thread.setG_handler (t : Thread) (i : Nat) (r : Reg 64) : (t.setG i r).handler = t.handler := rfl
@[simp] theorem Thread.setG_stopped (t : Thread) (i : Nat) (r : Reg 64) : (t.setG i r).stopped = t.stopped := rfl
@[simp] theorem Thread.setG_stepping (t : Thread) (i : Nat) (r : Reg 64) : (t.setG i r).stepping = t.stepping := rfl
@[simp] theorem Thread.setG_skipAt (t : Thread) (i : Nat) (r : Reg 64) : (t.setG i r).skipAt = t.skipAt := rfl
@[simp] theorem Thread.setG_seen (t : Thread) (i : Nat) (r : Reg 64) : (t.setG i r).seen = t.seen := rfl
@[simp] theorem Thread.setG_parkSeen (t : Thread) (i : Nat) (r : Reg 64) : (t.setG i r).parkSeen = t.parkSeen := rfl
@[simp] theorem Thread.setG_ebrk (t : Thread) (i : Nat) (r : Reg 64) : (t.setG i r).ebrk = t.ebrk := rfl
@[simp] theorem Thread.setG_wakeAt (t : Thread) (i : Nat) (r : Reg 64) : (t.setG i r).wakeAt = t.wakeAt := rfl
@[simp] theorem Thread.setG_dirWait (t : Thread) (i : Nat) (r : Reg 64) : (t.setG i r).dirWait = t.dirWait := rfl
@[simp] theorem Thread.setG_word (t : Thread) (i : Nat) (r : Reg 64) : (t.setG i r).word = t.word := rfl
@[simp] theorem Thread.setG_removed (t : Thread) (i : Nat) (r : Reg 64) : (t.setG i r).removed = t.removed := rfl
@[simp] theorem Thread.setG_replays (t : Thread) (i : Nat) (r : Reg 64) : (t.setG i r).replays = t.replays := rfl
@[simp] theorem Thread.setG_replayNext (t : Thread) (i : Nat) (r : Reg 64) : (t.setG i r).replayNext = t.replayNext := rfl
@[simp] theorem Thread.setG_psq (t : Thread) (i : Nat) (r : Reg 64) : (t.setG i r).psq = t.psq := rfl
@[simp] theorem Thread.setG_pend (t : Thread) (i : Nat) (r : Reg 64) : (t.setG i r).pend = t.pend := rfl
@[simp] theorem Thread.setG_staging (t : Thread) (i : Nat) (r : Reg 64) : (t.setG i r).staging = t.staging := rfl
@[simp] theorem Thread.setG_vmq (t : Thread) (i : Nat) (r : Reg 64) : (t.setG i r).vmq = t.vmq := rfl
@[simp] theorem Thread.setG_vmqReserved (t : Thread) (i : Nat) (r : Reg 64) : (t.setG i r).vmqReserved = t.vmqReserved := rfl
@[simp] theorem Thread.setG_ports (t : Thread) (i : Nat) (r : Reg 64) : (t.setG i r).ports = t.ports := rfl
@[simp] theorem Thread.setG_invocation (t : Thread) (i : Nat) (r : Reg 64) : (t.setG i r).invocation = t.invocation := rfl
@[simp] theorem Thread.setG_bb (t : Thread) (i : Nat) (r : Reg 64) : (t.setG i r).bb = t.bb := rfl
@[simp] theorem Thread.setG_ldec (t : Thread) (i : Nat) (r : Reg 64) : (t.setG i r).ldec = t.ldec := rfl
@[simp] theorem Thread.setG_claiming (t : Thread) (i : Nat) (r : Reg 64) : (t.setG i r).claiming = t.claiming := rfl

/-! ### Thread.setV -/

@[simp] theorem Thread.setV_life (t : Thread) (i : Nat) (r : Reg 512) : (t.setV i r).life = t.life := rfl
@[simp] theorem Thread.setV_pc (t : Thread) (i : Nat) (r : Reg 512) : (t.setV i r).pc = t.pc := rfl
@[simp] theorem Thread.setV_g (t : Thread) (i : Nat) (r : Reg 512) : (t.setV i r).g = t.g := rfl
@[simp] theorem Thread.setV_m (t : Thread) (i : Nat) (r : Reg 512) : (t.setV i r).m = t.m := rfl
@[simp] theorem Thread.setV_td (t : Thread) (i : Nat) (r : Reg 512) : (t.setV i r).td = t.td := rfl
@[simp] theorem Thread.setV_fcsr (t : Thread) (i : Nat) (r : Reg 512) : (t.setV i r).fcsr = t.fcsr := rfl
@[simp] theorem Thread.setV_fmtd (t : Thread) (i : Nat) (r : Reg 512) : (t.setV i r).fmtd = t.fmtd := rfl
@[simp] theorem Thread.setV_sclp (t : Thread) (i : Nat) (r : Reg 512) : (t.setV i r).sclp = t.sclp := rfl
@[simp] theorem Thread.setV_ctx (t : Thread) (i : Nat) (r : Reg 512) : (t.setV i r).ctx = t.ctx := rfl
@[simp] theorem Thread.setV_iep (t : Thread) (i : Nat) (r : Reg 512) : (t.setV i r).iep = t.iep := rfl
@[simp] theorem Thread.setV_tpc (t : Thread) (i : Nat) (r : Reg 512) : (t.setV i r).tpc = t.tpc := rfl
@[simp] theorem Thread.setV_tcause (t : Thread) (i : Nat) (r : Reg 512) : (t.setV i r).tcause = t.tcause := rfl
@[simp] theorem Thread.setV_tinfo (t : Thread) (i : Nat) (r : Reg 512) : (t.setV i r).tinfo = t.tinfo := rfl
@[simp] theorem Thread.setV_gstat (t : Thread) (i : Nat) (r : Reg 512) : (t.setV i r).gstat = t.gstat := rfl
@[simp] theorem Thread.setV_mxcfg (t : Thread) (i : Nat) (r : Reg 512) : (t.setV i r).mxcfg = t.mxcfg := rfl
@[simp] theorem Thread.setV_gpcfg (t : Thread) (i : Nat) (r : Reg 512) : (t.setV i r).gpcfg = t.gpcfg := rfl
@[simp] theorem Thread.setV_wrapX (t : Thread) (i : Nat) (r : Reg 512) : (t.setV i r).wrapX = t.wrapX := rfl
@[simp] theorem Thread.setV_wrapY (t : Thread) (i : Nat) (r : Reg 512) : (t.setV i r).wrapY = t.wrapY := rfl
@[simp] theorem Thread.setV_handler (t : Thread) (i : Nat) (r : Reg 512) : (t.setV i r).handler = t.handler := rfl
@[simp] theorem Thread.setV_stopped (t : Thread) (i : Nat) (r : Reg 512) : (t.setV i r).stopped = t.stopped := rfl
@[simp] theorem Thread.setV_stepping (t : Thread) (i : Nat) (r : Reg 512) : (t.setV i r).stepping = t.stepping := rfl
@[simp] theorem Thread.setV_skipAt (t : Thread) (i : Nat) (r : Reg 512) : (t.setV i r).skipAt = t.skipAt := rfl
@[simp] theorem Thread.setV_seen (t : Thread) (i : Nat) (r : Reg 512) : (t.setV i r).seen = t.seen := rfl
@[simp] theorem Thread.setV_parkSeen (t : Thread) (i : Nat) (r : Reg 512) : (t.setV i r).parkSeen = t.parkSeen := rfl
@[simp] theorem Thread.setV_ebrk (t : Thread) (i : Nat) (r : Reg 512) : (t.setV i r).ebrk = t.ebrk := rfl
@[simp] theorem Thread.setV_wakeAt (t : Thread) (i : Nat) (r : Reg 512) : (t.setV i r).wakeAt = t.wakeAt := rfl
@[simp] theorem Thread.setV_dirWait (t : Thread) (i : Nat) (r : Reg 512) : (t.setV i r).dirWait = t.dirWait := rfl
@[simp] theorem Thread.setV_word (t : Thread) (i : Nat) (r : Reg 512) : (t.setV i r).word = t.word := rfl
@[simp] theorem Thread.setV_removed (t : Thread) (i : Nat) (r : Reg 512) : (t.setV i r).removed = t.removed := rfl
@[simp] theorem Thread.setV_replays (t : Thread) (i : Nat) (r : Reg 512) : (t.setV i r).replays = t.replays := rfl
@[simp] theorem Thread.setV_replayNext (t : Thread) (i : Nat) (r : Reg 512) : (t.setV i r).replayNext = t.replayNext := rfl
@[simp] theorem Thread.setV_psq (t : Thread) (i : Nat) (r : Reg 512) : (t.setV i r).psq = t.psq := rfl
@[simp] theorem Thread.setV_pend (t : Thread) (i : Nat) (r : Reg 512) : (t.setV i r).pend = t.pend := rfl
@[simp] theorem Thread.setV_staging (t : Thread) (i : Nat) (r : Reg 512) : (t.setV i r).staging = t.staging := rfl
@[simp] theorem Thread.setV_vmq (t : Thread) (i : Nat) (r : Reg 512) : (t.setV i r).vmq = t.vmq := rfl
@[simp] theorem Thread.setV_vmqReserved (t : Thread) (i : Nat) (r : Reg 512) : (t.setV i r).vmqReserved = t.vmqReserved := rfl
@[simp] theorem Thread.setV_ports (t : Thread) (i : Nat) (r : Reg 512) : (t.setV i r).ports = t.ports := rfl
@[simp] theorem Thread.setV_invocation (t : Thread) (i : Nat) (r : Reg 512) : (t.setV i r).invocation = t.invocation := rfl
@[simp] theorem Thread.setV_bb (t : Thread) (i : Nat) (r : Reg 512) : (t.setV i r).bb = t.bb := rfl
@[simp] theorem Thread.setV_ldec (t : Thread) (i : Nat) (r : Reg 512) : (t.setV i r).ldec = t.ldec := rfl
@[simp] theorem Thread.setV_claiming (t : Thread) (i : Nat) (r : Reg 512) : (t.setV i r).claiming = t.claiming := rfl

/-! ### Thread.setM -/

@[simp] theorem Thread.setM_life (t : Thread) (i : Nat) (r : Reg 16) : (t.setM i r).life = t.life := rfl
@[simp] theorem Thread.setM_pc (t : Thread) (i : Nat) (r : Reg 16) : (t.setM i r).pc = t.pc := rfl
@[simp] theorem Thread.setM_g (t : Thread) (i : Nat) (r : Reg 16) : (t.setM i r).g = t.g := rfl
@[simp] theorem Thread.setM_v (t : Thread) (i : Nat) (r : Reg 16) : (t.setM i r).v = t.v := rfl
@[simp] theorem Thread.setM_td (t : Thread) (i : Nat) (r : Reg 16) : (t.setM i r).td = t.td := rfl
@[simp] theorem Thread.setM_fcsr (t : Thread) (i : Nat) (r : Reg 16) : (t.setM i r).fcsr = t.fcsr := rfl
@[simp] theorem Thread.setM_fmtd (t : Thread) (i : Nat) (r : Reg 16) : (t.setM i r).fmtd = t.fmtd := rfl
@[simp] theorem Thread.setM_sclp (t : Thread) (i : Nat) (r : Reg 16) : (t.setM i r).sclp = t.sclp := rfl
@[simp] theorem Thread.setM_ctx (t : Thread) (i : Nat) (r : Reg 16) : (t.setM i r).ctx = t.ctx := rfl
@[simp] theorem Thread.setM_iep (t : Thread) (i : Nat) (r : Reg 16) : (t.setM i r).iep = t.iep := rfl
@[simp] theorem Thread.setM_tpc (t : Thread) (i : Nat) (r : Reg 16) : (t.setM i r).tpc = t.tpc := rfl
@[simp] theorem Thread.setM_tcause (t : Thread) (i : Nat) (r : Reg 16) : (t.setM i r).tcause = t.tcause := rfl
@[simp] theorem Thread.setM_tinfo (t : Thread) (i : Nat) (r : Reg 16) : (t.setM i r).tinfo = t.tinfo := rfl
@[simp] theorem Thread.setM_gstat (t : Thread) (i : Nat) (r : Reg 16) : (t.setM i r).gstat = t.gstat := rfl
@[simp] theorem Thread.setM_mxcfg (t : Thread) (i : Nat) (r : Reg 16) : (t.setM i r).mxcfg = t.mxcfg := rfl
@[simp] theorem Thread.setM_gpcfg (t : Thread) (i : Nat) (r : Reg 16) : (t.setM i r).gpcfg = t.gpcfg := rfl
@[simp] theorem Thread.setM_wrapX (t : Thread) (i : Nat) (r : Reg 16) : (t.setM i r).wrapX = t.wrapX := rfl
@[simp] theorem Thread.setM_wrapY (t : Thread) (i : Nat) (r : Reg 16) : (t.setM i r).wrapY = t.wrapY := rfl
@[simp] theorem Thread.setM_handler (t : Thread) (i : Nat) (r : Reg 16) : (t.setM i r).handler = t.handler := rfl
@[simp] theorem Thread.setM_stopped (t : Thread) (i : Nat) (r : Reg 16) : (t.setM i r).stopped = t.stopped := rfl
@[simp] theorem Thread.setM_stepping (t : Thread) (i : Nat) (r : Reg 16) : (t.setM i r).stepping = t.stepping := rfl
@[simp] theorem Thread.setM_skipAt (t : Thread) (i : Nat) (r : Reg 16) : (t.setM i r).skipAt = t.skipAt := rfl
@[simp] theorem Thread.setM_seen (t : Thread) (i : Nat) (r : Reg 16) : (t.setM i r).seen = t.seen := rfl
@[simp] theorem Thread.setM_parkSeen (t : Thread) (i : Nat) (r : Reg 16) : (t.setM i r).parkSeen = t.parkSeen := rfl
@[simp] theorem Thread.setM_ebrk (t : Thread) (i : Nat) (r : Reg 16) : (t.setM i r).ebrk = t.ebrk := rfl
@[simp] theorem Thread.setM_wakeAt (t : Thread) (i : Nat) (r : Reg 16) : (t.setM i r).wakeAt = t.wakeAt := rfl
@[simp] theorem Thread.setM_dirWait (t : Thread) (i : Nat) (r : Reg 16) : (t.setM i r).dirWait = t.dirWait := rfl
@[simp] theorem Thread.setM_word (t : Thread) (i : Nat) (r : Reg 16) : (t.setM i r).word = t.word := rfl
@[simp] theorem Thread.setM_removed (t : Thread) (i : Nat) (r : Reg 16) : (t.setM i r).removed = t.removed := rfl
@[simp] theorem Thread.setM_replays (t : Thread) (i : Nat) (r : Reg 16) : (t.setM i r).replays = t.replays := rfl
@[simp] theorem Thread.setM_replayNext (t : Thread) (i : Nat) (r : Reg 16) : (t.setM i r).replayNext = t.replayNext := rfl
@[simp] theorem Thread.setM_psq (t : Thread) (i : Nat) (r : Reg 16) : (t.setM i r).psq = t.psq := rfl
@[simp] theorem Thread.setM_pend (t : Thread) (i : Nat) (r : Reg 16) : (t.setM i r).pend = t.pend := rfl
@[simp] theorem Thread.setM_staging (t : Thread) (i : Nat) (r : Reg 16) : (t.setM i r).staging = t.staging := rfl
@[simp] theorem Thread.setM_vmq (t : Thread) (i : Nat) (r : Reg 16) : (t.setM i r).vmq = t.vmq := rfl
@[simp] theorem Thread.setM_vmqReserved (t : Thread) (i : Nat) (r : Reg 16) : (t.setM i r).vmqReserved = t.vmqReserved := rfl
@[simp] theorem Thread.setM_ports (t : Thread) (i : Nat) (r : Reg 16) : (t.setM i r).ports = t.ports := rfl
@[simp] theorem Thread.setM_invocation (t : Thread) (i : Nat) (r : Reg 16) : (t.setM i r).invocation = t.invocation := rfl
@[simp] theorem Thread.setM_bb (t : Thread) (i : Nat) (r : Reg 16) : (t.setM i r).bb = t.bb := rfl
@[simp] theorem Thread.setM_ldec (t : Thread) (i : Nat) (r : Reg 16) : (t.setM i r).ldec = t.ldec := rfl
@[simp] theorem Thread.setM_claiming (t : Thread) (i : Nat) (r : Reg 16) : (t.setM i r).claiming = t.claiming := rfl

end Sys2Proof.Machine
end

