-- ==== Sys2Proof/Tests/Slice0.lean ====
section
/-! SUPPORT. Tests: words of the spec's encodings and examples, worked values of the spec, a term that each well-formedness
check refuses, and for every statement a state and operands that meet its hypotheses. -/

namespace Sys2Proof.Tests
open Sys2Proof Sys2Proof.Machine

set_option maxRecDepth 20000
set_option exponentiation.threshold 600

/-! ### Words written out from the spec's encodings -/

/-- 02: the canonical NOP `add g0, g0, g0`, `sub g3, g4, g5`, `add g1, g1, 0x678`, `sra g2, g2, 7`, `movhi g1, 0x91A2`. -/
theorem test_decode_integer : decode 0x00000001#32 = .ok (.add 0 0 0) ∧ decode 0x02288181#32 = .ok (.sub 3 4 5) ∧
    decode 0x33C02082#32 = .ok (.addImmediate 1 1 0x678) ∧ decode 0x04384106#32 = .ok (.sraImmediate 2 2 7) ∧
    decode 0x12344089#32 = .ok (.movhi 1 0x91A2) := ⟨rfl, rfl, rfl, rfl, rfl⟩
/-- 09: `mulp.ss g4, g5, g6`, `div g6, g7, g8 !2`. -/
theorem test_decode_multiply_divide : decode 0x1E30A20B#32 = .ok (.mulp 4 5 6 3) ∧ decode 0x2040E30C#32 = .ok (.div 6 7 8 2) :=
  ⟨rfl, rfl⟩
/-- 09: `bne` back three words, `jlk g1` eight words on, `jlkr g0, 0(g20)`. -/
theorem test_decode_control : decode 0xFE207E91#32 = .ok (.bne 3 4 (-3)) ∧ decode 0x00010096#32 = .ok (.jlk 1 8) ∧
    decode 0x00028017#32 = .ok (.jlkr 0 20 0) := ⟨rfl, rfl, rfl⟩
/-- 07: `mov.take g5, sh3`, `fempty sh2`, `fetest g7, sh2`. -/
theorem test_decode_registers : decode 0x0206628E#32 = .ok (.movTake 5 51) ∧ decode 0x0006405F#32 = .ok (.fempty 50 0) ∧
    decode 0x200643DF#32 = .ok (.fetest 7 50 0) := ⟨rfl, rfl, rfl⟩
/-- 04, 16: `ld.d g5, 0x40(g2) !3`, `lda.w.ridge g5, (g2) !1`, `amo.cas`, a fence of each kind. -/
theorem test_decode_memory : decode 0x3080429B#32 = .ok (.ldD 5 2 3 8) ∧ decode 0x1420429D#32 = .ok (.lda 5 2 4 1 0 2) ∧
    decode 0x0020005C#32 = .ok (.fence 4) ∧ decode 0x0210005C#32 = .ok (.fenceAcq 2) ∧ decode 0x0058005C#32 = .ok (.fence 11) :=
  ⟨rfl, rfl, rfl, rfl, rfl⟩
/-- 09: `fcvt.d8.f32 g5, g6`, `fma.d g10, g11, g12`. -/
theorem test_decode_floating : decode 0x4200C2A6#32 = .ok (.fcvt 5 6 0 0 4 1) ∧ decode 0x00616522#32 = .ok (.fma 10 11 12 0) :=
  ⟨rfl, rfl⟩
/-- 10: `vfadd.w v3, v4, v5`, `vfma.w v10, v11, v12`. -/
theorem test_decode_vector : decode 0x002881B0#32 = .ok (.vfadd 3 4 5 0 0) ∧ decode 0x00616533#32 = .ok (.vfma 10 11 12 0 0) :=
  ⟨rfl, rfl⟩
/-- 06, 11: `tld.a`, `mma acc0, ring0, ring1`, `accst acc1, (g4)`, `accz acc3`, `accq g6`. -/
theorem test_decode_matrix : decode 0x12288143#32 = .ok (.tldA 2 4 5 1 1) ∧ decode 0x00080040#32 = .ok (.mma 0 0 1 0 0 0 0) ∧
    decode 0x020080C1#32 = .ok (.accst 1 4 0) ∧ decode 0x000001C2#32 = .ok (.accz 3) ∧ decode 0x02000342#32 = .ok (.accq 6) :=
  ⟨rfl, rfl, rfl, rfl, rfl⟩
/-- 12: `go2d.exact.nf v12, v0`, `gpcfg g4`. -/
theorem test_decode_predicates : decode 0x00800648#32 = .ok (.go2d 12 0 0 1 0 0) ∧ decode 0x00008049#32 = .ok (.gpcfg 4) :=
  ⟨rfl, rfl⟩
/-- 13: `bget g5, g6`, `tdec g7, g2, g3 !1`, `zrenc.end g9, g4, g5`. -/
theorem test_decode_transform : decode 0x1000C2CC#32 = .ok (.bget 5 6) ∧ decode 0x101843CD#32 = .ok (.tdec 7 2 3 1) ∧
    decode 0x022884CE#32 = .ok (.zrencEnd 9 4 5 0) := ⟨rfl, rfl, rfl⟩
/-- 14, 15: `rget.d g5, (g2) !1`, `ctxseal.ridge g5`, `frnset g0, g4`. -/
theorem test_decode_remote : decode 0x160042D0#32 = .ok (.rget 5 2 1 3) ∧ decode 0x0220A058#32 = .ok (.ctxseal 5 4 0) ∧
    decode 0x2000805A#32 = .ok (.frnset 0 4) := ⟨rfl, rfl, rfl⟩
/-- 05, 17: `ctrwait g0, (g4), g5`, `launch g4, (g2), g3`, `spawn g1, g2, g3`, `texit`, `wlqry g5`. -/
theorem test_decode_threads : decode 0x0028805E#32 = .ok (.ctrwait 0 4 5 0) ∧ decode 0x00184261#32 = .ok (.launch 4 2 3 0) ∧
    decode 0x001840E0#32 = .ok (.spawn 1 2 3 0) ∧ decode 0x00000062#32 = .ok .texit ∧ decode 0x020002E2#32 = .ok (.wlqry 5) :=
  ⟨rfl, rfl, rfl, rfl, rfl⟩
/-- 17: `bararr.ridge g5, g4`, `barwait g4, g5`, `barbytes`, `barqry g6, g4, g7`. -/
theorem test_decode_barriers : decode 0x002082DD#32 = .ok (.bararr 5 4 4 0) ∧ decode 0x0228805D#32 = .ok (.barwait 4 5 0) ∧
    decode 0x0428805D#32 = .ok (.barbytes 4 5 0) ∧ decode 0x0638835D#32 = .ok (.barqry 6 4 7 0) := ⟨rfl, rfl, rfl, rfl⟩
/-- 09, 18: `csrrd g5, fcsr`, `csrclr g0, fflags, g9`, `csrwr g0, frm, g4`, `trap g4`, `tret`, `idem`, `ebrk`. -/
theorem test_decode_system : decode 0x000802E4#32 = .ok (.csrrd 5 1) ∧ decode 0x80212066#32 = .ok (.csrclr 0 9 4) ∧
    decode 0x00288065#32 = .ok (.csrwr 0 4 5) ∧ decode 0x00008067#32 = .ok (.trap 4) ∧ decode 0x02000067#32 = .ok .tret ∧
    decode 0x04000067#32 = .ok .idem ∧ decode 0x06000067#32 = .ok .ebrk := ⟨rfl, rfl, rfl, rfl, rfl, rfl, rfl⟩

/-! ### What each well-formedness check refuses -/

theorem test_wf_general_register : Instr.wf (.div 56 1 1 0) = false ∧ Instr.wf (.ldB 1 63 0 0 0) = false := ⟨rfl, rfl⟩
theorem test_wf_vector_source : Instr.wf (.vfadd 0 48 0 0 0) = false ∧ Instr.wf (.vfadd 0 61 0 0 0) = false ∧
    Instr.wf (.vfadd 0 62 0 0 0) = true := ⟨rfl, rfl, rfl⟩
theorem test_wf_vector_destination : Instr.wf (.vfadd 62 0 0 0 0) = false ∧ Instr.wf (.vfma 56 0 0 0 0) = false := ⟨rfl, rfl⟩
theorem test_wf_pair_destination : Instr.wf (.mulp 0 1 1 0) = false ∧ Instr.wf (.mulp 47 1 1 0) = false ∧
    Instr.wf (.mulp 46 1 1 0) = true := ⟨rfl, rfl, rfl⟩
theorem test_wf_accumulating_destination : Instr.wf (.fma 0 1 1 0) = false ∧ Instr.wf (.fma 48 1 1 0) = false := ⟨rfl, rfl⟩
theorem test_wf_scope : Instr.wf (.fence 12) = false ∧ Instr.wf (.lda 1 1 12 0 0 0) = false := ⟨rfl, rfl⟩
theorem test_wf_barrier_form : Instr.wf (.bararr 1 1 1 0) = false := rfl
theorem test_wf_conversion : Instr.wf (.fcvt 1 1 0 0 1 1) = false ∧ Instr.wf (.fcvt 1 1 1 0 4 1) = false ∧
    Instr.wf (.fcvt 1 1 0 0 5 6) = false := ⟨rfl, rfl, rfl⟩
theorem test_wf_vector_conversion : Instr.wf (.vcvt 0 0 0 0 12) = false ∧ Instr.wf (.vcvt 0 0 1 0 2) = false := ⟨rfl, rfl⟩
theorem test_wf_csr : Instr.wf (.csrrd 1 0x006) = false := rfl
theorem test_wf_shared_register : Instr.wf (.movTake 1 47) = false ∧ Instr.wf (.movPut 47 1) = false := ⟨rfl, rfl⟩
theorem test_wf_full_empty_file : Instr.wf (.fempty 0 3) = false ∧ Instr.wf (.fempty 48 1) = false ∧ Instr.wf (.fempty 8 2) = false :=
  ⟨rfl, rfl, rfl⟩
theorem test_wf_coordinate_run : Instr.wf (.gins 1 34 0 0 0 0) = false ∧ Instr.wf (.gins 1 33 0 0 0 0) = true := ⟨rfl, rfl⟩
theorem test_wf_cas_pair : Instr.wf (.amoCas 1 1 47 0) = false ∧ Instr.wf (.ratom 1 1 0 0 7) = false := ⟨rfl, rfl⟩
theorem test_wf_stride_register : Instr.wf (.vsts 0 1 1 0) = false := rfl
theorem test_wf_triple_destination : Instr.wf (.mrecv 46 1 0) = false := rfl
theorem test_wf_tag_destination : Instr.wf (.ctxalloc 0 0) = false := rfl
theorem test_wf_signed_doubleword : Instr.wf (.rgetS 1 1 0 0) = false := rfl
theorem test_wf_move : Instr.wf (.movMg 1 61) = false ∧ Instr.wf (.movGm 61 1) = false := ⟨rfl, rfl⟩
theorem test_wf_spawn : Instr.wf (.spawn 48 1 1 0) = false := rfl
theorem test_wf_event : Instr.wf (.homeRget 0) = false ∧ Instr.wf (.nonInstruction 0) = false := ⟨rfl, rfl⟩

/-! ### A small state -/

/-- The state after reset with core 0 about to attempt an instruction in slot sl: the instance declares every register and one
vault window of 1 MiB, the thread's registers are full, g1 on holding the values given, masks all ones, 32 KiB of scratchpad. -/
def testState (sl : Nat) (g : List Word) (tf : Thread → Thread := id) (kf : Core → Core := id) (sf : State → State := id) : State :=
  let s := State.reset.withFetchWord 32 1
  let k := s.core 0
  let t := k.thread 0
  let t' : Thread := { t with
    g := t.g.mapFinIdx (fun i _ _ => ⟨if i = 0 then 0 else (g[i - 1]?).getD 0, .full, false⟩)
    v := t.v.mapFinIdx (fun i _ _ => ⟨BitVec.ofNat 512 i, .full, false⟩)
    m := t.m.mapFinIdx (fun _ _ _ => ⟨0xFFFF, .full, false⟩) }
  sf (s.setCore 0 (kf ({ k with cycle := 16 + sl, windows := [⟨0, 0x100000, true, true⟩], scratch := 0x8000 }.setThread sl (tf t'))))

/-- Both default scales 1.0 (08 R173). -/
def unscaled (t : Thread) : Thread := { t with fmtd := 0x3F8000003F800000 }

/-- A register after a step. -/
def after (o : Out) (n : Nat) : Option Word :=
  match o with
  | .next s => ((s.thr 0 0).g[n]?).map (·.val)
  | _ => none
/-- The floating flags after a step. -/
def flagsAfter (o : Out) : Option (BitVec 5) :=
  match o with
  | .next s => some ((s.thr 0 0).fcsr.setWidth 5)
  | _ => none

/-! ### Worked values of the spec -/

/-- 09 R182: g4 = 0x7FFF_FFFF_FFFF_FFF0 and g5 = 0x20. -/
theorem test_adds_saturates : after (exec (.adds 3 4 5) (testState 0 [0, 0, 0, 0x7FFFFFFFFFFFFFF0, 0x20])) 3 =
    some 0x7FFFFFFFFFFFFFFF#64 := by rfl
theorem test_add_wraps : after (exec (.add 3 4 5) (testState 0 [0, 0, 0, 0x7FFFFFFFFFFFFFF0, 0x20])) 3 =
    some 0x8000000000000010#64 := by rfl
/-- 09 R185: −3 × 5 as a register pair, the second register being a source. -/
theorem test_mulp_pair : after (exec (.mulp 4 5 6 3) (testState 0 [0, 0, 0, 0, -3, 5])) 4 = some 0xFFFFFFFFFFFFFFF1#64 ∧
    after (exec (.mulp 4 5 6 3) (testState 0 [0, 0, 0, 0, -3, 5])) 5 = some 0xFFFFFFFFFFFFFFFF#64 := ⟨by rfl, by rfl⟩
theorem test_mulh_signedness : after (exec (.mulh 7 5 6 1) (testState 0 [0, 0, 0, 0, -1, -1])) 7 = some 0xFFFFFFFFFFFFFFFF#64 ∧
    after (exec (.mulh 7 5 6 0) (testState 0 [0, 0, 0, 0, -1, -1])) 7 = some 0xFFFFFFFFFFFFFFFE#64 := ⟨by rfl, by rfl⟩
/-- 09 R187: no zero above the most significant 1; 64 for 0. -/
theorem test_clz : after (exec (.clz 3 1) (testState 0 [0])) 3 = some 64 ∧ after (exec (.clz 3 1) (testState 0 [1])) 3 = some 63 :=
  ⟨by rfl, by rfl⟩
/-- 09: `movhi g1, 0x91A2` then `add g1, g1, 0x678` build 0x12345678. -/
theorem test_movhi_add : after (exec (.movhi 1 0x91A2) (testState 0 [])) 1 = some 0x12345000#64 ∧
    after (exec (.addImmediate 1 1 0x678) (testState 0 [0x12345000])) 1 = some 0x12345678#64 := ⟨by rfl, by rfl⟩
/-- 02: g0 discards what is written to it. -/
theorem test_zero_register : after (exec (.add 0 1 1) (testState 0 [5])) 0 = some 0 := by rfl
/-- 08 R168: 3.0 converts to 0x67 with nx, 5.5 × 10^7 (a tie) to 0x0D, 1.421630859375 directly to 0x61. -/
theorem test_fcvt_to_d8 : after (exec (.fcvt 5 6 0 0 4 1) (testState 0 [0, 0, 0, 0, 0, 0x40400000] unscaled)) 5 = some 0x67 ∧
    flagsAfter (exec (.fcvt 5 6 0 0 4 1) (testState 0 [0, 0, 0, 0, 0, 0x40400000] unscaled)) = some 1 ∧
    after (exec (.fcvt 5 6 0 0 4 1) (testState 0 [0, 0, 0, 0, 0, 0x3FB5F800] unscaled)) 5 = some 0x61 := ⟨by rfl, by rfl, by rfl⟩
/-- 08 R167: the codes 0x40, 0x28 and 0x0F decode to 0.1, 0.01 and 10^10. -/
theorem test_fcvt_from_d8 : after (exec (.fcvt 5 6 0 0 1 4) (testState 0 [0, 0, 0, 0, 0, 0x40] unscaled)) 5 = some 0x3DCCCCCD ∧
    after (exec (.fcvt 5 6 0 0 1 4) (testState 0 [0, 0, 0, 0, 0, 0x28] unscaled)) 5 = some 0x3C23D70A ∧
    after (exec (.fcvt 5 6 0 0 1 4) (testState 0 [0, 0, 0, 0, 0, 0x0F] unscaled)) 5 = some 0x501502F9 := ⟨by rfl, by rfl, by rfl⟩
/-- 00: the check value of CRC-32 over "123456789" (IEEE 802.3). -/
theorem test_crc32 : crc32 [0x31, 0x32, 0x33, 0x34, 0x35, 0x36, 0x37, 0x38, 0x39] = 0xCBF43926#32 := by rfl
/-- 09 R191: a jump below the header traps and leaves the link. -/
theorem test_jump_below_header : after (exec (.jlkr 1 2 0) (testState 0 [7, 60])) 1 = some 7 := by rfl
/-- 04 R80: a byte of the vault, sign-extended, arrives with the load's completion. -/
theorem test_byte_order : leNat [0x78, 0x56, 0x34, 0x12] = 0x12345678 ∧ leBytes 0x12345678 4 = [0x78, 0x56, 0x34, 0x12] :=
  ⟨by rfl, by rfl⟩

/-! ### Witnesses: the hypotheses of each statement are met

Each theorem below gives, for the statement it names, concrete states and operands that meet the hypotheses of its clauses. -/

/-- The checks of an attempt, but for the reading of the sources. -/
def ready (s : State) (f : Form) (xs : List Val) : Bool :=
  f.slotOk s.curSlot (me s).invocation.isSome && (s.undeclared s.curCore f.names).isNone && (me s).invocation.isNone &&
    ((me s).windowWait f.ordering).isNone && (s.edgePort s.curCore s.curSlot f.names).isNone &&
    (s.accessHits s.curCore s.curSlot f xs).isEmpty && ((me s).dstWait f.dsts).isNone && !xs.any (·.poison) &&
    !s.isPair s.curCore s.curSlot

theorem opens_of {s s1 : State} {f : Form} {xs : List Val} (h : ready s f xs = true)
    (r : s.readAll s.curCore s.curSlot f.srcs = .ok s1 xs) : Opens s f s1 xs := by
  simp only [ready, Bool.and_eq_true, Bool.not_eq_true', Option.isNone_iff_eq_none, List.isEmpty_iff] at h
  obtain ⟨⟨⟨⟨⟨⟨⟨⟨h1, h2⟩, h3⟩, h4⟩, h5⟩, h6⟩, h7⟩, h8⟩, h9⟩ := h
  exact ⟨h1, h2, fun v hv => by simp [h3] at hv, h4, h5, r, .inr h6, h7, .inl h8, .inl h9⟩

/-- The values of g1 on in the witnesses. -/
def vals : List Word := [5, 7, 64, 0x100, 12, 3]

theorem test_witness_IntegerRegisterResults : Opens (testState 0 vals) (fRR 9 1 2) (testState 0 vals) [Val.of 5, Val.of 7] ∧
    ∃ s2, (testState 0 vals).putAll 0 0 [(.g 9, Val.of 12)] = .ok s2 := ⟨opens_of rfl rfl, _, rfl⟩
theorem test_witness_ImmediateResults : Opens (testState 0 vals) (fR 9 1) (testState 0 vals) [Val.of 5] ∧
    Opens (testState 0 vals) { srcs := [], dsts := [.g 9] } (testState 0 vals) [] := ⟨opens_of rfl rfl, opens_of rfl rfl⟩
theorem test_witness_MultiplyDivideResults :
    Opens (testState 0 vals) { srcs := [.g 1, .g 2], dsts := [.g 46, .g 47] } (testState 0 vals) [Val.of 5, Val.of 7] ∧
    Opens (testState 0 vals) { fRR 9 1 2 with la := some 15 } (testState 0 vals) [Val.of 5, Val.of 7] ∧
    ∃ s2, (testState 0 vals).reserveAll 0 0 [.g 9] = .ok s2 := ⟨opens_of rfl rfl, opens_of rfl rfl, _, rfl⟩
theorem test_witness_BitResults : Opens (testState 0 vals) (fR 9 10) (testState 0 vals) [Val.of 0] := opens_of rfl rfl
/-- An untaken branch, targets at 64 and at the last word, below 64 and at the code size; a misaligned one. -/
theorem test_witness_ControlFlow :
    Opens (testState 0 vals) { srcs := [.g 1, .g 2], dsts := [] } (testState 0 vals) [Val.of 5, Val.of 7] ∧
    Opens (testState 0 vals) (fR 9 3) (testState 0 vals) [Val.of 64] ∧ Opens (testState 0 vals) (fR 9 4) (testState 0 vals) [Val.of 0x100] ∧
    Opens (testState 0 vals) (fR 9 1) (testState 0 vals) [Val.of 5] ∧
    ((testState 0 vals).thr 0 0).pc = 64 ∧ (testState 0 vals).codeSize 0 = 2048 :=
  ⟨opens_of rfl rfl, opens_of rfl rfl, opens_of rfl rfl, opens_of rfl rfl, rfl, rfl⟩
theorem test_witness_FloatingResults :
    Opens (testState 0 vals) { srcs := [.g 1, .g 2, .g 3], dsts := [.g 3] } (testState 0 vals) [Val.of 5, Val.of 7, Val.of 64] ∧
    Opens (testState 0 vals) { fR 9 1 with la := some 0 } (testState 0 vals) [Val.of 5] := ⟨opens_of rfl rfl, opens_of rfl rfl⟩
/-- A conversion that answers and one that traps. -/
theorem test_witness_FloatingCompareConvert :
    Opens (testState 0 vals) { srcs := [.g 1], dsts := [.g 9] } (testState 0 vals) [Val.of 5] ∧
    (∃ r fl, convert 1 (.fin false 1 1) .rne = .ok r fl) ∧ (∃ u, convert 4 (.fin false 55000000000 1) .rne = .narrow u) := by
  exact ⟨opens_of rfl rfl, ⟨_, _, rfl⟩, ⟨_, rfl⟩⟩

/-- A shared register that was filled long ago, one that is free, and one changed in the cycle before. -/
def shared (k : Core) : Core :=
  { k with sh := (k.sh.set 0 [⟨2, ⟨9, .full, false⟩⟩]).set 1 [⟨k.cycle - 1, ⟨9, .full, false⟩⟩, ⟨2, ⟨9, .full, false⟩⟩] }

theorem test_witness_RegisterAndPortMoves :
    Opens (testState 0 vals) { srcs := [.v 2], dsts := [.v 47], passes := true } (testState 0 vals) [⟨2, false⟩] ∧
    (let s := testState 0 vals id shared
     Opens s { srcs := [.g 48], dsts := [.g 9], ends := true, passes := true, gives := true } s [Val.of 9] ∧
     shGuard ((s.core 0).shOf 0) (s.now 0) = false ∧ shGuard ((s.core 0).shOf 1) (s.now 0) = true) ∧
    (let s := testState 0 vals id (fun k => { k with sh := k.sh.set 7 [⟨2, ⟨9, .free, false⟩⟩] })
     Opens s { srcs := [.g 1], dsts := [], more := [.g 55], ends := true, passes := true, gives := true } s [Val.of 5] ∧
     (shView ((s.core 0).shOf 7) (s.now 0)).fe = .free) ∧
    (let s := testState 0 [3]
     Opens s { srcs := [.g 1], dsts := [] } s [Val.of 3] ∧ s.dimQuiet 0 0 true = true ∧ s.dimQuiet 0 0 false = true) ∧
    (let s := testState 0 [4, 0x104, 5, 8]
     Opens s { srcs := [.g 1], dsts := [] } s [Val.of 4] ∧ Opens s { fR 9 2 with takes := true } s [Val.of 0x104] ∧
     Opens s { fR 9 3 with takes := true } s [Val.of 5] ∧ Opens s { fR 9 4 with takes := true } s [Val.of 8]) :=
  ⟨opens_of rfl rfl, ⟨opens_of rfl rfl, rfl, rfl⟩, ⟨opens_of rfl rfl, rfl⟩, ⟨opens_of rfl rfl, rfl, rfl⟩,
    opens_of rfl rfl, opens_of rfl rfl, opens_of rfl rfl, opens_of rfl rfl⟩

/-- g5 is pending, v3 is free. -/
def someEmpty (t : Thread) : Thread :=
  { t with g := t.g.set 5 ⟨0, .pending, false⟩, v := t.v.set 3 ⟨0, .free, false⟩ }

/-- g0 and m0; a full private register, a shared register under the change guard, and a pending one. -/
theorem test_witness_FullEmptyBits :
    (let s := testState 0 vals someEmpty shared
     Opens s { srcs := [], dsts := [], more := [.g 0] } s [] ∧ Opens s { srcs := [], dsts := [], more := [.m 0] } s [] ∧
     (Opens s { srcs := [], dsts := [], more := [.v 2] } s [] ∧ s.feOf 0 0 (.v 2) = .full) ∧
     (Opens s { srcs := [], dsts := [], more := [.g 49], gives := true } s [] ∧ shGuard ((s.core 0).shOf 1) (s.now 0) = true) ∧
     (Opens s { srcs := [], dsts := [], more := [.g 48], gives := true } s [] ∧ shGuard ((s.core 0).shOf 0) (s.now 0) = false ∧
       s.feOf 0 0 (.g 48) = .full) ∧
     (Opens s { srcs := [], dsts := [], more := [.g 5] } s [] ∧ s.feOf 0 0 (.g 5) = .pending) ∧
     Opens s { srcs := [], dsts := [.g 9], more := [.v 3] } s [] ∧ s.feOf 0 0 (.v 3) = .free) :=
  ⟨opens_of rfl rfl, opens_of rfl rfl, ⟨opens_of rfl rfl, rfl⟩, ⟨opens_of rfl rfl, rfl⟩, ⟨opens_of rfl rfl, rfl, rfl⟩,
    ⟨opens_of rfl rfl, rfl⟩, opens_of rfl rfl, rfl⟩
theorem test_witness_VectorResults :
    Opens (testState 0 vals) (maskedForm [.v 1, .v 2] 3 0) (testState 0 vals) [⟨1, false⟩, ⟨2, false⟩, ⟨0xFFFF, false⟩] ∧
    Opens (testState 0 vals) (maskedForm [.v 1, .v 2] 3 1) (testState 0 vals) [⟨1, false⟩, ⟨2, false⟩, ⟨0xFFFF, false⟩, ⟨3, false⟩] ∧
    Opens (testState 0 vals) { srcs := [.v 1, .v 2, .m 0, .v 3], dsts := [.v 3] } (testState 0 vals)
      [⟨1, false⟩, ⟨2, false⟩, ⟨0xFFFF, false⟩, ⟨3, false⟩] := ⟨opens_of rfl rfl, opens_of rfl rfl, opens_of rfl rfl⟩
/-- The lane index at its bounds: the last lane and the first beyond, in both widths. -/
theorem test_witness_MaskAndLaneResults :
    Opens (testState 0 vals) { srcs := [.v 1, .v 2, .m 0], dsts := [.m 1] } (testState 0 vals) [⟨1, false⟩, ⟨2, false⟩, ⟨0xFFFF, false⟩] ∧
    Opens (testState 0 vals) { srcs := [.m 1, .m 2], dsts := [.m 3] } (testState 0 vals) [⟨0xFFFF, false⟩, ⟨0xFFFF, false⟩] ∧
    Opens (testState 0 vals) { srcs := [.m 7], dsts := [.g 9] } (testState 0 vals) [⟨0xFFFF, false⟩] ∧
    Opens (testState 0 vals) { srcs := [.g 1], dsts := [.m 3] } (testState 0 vals) [Val.of 5] ∧
    (let s := testState 0 [15, 16, 7, 8]
     Opens s (maskedForm [.g 1] 9 0) s [Val.of 15, ⟨0xFFFF, false⟩] ∧ Opens s (maskedForm [.v 1, .g 2] 9 0) s [⟨1, false⟩, Val.of 16, ⟨0xFFFF, false⟩] ∧
     Opens s { srcs := [.g 1, .g 1, .v 3], dsts := [.v 3] } s [Val.of 15, Val.of 15, ⟨3, false⟩] ∧
     Opens s { srcs := [.g 1, .g 2, .v 3], dsts := [.v 3] } s [Val.of 15, Val.of 16, ⟨3, false⟩] ∧
     Opens s { srcs := [.v 1, .g 1], dsts := [.g 9] } s [⟨1, false⟩, Val.of 15] ∧ Opens s { srcs := [.v 1, .g 2], dsts := [.g 9] } s [⟨1, false⟩, Val.of 16] ∧
     Opens s { srcs := [.v 1, .g 3], dsts := [.g 9] } s [⟨1, false⟩, Val.of 7] ∧ Opens s { srcs := [.v 1, .g 4], dsts := [.g 9] } s [⟨1, false⟩, Val.of 8]) :=
  ⟨opens_of rfl rfl, opens_of rfl rfl, opens_of rfl rfl, opens_of rfl rfl, opens_of rfl rfl, opens_of rfl rfl, opens_of rfl rfl,
    opens_of rfl rfl, opens_of rfl rfl, opens_of rfl rfl, opens_of rfl rfl, opens_of rfl rfl⟩
/-- A conversion to D8 in which every lane answers (zeros), and one whose lane 0 traps. -/
theorem test_witness_VectorReductionsAndConversion :
    Opens (testState 0 vals) { srcs := [.v 1, .m 1], dsts := [.g 9] } (testState 0 vals) [⟨1, false⟩, ⟨0xFFFF, false⟩] ∧
    Opens (testState 0 vals) { srcs := [.v 0, .m 0], dsts := [.v 2] } (testState 0 vals) [⟨0, false⟩, ⟨0xFFFF, false⟩] ∧
    readsOld 2 0 = false ∧
    (∃ r fl, convert 4 (scaled Thread.reset none 4 1 (valueOf 1 0)) .rne = .ok r fl) ∧
    ∃ u, convert 4 (valueOf 1 0x7F000000) .rne = .narrow u :=
  ⟨opens_of rfl rfl, opens_of rfl rfl, rfl, ⟨_, _, rfl⟩, _, rfl⟩

/-- A pending instruction of core 0, slot 0, whose cycle has come. -/
def pendOf (k : PKind) (dst : List Opnd) : Pend :=
  { id := 3, kind := k, pc := 64, word := 0, la := 15, issued := 0, dst := dst, due := 0, served := true }
/-- The thread with one pending instruction. -/
def pending (k : PKind) (dst : List Opnd) (t : Thread) : Thread := { t with pend := [pendOf k dst] }
/-- The state in which it is due. -/
def dueState (k : PKind) (dst : List Opnd) : State := testState 0 vals (pending k dst)

/-- The first and the last byte of the window, the first beyond it, a misaligned address, the scratchpad. -/
theorem test_witness_LocalAccesses :
    (let s := testState 0 [0x100000, 8, 0x10000000000]
     let f (e : Word) (n : Nat) : Form := { fR 9 1 with la := some 3, takes := true, touch := fun xs => [(arg xs 0 + e, n)], rd := true }
     Opens s (f (-8) 8) s [Val.of 0x100000] ∧ s.checkAt 0 (0x100000 - 8) 8 true false = none ∧ s.checkAt 0 0 8 true false = none ∧
     s.checkAt 0 0x10000000000 8 true false = none ∧
     s.checkAt 0 0x100000 1 true false = some (det cLeaseMiss 1) ∧ s.checkAt 0 1 2 true false = some (det cMisaligned 2)) ∧
    (let s := testState 0 [0x0FFFF8, 8]
     let f : Form := { srcs := [.g 1, .g 2], dsts := [], gives := true, touch := fun xs => [(arg xs 0 + 0, 8)], wr := true }
     Opens s f s [Val.of 0x0FFFF8, Val.of 8] ∧ s.checkAt 0 0x0FFFF8 8 false true = none ∧
     s.storeStop 0 0 0 [0x0FFFF8] true = none ∧ s.checkAt 0 0x100000 8 false true = some (det cLeaseMiss 1)) ∧
    (let s := testState 0 [0x0FFFF8, 8]
     let f : Form := { srcs := [.g 1, .g 2], dsts := [], la := some 0, gives := true, touch := fun xs => [(arg xs 0, 8)], wr := true }
     Opens s f s [Val.of 0x0FFFF8, Val.of 8] ∧ s.storeStop 0 0 0 [0x0FFFF8] false = none) :=
  ⟨⟨opens_of rfl rfl, rfl, rfl, rfl, rfl, rfl⟩, ⟨opens_of rfl rfl, rfl, rfl, rfl⟩, opens_of rfl rfl, rfl⟩
theorem test_witness_LoadCompletions :
    (let p := pendOf (.load 0xFFFF8 8 false 0) [.g 9]
     DuePend (dueState p.kind p.dst) 0 0 3 p ∧ p.ready 0xFFFF8 = true) ∧
    (let p := pendOf (.vload [(0, 0), (15, 60)] 4 0 0 1) [.v 9]
     DuePend (dueState p.kind p.dst) 0 0 3 p ∧ [(0, 0), (15, 60)].all (fun (x : Nat × Word) => p.ready x.2) = true) ∧
    DuePend (dueState (.divide 7) [.g 9]) 0 0 3 (pendOf (.divide 7) [.g 9]) ∧
    DuePend (dueState (.fdiv 7 1) [.g 9]) 0 0 3 (pendOf (.fdiv 7 1) [.g 9]) ∧
    DuePend (dueState (.vqry 7) [.g 9]) 0 0 3 (pendOf (.vqry 7) [.g 9]) :=
  ⟨⟨⟨rfl, by decide⟩, rfl⟩, ⟨⟨rfl, by decide⟩, rfl⟩, ⟨rfl, by decide⟩, ⟨rfl, by decide⟩, ⟨rfl, by decide⟩⟩
theorem test_witness_LocalAtomics :
    (let s := testState 0 [0x0FFFF8, 8, 9]
     let f (xs : List Opnd) : Form := { srcs := xs, dsts := [.g 9], la := some 0, ends := true, takes := true, gives := true, touch := fun xs => [(arg xs 0, 8)], rd := true, wr := true }
     Opens s (f [.g 1, .g 2]) s [Val.of 0x0FFFF8, Val.of 8] ∧ Opens s (f [.g 1, .g 2, .g 3]) s [Val.of 0x0FFFF8, Val.of 8, Val.of 9] ∧
     s.checkAt 0 0x0FFFF8 8 true true = none ∧ s.storeStop 0 0 0 [0x0FFFF8] false = none ∧
     s.checkAt 0 0x100000 8 true true = some (det cLeaseMiss 1)) ∧ (0 : Word) ≠ 1 :=
  ⟨⟨opens_of rfl rfl, opens_of rfl rfl, rfl, rfl, rfl⟩, by decide⟩
/-- An access that has not gone to its bank yet. -/
def unserved (k : PKind) : Pend := { pendOf k [.g 9] with served := false }
/-- The state in which it may begin. -/
def startState (k : PKind) : State := testState 0 vals (fun t => { t with pend := [unserved k] })
/-- A store-release, an atomic and a counter addition at an address. -/
def writers (ea : Word) : List PKind := [.stl ea 8 5 0 2 [], .amo .add ea 5 0 0 [], .ctradd ea 5 0 []]

/-- A posted store whose turn it is; a store-release, an atomic and a counter addition with nothing left to wait for, at the vault's
first and the scratchpad's last doubleword; each of them when its beat has come, with a clean and a poisoned old value. -/
theorem test_witness_WritesPerformed :
    (let e : Posted := { id := 3, parts := [(0x10000000000, 8, 5)], tag := 0, due := 0 }
     let s := testState 0 vals (fun t => { t with psq := [e] })
     (s.thr 0 0).posted? 3 = some e ∧ e.parts = [(0x10000000000, 8, 5)] ∧ inVault (0x10000000000 : Word).toNat = false ∧
     (s.thr 0 0).mayPerform e (s.now 0) = true) ∧
    (∀ ea ∈ [(0 : Word), 0x10000007FF8], ∀ k ∈ writers ea,
      let s := startState k
      let s1 := s.sense 0 ea.toNat 8
      DuePend s 0 0 3 (unserved k) ∧ (unserved k).served = false ∧ (unserved k).got = [] ∧ s.waitsOver 0 0 [] = true ∧
      (s.core 0).queued (.pend 0 (unserved k).id [0]) = false ∧ inVault ea.toNat = decide (ea = 0) ∧ s1.tagRefusal 0 ea.toNat 0 = none) ∧
    (∀ k ∈ writers 0x10000007FF8, let p := { unserved k with got := [(0, 5, false)] }
      let s := testState 0 vals (fun t => { t with pend := [p] })
      DuePend s 0 0 3 p ∧ p.served = false ∧ p.got ≠ [] ∧ s.waitsOver 0 0 [] = true ∧ (s.core 0).queued (.pend 0 p.id [0]) = false ∧
      inVault (0x10000007FF8 : Word).toNat = false ∧ (s.sense 0 0x10000007FF8 8).tagRefusal 0 0x10000007FF8 0 = none) ∧
    (∀ k ∈ writers 0, ∀ po ∈ [false, true], let p := { pendOf k [.g 9] with got := [(0, 5, po)] }
      DuePend (testState 0 vals (fun t => { t with pend := [p] })) 0 0 3 p ∧ p.served = true ∧ p.gotOf 0 = some (5, po)) := by
  refine ⟨⟨rfl, rfl, rfl, rfl⟩, ?_, ?_, ?_⟩
  · intro ea he k hk
    simp only [writers, List.mem_cons, List.not_mem_nil, or_false] at he hk
    rcases he with rfl | rfl <;> rcases hk with rfl | rfl | rfl <;> exact ⟨⟨rfl, by decide⟩, rfl, rfl, rfl, rfl, rfl, rfl⟩
  · intro k hk
    simp only [writers, List.mem_cons, List.not_mem_nil, or_false] at hk
    rcases hk with rfl | rfl | rfl <;> exact ⟨⟨rfl, by decide⟩, rfl, by decide, rfl, rfl, rfl, rfl⟩
  · intro k hk po hp
    simp only [writers, List.mem_cons, List.not_mem_nil, or_false] at hk hp
    rcases hk with rfl | rfl | rfl <;> rcases hp with rfl | rfl <;> exact ⟨⟨rfl, by decide⟩, rfl, rfl⟩
/-- A counter at its threshold, one below it, and a poisoned one. -/
theorem test_witness_Counters :
    (let s := testState 0 [0x10000000000, 8]
     Opens s { fRR 9 1 2 with la := some 0, takes := true, touch := fun xs => [(arg xs 0, 8)], rd := true } s [Val.of 0x10000000000, Val.of 8] ∧
     Opens s { fRR 9 1 2 with la := some 0, ends := true, takes := true, gives := true, touch := fun xs => [(arg xs 0, 8)], rd := true, wr := true }
       s [Val.of 0x10000000000, Val.of 8] ∧ s.checkAt 0 0x10000000000 8 true true = none ∧ s.storeStop 0 0 0 [0x10000000000] false = none) ∧
    (∀ x ∈ [(8, false), (7, false), (8, true)],
      let p : Pend := { pendOf (.ctrwait 0x10000000000 8 0 false none) [.g 9] with got := [(0, x)] }
      let s := testState 0 vals (fun t => { t with pend := [p] })
      DuePend s 0 0 3 p ∧ p.ready 0x10000000000 = true ∧ s.valueOf 0 0 p 0x10000000000 8 0 = x) := by
  refine ⟨⟨opens_of rfl rfl, opens_of rfl rfl, rfl, rfl⟩, ?_⟩
  intro x hx
  simp only [List.mem_cons, List.not_mem_nil, or_false] at hx
  rcases hx with rfl | rfl | rfl <;> exact ⟨⟨rfl, by decide⟩, rfl, rfl⟩
/-- A unit-stride access of all lanes, one without an active lane, and one beyond the window. -/
theorem test_witness_VectorMemory :
    (let s := testState 0 [0x0FFFC0, 4, 0x100000] (fun t => { t with m := t.m.set 2 ⟨0, .full, false⟩ })
     let addrs (xs : List Val) := strided 0 (arg xs 0) (BitVec.ofNat 64 (laneBytes 0)) (arg xs 1)
     let f (m : BitVec 3) : Form := { maskedForm [.g 1] 9 m with la := some 3, takes := true, touch := fun xs => touchLanes 0 (addrs xs), rd := true }
     Opens s (f 0) s [Val.of 0x0FFFC0, ⟨0xFFFF, false⟩] ∧ Opens s (f 2) s [Val.of 0x0FFFC0, ⟨0, false⟩, ⟨9, false⟩] ∧
     s.laneFault 0 4 true false (addrs [Val.of 0x0FFFC0, ⟨0xFFFF, false⟩]) = none ∧ addrs [Val.of 0x0FFFC0, ⟨0, false⟩] = []) ∧
    (let s := testState 0 [0x0FFFC0, 4, 0x100000]
     let addrs (xs : List Val) := strided 0 (arg xs 0) (BitVec.ofNat 64 (laneBytes 0)) (arg xs 2)
     let f : Form := { srcs := [.g 1, .v 2, .m 0], dsts := [], gives := true, touch := fun xs => touchLanes 0 (addrs xs), wr := true }
     Opens s f s [Val.of 0x0FFFC0, ⟨2, false⟩, ⟨0xFFFF, false⟩] ∧
     s.laneStop 0 0 4 (addrs [Val.of 0x0FFFC0, ⟨2, false⟩, ⟨0xFFFF, false⟩]) = none ∧
     s.storeStop 0 0 0 ((addrs [Val.of 0x0FFFC0, ⟨2, false⟩, ⟨0xFFFF, false⟩]).map (fun (x : Nat × Word) => x.2.toNat)) true = none ∧
     s.laneStop 0 0 4 (addrs [Val.of 0x100000, ⟨2, false⟩, ⟨0xFFFF, false⟩]) = some (.trap (det cLeaseMiss 1) 0x100000 0x100000)) ∧
    (let s := testState 0 [0x100, 4] (fun t => { t with v := t.v.set 2 ⟨0, .full, false⟩ })
     let addrs (xs : List Val) := indexed 0 (arg xs 0) (argV xs 1)
     Opens s { srcs := [.g 1, .v 2], dsts := [.v 9], la := some 3, takes := true, touch := fun xs => touchLanes 0 (addrs xs), rd := true } s
       [Val.of 0x100, ⟨0, false⟩] ∧ s.laneFault 0 4 true false (addrs [Val.of 0x100, ⟨0, false⟩]) = none) :=
  ⟨⟨opens_of rfl rfl, opens_of rfl rfl, rfl, rfl⟩, ⟨opens_of rfl rfl, rfl, rfl, rfl⟩, opens_of rfl rfl, rfl⟩

/-- Core 0 in cycle 64 with bank 0 as given and a load of the vault's first doublewords under way. -/
def bankState (b : Bank) (kf : Core → Core := id) : State :=
  testState 0 vals (pending (.load 0x40 8 false 0) []) (fun k => kf { k.setBank 0 b with cycle := 64 })
/-- The read of that load at its bank. -/
def bankRead : BankReq :=
  { ref := .pend 0 3 [0], row := ⟨0, false⟩, arrived := 16, slot := 0, began := 16, off := 0x40, bytes := 8, rd := true, wr := false,
    tag := 0, mat := false }
/-- A row activation at a bank. -/
def rowRead (row : Nat) : BankReq := { bankRead with ref := .rowact, row := ⟨row, false⟩, rd := false }
/-- That read with its command begun. -/
def bankBeat : Beat := { req := bankRead, bank := 0, ready := 20, second := false }

/-- Row control inside a window and outside, its row queued and not; a bank that may activate, one with the row open, one with another
row open for 42 cycles; a beat that is ready; a refresh 64 cycles ahead, its start, its end, and that of a repair. -/
theorem test_witness_BankEvents :
    (let s := testState 0 [0x40, 0x100000, 0x10000000000]
     Opens s { srcs := [.g 1], dsts := [], la := some 0 } s [Val.of 0x40] ∧ s.rowCheck 0 0x40 = none ∧
     Opens s { fR 9 1 with la := some 0, takes := true } s [Val.of 0x40] ∧
     Opens s { srcs := [.g 2], dsts := [], la := some 0 } s [Val.of 0x100000] ∧ s.rowCheck 0 0x100000 = some (det cLeaseMiss 1) ∧
     Opens s { fR 9 2 with la := some 0, takes := true } s [Val.of 0x100000] ∧ s.rowCheck 0 0x10000000000 = some (det cLeaseMiss 6) ∧
     ((s.core 0).bank (bankOf 0x40)).waitsOn ⟨rowOf 0x40, false⟩ = false) ∧
    (let s := testState 0 [0x40] id (fun k => k.setBank (bankOf 0x40) { Bank.reset with queue := [rowRead (rowOf 0x40)] })
     Opens s { srcs := [.g 1], dsts := [], la := some 0 } s [Val.of 0x40] ∧ s.rowCheck 0 0x40 = none ∧
     ((s.core 0).bank (bankOf 0x40)).waitsOn ⟨rowOf 0x40, false⟩ = true) ∧
    (let x : Bank := { Bank.reset with opening := some ⟨7, false⟩, actAt := some 4 }
     let k := (bankState x).core 0
     k.bank 0 = x ∧ k.nextBeat = none ∧ x.opening = some ⟨7, false⟩ ∧ x.heldTo ≤ k.cycle ∧ x.notice = none ∧ x.state = .closed ∧ 4 + 60 ≤ k.cycle ∧
     k.recentActs < 8) ∧
    (∀ r ∈ [rowRead 0, { rowRead 7 with ref := .rowpre }], let x : Bank := { Bank.reset with state := .opened, row := ⟨7, false⟩, actAt := some 22, queue := [r] }
     let k := (bankState x).core 0
     k.nextBeat = none ∧ x.opening = none ∧ (bankState x).picked 0 0 = some r ∧ r.mat = false ∧ k.occupied 0 = false ∧ 22 + 42 ≤ k.cycle ∧
     x.lastBeat < k.cycle ∧ ∀ e ∈ k.beats, e.bank ≠ 0) ∧
    (let x : Bank := { Bank.reset with state := .activating, actAt := some 46 }
     ((bankState x).core 0).bank 0 = x ∧ 46 + 18 ≤ ((bankState x).core 0).cycle) ∧
    (let x : Bank := { Bank.reset with state := .precharging, preAt := 46 }
     ((bankState x).core 0).bank 0 = x ∧ x.preAt + 18 ≤ ((bankState x).core 0).cycle) ∧
    (let x : Bank := { Bank.reset with queue := [bankRead] }
     let k := (bankState x).core 0
     k.bank 0 = x ∧ k.nextBeat = none ∧ x.opening = none ∧ (bankState x).picked 0 0 = some bankRead ∧ bankRead.mat = false ∧ x.heldTo ≤ k.cycle ∧
     k.occupied 0 = false ∧ x.notice = none ∧ x.actAt = none ∧ k.recentActs < 8) ∧
    (let x : Bank := { Bank.reset with state := .opened, queue := [bankRead] }
     (bankState x).picked 0 0 = some bankRead ∧ bankRead.row = x.row) ∧
    (let x : Bank := { Bank.reset with state := .opened, row := ⟨7, false⟩, actAt := some 22, queue := [bankRead] }
     let k := (bankState x).core 0
     k.nextBeat = none ∧ (bankState x).picked 0 0 = some bankRead ∧ k.occupied 0 = false ∧ bankRead.row ≠ x.row ∧ 22 + 42 ≤ k.cycle ∧
     x.lastBeat < k.cycle ∧ k.beats = []) ∧
    (let s := bankState { Bank.reset with state := .opened } (fun k => { k with beats := [bankBeat] })
     let s1 := (s.modCore 0 (fun k => { k.setBank 0 { k.bank 0 with lastBeat := k.cycle } with
       bus := k.cycle + 1, beats := k.beats.erase bankBeat })).sense 0 0x40 8 0
     (s.core 0).nextBeat = some bankBeat ∧ s.mustRebuild 0 0x40 8 = false ∧ (s1.pend? 0 0 3).isSome = true) ∧
    (let s := bankState Bank.reset
     nextStart 0 0 (s.core 0).therm (max s.rtime (s.core 0).schedFrom) = 0 ∧ (s.core 0).ccUntil s.rtime 0 = 0 ∧
     ((s.core 0).bank 0).notice = none ∧ ((s.core 0).bank 0).busy = false ∧ ((s.core 0).bank 0).marked = []) ∧
    (let x : Bank := { Bank.reset with notice := some 0 }
     x.busy = false ∧ ((bankState x).core 0).ccUntil 0 0 = 0 ∧ ((bankState x).core 0).beats = []) ∧
    (∀ st ∈ [BankState.refreshing, .repairing], ∀ r ∈ [false, true],
      let x : Bank := { Bank.reset with state := st, repair := r, heldTo := 64 }
      x.heldTo ≤ ((bankState x).core 0).cycle ∧ ((bankState x).core 0).bank 0 = x) := by
  refine ⟨⟨opens_of rfl rfl, rfl, opens_of rfl rfl, opens_of rfl rfl, rfl, opens_of rfl rfl, rfl, rfl⟩, ⟨opens_of rfl rfl, rfl, rfl⟩,
    ⟨rfl, rfl, rfl, by decide, rfl, rfl, by decide, by decide⟩, ?_,
    ⟨rfl, by decide⟩, ⟨rfl, by decide⟩, ⟨rfl, rfl, rfl, rfl, rfl, by decide, rfl, rfl, rfl, by decide⟩, ⟨rfl, rfl⟩,
    ⟨rfl, rfl, rfl, by decide, by decide, by decide, rfl⟩, ⟨rfl, rfl, rfl⟩, ⟨rfl, rfl, rfl, rfl, rfl⟩, ⟨rfl, rfl, rfl⟩, ?_⟩
  · intro r hr
    simp only [List.mem_cons, List.not_mem_nil, or_false] at hr
    rcases hr with rfl | rfl <;> exact ⟨rfl, rfl, rfl, rfl, rfl, by decide, by decide, fun e h => by cases h⟩
  intro st hs r hr
  simp only [List.mem_cons, List.not_mem_nil, or_false] at hs hr
  rcases hs with rfl | rfl <;> rcases hr with rfl | rfl <;> exact ⟨by decide, rfl⟩
theorem test_witness_CsrAccess :
    Opens (testState 0 vals) { srcs := [], dsts := [.g 9], takes := csrOutside 1 } (testState 0 vals) [] ∧
    Opens (testState 0 vals) { srcs := [.g 1], dsts := [.g 9], ordering := true, takes := csrOutside 1 } (testState 0 vals) [Val.of 5] :=
  ⟨opens_of rfl rfl, opens_of rfl rfl⟩
/-- A fence with nothing left to perform and one behind a posted store; a handler that runs and none. -/
theorem test_witness_SystemInstructions :
    (let f : Form := { srcs := [], dsts := [], ordering := true, fence := true }
     Opens (testState 0 vals) f (testState 0 vals) [] ∧ (testState 0 vals).writesDone 0 0 2 = true ∧
     (let s := testState 0 vals (fun t => { t with psq := [{ id := 3, parts := [(0x40, 8, 5)], tag := 0, due := 99 }] })
      Opens s f s [] ∧ s.writesDone 0 0 2 = false)) ∧
    (let f : Form := { srcs := [.g 1], dsts := [], ordering := true, slots := 0x8FFF }
     Opens (testState 0 vals) f (testState 0 vals) [Val.of 5]) ∧
    (let f : Form := { srcs := [], dsts := [], ordering := true, slots := 0x8FFF }
     Opens (testState 0 vals) f (testState 0 vals) [] ∧ (me (testState 0 vals)).handler = false ∧
     (let s := testState 0 vals (fun t => { t with handler := true })
      Opens s f s [] ∧ (me s).handler = true)) :=
  ⟨⟨opens_of rfl rfl, rfl, opens_of rfl rfl, rfl⟩, opens_of rfl rfl, opens_of rfl rfl, rfl, opens_of rfl rfl, rfl⟩

/-- A message that has arrived. -/
def msgOf (k : MsgKind) (home off : Nat) (va : Word) : Msg :=
  { id := 7, kind := k, core := 0, slot := 0, pend := 3, home := home, off := off, va := va, asid := 0, tag := 0, due := ⟨0, 1, none, 0⟩, refused := false }
/-- An address space whose first megabyte of homes 0 and 1 is mapped. -/
def testAsid : Asid :=
  { id := 0, ceil := 0, mw := 0, boost := false, rkey := 0, suspect := false, gfrn := 0, sample := 0, keyName := 0, hostWins := [],
    pages := [⟨0, 0x100000, 0, 0, true, true, true, false⟩, ⟨2 ^ 42, 0x100000, 1, 0, true, true, true, false⟩] }
/-- The state with that address space and a message in the mesh. -/
def meshState (k : PKind) (ms : List Msg) : State :=
  testState 0 vals (pending k [.g 9]) id (fun s => { s with asids := [testAsid], msgs := ms, rtime := 64 })

/-- Barrier numbers 0 and 255, and 256 beyond; a form that matches and one that does not; the last report and an earlier one. -/
theorem test_witness_Barriers :
    (let s := testState 0 [255, 0, 1, 2]
     let f : Form := { fR 9 1 with la := some 0, ordering := true, ends := true, takes := true, gives := true, slots := 0x0FFF }
     Opens s f s [Val.of 255] ∧ s.barrierCheck 0 255 = none ∧ ((s.core 0).barrier 255).form = 0 ∧ s.releaseReady 0 0 4 = true ∧
     s.barrierCheck 0 256 = some (det cBarrierForm 3) ∧
     Opens s { srcs := [.g 1, .g 2], dsts := [], la := some 0, takes := true, slots := 0x9FFF } s [Val.of 255, Val.of 0] ∧
     Opens s { srcs := [.g 1, .g 2], dsts := [], la := some 0, gives := true, slots := 0x9FFF } s [Val.of 255, Val.of 0] ∧
     Opens s { fRR 9 1 2 with la := some 0, takes := true, slots := 0x9FFF } s [Val.of 255, Val.of 0] ∧
     Opens s { fRR 9 1 3 with la := some 0, takes := true, slots := 0x9FFF } s [Val.of 255, Val.of 1] ∧
     Opens s { fRR 9 1 4 with la := some 0, takes := true, slots := 0x9FFF } s [Val.of 255, Val.of 2]) ∧
    (let s := testState 0 [7] id (fun k => { k with barriers := [(7, { Barrier.reset with form := 1 })] })
     let f : Form := { fR 9 1 with la := some 0, ordering := true, ends := true, takes := true, gives := true, slots := 0x0FFF }
     Opens s f s [Val.of 7] ∧ ((s.core 0).barrier 7).form ≠ 0 ∧ ((s.core 0).barrier 7).form ≠ 3) ∧
    DuePend (dueState (.bar 9) [.g 9]) 0 0 3 (pendOf (.bar 9) [.g 9]) ∧
    (DuePend (dueState (.barwait 7 1) []) 0 0 3 (pendOf (.barwait 7 1) []) ∧ (((dueState (.barwait 7 1) []).core 0).barrier 7).gen ≠ 1) ∧
    (meshState (.bar 9) [msgOf (.barReport 7) 0 0 0]).arrived? 7 = some (msgOf (.barReport 7) 0 0 0) ∧
    (meshState (.bar 9) [msgOf (.barRelease 7) 0 0 0]).arrived? 7 = some (msgOf (.barRelease 7) 0 0 0) :=
  ⟨⟨opens_of rfl rfl, rfl, rfl, rfl, rfl, opens_of rfl rfl, opens_of rfl rfl, opens_of rfl rfl, opens_of rfl rfl, opens_of rfl rfl⟩,
    ⟨opens_of rfl rfl, by decide, by decide⟩, ⟨rfl, by decide⟩, ⟨⟨rfl, by decide⟩, by decide⟩, rfl, rfl⟩

/-- The address of offset 0x40 of core 1's vault. -/
def farWord : Word := 0x40000000040
/-- The address of core 1's mailbox and doorbell. -/
def core1 : Word := 0x40000000000

theorem test_witness_RemoteInstructions :
    (let s := testState 0 [farWord, 8, 9, core1, 255, 0x40000100000] id id (fun s => { s with asids := [testAsid] })
     let f (srcs dsts : List Opnd) (takes gives ends : Bool) : Form :=
       { srcs := srcs, dsts := dsts, la := some 0, takes := takes, gives := gives, ends := ends, slots := 0x9FFF, inHandler := false }
     Opens s (f [.g 1] [.g 9] true false false) s [Val.of farWord] ∧ s.accessCheck 0 farWord 8 = none ∧
     s.accessCheck 0 0x40000000041 8 = some (det cMisaligned 8) ∧
     Opens s (f [.g 1, .g 2] [] false true false) s [Val.of farWord, Val.of 8] ∧
     Opens s (f [.g 1, .g 2, .g 3] [.g 9] true true true) s [Val.of farWord, Val.of 8, Val.of 9] ∧ gaDev farWord ≠ 2047 ∧
     Opens s (f [.g 4, .g 5, .g 5] [.g 9] true true true) s [Val.of core1, Val.of 255, Val.of 255] ∧ s.sendCheck 0 core1 = none ∧
     s.releaseReady 0 0 (s.scopeTo 0 core1) = true ∧ gaOff core1 = 0 ∧ (me s).pend = []) ∧
    (let s := testState 0 [15, 16] id (fun k => { k with mail := k.mail.set 3 [⟨1, 2, 3, 0⟩] })
     Opens s { srcs := [.g 1], dsts := [.g 9, .g 10, .g 11], la := some 0, ends := true, takes := true, slots := 0x9FFF, inHandler := false } s
       [Val.of 15] ∧ (s.core 0).mailPick 15 = some 3 ∧ (s.core 0).mailQ 3 = [⟨1, 2, 3, 0⟩] ∧
     Opens s { fR 9 1 with takes := true } s [Val.of 15] ∧ Opens s { fR 9 2 with takes := true } s [Val.of 16]) ∧
    DuePend (dueState (.mrecv 1 2 3) [.g 9, .g 10, .g 11]) 0 0 3 (pendOf (.mrecv 1 2 3) [.g 9, .g 10, .g 11]) ∧
    (let s := testState 13 vals (fun t => { t with invocation := some ⟨7, 1, false, none⟩ }) (fun k => { k with inbuf := [msgOf (.amsend 0 5) 0 0 0] })
     s.readAll 0 13 [.g 1] = .ok s [Val.of 5] ∧ (me s).invocation = some ⟨7, 1, false, none⟩ ∧ s.releaseReady 0 13 11 = true ∧
     (s.core 0).inbuf.find? (fun (m : Msg) => m.id == 7) = some (msgOf (.amsend 0 5) 0 0 0) ∧
     (({ srcs := [.g 1], dsts := [], ordering := true, slots := 0x2000 } : Form)).slotOk 13 true = true) :=
  ⟨⟨opens_of rfl rfl, rfl, rfl, opens_of rfl rfl, opens_of rfl rfl, by decide, opens_of rfl rfl, rfl, rfl, rfl, rfl⟩,
    ⟨opens_of rfl rfl, rfl, rfl, opens_of rfl rfl, opens_of rfl rfl⟩, ⟨rfl, by decide⟩, rfl, rfl, rfl, rfl, rfl⟩

/-- A reply, poisoned or not, and one with a fault. -/
def aReply (po : Bool) : Msg := msgOf (.reply 5 po none) 0 0 0
def aFault : Msg := msgOf (.reply 5 false (some (det cLeaseMiss 1))) 0 0 0
/-- Core 0 with an instruction that has been answered or not, and its reply. -/
def replyState (k : PKind) (dst : List Opnd) (served : Bool) (m : Msg) : State :=
  testState 0 vals (fun t => { t with pend := [{ pendOf k dst with served := served }] }) id
    (fun s => { s with asids := [testAsid], msgs := [m], rtime := 64 })
/-- A crew of four whose member 3 is dormant on core 0. -/
def spawnState (m : Msg) (life : Life) : State :=
  (testState 0 vals id id (fun s => { s with
    rtime := 64, msgs := [m], ridges := s.ridges.map (fun (r : Ridge) => { r with header := { r.header with crew := 4 } }) })).modThr 0 3
      (fun t => { t with life := life })

/-- Each kind of reply with its instruction, when it is accepted and in the cycle after; the host up and down; a refusal that has come
back, one whose 64 cycles are over; a message that is accepted, one for a saved instance; the first and the last flit of a SPAWN, with
its member free and not; room for the last message of a mailbox, and none. -/
theorem test_witness_RemoteMessages :
    (∀ x ∈ [(PKind.remote 0 false, ([] : List Opnd), false), (.ratom, [.g 9], true), (.remote 8 false, [.g 9], false), (.ratom, [.g 9], false)],
      let s := replyState x.1 x.2.1 false (aReply x.2.2)
      s.arrived? 7 = some (aReply x.2.2) ∧ s.pend? 0 0 3 = some { pendOf x.1 x.2.1 with served := false }) ∧
    (∀ k ∈ [PKind.remote 8 false, .ratom, .send false 0 0],
      let s := replyState k [.g 9] true (aReply false)
      s.arrived? 7 = some (aReply false) ∧ s.pend? 0 0 3 = some (pendOf k [.g 9]) ∧ (pendOf k [.g 9]).due ≤ s.now 0) ∧
    (let s := replyState .ratom [.g 9] false aFault
     s.arrived? 7 = some aFault ∧ s.pend? 0 0 3 = some { pendOf .ratom [.g 9] with served := false }) ∧
    (let m := msgOf (.rget 8) 0 0 0xFFE0000000000000
     let s := meshState .ratom [m]
     s.arrived? 7 = some m ∧ s.offDevice m = true ∧ gaDev m.va = 2047 ∧ s.hostUp m = false ∧
     ({ s with eth := List.replicate 8 true } : State).hostUp m = true ∧
     ∀ n, Config.hostNak n = false ∨ Config.hostNak n = true) ∧
    (∀ r ∈ [1, 2], let m : Msg := { msgOf (.rget 8) 0 0 0 with refused := true, retry := r }
      (meshState .ratom [m]).arrived? 7 = some m) ∧
    (let m := msgOf (.rget 8) 1 0 core1
     let s := meshState .ratom [m]
     s.arrived? 7 = some m ∧ (s.landsAt m).isSome = true ∧ m.kind.forAgent = true ∧ s.inOrder m = true ∧ s.preempted m = false ∧
     s.behindRefused m = false ∧ (s.core 1).inbuf.length < 32) ∧
    (let m := msgOf (.rget 8) 0 0 0
     let s := testState 0 vals id id (fun s => { s with rtime := 64, msgs := [m], ridges := s.ridges.map (fun (r : Ridge) => { r with state := .saved }) })
     s.arrived? 7 = some m ∧ s.preempted m = true) ∧
    (∀ claimed ∈ [false, true], ∀ life ∈ [Life.dormant, .live], let m := msgOf (.spawn 3 Thread.reset claimed) 0 0 0
      let s := spawnState m life
      s.arrived? 7 = some m ∧ (s.landsAt m).isSome = true) ∧
    (∀ life ∈ [Life.dormant, .live], let m := msgOf (.claim 3) 0 0 0
      let s := spawnState m life
      s.arrived? 7 = some m ∧ (s.landsAt m).isSome = true ∧ ((s.dropMsg m.id).traceIn m.home m).spawnFree m.home 3 = decide (life = .dormant)) ∧
    (∀ won ∈ [false, true], let m := msgOf (.claimed won) 0 0 0
      let s := spawnState m .live
      s.arrived? 7 = some m ∧ (s.landsAt m).isSome = true) ∧
    (let m := msgOf (.msend 3 5 6) 0 0 0
     let s := meshState .ratom [m]
     s.arrived? 7 = some m ∧ s.preempted m = false ∧ (s.ridge? 0).map (·.asid) = some 0 ∧ ((s.core 0).mailQ 3).length < 16 ∧
     16 ≤ (((s.modCore 0 (fun k => { k with mail := k.mail.set 3 (List.replicate 16 ⟨0, 0, 0, 0⟩) })).core 0).mailQ 3).length) := by
  refine ⟨?_, ?_, ⟨rfl, rfl⟩, ⟨rfl, rfl, rfl, rfl, rfl, fun n => by cases Config.hostNak n <;> simp⟩, ?_,
    ⟨rfl, rfl, rfl, rfl, rfl, rfl, by decide⟩, ⟨rfl, rfl⟩, ?_, ?_, ?_, rfl, rfl, rfl, by decide, by decide⟩
  · intro x hx
    simp only [List.mem_cons, List.not_mem_nil, or_false] at hx
    rcases hx with rfl | rfl | rfl | rfl <;> exact ⟨rfl, rfl⟩
  · intro k hk
    simp only [List.mem_cons, List.not_mem_nil, or_false] at hk
    rcases hk with rfl | rfl | rfl <;> exact ⟨rfl, rfl, by decide⟩
  · intro r hr
    simp only [List.mem_cons, List.not_mem_nil, or_false] at hr
    rcases hr with rfl | rfl <;> rfl
  · intro b hb l hl
    simp only [List.mem_cons, List.not_mem_nil, or_false] at hb hl
    rcases hb with rfl | rfl <;> rcases hl with rfl | rfl <;> exact ⟨rfl, rfl⟩
  · intro l hl
    simp only [List.mem_cons, List.not_mem_nil, or_false] at hl
    rcases hl with rfl | rfl <;> exact ⟨rfl, rfl, rfl⟩
  · intro b hb
    simp only [List.mem_cons, List.not_mem_nil, or_false] at hb
    rcases hb with rfl | rfl <;> exact ⟨rfl, rfl⟩

/-- Change the instance. -/
def withRidge (f : Ridge → Ridge) (s : State) : State := { s with ridges := s.ridges.map f }
/-- A message in core 0's input buffer. -/
def homeState (m : Msg) (f : Ridge → Ridge := id) (g : Option BankRef := none) : State :=
  testState 0 vals id (fun k => { k with inbuf := [m], granted := g }) (fun s => withRidge f { s with asids := [testAsid] })
/-- The agent's message has its turn and asks for its bank. -/
def asks (s : State) (m : Msg) : Bool :=
  s.agentMsg? 0 == some m && s.forwardTo m == none && !s.hasBeat 0 .agent && (s.core 0).beats.isEmpty && decide ((s.core 0).agentFree < s.now 0) &&
    !(s.core 0).queued .agent
/-- A page that moves from core 0's vault, the line of the message gone already. -/
def movedPage : Migration := ⟨3, 0, 0, 64 * 1024, 0, 0, 2, 0, 4, false, false⟩

/-- Each message at its beat and before it, at the last doubleword of the page and beyond; a line that has moved; a table with an entry
and without. -/
theorem test_witness_AgentOperations :
    (let m := msgOf (.rget 8) 0 0x0FFFF8 0
     let s := homeState m id (some .agent)
     s.agentMsg? 0 = some m ∧ s.forwardTo m = none ∧ s.hasBeat 0 .agent = true ∧ s.homeAt m 8 true false = .ok 0 0x0FFFF8 ∧
     asks (homeState m) m = true ∧ (homeState m).atHome m 8 true false = .ok 0x0FFFF8 0 ∧ (homeState m).ownStore 0 m 0x0FFFF8 8 = false) ∧
    (let m := msgOf (.rput 8 5 false) 0 0x0FFFF8 0
     let s := homeState m id (some .agent)
     s.agentMsg? 0 = some m ∧ s.forwardTo m = none ∧ s.hasBeat 0 .agent = true ∧ s.homeAt m 8 false true = .ok 0 0x0FFFF8 ∧
     asks (homeState m) m = true ∧ (homeState m).atHome m 8 false true = .ok 0x0FFFF8 0 ∧ (homeState m).ownStore 0 m 0x0FFFF8 8 = false) ∧
    (let m := msgOf (.ratom .add 5 0) 0 0x0FFFF8 0
     let s := homeState m id (some .agent)
     s.agentMsg? 0 = some m ∧ s.forwardTo m = none ∧ s.hasBeat 0 .agent = true ∧ s.homeAt m 8 true true = .ok 0 0x0FFFF8 ∧
     s.tagged8 0 0x0FFFF8 0 = (0, false) ∧ AtomOp.new .add 0 5 0 = some 5 ∧ AtomOp.new .cas 0 5 0 = none ∧
     asks (homeState m) m = true ∧ (homeState m).atHome m 8 true true = .ok 0x0FFFF8 0 ∧ (homeState m).ownStore 0 m 0x0FFFF8 8 = false) ∧
    (let m := msgOf (.rget 8) 0 0x100000 0
     asks (homeState m) m = true ∧ ∃ code info, (homeState m).atHome m 8 true false = .fault code info) ∧
    (let m := msgOf (.rput 8 5 false) 0 0x100000 0
     asks (homeState m) m = true ∧ ∃ code info, (homeState m).atHome m 8 false true = .fault code info) ∧
    (let m := msgOf (.ratom .add 5 0) 0 0x100000 0
     asks (homeState m) m = true ∧ ∃ code info, (homeState m).atHome m 8 true true = .fault code info) ∧
    (let m : Msg := { msgOf (.rget 8) 0 0x40 0 with slot := 17 }
     let s : State := { homeState m with migrations := [movedPage] }
     s.agentMsg? 0 = some m ∧ s.forwardTo m = some 2) ∧
    (let m := msgOf (.amsend 0 9) 0 0x40 0
     let s := homeState m (fun r => { r with header := { r.header with amTable := [some 0x80] } })
     s.agentMsg? 0 = some m ∧ (s.thr 0 13).pend = [] ∧ s.translate 0 m.virt 0x40 1 false false = .ok 0 0x40 ∧
     (s.ridge? 0).map (fun r => (r.asid, (r.header.amTable[0]?).getD none)) = some (0, some 0x80) ∧
     ((homeState m).ridge? 0).map (fun r => (r.header.amTable[0]?).getD none) = some none) ∧
    (∀ k ∈ [MsgKind.rget 8, .rput 8 5 false, .ratom .add 5 0, .amsend 0 9], ∀ g ∈ [none, some BankRef.agent], let m := msgOf k 0 0x0FFFF8 0
     (homeState m id g).behindRefused m = false ∧ ((homeState m id g).core 0).halfDone .agent = false) := by
  refine ⟨⟨rfl, rfl, rfl, by decide +kernel, rfl, by decide +kernel, rfl⟩, ⟨rfl, rfl, rfl, by decide +kernel, rfl, by decide +kernel, rfl⟩, ⟨rfl, rfl, rfl, by decide +kernel, rfl, rfl, rfl, rfl, by decide +kernel, rfl⟩,
    ⟨rfl, _, _, rfl⟩, ⟨rfl, _, _, rfl⟩, ⟨rfl, _, _, rfl⟩, ⟨rfl, by decide +kernel⟩, ⟨rfl, rfl, by decide +kernel, rfl, rfl⟩, ?_⟩
  intro k hk g hg
  simp only [List.mem_cons, List.not_mem_nil, or_false] at hk hg
  rcases hk with rfl | rfl | rfl | rfl <;> rcases hg with rfl | rfl <;> decide +kernel

/-- A tagged instance with a pool of nine tags, tag 9 open on core 0. -/
def taggedState (g : List Word) (tf : Thread → Thread := id) (kf : Core → Core := id) : State :=
  testState 0 g tf (fun k => kf { k with tags := [(9, .opened)] })
    (withRidge (fun r => { r with pool := 9, header := { r.header with tagged := true } }))

/-- The form of LDX with the address in the register given and the tag in g1. -/
def tagForm (a : BitVec 6) : Form :=
  { fRR 9 a 1 with la := some 0, takes := true, gives := true, slots := 0xAFFF, touch := (fun xs => if isGlobal (arg xs 0) then [] else [(arg xs 0, 8)]), rd := true }

/-- The highest tag of the pool, and one beyond it; a kernel without tags. -/
theorem test_witness_TagInstructions :
    (let s := taggedState [9, 10, 0x40, farWord, core1]
     Opens s { srcs := [], dsts := [.g 9], la := some 0, ends := true, takes := true, gives := true, slots := 0x8FFF } s [] ∧
     s.tagged 0 = true ∧ s.poolOf 0 ≠ 0 ∧
     Opens s { srcs := [.g 1], dsts := [], la := some 0, ordering := true, ends := true, gives := true, takes := true, slots := 0x8FFF } s
       [Val.of 9] ∧ s.tagCheck3 0 9 false = none ∧ s.writesDone 0 0 4 = true ∧
     s.tagCheck3 0 10 false = some (det cCtxForm 3) ∧ s.tagCheck3 0 1 false = some (det cCtxRetired 2) ∧
     Opens s { srcs := [.g 1], dsts := [], ordering := true, slots := 0x8FFF } s [Val.of 9] ∧
     (let f : Form := tagForm 3
      Opens s f s [Val.of 0x40, Val.of 9] ∧ s.badTag 0 9 true = false ∧ isGlobal 0x40 = false ∧ s.checkAt 0 0x40 8 true false = none) ∧
     (let f : Form := tagForm 5
      Opens s f s [Val.of core1, Val.of 9] ∧ isGlobal core1 = true ∧ s.badHome 0 core1 8 = none ∧ core1.toNat % 8 = 0 ∧ gaHome core1 < 1024 ∧
      s.thisDev core1 = true ∧ (s.ridgeCores 0).contains 1 = false ∧
      ((withRidge (fun r => { r with w := 2 }) s).ridgeCores 0).contains 1 = true)) ∧
    (testState 0 vals).tagged 0 = false ∧
    (∀ ea ∈ [(0x40 : Word), 0x10000000000], let p := pendOf (.ldx 0 ea 9) [.g 9]
      let s := taggedState vals (pending p.kind p.dst)
      DuePend s 0 0 3 p ∧ p.gotOf 0 = none ∧ s.ldxWaiting 0 0 9 = false ∧ (s.core 0).queued (.pend 0 3 [0]) = false ∧
      inVault ea.toNat = decide (ea = 0x40)) ∧
    (let p : Pend := { pendOf (.ldx 0 0x40 9) [.g 9] with got := [(0, 5, false)] }
     DuePend (taggedState vals (fun t => { t with pend := [p] })) 0 0 3 p ∧ p.gotOf 0 = some (5, false)) ∧
    (taggedState vals).ldxWaiting 0 1 9 = true ∧
    (let p := pendOf (.ldxRemote 0 core1 9) [.g 9]
     let m := msgOf (.ldx 0 9) 1 0 core1
     let s := (dueState p.kind p.dst).modCore 1 (fun k => { k with inbuf := [m], cycle := 16 })
     DuePend s 0 0 3 p ∧ s.agentMsg? (gaHome core1) = some m ∧ m.core = 0 ∧ m.slot = 0 ∧ m.pend = 3) := by
  refine ⟨⟨opens_of rfl rfl, rfl, by decide, opens_of rfl rfl, rfl, rfl, rfl, rfl, opens_of rfl rfl, ⟨opens_of rfl rfl, rfl, rfl, rfl⟩,
    opens_of rfl rfl, rfl, rfl, by decide, by decide, rfl, rfl, rfl⟩, rfl, ?_, ⟨⟨rfl, by decide⟩, rfl⟩, rfl, ⟨rfl, by decide⟩, rfl, rfl, rfl, rfl⟩
  intro ea he
  simp only [List.mem_cons, List.not_mem_nil, or_false] at he
  rcases he with rfl | rfl <;> exact ⟨⟨rfl, by decide⟩, rfl, rfl, rfl, rfl⟩
/-- A cell of tag 9 for the vault's first line. -/
def aCell (s : State) : Cell := { line := 0, domain := s.domain 0, tag := 9, isSealed := false, mask := 1, k := 0, bytes := 5, poison := false }
/-- A tagged page whose directory is full, counted since 2^20 stores, and a write that waits for it. -/
def fullState (m : Msg) : State :=
  testState 0 vals id (fun k => { k with
      fullCount := 2 ^ 20, tags := [(9, .opened)], cells := List.replicate 16384 { aCell State.reset with line := 1 } })
    (fun s => withRidge (fun r => { r with pool := 9, header := { r.header with tagged := true } }) { s with
      msgs := [m], asids := [{ testAsid with pages := [⟨0, 0x100000, 0, 0, true, true, true, true⟩] }] })
theorem test_witness_TagEvents :
    (let s (m : MsgKind) (f : Ridge → Ridge) := withRidge f (meshState .ratom [msgOf m 0 0 0])
     ((s .ctxalloc (fun r => { r with freeTags := [1, 2] })).arrived? 7).isSome ∧
     (((s .ctxalloc (fun r => { r with freeTags := [1, 2] })).dropMsg 7).ridge? 0).map (·.freeTags) = some [1, 2] ∧
     (((s .ctxalloc (fun r => { r with freeTags := [] })).dropMsg 7).ridge? 0).map (·.freeTags) = some [] ∧
     (((s (.ctxretire 2 false) (fun r => { r with freeTags := [1, 2] })).dropMsg 7).ridge? 0).map (fun r => r.freeTags.contains 2) = some true ∧
     (((s (.retired 2) (fun r => { r with retiring := [⟨2, 1, 0, 0, 3⟩] })).dropMsg 7).ridge? 0).map
       (fun r => (r.retiring.find? (fun (x : Retiring) => x.tag == 2), r.waiting)) = some (some ⟨2, 1, 0, 0, 3⟩, [])) ∧
    (∀ k ∈ [MsgKind.seal 9, .retire 9, .merge 9], (homeState (msgOf k 0 0 0)).agentMsg? 0 = some (msgOf k 0 0 0) ∧
      (homeState (msgOf k 0 0 0)).tagBusy 0 9 = false) ∧
    (∀ g ∈ [none, some BankRef.agent], let m := msgOf (.merge 9) 0 0 0
      let s := (homeState m id g).modCore 0 (fun k => { k with cells := [aCell (homeState m id g)] })
      s.nextMerge 0 9 = some (aCell (homeState m id g)) ∧ s.hasBeat 0 .agent = g.isSome ∧ (s.core 0).agentFree < s.now 0 ∧
      (s.core 0).queued .agent = false ∧ (homeState m).nextMerge 0 9 = none) ∧
    ((homeState (msgOf (.seal 9) 0 0 0)).core 0).tagState 9 = .free ∧ ((taggedState vals).core 0).tagState 9 ≠ .free ∧
    (let m : Msg := { msgOf (.rput 8 5 false) 0 0 0 with refused := true, retry := 2, tag := 9 }
     let s := fullState m
     2 ^ 20 ≤ (s.core 0).fullCount ∧ s.msgs = [m] ∧ s.waitsEntry 0 m = true) ∧
    ((testState 0 vals).core 0).fullCount < 2 ^ 20 ∧
    (let s := testState 0 [5, 0] id id (fun s => { s with asids := [{ testAsid with gfrn := 5 }] })
     Opens s { fR 9 1 with ordering := true, takes := true, gives := true, slots := 0x9FFF } s [Val.of 5] ∧ s.writesDone 0 0 7 = true ∧
     Opens s { srcs := [], dsts := [.g 9], takes := true, slots := 0xBFFF } s [] ∧
     Opens s { fR 9 1 with takes := true, slots := 0x9FFF } s [Val.of 5] ∧ (s.gfrnOf 0) = 5) ∧
    (let s := testState 0 vals id id (fun s => { s with rtime := 256 })
     s.rtime % 256 = 0 ∧ s.saddleAt ≠ s.rtime) := by
  refine ⟨⟨rfl, rfl, rfl, rfl, rfl⟩, ?_, ?_, rfl, by decide, ⟨by decide, rfl, by decide +kernel⟩, by decide,
    ⟨opens_of rfl rfl, rfl, opens_of rfl rfl, opens_of rfl rfl, rfl⟩, rfl, by decide⟩
  intro k hk
  simp only [List.mem_cons, List.not_mem_nil, or_false] at hk
  rcases hk with rfl | rfl | rfl <;> exact ⟨rfl, rfl⟩
  intro g hg
  simp only [List.mem_cons, List.not_mem_nil, or_false] at hg
  rcases hg with rfl | rfl <;> exact ⟨rfl, rfl, by decide, rfl, rfl⟩

/-- Ring 0 of core 0: two slots of 2 KiB, the tile at the pop pointer in a state. -/
def ringState (g : List Word) (st : SlotState) : State :=
  testState 0 g id (fun k => { k with rings := k.rings.set 0 ⟨0x10000000000, 32, 2, 0, 0, [{ Tile.reset with state := st }, Tile.reset]⟩ })

/-- A tile that lies outside its tensor altogether, into an empty slot; a ready tile. -/
theorem test_witness_TileInstructions :
    (let s := ringState [0, 0] .empty
     Opens s { srcs := [.g 1, .g 2], dsts := [], la := some 0, takes := true, inHandler := false } s [Val.of 0, Val.of 0] ∧
     s.ringCheck 0 0 = none ∧ tileBytes false 1 ≤ ((s.core 0).ring 0).size * 64 ∧ s.compCheck 0 0 = none ∧
     s.elemCheck 0 Desc.reset 1 true false (Desc.reset.rows 1 32 64 0 0).flatten = none ∧
     (((s.core 0).ring 0).tile ((s.core 0).ring 0).fp).state = .empty) ∧
    (let s := ringState [0, 0] .ready
     let e := ((s.core 0).ring 0).tile ((s.core 0).ring 0).pp
     Opens s { srcs := [.g 1, .g 2], dsts := [], la := some 0, gives := true, inHandler := false } s [Val.of 0, Val.of 0] ∧
     e.state = .ready ∧ fmtBytes e.fmt = 1 ∧ e.poison = false ∧
     s.elemCheck 0 Desc.reset 1 false true (Desc.reset.rows 1 32 64 0 0).flatten = none) ∧
    Opens (testState 0 vals) { srcs := [.g 1], dsts := [] } (testState 0 vals) [Val.of 5] :=
  ⟨⟨opens_of rfl rfl, rfl, by decide, rfl, rfl, rfl⟩, ⟨opens_of rfl rfl, rfl, rfl, rfl, rfl⟩, opens_of rfl rfl⟩

/-- A transfer of one 64-byte piece in the scratchpad, and one with nothing left. -/
def aTransfer (ps : List Piece) (store : Bool) : Xfer :=
  ⟨0, 3, 0, 0, store, ps, (0, 1, []), none, 0x3F800000, 0, 2048, 0, 0, 0, [], false⟩

/-- A ring that ends with the declared scratchpad and one that goes beyond it; rings 15 of 16, slots 15; the transfers. -/
theorem test_witness_RingsAndTransfers :
    (let s := testState 0 [0x10000000000, 0x100020, 0x10000000040, 15]
     Opens s { srcs := [.g 1, .g 2], dsts := [], gives := true } s [Val.of 0x10000000000, Val.of 0x100020] ∧
     ringsOf s 0 = 16 ∧ inScratch 0x10000000000 = true ∧ (0x100020#64) &&& 0x1F01FF#64 = 0x100020#64 ∧
     (0x10000000000 + 32 * 16 * 64 : Nat) ≤ Config.scratchBase + (s.core 0).scratch ∧ (s.core 0).ringBusy 15 = false ∧
     Config.scratchBase + (s.core 0).scratch < 0x10000000040 + 32 * 16 * 64 ∧
     Opens s { srcs := [], dsts := [.g 9], takes := true } s [] ∧ Opens s { srcs := [.g 4], dsts := [.g 9], takes := true } s [Val.of 15]) ∧
    (∀ store ∈ [true, false], ∀ g ∈ [none, some (BankRef.xfer 3)],
      let p : Piece := ⟨[(0x40, 0, 1)]⟩
      let x := aTransfer [p] store
      let s := testState 0 vals id (fun k => { k with xfers := [x], granted := g })
      (s.core 0).xfers = [x] ∧ x.posting = false ∧ x.pad.2.2 = [] ∧ x.pieces = [p] ∧ inVault p.at' = true ∧
      s.hasBeat 0 (.xfer 3) = g.isSome) ∧
    (let x := { aTransfer [] false with scaleAt := some 0x10000000000 }
     x.pieces = [] ∧ x.pad.2.2 = [] ∧ x.due ≤ (testState 0 vals).now 0 ∧ inVault (0x10000000000 : Word).toNat = false) ∧
    (∀ store ∈ [true, false], let p := pendOf (.tile 0 0 store) []
      let s := testState 0 vals (pending p.kind p.dst) (fun k => { k with xfers := [aTransfer [] store] })
      DuePend s 0 0 3 p ∧ s.xferDone 0 3 = some (aTransfer [] store)) := by
  refine ⟨⟨opens_of rfl rfl, rfl, rfl, by decide, by decide, rfl, by decide, opens_of rfl rfl, opens_of rfl rfl⟩, ?_, ⟨rfl, rfl, by decide, rfl⟩, ?_⟩
  · intro st hs g hg
    simp only [List.mem_cons, List.not_mem_nil, or_false] at hs hg
    rcases hs with rfl | rfl <;> rcases hg with rfl | rfl <;> exact ⟨rfl, rfl, rfl, rfl, rfl, rfl⟩
  intro st hs
  simp only [List.mem_cons, List.not_mem_nil, or_false] at hs
  rcases hs with rfl | rfl <;> exact ⟨⟨rfl, by decide⟩, rfl⟩

/-! ### Engine, predicates, bit streams -/

/-- Rings 0 and 1 of core 0 with a ready tile of each shape in a format; the scratchpad declared. -/
def engineState (g : List Word) (fmt : Nat) (kf : Core → Core := id) : State :=
  testState 0 g id (fun k => kf { k with rings := (k.rings.set 0 ⟨0x10000000000, 32, 1, 0, 0, [{ Tile.reset with state := .ready, fmt := fmt }]⟩).set 1 ⟨0x10000000800, 32, 1, 0, 0, [{ Tile.reset with state := .ready, fmt := fmt, shapeB := true }]⟩ })

/-- Tiles of one format and of formats the engine does not take; an image that ends with the scratchpad; entries 127 and beyond. -/
theorem test_witness_EngineInstructions :
    (let s := engineState vals 0
     Opens s { srcs := [], dsts := [], la := some 0, slots := 0x7FFF, inHandler := false } s [] ∧ s.isPair 0 0 = false ∧ s.mmaRings 0 0 1 = none ∧
     s.poisoned 0 0x10000000000 2048 = false ∧ s.poisoned 0 0x10000000800 4096 = false ∧
     mmaTiles (((s.core 0).ring 0).tile 0) (((s.core 0).ring 1).tile 0) = none ∧ ((s.core 0).acc 7).poison = false ∧
     mmaTiles (((engineState vals 4).core 0 |>.ring 0).tile 0) (((engineState vals 4).core 0 |>.ring 1).tile 0) = some (det cMatrixForm 2)) ∧
    (let s := engineState [0x10000006000] 0
     let f : Form := { srcs := [.g 1], dsts := [], la := some 0, slots := 0x7FFF, inHandler := false, touch := fun xs => [(arg xs 0, 8192)] }
     Opens s { f with rd := true } s [Val.of 0x10000006000] ∧ Opens s { f with wr := true } s [Val.of 0x10000006000] ∧
     s.imageCheck 0 0 7 0x10000006000 = none ∧ ((s.core 0).acc 7).open? 0 = true ∧ (s.core 0).waiting < 4) ∧
    (let s := engineState [0x7F, 0x17F, 0x80] 0
     let f (a : BitVec 6) : Form := { srcs := [.g a], dsts := [], la := some 0, inHandler := false, slots := 0x0FFF }
     Opens s (f 1) s [Val.of 0x7F] ∧ (0x7F#64) &&& 0x77F#64 = 0x7F#64 ∧ (me s).vmq.length + (me s).vmqReserved + 1 ≤ 8 ∧
     Opens s (f 2) s [Val.of 0x17F] ∧ 128 < 0x17F % 128 + (0x17F / 256 % 8 + 1) ∧
     Opens s (f 3) s [Val.of 0x80] ∧ (0x80#64) &&& 0x77F#64 ≠ 0x80#64) :=
  ⟨⟨opens_of rfl rfl, rfl, rfl, rfl, rfl, rfl, rfl, rfl⟩, ⟨opens_of rfl rfl, opens_of rfl rfl, rfl, rfl, by decide⟩,
    opens_of rfl rfl, by decide, by decide, opens_of rfl rfl, by decide, opens_of rfl rfl, by decide⟩

/-- A started command of a kind that is over. -/
def overCmd (kind : Nat) : EngCmd := { cmdOf 0 3 kind 7 with addr := 0x10000000000, count := 1, started := true, moved := 128, ringB := 1 }
/-- The engine with one command. -/
def withCmd (e : EngCmd) : State :=
  testState 0 vals (pending (.engine e.kind 7) []) (fun k => { k with engine := [e] })

/-- An unlocked and a locked accumulator; mxcfg 1 and 2; a waiting command of each kind with its unit free, one whose accumulator is
poisoned and one that is blocked; a finished one of each kind; an image with a word still to be written. -/
theorem test_witness_EngineEvents :
    (let s := testState 0 [1, 2]
     Opens s { srcs := [], dsts := [], slots := 0x7FFF } s [] ∧ s.isPair 0 0 = false ∧ ((s.core 0).acc 7).locked = false ∧
     ((s.core 0).acc 7).open? 0 = true ∧ Opens s { srcs := [], dsts := [.g 9], takes := true, slots := 0x7FFF } s [] ∧
     Opens s { srcs := [.g 1], dsts := [], slots := 0x7FFF } s [Val.of 1] ∧ Opens s { srcs := [.g 2], dsts := [], slots := 0x7FFF } s [Val.of 2]) ∧
    (let s := testState 0 [] id (fun k => { k with accs := k.accs.set 7 ⟨0, true, 1, none, false⟩ })
     Opens s { srcs := [], dsts := [], slots := 0x7FFF } s [] ∧ ((s.core 0).acc 7).locked = true) ∧
    (∀ kind ∈ [0, 1, 2, 3], ∀ po ∈ [false, true], let e := { cmdOf 0 3 kind 7 with count := 1 }
      let s := (withCmd e).modAcc 0 7 (fun a => { a with poison := po })
      (s.core 0).engine.find? (fun (e : EngCmd) => !e.started) = some e ∧ (s.core 0).engine.any (fun (x : EngCmd) => x.blocks e) = false ∧
      e.follows = false ∧ ((s.core 0).acc e.acc).poison = po ∧ s.isPair 0 e.slot = false ∧
      (s.engineDone 0 e).pend? 0 e.slot e.id = some (pendOf (.engine kind 7) [])) ∧
    (let e := { cmdOf 0 4 2 7 with count := 1 }
     let s := testState 0 [] id (fun k => { k with engine := [overCmd 0, e] })
     (s.core 0).engine.find? (fun (e : EngCmd) => !e.started) = some e ∧ (s.core 0).engine.any (fun (x : EngCmd) => x.blocks e) = true) ∧
    (let s := withCmd (overCmd 0)
     let e := overCmd 0
     let s0 := (s.senseTile 0 e.ringA e.slotA 2048).senseTile 0 e.ringB e.slotB 4096
     DuePend s 0 0 3 (pendOf (.engine 0 7) []) ∧ s.engineOver 0 3 true = some e ∧ DuePend s0 0 0 3 (pendOf (.engine 0 7) []) ∧
     s0.tilePoisoned 0 e.ringA e.slotA 2048 = false ∧ s0.tilePoisoned 0 e.ringB e.slotB 4096 = false) ∧
    (∀ kind ∈ [1, 2, 3], let s := withCmd (overCmd kind)
      DuePend s 0 0 3 (pendOf (.engine kind 7) []) ∧ s.engineOver 0 3 false = some (overCmd kind) ∧ s.cmd? 0 3 = some (overCmd kind) ∧
      s.isPair 0 0 = false ∧ (overCmd kind).moved = 128 ∧ (overCmd kind).solo = false) ∧
    (let e := { overCmd 2 with moved := 127 }
     (withCmd e).cmd? 0 3 = some e ∧ e.started = true ∧ e.follows = false ∧ e.moved < 128 ∧ (withCmd e).isPair 0 e.slot = false ∧
     (withCmd e).portFree 0 e (e.addr.toNat + 64 * e.moved) 64 = true) := by
  refine ⟨⟨opens_of rfl rfl, rfl, rfl, rfl, opens_of rfl rfl, opens_of rfl rfl, opens_of rfl rfl⟩, ⟨opens_of rfl rfl, rfl⟩, ?_, ⟨rfl, rfl⟩,
    ⟨⟨rfl, by decide⟩, rfl, ⟨rfl, by decide⟩, rfl, rfl⟩, ?_, rfl, rfl, rfl, by decide, rfl, rfl⟩
  · intro k hk po hp
    simp only [List.mem_cons, List.not_mem_nil, or_false] at hk hp
    rcases hk with rfl | rfl | rfl | rfl <;> rcases hp with rfl | rfl <;> exact ⟨rfl, rfl, rfl, rfl, rfl, rfl⟩
  · intro k hk
    simp only [List.mem_cons, List.not_mem_nil, or_false] at hk
    rcases hk with rfl | rfl | rfl <;> exact ⟨⟨rfl, by decide⟩, rfl, rfl, rfl, rfl, rfl⟩

/-- The coordinates of a predicate read from v1 on, and the mask. -/
def coordVals (p : Pred) (first : Vec) : List Val :=
  (List.range (p.points * p.coords)).map (fun j => ⟨if j = 0 then first else BitVec.ofNat 512 (j + 1), false⟩) ++ [⟨0xFFFF, false⟩]
/-- The state with v1. -/
def coordState (first : Vec) : State := testState 0 [45, 48] (fun t => { t with v := t.v.set 1 ⟨first, .full, false⟩ })

/-- Each predicate with finite coordinates and with an infinity; the perturbing form at the last place of its index vectors;
gpcfg at its bounds. -/
theorem test_witness_PredicateInstructions :
    (∀ p ∈ [Pred.go2d, .go3d, .ginc, .gins, .gsegx], ∀ first ∈ [(1 : Vec), 0x7FF0000000000000],
      let s := coordState first
      Opens s (predicateForm p 9 1 0 0 0 0) s (coordVals p first) ∧ (s.core 0).contexts < 4 ∧
      (geomInfo ((List.range (p.points * p.coords)).map (fun j => argV (coordVals p first) j)) 0xFFFF).isSome = decide (first ≠ 1)) ∧
    (let s := testState 0 [45] (fun t => { t with gpcfg := 45 })
     45 + Pred.go2d.points ≤ 48 ∧ bitsN (me s).gpcfg 5 0 = 45 ∧
     (Opens s (predicateForm .go2d 9 1 0 1 0 45) s (((List.range 6).map (fun (j : Nat) => (⟨BitVec.ofNat 512 (j + 1), false⟩ : Val))) ++
        [⟨45, false⟩, ⟨46, false⟩, ⟨47, false⟩, ⟨0xFFFF, false⟩]))) ∧
    (let p := pendOf (.predicate 3 5) [.v 9]
     DuePend (dueState p.kind p.dst) 0 0 3 p) ∧
    (let s := testState 0 [0x12F, 0x30, 0x40]
     Opens s { srcs := [.g 1], dsts := [] } s [Val.of 0x12F] ∧ (0x12F#64) &&& 0x13F#64 = 0x12F#64 ∧ 0x12F % 64 < 48 ∧
     Opens s { srcs := [.g 2], dsts := [] } s [Val.of 0x30] ∧ 48 ≤ 0x30 % 64 ∧
     Opens s { srcs := [.g 3], dsts := [] } s [Val.of 0x40] ∧ (0x40#64) &&& 0x13F#64 ≠ 0x40#64) := by
  refine ⟨?_, ⟨by decide, rfl, opens_of rfl rfl⟩, ⟨rfl, by decide⟩, opens_of rfl rfl, by decide, by decide, opens_of rfl rfl, by decide, opens_of rfl rfl, by decide⟩
  intro p hp first hf
  simp only [List.mem_cons, List.not_mem_nil, or_false] at hp hf
  rcases hf with rfl | rfl <;> rcases hp with rfl | rfl | rfl | rfl | rfl <;> exact ⟨opens_of rfl rfl, by decide, rfl⟩

/-- Slot 15 with a bit buffer. -/
def bitState (g : List Word) (b : BitBuf) : State := testState 15 g (fun t => { t with bb := b })
/-- A window of n valid bits at the start of a stream of 256. -/
def window (write : Bool) (n : Nat) : BitBuf :=
  { BitBuf.reset with valid := n, fin := 256, write := write, rp := if write then 0 else 64, win := 0x5A }

/-- An empty stream and one of the whole window; all the bits left and one more; a full window; alignment at a byte and inside. -/
theorem test_witness_BitBuffer :
    (let two (a b : BitVec 6) : Form := { srcs := [.g a, .g b], dsts := [], slots := 0x8000 }
     let s := bitState [64, 0x800000] BitBuf.reset
     Opens s (two 1 1) s [Val.of 64, Val.of 64] ∧ Opens s (two 1 2) s [Val.of 64, Val.of 0x800000] ∧ s.streamBusy 0 = false ∧
     (s.core 0).check 8 (0x100000 - 8) 0 true false false = none ∧ (s.core 0).check 8 (0x100000 - 8) 0 false true false = none ∧
     (s.bb 0).refill = none ∧ (s.bb 0).spills = false) ∧
    (let s := bitState [64, 0] (window false 64)
     let one : Form := { srcs := [.g 1], dsts := [], slots := 0x8000 }
     s.streamBusy 0 = false ∧ Opens s { fR 9 1 with slots := 0x8000 } s [Val.of 64] ∧ Opens s one s [Val.of 64] ∧
     (64 : Nat) ≤ (s.bb 0).valid ∧ (64 : Nat) ≤ (s.bb 0).left ∧ (s.bb 0).write = false ∧ (s.bb 0).hot = false ∧ (s.bb 0).poison = false ∧
     ({ window false 8 with fin := 64 } : BitBuf).left < 64 ∧ (window false 8).pos % 8 = 0) ∧
    (let s := bitState [64, 64] (window true 63)
     Opens s { srcs := [.g 1, .g 2], dsts := [], slots := 0x8000 } s [Val.of 64, Val.of 64] ∧
     (s.bb 0).rp + (s.bb 0).valid + 64 ≤ (s.bb 0).fin ∧ (s.bb 0).valid + 64 ≤ 128 ∧
     Opens s { srcs := [], dsts := [.g 9], slots := 0x8000 } s [] ∧ (s.bb 0).valid + (8 - (s.bb 0).pos % 8) % 8 ≤ 128) ∧
    (let s := bitState [] { window false 64 with rp := 0x10000000000 * 8, fin := 0x10000000000 * 8 + 1 }
     (s.bb 0).write = false ∧ (s.bb 0).valid ≤ 64 ∧ (s.bb 0).rp < (s.bb 0).fin ∧ (s.bb 0).refill = none ∧ (s.bb 0).hot = false ∧
     (s.thr 0 15).pend.any (fun (p : Pend) => p.kind.isRead || p.kind.isAcquire) = false ∧ inVault ((s.bb 0).rp / 64 * 8) = false ∧
     (s.thr 0 15).ldec.lanes = []) ∧
    (∀ th ∈ [0, 3], let s := testState 15 [] (fun t => { t with bb := window false 64 }) (fun k => { k with therm := th })
      (s.bb 0).rp < (s.bb 0).fin ∧ inVault ((s.bb 0).rp / 64 * 8) = true ∧ (s.core 0).therm = th) ∧
    (let s := testState 15 [] (fun t => { t with bb := { window false 0 with refill := some ⟨none, 0, false⟩ } })
       (fun k => { k with granted := some (.refill none) })
     (s.bb 0).refill = some ⟨none, 0, false⟩ ∧ s.hasBeat 0 (.refill none) = true) ∧
    (let s := bitState [] { window false 0 with refill := some ⟨some 31, 5, false⟩ }
     (s.bb 0).refill = some ⟨some 31, 5, false⟩ ∧ 31 ≤ s.now 0) ∧
    (let s := bitState [] (window true 64)
     (s.bb 0).write = true ∧ 64 ≤ (s.bb 0).valid ∧ (s.thr 0 15).psqFull = false ∧ s.spillHeld 0 = false) := by
  refine ⟨⟨opens_of rfl rfl, opens_of rfl rfl, rfl, rfl, rfl, rfl, rfl⟩,
    ⟨rfl, opens_of rfl rfl, opens_of rfl rfl, by decide, by decide, rfl, rfl, rfl, by decide, rfl⟩,
    ⟨opens_of rfl rfl, by decide, by decide, opens_of rfl rfl, by decide⟩, ⟨rfl, by decide, by decide, rfl, rfl, rfl, rfl, rfl⟩, ?_,
    ⟨rfl, rfl⟩, ⟨rfl, by decide⟩, rfl, by decide, rfl, rfl⟩
  intro th ht
  simp only [List.mem_cons, List.not_mem_nil, or_false] at ht
  rcases ht with rfl | rfl <;> exact ⟨by decide, rfl, rfl⟩

/-! ### Streams, threads, queues, copies -/

/-- A table word of width 1 at the start of the scratchpad. -/
def tableWord : Word := 0x1000010000000000
/-- Slot 15 of core 0 with one pending instruction and a bit buffer, the table above holding two codes of one bit, and a word
after it. -/
def streamState (g : List Word) (ps : List Pend) (b : BitBuf) (ls : List Lane := []) : State :=
  testState 15 g (fun t => { t with pend := ps, bb := b, ldec := ⟨ls⟩ }) id (fun s => s.setBytes 0 0x10000000000 [0, 0x10, 1, 0x10, 0, 0, 0, 0, 5])
/-- A lane with one symbol decoded and one to come. -/
def aLane : Lane := ⟨tableWord, window false 8, 1, [7], none⟩

/-- The last symbol place of the window, one symbol and none left; the last word, an empty source. -/
theorem test_witness_Streams :
    (let f (srcs : List Opnd) : Form := { srcs := srcs, dsts := [.g 9], la := some 0, slots := 0x8000 }
     let s := streamState [tableWord, 0x00010000000FFFFE, 0x00000000000FFFF0, 0x00020000000FFFFC] [] (window false 64) [aLane]
     Opens s (f [.g 1, .g 2]) s [Val.of tableWord, Val.of 0x00010000000FFFFE] ∧ (s.tableCheck 0 tableWord).isNone ∧
     outBad 0x00010000000FFFFE = false ∧ (s.bb 0).write = false ∧ (s.outCheck 0 0x00010000000FFFFE).isNone ∧ s.streamBusy 0 = false ∧
     (streamState [] [pendOf (.tdec tableWord 0x00010000000FFFFE 0 []) [.g 9]] (window false 64)).streamBusy 0 = true ∧
     Opens (streamState [tableWord, 0, 0xFFFF0] [] BitBuf.reset) (f [.g 1, .g 3]) (streamState [tableWord, 0, 0xFFFF0] [] BitBuf.reset)
       [Val.of tableWord, Val.of 0xFFFF0] ∧
     (0xFFFF0#64) &&& 0x000703FFFFFFFFFF#64 = 0xFFFF0#64 ∧ outOff 0xFFFF0 % 16 = 0 ∧
     (s.core 0).check (BitVec.ofNat 64 (outOff 0xFFFF0)) (16 * chunkCount 0xFFFF0) 0 true false false = none ∧
     (streamState [] [] BitBuf.reset |>.thr 0 15).ldec.pending = 0 ∧
     Opens s (f [.g 2]) s [Val.of 0x00010000000FFFFE] ∧ (s.thr 0 15).pend = [] ∧
     outCount 0x00010000000FFFFE ≤ (s.thr 0 15).ldec.pending ∧ Opens s (f [.g 4]) s [Val.of 0x00020000000FFFFC] ∧
     outBad 0x00020000000FFFFC = false ∧ (s.outCheck 0 0x00020000000FFFFC).isNone ∧
     (let s := streamState [tableWord, 0x00010000000FFFFE] [] BitBuf.reset
      Opens s (f [.g 2]) s [Val.of 0x00010000000FFFFE] ∧ (s.thr 0 15).pend = [] ∧ (s.outCheck 0 0x00010000000FFFFE).isNone ∧
      (s.thr 0 15).ldec.pending < outCount 0x00010000000FFFFE)) ∧
    (let s := streamState [0xFFFF8, 1, 0] [] (window true 0)
     let f (a b : BitVec 6) : Form := { srcs := [.g a, .g b], dsts := [.g 9], la := some 0, slots := 0x8000 }
     Opens s (f 1 2) s [Val.of 0xFFFF8, Val.of 1] ∧ Opens s (f 1 3) s [Val.of 0xFFFF8, Val.of 0] ∧ (s.bb 0).write = true ∧
     isGlobal 0xFFFF8 = false ∧ (s.core 0).check 0xFFFF8 8 0 true false false = none ∧ s.streamBusy 0 = false) ∧
    (let p (done : Nat) := pendOf (.tdec tableWord 0x00010000000FFFFE done []) [.g 9]
     let s (done : Nat) := streamState [] [p done] (window false 64)
     DuePend (s 1) 0 15 3 (p 1) ∧ outCount 0x00010000000FFFFE = 1 ∧ DuePend (s 0) 0 15 3 (p 0) ∧ ((s 0).bb 0).hot = false ∧
     tabW tableWord ≤ ((s 0).bb 0).valid ∧ ((s 0).bb 0).poison = false ∧ ((s 0).core 0).therm ≠ 3 ∧
     ((s 0).sense 0 (tabBase tableWord + 2 * ((s 0).bb 0).peek (tabW tableWord)) 2).tabEntry 0 tableWord (((s 0).bb 0).peek (tabW tableWord)) =
       (0x1000, false) ∧ 0x1000 / 4096 ≤ tabW tableWord ∧ 0x1000 / 4096 ≤ ((s 0).bb 0).left) ∧
    (let p := pendOf (.ldec tableWord 0xFFFF0) [.g 9]
     ((streamState [] [p] BitBuf.reset).thr 0 15).pend = [p] ∧ p.ready (BitVec.ofNat 64 (outOff 0xFFFF0)) = true ∧
     p.due ≤ (streamState [] [p] BitBuf.reset).now 0) ∧
    (let s := streamState [] [] BitBuf.reset [aLane]
     (s.thr 0 15).pend = [] ∧ (s.thr 0 15).ldec.lanes[0]? = some aLane ∧ (s.laneStep 0 aLane).2.queue = [7, 0]) ∧
    (let p (done : Nat) := pendOf (.lmerge 0x00010000000FFFFE done []) [.g 9]
     let s (done : Nat) := streamState [] [p done] BitBuf.reset [aLane]
     (∀ done ∈ [0, 1], DuePend (s done) 0 15 3 (p done) ∧ (p done).id = 3 ∧
       ((s done).thr 0 15).pend.find? (fun (q : Pend) => match q.kind with | .lmerge .. => true | _ => false) = some (p done)) ∧
     nextSym 0 ((s 0).thr 0 15).ldec.lanes = .sym 7 [{ aLane with queue := [] }]) ∧
    (let p (done : Nat) := pendOf (.zrenc 0x10000000008 1 done false 0) [.g 9]
     let s (done : Nat) := streamState [] [p done] (window true 0)
     (∀ done ∈ [0, 1], DuePend (s done) 0 15 3 (p done) ∧ ((s done).bb 0).valid < 64 ∧ ((s done).thr 0 15).psq.length ≤ 6) ∧
     inVault 0x10000000008 = false ∧ ((s 0).core 0).granted = none ∧ (5 : Word) ≠ ((s 0).bb 0).zprev ∧
     ((s 0).bb 0).rp + ((s 0).bb 0).valid + 66 ≤ ((s 0).bb 0).fin) ∧
    (∀ v ∈ [0, 5], let p : Pend := { pendOf (.zrenc 0x10000000008 1 0 false 0) [.g 9] with got := [(0, v, false)] }
      DuePend (streamState [] [p] (window true 0)) 0 15 3 p ∧ (1 : Nat) ≤ 0 + p.got.length ∧ p.gotOf 0 = some (v, false) ∧
      p.zrRun (BitVec.ofNat 64 v) (min 256 1) 0 = (1, true) ∧
      (List.range 1).any (fun i => ((p.gotOf (0 + i)).map (fun (g : Nat × Bool) => g.2)).getD false) = false) := by
  refine ⟨⟨opens_of rfl rfl, rfl, rfl, rfl, rfl, rfl, rfl, opens_of rfl rfl, by decide, by decide, rfl, rfl, opens_of rfl rfl, rfl, by decide,
      opens_of rfl rfl, rfl, rfl, opens_of rfl rfl, rfl, rfl, by decide⟩,
    ⟨opens_of rfl rfl, opens_of rfl rfl, rfl, rfl, rfl, rfl⟩,
    ⟨⟨rfl, by decide⟩, rfl, ⟨rfl, by decide⟩, rfl, by decide, rfl, by decide, rfl, by decide, by decide⟩, ⟨rfl, rfl, by decide⟩, ⟨rfl, rfl, rfl⟩,
    ⟨?_, rfl⟩, ⟨?_, rfl, rfl, by decide, by decide⟩, ?_⟩
  · intro done hd
    simp only [List.mem_cons, List.not_mem_nil, or_false] at hd
    rcases hd with rfl | rfl <;> exact ⟨⟨rfl, by decide⟩, rfl, rfl⟩
  · intro done hd
    simp only [List.mem_cons, List.not_mem_nil, or_false] at hd
    rcases hd with rfl | rfl <;> exact ⟨⟨rfl, by decide⟩, by decide, by decide⟩
  · intro v hv
    simp only [List.mem_cons, List.not_mem_nil, or_false] at hv
    rcases hv with rfl | rfl <;> exact ⟨⟨rfl, by decide⟩, by decide, rfl, rfl, rfl⟩

/-- A dormant member in slot 3 of cores 0 and 1 of a rectangle of two cores with crews of four. -/
def crewState (sl : Nat) (g : List Word) (tf : Thread → Thread := id) (kf : Core → Core := id) : State :=
  testState sl g tf kf (fun s => ((withRidge (fun r => { r with w := 2, header := { r.header with crew := 4 } }) s).modThr 1 3
    (fun t => { t with life := .dormant })))
/-- A launch queue of an ASID with room for one packet. -/
def aQueue (asid : Nat) : Queue :=
  { id := 511, asid := asid, ring := 0x40000000000, slots := 2, head := 0, tail := 1, current := none, armed := false }

/-- A run of registers that ends with g47, a member number equal to the crew; the last thread of an instance with a copy under
way; a packet in the last 128 bytes of the window. -/
theorem test_witness_ThreadControl :
    (let s := crewState 0 [64, 0x02030001, 0x00040001, 0x02030000]
     let f (a b : BitVec 6) (d : BitVec 6) : Form :=
       { fRR 0 a b with dsts := [], more := [.g d], la := some 0, ordering := true, ends := true, gives := true, slots := 0x1FFF, inHandler := false }
     Opens s (f 1 2 46) s [Val.of 64, Val.of 0x02030001] ∧ (∃ r, s.ridge? 0 = some r ∧ r.coreAt 1 0 = 1) ∧
     s.spawnCheck 0 0 46 64 0x02030001 = none ∧ s.readAll 0 0 [.g 46, .g 47] = .ok s [Val.of 0, Val.of 0] ∧
     (∀ x ∈ [none, some (1, 3, 0), some (1, 3, 1), some (1, 3, 2)],
       let s := crewState 0 [64, 0x02030001] (fun t => { t with claiming := x })
       Opens s (f 1 2 46) s [Val.of 64, Val.of 0x02030001] ∧ s.spawnCheck 0 0 46 64 0x02030001 = none ∧
       s.readAll 0 0 [.g 46, .g 47] = .ok s [Val.of 0, Val.of 0] ∧ s.holds 0 0 1 3 = decide (x = some (1, 3, 1)) ∧
       s.writesDone 0 0 (s.smallestScope 0 1) = true) ∧
     (let s := crewState 0 [64, 0x02030001] (fun t => { t with claiming := some (1, 3, 1), psq := [{ id := 3, parts := [(0x40, 8, 5)], tag := 0, due := 99 }] })
      Opens s (f 1 2 46) s [Val.of 64, Val.of 0x02030001] ∧ s.holds 0 0 1 3 = true ∧ s.writesDone 0 0 (s.smallestScope 0 1) = false) ∧
     Opens s (f 1 3 0) s [Val.of 64, Val.of 0x00040001] ∧ s.spawnCheck 0 0 0 64 0x00040001 = some (det cSpawnForm 2) ∧
     (let s := s.modThr 0 3 (fun t => { t with life := .dormant })
      Opens s (f 1 4 46) s [Val.of 64, Val.of 0x02030000] ∧ (∃ r, s.ridge? 0 = some r ∧ r.coreAt 0 0 = 0) ∧
      s.spawnCheck 0 0 46 64 0x02030000 = none ∧ s.readAll 0 0 [.g 46, .g 47] = .ok s [Val.of 0, Val.of 0] ∧ s.holds 0 0 0 3 = false ∧
      s.spawnFree 0 3 = true ∧ (s.claim 0 3).writesDone 0 0 (s.smallestScope 0 0) = true) ∧
     Opens s (f 1 4 46) s [Val.of 64, Val.of 0x02030000] ∧ s.spawnCheck 0 0 46 64 0x02030000 = none ∧ s.holds 0 0 0 3 = false ∧
     s.spawnFree 0 3 = false) ∧
    (let f : Form := { srcs := [], dsts := [], ordering := true, ends := true, gives := true, slots := 0x8FFF, inHandler := false }
     let copying := testState 0 vals id (fun k => { k with copies := [{ id := 3, slot := 0, words := [], active := true, before := 0, issued := 0, performed := 0, outstanding := 0, due := 0 }] })
     Opens (testState 0 vals) f (testState 0 vals) [] ∧ (testState 0 vals).isPair 0 0 = false ∧ (testState 0 vals).lastWaits 0 [0] = false ∧
     Opens copying f copying [] ∧ copying.lastWaits 0 [0] = true ∧
     Opens (testState 15 vals) f (testState 15 vals) [] ∧ ((testState 15 vals).ridge? 0).isSome) ∧
    (let s := testState 15 [] (fun t => { t with life := .asleep }) (fun k => { k with tq := [(5, 27)] })
     (s.thr 0 15).life = .asleep ∧ (s.core 0).tq.any (fun (x : Word × Nat) => x.2 + 4 ≤ s.now 0) = true ∧
     ((testState 15 vals).core 0).tq.any (fun (x : Word × Nat) => x.2 + 4 ≤ (testState 15 vals).now 0) = false) ∧
    Opens (testState 0 vals) { srcs := [], dsts := [.g 9], takes := true, slots := 0x0FFF } (testState 0 vals) [] ∧
    (∀ asid ∈ [0, 1], let s := testState 0 [0xFFF80, 511] id id (fun s => { s with asids := [testAsid], queues := [aQueue asid] })
     let f : Form := { srcs := [.g 1, .g 2], dsts := [.g 9], la := some 0, ordering := true, ends := true, takes := true,
                       gives := true, slots := 0x9FFF, touch := fun xs => [(arg xs 0, 128)], rd := true }
     Opens s f s [Val.of 0xFFF80, Val.of 511] ∧ (s.core 0).check 0xFFF80 128 128 true false false = none ∧
     s.queue? 511 = some (aQueue asid) ∧ s.asidOf 0 = 0 ∧ (aQueue asid).tail + s.inSlots 511 + s.launching 511 - (aQueue asid).head < (aQueue asid).slots ∧
     s.releaseReady 0 0 8 = true ∧
     (let full : State := { s with queues := [{ aQueue asid with tail := 2 }] }
      Opens full f full [Val.of 0xFFF80, Val.of 511] ∧ full.queue? 511 = some { aQueue asid with tail := 2 } ∧ full.releaseReady 0 0 8 = true ∧
      (aQueue asid).slots ≤ 2 + full.inSlots 511 + full.launching 511 - (aQueue asid).head) ∧
     (let early := s.modThr 0 0 (fun t => { t with psq := [{ id := 3, parts := [(0x40, 8, 5)], tag := 0, due := 99 }] })
      Opens early f early [Val.of 0xFFF80, Val.of 511] ∧ early.queue? 511 = some (aQueue asid) ∧ early.releaseReady 0 0 8 = false)) := by
  refine ⟨⟨opens_of rfl rfl, ⟨_, rfl, rfl⟩, rfl, rfl, ?_, ⟨opens_of rfl rfl, rfl, rfl⟩, opens_of rfl rfl, rfl,
      ⟨opens_of rfl rfl, ⟨_, rfl, rfl⟩, rfl, rfl, rfl, rfl, rfl⟩, opens_of rfl rfl, rfl, rfl, rfl⟩,
    ⟨opens_of rfl rfl, rfl, rfl, opens_of rfl rfl, rfl, opens_of rfl rfl, rfl⟩, ?_, opens_of rfl rfl, ?_⟩
  · intro x hx
    simp only [List.mem_cons, List.not_mem_nil, or_false] at hx
    rcases hx with rfl | rfl | rfl | rfl <;> exact ⟨opens_of rfl rfl, rfl, rfl, rfl, rfl⟩
  · exact ⟨rfl, by decide, rfl⟩
  · intro a ha
    simp only [List.mem_cons, List.not_mem_nil, or_false] at ha
    rcases ha with rfl | rfl <;> exact ⟨opens_of rfl rfl, rfl, rfl, rfl, by decide, rfl,
      ⟨opens_of rfl rfl, rfl, rfl, by decide⟩, opens_of rfl rfl, rfl, rfl⟩

/-- A core of a rectangle of two rows. -/
def portState (kf : Thread → Thread := id) (fs : List Flight := []) : State :=
  testState 0 vals (fun t => kf { t with life := .live }) id (fun s => withRidge (fun r => { r with h := 2 }) { s with flights := fs, rtime := 64 })
/-- A flight to port 0 of core 0, slot 0. -/
def flightOf (x : Lane2) : Flight := ⟨9, x, 0, 0, 0, 1, false, ⟨0, 1, none, 0⟩⟩
/-- The first three words of a copy of 64 bytes from the vault's start to the scratchpad's, and its completion word. -/
def copyWords : List Word := [0, 0x10000000000, 64]
def counterWord : Word := 0x4000010000000040

/-- A port with a link, with none, at the edge, with an entry; the queues with one place left and full; a request that passes
and one that does not. -/
theorem test_witness_QueueWindows :
    (let s := portState
     (∃ far fsl fp h x w, s.binding 0 0 0 = .link far fsl fp h x w true) ∧ ((s.thr 0 0).port 0).credits ≠ 0 ∧
     s.binding 0 0 1 = .edge ∧ (s.thr 0 0).life = .live) ∧
    (let s := portState (fun t => t.setPort 0 ⟨[(5, false, 16)], 0⟩)
     s.binding 0 0 0 ≠ .edge ∧ ((s.thr 0 0).port 0).credits = 0 ∧ ((s.thr 0 0).port 0).queue = [(5, false, 16)] ∧ 16 ≤ s.now 0) ∧
    (let s (n : Nat) := testState 0 [] id (fun k => { k with tq := List.replicate n (5, 12) })
     ((s 15).core 0).tq.length + unseen ((s 15).core 0).tqGone ((s 15).now 0) < 16 ∧ (s 15).releaseReady 0 0 2 = true ∧
     16 ≤ ((s 16).core 0).tq.length + unseen ((s 16).core 0).tqGone ((s 16).now 0) ∧
     ((s 1).core 0).tq = [(5, 12)] ∧ 12 + 4 ≤ (s 1).now 0) ∧
    (let s := testState 0 [] id (fun k => { k with wl := [(5, 12)] })
     (s.core 0).wl.length + unseen ((s.core 0).wlGone.map (fun g => g.2)) (s.now 0) < 4096 ∧ s.releaseReady 0 0 2 = true ∧ (s.core 0).wl = [(5, 12)] ∧ 12 + 4 ≤ s.now 0) ∧
    (let s := testState 0 [] id (fun k => { k with wl := List.replicate 4095 (5, 12), wlGone := [(5, 13)] })
     4096 ≤ (s.core 0).wl.length + unseen ((s.core 0).wlGone.map (fun g => g.2)) (s.now 0)) ∧
    (let s := testState 0 [] (fun t => { t with vmq := [(5, false, 16)], staging := [1, 2], life := .live })
     (s.thr 0 0).vmq = [(5, false, 16)] ∧ 16 ≤ s.now 0 ∧ (s.thr 0 0).staging.length < 3) ∧
    (let s := testState 0 [] (fun t => { t with staging := copyWords, life := .live })
     (s.thr 0 0).staging = [0, 0x10000000000, 64] ∧ reqWords 64 = 4 ∧ (s.thr 0 0).life = .live ∧
     (∃ f, s.checkRequest 0 [0, 0x10000000000, 64, 0] = some f) ∧ s.checkRequest 0 [0, 0x10000000000, 64, counterWord] = none ∧
     lfReg 64 = false ∧ ((s.core 0).copies.filter (fun (r : CopyReq) => !r.active)).length < 16) ∧
    (∀ x ∈ [Lane2.entry 5 true, .credit], (portState id [flightOf x]).landed? 9 = some (flightOf x)) := by
  refine ⟨⟨⟨_, _, _, _, _, _, rfl⟩, by decide, rfl, rfl⟩, ⟨by decide, rfl, rfl, by decide⟩,
    ⟨by decide, rfl, by decide, rfl, by decide⟩, ⟨by decide, rfl, rfl, by decide⟩, by decide +kernel,
    ⟨rfl, by decide, by decide⟩, ⟨rfl, rfl, rfl, ⟨_, rfl⟩, rfl, rfl, by decide⟩, ?_⟩
  intro x hx
  simp only [List.mem_cons, List.not_mem_nil, or_false] at hx
  rcases hx with rfl | rfl <;> rfl

/-- A request of 64 bytes. -/
def aCopy (src dst cmp : Word) (active : Bool) (issued : Nat) : CopyReq :=
  { id := 3, slot := 0, words := [src, dst, 64, cmp], active := active, before := 0, issued := issued, performed := issued, outstanding := 0, due := 0 }
/-- Core 0 with a request. -/
def copyState (r : CopyReq) (sf : State → State := id) : State := testState 0 vals id (fun k => { k with copies := [r] }) sf

/-- Core 0 whose beat or message is a request's. -/
def goesState (r : CopyReq) : State :=
  testState 0 vals id (fun k => { k with copies := [r], granted := some (.copy 3) }) (fun s => { s with rtime := 64 })
/-- A request's state as the movement thread takes it, and whether its source and its destination are elsewhere. -/
def goes (r : CopyReq) (n k left : Nat) : Bool :=
  let s := goesState r
  let s1 := s.modCore 0 (fun k => { k with copyTurn := r.id, copyNext := k.cycle + 1, granted := none })
  let a := (s1.piece 0 r).1.toNat + r.gath.length
  (s.core 0).copyGoes == some 3 && s.copy? 0 3 == some r && r.landing.isEmpty && (s1.piece 0 r).2.2 == n && beatBytes a left == k &&
    left == n - r.gath.length

/-- A waiting request and four that issue; bytes to be written; a source elsewhere, a message of 256 bytes under construction and its
last beat, a register, a destination elsewhere, vault to vault and vault to scratchpad; a transfer at its home, its first beat and its
last, in the page and beyond; an acknowledgement, bytes, a fault; each kind of completion, the vault's counter before its beat and at it. -/
theorem test_witness_CopyRequests :
    (let r := aCopy 0 0x10000000000 counterWord false 0
     let four (r : CopyReq) : State := testState 0 [] id (fun k => { k with copies := List.replicate 4 (aCopy 0 0x10000000000 counterWord true 0) ++ [r] })
     ((copyState r).core 0).copies.find? (fun (r : CopyReq) => !r.active) = some r ∧ ((copyState r).core 0).activeCopies.length < 4 ∧
     r.due ≤ (copyState r).now 0 ∧ ((four r).core 0).copies.find? (fun (r : CopyReq) => !r.active) = some r ∧
     4 ≤ ((four r).core 0).activeCopies.length) ∧
    (let r := { aCopy core1 0x10000000000 counterWord true 64 with landing := [(0x10000000000, [(5, false)])] }
     ((goesState r).core 0).copyGoes = some 3 ∧ (goesState r).copy? 0 3 = some r ∧ r.fill = false) ∧
    (goes (aCopy core1 0x10000000000 counterWord true 0) 64 64 64 = true ∧ isGlobal core1 = true) ∧
    (let r : CopyReq := { aCopy 0 core1 counterWord true 0 with words := [0, core1, 256, counterWord] }
     goes r 256 128 256 = true ∧ goes { r with gath := List.replicate 128 (5, false) } 256 128 128 = true ∧ isGlobal 0 = false ∧
     r.fill = false) ∧
    (let r : CopyReq := { aCopy 0 5 counterWord true 0 with words := [0, 5, 0x0100000000000008, counterWord] }
     goes r 8 8 8 = true ∧ r.fill = true) ∧
    (goes (aCopy 0 0x80000 counterWord true 0) 64 64 64 = true ∧ inVault (0 : Word).toNat = true ∧ inVault (0x80000 : Word).toNat = true) ∧
    (goes (aCopy 0 0x10000000000 counterWord true 0) 64 64 64 = true ∧ inVault (0x10000000000 : Word).toNat = false) ∧
    (∀ n ∈ [64, 200], ∀ off ∈ [0xFFF00, 0x100000],
      let w := msgOf (.copyWrite (List.replicate n (5, false))) 0 off (BitVec.ofNat 64 off)
      let r := msgOf (.copyRead n 0x10000000000) 0 off (BitVec.ofNat 64 off)
      let s (m : Msg) := homeState m id (some .agentRun)
      (s w).agentMsg? 0 = some w ∧ (s r).agentMsg? 0 = some r ∧ (s w).forwardTo w = none ∧ (s r).forwardTo r = none ∧
      (s w).hasBeat 0 .agentRun = true ∧
      (if off = 0x100000 then (∃ code, (s w).copyAt w n false true = .fault code) ∧ ∃ code, (s r).copyAt r n true false = .fault code
       else (s w).copyAt w n false true = .ok 0 off ∧ (s r).copyAt r n true false = .ok 0 off ∧ decide (n ≤ beatBytes off n) = decide (n = 64))) ∧
    (∀ m ∈ [msgOf (.copyDone 0x10000000000 [] 64 none) 0 0 0, msgOf (.copyDone 0x10000000000 [(5, false)] 1 none) 0 0 0,
        msgOf (.copyDone 0x10000000000 [] 64 (some (det cLeaseMiss 8))) 0 0 0],
      ∀ len ∈ [(64 : Word), 0x0100000000000001],
      let r : CopyReq := { aCopy 0 0x10000000000 counterWord true 0 with words := [0, 0x10000000000, len, counterWord] }
      let s := copyState r (fun s => { s with msgs := [m], rtime := 64 })
      s.arrived? 7 = some m ∧ s.copy? 0 3 = some r ∧ r.fill = decide (len ≠ 64)) ∧
    (∀ cmp ∈ [(0 : Word), counterWord, 0x4000000000000040], let r := aCopy 0 0x10000000000 cmp true 64
      (copyState r).copy? 0 3 = some r ∧ r.active = true ∧ r.allIssued = true ∧ r.total ≤ r.performed ∧
      cmpKind cmp = (if cmp = 0 then 0 else 1) ∧ inVault (cmpTarget cmp) = decide (cmp ≠ counterWord) ∧
      (copyState r).hasBeat 0 (.post 3) = false ∧ ((copyState r).core 0).queued (.post 3) = false ∧ ((copyState r).core 0).therm ≠ 3) ∧
    (let r := aCopy 0 0x10000000000 0x4000000000000040 true 64
     (testState 0 vals id (fun k => { k with copies := [r], granted := some (.post 3) })).hasBeat 0 (.post 3) = true ∧
     (let s := testState 0 vals id (fun k => { k with copies := [r], therm := 3 })
      s.copy? 0 3 = some r ∧ s.hasBeat 0 (.post 3) = false ∧ (s.core 0).halfDone (.post 3) = false)) ∧
    (let r : CopyReq := { aCopy 0 5 0x8000000000000007 true 8 with words := [0, 5, 0x0100000000000008, 0x8000000000000007] }
     (copyState r).copy? 0 3 = some r ∧ cmpKind (r.w 3) = 2 ∧ r.fill = true ∧ r.allIssued = true ∧ r.total ≤ r.performed) := by
  refine ⟨⟨rfl, by decide, by decide, rfl, by decide⟩, ⟨rfl, rfl, rfl⟩, ⟨by decide +kernel, rfl⟩,
    ⟨by decide +kernel, by decide +kernel, rfl, rfl⟩, ⟨by decide +kernel, rfl⟩, ⟨by decide +kernel, rfl, rfl⟩, ⟨by decide +kernel, rfl⟩,
    ?_, ?_, ?_, ⟨rfl, rfl, rfl, rfl⟩, rfl, rfl, rfl, rfl, by decide⟩
  · intro n hn off ho
    simp only [List.mem_cons, List.not_mem_nil, or_false] at hn ho
    rcases hn with rfl | rfl <;> rcases ho with rfl | rfl
    · exact ⟨rfl, rfl, rfl, rfl, rfl, by decide +kernel⟩
    · exact ⟨rfl, rfl, rfl, rfl, rfl, ⟨_, rfl⟩, _, rfl⟩
    · exact ⟨rfl, rfl, rfl, rfl, rfl, by decide +kernel⟩
    · exact ⟨rfl, rfl, rfl, rfl, rfl, ⟨_, rfl⟩, _, rfl⟩
  · intro m hm len hl
    simp only [List.mem_cons, List.not_mem_nil, or_false] at hm hl
    rcases hm with rfl | rfl | rfl <;> rcases hl with rfl | rfl <;> exact ⟨rfl, rfl, rfl⟩
  · intro cmp hc
    simp only [List.mem_cons, List.not_mem_nil, or_false] at hc
    rcases hc with rfl | rfl | rfl <;> exact ⟨rfl, rfl, rfl, by decide, rfl, rfl, rfl, rfl, by decide⟩

/-- The last byte of a row, up and down; a row that ends at a boundary and one that crosses it. -/
theorem test_witness_CopyPieces : (127 : Nat) < 128 ∧ 0 < 64 ∧ nextPiece 32 64 128 0 false = (0, 32) ∧ nextPiece 32 64 128 32 false = (32, 64) ∧
    nextPiece 32 64 128 0 true = (96, 32) ∧ nextPiece 0 64 128 127 true = (0, 1) := by decide

/-- Normal to normal and to elevated, elevated to critical, critical to critical. -/
theorem test_witness_ThermalChanges :
    let k (t : Nat) : State := testState 0 [] id (fun k => { k with therm := t })
    (((k 0).core 0).therm = 0 ↔ (0 : BitVec 2).toNat = 0) ∧ ¬(((k 0).core 0).therm = 0 ↔ (2 : BitVec 2).toNat = 0) ∧
    (((k 1).core 0).therm ≠ 0 ∧ ((k 1).core 0).therm ≠ 3 ∧ (3 : BitVec 2).toNat = 3) ∧
    ((((k 3).core 0).therm = 0 ↔ (3 : BitVec 2).toNat = 0) ∧ ((k 3).core 0).therm = 3) := by decide

/-! ### Far memory, supply, launch, placement, power -/

/-- A kernel image of 128 bytes that declares every register, and its launch packet; the queue's ring lies in core 1's vault. -/
def kernelBytes : List Byte :=
  leBytes 0xc4432620000000000000000000000800000000000000000ffffffff0000004000000000000001100100302f00000001484b5847 64
def packetBytes : List Byte := leBytes 0x200000000000000000010101000000000001 128
def launchState (packet : List Byte) (sf : State → State := id) : State :=
  sf (((({ State.reset with asids := [testAsid], devState := 2, queues := [aQueue 0] } : State).setBytes 1 0 packet).setBytes 0 0x2000 kernelBytes))
/-- A packet with a width. -/
def sized (w h : Nat) : Packet := { Packet.ofBytes packetBytes with w := w, h := h }
/-- A launch in a state. -/
def aLaunch (st : LaunchState) (p : Packet) (ls : List (Word × Nat × Bool × Bool)) : Launch :=
  { id := 9, queue := 511, asid := 0, serial := 0, packet := p, state := st, header := fetchHeader, first := 0, count := 1, placed := 0, ended := 0, clean := 0, fault := 0, leases := ls, polled := 0, deps := [], readyAt := 0, reserved := none, status := 0, done := 0, capture := none, replay := false }

/-- The space above with a page at agent 0. -/
def farAsid : Asid := { testAsid with pages := testAsid.pages ++ [⟨2 ^ 52, 0x100000, 1024, 0, true, true, true, false⟩] }
/-- A message for agent 0. -/
def farState (m : Msg) (down : List Nat := []) : State :=
  testState 0 vals id id (fun s => { s with asids := [farAsid], pins := [⟨9, 1024, 0, 0x100000, true, true⟩], launches := [aLaunch .running (sized 1 1) []], msgs := [m], portsDown := down, rtime := 64 })

/-- A read, a write, copies and an atomic of a whole sector in a block's last quarter, under its key and not; one that fails its
translation; a port that is down and one that is up. -/
theorem test_witness_FarAgents :
    (∀ k ∈ [MsgKind.rget 64, .copyRead 64 0], let m := msgOf k 1024 192 (2 ^ 52 + 192)
      let s := farState m
      s.portsDown.contains (0 / 2) = false ∧ s.forwardTo m = none ∧ s.ask 1 m.id = (true, s) ∧ m.slot < 17 ∧
      s.farNext 0 MsgKind.farReads = some m ∧ s.homeAt m 64 true false = .ok m.home 192 ∧
      s.farHeld m true false = none ∧ (s.farGet m.home 192 64 m.asid m.actor).broken = none) ∧
    (let m := msgOf (.rget 64) 1024 192 (2 ^ 52 + 192)
     let s : State := { farState m with farKeys := [(blockKey 1024 192, 9)] }
     s.farNext 0 MsgKind.farReads = some m ∧ ∃ b, (s.farGet m.home 192 64 m.asid m.actor).broken = some b) ∧
    (let m := msgOf (.rget 64) 1024 0x100000 (2 ^ 52 + 0x100000)
     (farState m).farNext 0 MsgKind.farReads = some m ∧ ∃ code, (farState m).homeAt m 64 true false = .fault code) ∧
    (let s := farState (msgOf (.rget 64) 1024 192 (2 ^ 52 + 192))
     192 / 256 = (192 + 64 - 1) / 256 ∧ s.checkBlock 1024 192 = .clean ∧ s.tagBad 1024 192 0 [] = false) ∧
    (∀ k ∈ [MsgKind.rput 8 5 false, .copyWrite [(5, false)], .ratom .add 5 0], let m := msgOf k 1024 192 (2 ^ 52 + 192)
      let s := farState m
      s.forwardTo m = none ∧ s.ask 1 m.id = (true, s) ∧ s.farNext 0 MsgKind.farWrites = some m ∧ m.tag = 0 ∧
      s.homeAt m 8 false true = .ok m.home 192 ∧ s.homeAt m 1 false true = .ok m.home 192 ∧ s.homeAt m 8 true true = .ok m.home 192 ∧
      s.farHeld m false true = none ∧ s.farHeld m true true = none ∧
      (s.farPut m.home 192 m.asid m.actor ((vecBytes 5 8).map (fun (b : Byte) => (b, false)))).2 = none ∧
      (s.farPut m.home 192 m.asid m.actor [(5, false)]).2 = none ∧
      (let g := s.farGet m.home 192 8 m.asid m.actor
       g.broken = none ∧ g.data.any (fun (x : Byte × Bool) => x.2) = false ∧ g.st.isMirror m.core = false ∧
       (g.st.farPut m.home 192 m.asid m.actor ((leBytes 5 8).map (fun (b : Byte) => (b, false)))).2 = none)) ∧
    (let m := msgOf (.rget 64) 1024 192 (2 ^ 52 + 192)
     let s := farState m [0]
     s.portsDown.contains (0 / 2) = true ∧ s.farNext 0 MsgKind.farReads = some m) ∧
    (testState 0 vals).portsDown.contains 3 = false := by
  refine ⟨?_, ⟨rfl, _, rfl⟩, ⟨rfl, _, rfl⟩, ⟨rfl, rfl, rfl⟩, ?_, ⟨rfl, rfl⟩, rfl⟩
  · intro k hk
    simp only [List.mem_cons, List.not_mem_nil, or_false] at hk
    rcases hk with rfl | rfl <;> exact ⟨rfl, rfl, rfl, by decide, rfl, rfl, Option.isNone_iff_eq_none.mp (by decide +kernel), rfl⟩
  · intro k hk
    simp only [List.mem_cons, List.not_mem_nil, or_false] at hk
    rcases hk with rfl | rfl | rfl <;> exact ⟨rfl, rfl, rfl, rfl, rfl, rfl, rfl, Option.isNone_iff_eq_none.mp (by decide +kernel),
      Option.isNone_iff_eq_none.mp (by decide +kernel), rfl, rfl, rfl, rfl, rfl, rfl⟩

/-- The answer of line 2's refill. -/
def refillMsg : Msg := { msgOf (.copyDone 0 [(0x13, false)] 1 none) 0 0 0 with slot := 16, pend := 2 }

/-- A resident line, one missed first and one after another; each moment of a refill; a deposit of 4,096 cycles ago and a later
one; the third and the fourth flag. -/
theorem test_witness_InstructionSupply :
    (∃ r, decode 0x0000007F = .error r) ∧
    (let s (pc : Word) (rs : List Nat) := testState 0 [] (fun t => { t with pc := pc }) (fun k => { k with refills := rs })
     (s 64 []).thr 0 0 |>.pc.toNat / 2048) = 0 ∧
    (let s (pc : Word) (rs : List Nat) := testState 0 [] (fun t => { t with pc := pc }) (fun k => { k with refills := rs })
     ((s 64 []).core 0).resident 0 = true ∧ ((s 4096 []).core 0).resident (((s 4096 []).thr 0 0).pc.toNat / 2048) = false ∧
     ((s 4096 []).core 0).ridge ≠ none ∧ ((s 4096 []).core 0).refills = [] ∧ ((s 4096 [1]).core 0).refills = [1]) ∧
    (let s (d : Option Nat) := testState 0 [] id (fun k => { k with refills := [2], refillDue := d }) (fun s => { s with msgs := [refillMsg], rtime := 64 })
     (∀ d, (s d).refillReply 0 = some refillMsg) ∧ (∀ d, (s d).staleLines 0 = []) ∧ ((s none).core 0).refillDue = none ∧ ((s (some 17)).core 0).cycle < 17 ∧
     ((s (some 16)).core 0).refillDue = some 16 ∧ 16 ≤ ((s (some 16)).core 0).cycle ∧ ((s (some 16)).core 0).refills = [refillMsg.pend]) ∧
    (∀ kind ∈ [0, 2], let e : CmpEntry := ⟨true, 64, kind, [], 0, false⟩
     let late (now : Nat) : List CmpEntry :=
       let s := testState 0 [] id (fun k => { k with cycle := now, pairs := k.pairs.set 0 { k.pair 0 with cmp := [e] } })
       ((s.core 0).pair 0).cmp.filter (fun (e : CmpEntry) => !e.matched && decide (e.at' + 4096 ≤ s.now 0))
     late 4096 = e :: [] ∧ late 4095 = []) ∧
    (let s := testState 0 [] (fun t => { t with replays := 3 }) (fun k => { k with redundant := true })
     (s.thr 0 0).life = .live ∧ 3 ≤ (s.thr 0 0).replays ∧ s.isPair 0 0 = true ∧ (testState 0 []).isPair 0 0 = false) ∧
    (let s (n : Nat) := testState 0 [] (fun t => { t with replays := n })
     ((s 2).thr 0 0).life = .live ∧ ((s 2).thr 0 0).replays < 3 ∧ ((s 3).thr 0 0).life = .live ∧ 3 ≤ ((s 3).thr 0 0).replays) := by
  refine ⟨⟨_, rfl⟩, rfl, ⟨rfl, rfl, by decide, rfl, rfl⟩, ⟨fun d => rfl, fun d => rfl, rfl, by decide, rfl, by decide, rfl⟩, ?_, ⟨rfl, by decide, rfl, rfl⟩, rfl, by decide, rfl, by decide⟩
  intro k hk
  simp only [List.mem_cons, List.not_mem_nil, or_false] at hk
  rcases hk with rfl | rfl <;> exact ⟨rfl, rfl⟩

/-- What the checks answer. -/
def verdict : Checked → Nat
  | .read _ => 0
  | .refused .. => 1
  | .ok .. => 2
theorem read_of {x : Checked} (h : verdict x = 0) : ∃ ops, x = .read ops := by cases x <;> simp [verdict] at h; exact ⟨_, rfl⟩
theorem refused_of {x : Checked} (h : verdict x = 1) : ∃ code hd, x = .refused code hd := by cases x <;> simp [verdict] at h; exact ⟨_, _, rfl⟩
theorem passed_of {x : Checked} (h : verdict x = 2) : ∃ hd ls, x = .ok hd ls := by cases x <;> simp [verdict] at h; exact ⟨_, _, rfl⟩
/-- A job of the sequencer with some accesses to be made and some made. -/
def aJob (fn : JobFn) (obj : Nat) (launch : Option Nat) (ops : List JobOp) (got : List (List Byte)) : Job :=
  { id := 7, asid := 0, core := 0, fn := fn, obj := obj, launch := launch, ops := ops, part := [], got := got, failed := false }
/-- The queue's packet on its way, with a launch of it or none, and what the sequencer has read. -/
def checkState (armed : Bool) (current : Option Nat) (ops : List JobOp) (got : List (List Byte)) : State :=
  launchState packetBytes (fun s => { s with
    queues := [{ aQueue 0 with current := current, armed := armed }], launches := [aLaunch .checking (sized 1 1) []],
    jobs := [aJob .check 511 current ops got] })

/-- The tail at each end of its range; a packet's slot before it is read, while it is, and when it has been, with capture armed and not;
what the checks answer to a slot, to the whole image and to none; each check's first failure; a launch without dependences, one whose
counter is to be read, is not due, and has been read below and at its threshold; one whose lease is the whole page. -/
theorem test_witness_LaunchEvents :
    ((launchState []).queue? 511 = some (aQueue 0) ∧ (aQueue 0).tail ≤ 2 ∧ 2 ≤ (aQueue 0).head + (aQueue 0).slots) ∧
    (let s := launchState packetBytes
     s.devState = 2 ∧ s.serves 511 = true ∧ (aQueue 0).head < (aQueue 0).tail ∧ (aQueue 0).current = none ∧
     s.asids.find? (fun (a : Asid) => a.id == 0) = some testAsid ∧ s.job? .check 511 = none) ∧
    ((checkState false (some 9) [.read 0 8] []).job? .check 511 = some (aJob .check 511 (some 9) [.read 0 8] [])) ∧
    (∀ armed ∈ [false, true], let x : Queue := { aQueue 0 with armed := armed }
      let s := checkState armed none [] [packetBytes]
      s.queue? 511 = some x ∧ s.job? .check 511 = some (aJob .check 511 none [] [packetBytes]) ∧ x.current = none) ∧
    (∀ got ∈ [[packetBytes], [packetBytes, kernelBytes], [packetBytes, kernelBytes, [], [], []], [packetBytes, List.replicate 64 (0 : Byte)]],
      let s := checkState false (some 9) [] got
      s.job? .check 511 = some (aJob .check 511 (some 9) [] got) ∧
      ({ aQueue 0 with current := some 9 } : Queue).current.bind s.launch? = some (aLaunch .checking (sized 1 1) []) ∧
      (got.length < 3 → got[1]? = none ∨ got[1]? = some kernelBytes → ∃ ops, s.checkNext testAsid { sized 1 1 with code := 0x2000 } got false = .read ops) ∧
      (got.length = 5 → ∃ h ls, s.checkNext testAsid { sized 1 1 with code := 0x2000 } got false = .ok h ls) ∧
      (got[1]? = some (List.replicate 64 (0 : Byte)) →
        ∃ code h, s.checkNext testAsid { sized 1 1 with code := 0x2000 } got false = .refused code h)) ∧
    (let s := launchState packetBytes
     (aLaunch .checking (sized 1 1) []).capture = none ∧
     s.drain.getLsbD 0 = false ∧ ({ s with drain := 1 } : State).drain.getLsbD 0 = true ∧ s.badForm 0 (sized 0 1) = true ∧
     s.badForm 0 (sized 33 17) = false ∧ s.badForm 0 (sized 32 16) = false ∧ testAsid.ceil < ({ sized 32 16 with mnfreq := 600 } : Packet).mnfreq ∧
     s.badForm 0 { sized 32 16 with mnfreq := 600 } = false ∧ (sized 32 16).mnfreq ≤ testAsid.ceil ∧
     s.badForm 0 { sized 32 16 with code := 0x10000000000 } = false ∧ s.memExists 0 0x10000000000 64 = false ∧
     headerBad (List.replicate 64 0) = true ∧ headerBad kernelBytes = false ∧ s.memExists 0 0xFFFFFC0 (field kernelBytes 0x24 4) = true ∧
     s.memExists 0 0xFFFFFFC0 (field kernelBytes 0x24 4) = false ∧
     tablesBad (leaseTable (leBytes 1 16) 1) (dataTable [] 0) 128 0 = true ∧
     s.capacity (sized 1 1) fetchHeader = true ∧ s.capacity (sized 1 1) { fetchHeader with vregs := 49 } = false) ∧
    (let s (x : Launch) (js : List Job) := launchState [] (fun s => { s with launches := [x], jobs := js })
     (s (aLaunch .depwait (sized 1 1) []) []).launch? 9 = some (aLaunch .depwait (sized 1 1) []) ∧ (sized 1 1).dep0 = 0 ∧ (sized 1 1).dep1 = 0 ∧
     (let p : Packet := { sized 1 1 with dep0 := 0x40000000000, thr0 := 1 }
      (s (aLaunch .depwait p []) []).launch? 9 = some (aLaunch .depwait p []) ∧ (s (aLaunch .depwait p []) []).job? .poll 9 = none ∧
      (aLaunch .depwait p []).polled ≤ (s (aLaunch .depwait p []) []).rtime ∧
      (s (aLaunch .depwait p []) []).rtime < ({ aLaunch .depwait p [] with polled := 256 } : Launch).polled ∧
      (∀ v ∈ [(0 : Nat), 1], let j := aJob .poll 9 (some 9) [] [leBytes v 8]
        (s (aLaunch .depwait p []) [j]).job? .poll 9 = some j ∧
        (decide ((BitVec.ofNat 64 (leNat (leBytes v 8)) : Word).toNat < p.thr0.toNat) = decide (v = 0)))) ∧
     (let x := aLaunch .leasing (sized 1 1) [(0, 0x100000, true, true)]
      (s x []).launch? 9 = some x ∧ (s x []).leasesReady x = true ∧ (s x []).ask 0 9 = (true, s x []))) := by
  refine ⟨⟨rfl, by decide, by decide⟩, ⟨rfl, rfl, by decide, rfl, rfl, rfl⟩, by decide +kernel, ?_, ?_,
    ⟨rfl, rfl, rfl, rfl, rfl, rfl, by decide, rfl, by decide, rfl, rfl, by decide +kernel, by decide +kernel, by decide +kernel, by decide +kernel,
      by decide +kernel, by decide +kernel, by decide +kernel⟩,
    rfl, rfl, rfl, ⟨rfl, rfl, by decide, by decide, ?_⟩, rfl, by decide +kernel, rfl⟩
  · intro b hb
    simp only [List.mem_cons, List.not_mem_nil, or_false] at hb
    rcases hb with rfl | rfl <;> exact ⟨rfl, by decide +kernel, rfl⟩
  · intro got hg
    simp only [List.mem_cons, List.not_mem_nil, or_false] at hg
    rcases hg with rfl | rfl | rfl | rfl <;> refine ⟨by decide +kernel, by decide +kernel, fun h h2 => ?_, fun h => ?_, fun h => ?_⟩
    · exact read_of (by decide +kernel)
    · exact absurd h (by decide)
    · exact absurd h (by decide)
    · exact read_of (by decide +kernel)
    · exact absurd h (by decide)
    · exact absurd h (by decide +kernel)
    · exact absurd h (by decide)
    · exact passed_of (by decide +kernel)
    · exact absurd h (by decide +kernel)
    · exact absurd h2 (by decide +kernel)
    · exact absurd h (by decide)
    · exact refused_of (by decide +kernel)
  · intro v hv
    simp only [List.mem_cons, List.not_mem_nil, or_false] at hv
    rcases hv with rfl | rfl <;> exact ⟨by decide +kernel, by decide +kernel⟩

/-- A device with one instance of one core in a state, and nothing of it left to finish. -/
def instState (st : RidgeState) (kf : Core → Core := id) (sf : State → State := id) : State :=
  testState 0 [] id kf (fun s => sf (withRidge (fun r => { r with state := st, graceEnd := 10 }) s))
/-- The instance. -/
def inst (s : State) : Ridge := s.ridges.headD (fetchRidge 0)

/-- Some damage to the image of a saved instance is seen. -/
theorem damaged_image : ∃ v : Byte, let s := instState .saved
    let d := withRidge (fun r => { r with image := (r.cores.map (s.saveCore r.header)).map (fun x => { x with flips := [(0x24, v)] }) }) s
    d.imagesSound (inst d) = false :=
  ⟨1, Laws.damaged_unsound rfl rfl⟩
/-- A level that can be served and none; each state at its moment and before it. -/
theorem test_witness_PlacementEvents :
    (State.reset.serveLevel 0 0).isNone ∧
    (let x := aLaunch .placing (sized 32 16) []
     let s := launchState [] (fun s => { s with launches := [x] })
     s.ridges = [] ∧ s.turnOrder 0 0 = [x] ∧ s.rectFor 0 x = some (0, 0) ∧ s.waitsHost x.id = false ∧ s.ask 2 x.id = (true, s) ∧ (s.serveLevel 0 0).isSome) ∧
    (let s := instState .saved
     s.ridges = [inst s] ∧ (inst s).state = .saved ∧ (inst s).packet.prio = 0 ∧ (inst s).y / 16 = 0 ∧ (s.rectOf 0 (inst s)).isSome = true ∧
     s.waitsHost (inst s).id = false ∧ s.ask 2 (inst s).id = (true, s) ∧ s.imagesSound (inst s) = true ∧
     ∃ v : Byte, let d := withRidge (fun r => { r with image := (r.cores.map (s.saveCore r.header)).map (fun x => { x with flips := [(0x24, v)] }) }) s
      d.imagesSound (inst d) = false) ∧
    (let s (st : RidgeState) (t : Nat) := instState st id (fun s => { s with rtime := t })
     (∀ st, (s st 9).ridges.find? (fun (r : Ridge) => r.id == (inst (s st 9)).id) = some (inst (s st 9)) ∧ (inst (s st 9)).state = st) ∧
     (inst (s .starting 0)).startAt ≤ (s .starting 0).rtime ∧ (s .starting 0).isSetUp (inst (s .starting 0)) = true ∧
     (let w : State := { s .starting 0 with jobs := [aJob .place (inst (s .starting 0)).id none [.put 0 0 [5]] []] }
      w.isSetUp (inst w) = false) ∧ (inst (s .grace 10)).graceEnd ≤ (s .grace 10).rtime ∧
     (s .grace 9).rtime < (inst (s .grace 9)).graceEnd) ∧
    (let s := instState .saving
     (inst s).retiring = [] ∧ (inst s).cores.all (s.coreQuiet (inst s)) = true ∧ (∀ m ∈ s.msgs, (inst s).cores.contains m.core = false)) ∧
    (let s := instState .saving (fun k => { k with refills := [2] })
     (inst s).cores.all (s.coreQuiet (inst s)) = false) ∧
    (instState .running).allExited (inst (instState .running)) = false ∧
    (let s (kf : Core → Core) := instState .running (fun k => kf (k.setThread 0 { k.thread 0 with life := .dormant }))
     let left (s : State) : State := (((inst s).cores.foldl (fun (s : State) (c : Nat) => s.modCore c (fun k =>
        { k with copies := k.copies.filter (fun (x : CopyReq) => x.active) })) s).modRidge (inst s).id (fun r => { r with state := .ending }))
     (s id).allExited (inst (s id)) = true ∧ (inst (s id)).image = [] ∧ (inst (s id)).fault = none ∧
     (inst (s id)).cores.all (left (s id)).coreOver = true ∧
     (let b := s (fun k => { k with copies := [aCopy 0 8 0 true 0] })
      b.allExited (inst b) = true ∧ (inst b).cores.all (left b).coreOver = false)) := by
  refine ⟨by decide +kernel, ⟨rfl, rfl, by decide +kernel, rfl, rfl, by decide +kernel⟩, ⟨rfl, rfl, rfl, rfl, by decide +kernel, rfl, rfl, by decide +kernel, damaged_image⟩,
    ⟨fun st => ⟨rfl, rfl⟩, by decide, by decide +kernel, by decide +kernel, by decide, by decide⟩,
    ⟨rfl, rfl, fun m hm => by cases hm⟩, rfl, rfl, rfl, rfl, rfl, rfl, rfl, rfl⟩

/-- A rectangle of two cores of which core 0's levelling falls due, with a surplus of 3 and of 1. -/
def levelState (n : Nat) : State :=
  testState 0 [] id (fun k => { k with wl := List.replicate n (5, 0), cycle := 4096 }) (fun s => withRidge (fun r => { r with w := 2 }) s)
/-- A returning shipment. -/
def shipState (x : Lane2) (n : Nat) : State :=
  testState 0 [] id (fun k => { k with wl := List.replicate n (5, 0) }) (fun s => { s with flights := [⟨9, x, 0, 16, 10, 1, false, ⟨0, 1, none, 0⟩⟩], rtime := 64 })

/-- Core 0 alone under a cap of 5 kW, with a grant of 1 W and a window of 0.899 W. -/
def underCap : State :=
  testState 0 [] id (fun k => { k with steps := [15] }) (fun s =>
    { s with rtime := 1024, cap := some (5000, 9999), shareWas := (5000, 1), asids := [{ testAsid with mw := 1000 }] })
theorem underCap_limit : ∃ X : Nat, (underCap.modCore 0 (fun k => { k with windowAt := underCap.rtime, windowPower := 899 })).powerLimit 0
    (fetchRidge State.reset.fresh) = min 1000 ((5000 * 1000 - X % (2400 * 1000)) / 1) := ⟨_, rfl⟩

/-- A surplus of 1 and of 3; the last place of a work list; power over a limit of 0 and under one of 1 W; the ends of a pause and of a cap. -/
theorem test_witness_PowerEvents :
    (let s := levelState
     (∃ r, (s 3).ridge? 0 = some r ∧ (s 3).levelDue 0 r = true ∧ (testState 0 []).levelDue 0 r = false) ∧
     (let s1 (n : Nat) := (s n).modCore 0 (fun k => { k with levelledAt := k.cycle })
      (∀ n ∈ [1, 3], (s1 n).shortest ((s1 n).neighbours 0) = some 1) ∧ ((s1 1).core 0).wl.length - ((s1 1).core 1).wl.length < 2 ∧
      2 ≤ ((s1 3).core 0).wl.length - ((s1 3).core 1).wl.length)) ∧
    (∀ x ∈ [Lane2.ship [1], .back [1]], ((shipState x 4095).landed? 9) = some ⟨9, x, 0, 16, 10, 1, false, ⟨0, 1, none, 0⟩⟩) ∧
    ((shipState (.back [1]) 4095).core 0).wl.length + 1 ≤ 4096 ∧ ((shipState (.back [1]) 4096).core 0).wl.length ≤ 4096 ∧
    4096 < ((shipState (.back [1]) 4096).core 0).wl.length + 1 ∧
    (let s := testState 0 [] id id (fun s => { s with rtime := 1024, asids := [testAsid] })
     let s1 := s.modCore 0 (fun k => { k with windowAt := s.rtime, windowPower := 1 })
     s.rtime % 1024 = 0 ∧ s.rtime ≠ 0 ∧ (s.core 0).windowAt ≠ s.rtime ∧ s.ridge? 5 = none ∧
     ∃ r, s1.ridge? 0 = some r ∧ r.mirror = false ∧ s1.lockstep = 0 ∧ s1.powerLimit 0 r < 1 ∧ s1.nextStep 0 r = some 15 ∧
       0 ≤ s1.powerLimit 0 r ∧ s1.powerLimit 0 r * 9 ≤ 0 * 10) ∧
    (let s := underCap
     let s1 := s.modCore 0 (fun k => { k with windowAt := s.rtime, windowPower := 899 })
     ∃ r, s1.ridge? 0 = some r ∧ 899 ≤ s1.powerLimit 0 r ∧ 899 * 10 < s1.powerLimit 0 r * 9) ∧
    (let s (t : Nat) := testState 0 [] id (fun k => { k with pause := some (32, 800) }) (fun s => { s with rtime := t, cap := some (1000, 32) })
     (∀ t, ((s t).core 0).pause = some (32, 800) ∧ (s t).cap = some (1000, 32)) ∧ 32 ≤ (s 32).rtime ∧ (s 31).rtime < 32) := by
  refine ⟨⟨⟨_, rfl, rfl, rfl⟩, ?_, by decide, by decide⟩, ?_, by decide +kernel, by decide +kernel, by decide +kernel,
    ⟨rfl, by decide, by decide, rfl, _, rfl, rfl, rfl, ?_, rfl, Nat.zero_le _, ?_⟩, ⟨_, rfl, ?_, ?_⟩, fun t => ⟨rfl, rfl⟩, by decide, by decide⟩
  · intro n hn
    simp only [List.mem_cons, List.not_mem_nil, or_false] at hn
    rcases hn with rfl | rfl <;> rfl
  · intro x hx
    simp only [List.mem_cons, List.not_mem_nil, or_false] at hx
    rcases hx with rfl | rfl <;> rfl
  · exact Nat.lt_of_le_of_lt (Nat.min_le_left 0 _) Nat.zero_lt_one
  · exact Nat.le_trans (Nat.mul_le_mul_right 9 (Nat.min_le_left 0 _)) (Nat.le_refl _)
  all_goals
    obtain ⟨X, h⟩ := underCap_limit
    rw [h]
    omega

/-! ### Debug, capture, links, host -/

/-- Core 0 under a debug session. -/
def debugState (df : Debug → Debug) (tf : Thread → Thread := id) : State :=
  testState 0 vals tf (fun k => { k with dbg := df k.dbg }) (fun s => { s with debugAsid := some 0 })
/-- A trace buffer with one record to drain, the last of its buffer. -/
def drainDebug (d : Debug) : Debug := { d with records := [List.replicate 32 7], tsize := 64, twr := 32, tbase := core1 }

/-- Slots 11 and 15; a cycle that matches and one that does not; a write that is taken, one that is refused, and one to a thread
that runs; a sample that is due and one that is not; the last record of a buffer. -/
theorem test_witness_DebugEvents :
    (let s := testState 0 vals (fun t => { t with stopped := true })
     s.isPair 0 0 = false ∧ (s.thr 0 0).stopped = true) ∧
    (let s := testState 0 vals
     (s.thr 0 0).stopped = false ∧ (s.thr 0 0).life ≠ .vacant ∧ (∃ x ∈ s.pairOf 0 0, x < 16)) ∧
    (let s := testState 0 vals id (fun k => { k with redundant := true })
     (s.thr 0 0).stopped = false ∧ (s.thr 0 0).life ≠ .vacant ∧ s.pairOf 0 0 = [0, 1]) ∧
    (let s (d : Debug → Debug) := debugState (fun x => d (drainDebug x))
     (let d := ((s (fun d => { d with tfull := true, trgctl := 0x4000000000000000 })).core 0).dbg
      d.records = [List.replicate 32 7] ∧ d.tsize ≠ 0 ∧ d.tfull = true ∧ d.trgctl.getLsbD 62 = true) ∧
     ((s (fun d => { d with tfull := true })).core 0).dbg.trgctl.getLsbD 62 = false ∧ ((s (fun d => { d with tsize := 0 })).core 0).dbg.tsize = 0) ∧
    (∀ n ∈ [1023, 1024], ∀ lost ∈ [0, 1], let d : Debug := { Debug.reset with records := List.replicate n [], lostSince := lost }
     d.tfull = false ∧ (d.records.length < 1024 ↔ n = 1023) ∧ (0 < d.lostSince ↔ lost = 1)) ∧
    (let s := debugState (fun d => { d with trgctl := 0x8000000000000000, bkpt := d.bkpt.set 7 0xC000000000000010 })
     (s.core 0).dbg.trgctl.getLsbD 63 = true ∧ ((s.core 0).dbg.hits 4 0 (s.core 0).cycle 0x3FFFFFFFFFF).contains 6 = false ∧
     s.debugReach 0 = true ∧ (testState 0 vals).debugReach 0 = false) ∧
    (let s := debugState id (fun t => { t with stopped := true })
     s.debugReach 0 = true ∧ (s.thr 0 0).stopped = true ∧ (∃ t, s.windowWrite 0 0 0x58 47 = .ok t) ∧ s.windowWrite 0 0 0x90 5 = .refused ∧
     (debugState id).debugReach 0 = true ∧ ((debugState id).thr 0 0).stopped = false) ∧
    (let s (n : Nat) := debugState (fun d => { d with smpctl := 0x8000000000000009, smpCount := n })
     ((s 10).core 0).dbg.smpctl.getLsbD 63 = true ∧ bitsN ((s 10).core 0).dbg.smpctl 15 0 + 1 ≤ ((s 10).core 0).dbg.smpCount ∧
     ((s 9).core 0).dbg.smpCount < bitsN ((s 9).core 0).dbg.smpctl 15 0 + 1) ∧
    (let s := debugState drainDebug
     (s.core 0).dbg.records = [List.replicate 32 7] ∧ (s.core 0).dbg.tsize ≠ 0 ∧ (s.core 0).dbg.tfull = false ∧
     ((testState 0 vals).core 0).dbg.records = []) ∧ 600 ≤ (2400 : Word).toNat ∧ (2400 : Word).toNat ≤ 2400 :=
  ⟨⟨rfl, rfl⟩, ⟨rfl, by decide, 0, by decide, by decide⟩, ⟨rfl, by decide, rfl⟩, ⟨⟨rfl, by decide, rfl, rfl⟩, rfl, rfl⟩, by
    intro n hn l hl
    simp only [List.mem_cons, List.not_mem_nil, or_false] at hn hl
    rcases hn with rfl | rfl <;> rcases hl with rfl | rfl <;> simp [Debug.reset],
    ⟨rfl, rfl, rfl, rfl⟩, ⟨rfl, rfl, ⟨_, rfl⟩, rfl, rfl, rfl⟩, ⟨rfl, by decide, by decide⟩,
    ⟨rfl, by decide, rfl, rfl⟩, by decide, by decide⟩
/-- A breakpoint on the cycle the core is in. -/
theorem test_witness_DebugEvents_cycle :
    let s := debugState (fun d => { d with bkpt := d.bkpt.set 7 0xC000000000000010 })
    ((s.core 0).dbg.hits 4 0 (s.core 0).cycle 0x3FFFFFFFFFF).contains 7 = true := rfl

/-- A cairn that still captures for an ASID, with a page on its way to it. -/
def aCairn : Cairn :=
  { id := 4, launch := 9, asid := 0, queue := 511, seq := 0, packet := sized 1 1, header := fetchHeader, code := [], deps := [0, 0], pages := [(0, [])], status := none, opened := false, incomplete := false, foreign := 0, foreignPages := [], live := true }
/-- Core 0 and its mirror in lockstep replay, one window of 4,096 cycles after the start, with a hash each. -/
def mirrorState (a b : Word) : State :=
  let core (h : Word) (k : Core) : Core := { k with hash := h, hashCount := 1, cycle := 4096 + 16 }
  let s := testState 0 [] id (core a) (fun s => { s with lockstep := 1, ridges := { fetchRidge 99 with mirror := true, y := 16 } :: s.ridges })
  s.modCore 512 (fun k => { core b k with ridge := some 99, startCycle := 16 }) |>.modCore 0 (fun k => { k with startCycle := 16 })

/-- The page on its way; the first window's end on both cores, with equal and with different hashes. -/
theorem test_witness_CaptureEvents :
    (let s (t : Nat) : State := { State.reset with cairns := [aCairn], preImages := [⟨4, 7, 600⟩], rtime := t }
     (s 600).preImages.find? (fun (x : PreImage) => x.page == 7 && decide (x.due ≤ (s 600).rtime)) = some ⟨4, 7, 600⟩ ∧
     (s 600).cairns.find? (fun (k : Cairn) => k.id == 4) = some aCairn ∧ aCairn.live = true ∧
     (s 599).preImages.find? (fun (x : PreImage) => x.page == 7 && decide (x.due ≤ (s 599).rtime)) = none) ∧
    (let r : BankReq := { bankRead with pre := true }
     let s := bankState { Bank.reset with queue := [r] }
     r ∈ ((s.core 0).bank 0).queue ∧ r.pre = true ∧ s.preImages = []) ∧
    (∀ b ∈ [(1 : Word), 2], let s := mirrorState 1 b
     s.lockstep ≠ 0 ∧ (s.core 0).ridge ≠ none ∧ (s.core (0 + 512)).ridge ≠ none ∧ s.isMirror (0 + 512) = true ∧ s.isMirror 0 = false ∧
     (s.core 0).diverged = false ∧ (s.core 0).windowOver (s.core 0).compared = true ∧
     (s.core (0 + 512)).windowOver (s.core 0).compared = true ∧
     decide ((s.core 0).windowHash 0 = (s.core (0 + 512)).windowHash 0) = decide (b = 1)) := by
  refine ⟨⟨rfl, rfl, rfl, rfl⟩, ⟨List.mem_singleton.mpr rfl, rfl, rfl⟩, ?_⟩
  intro b hb
  simp only [List.mem_cons, List.not_mem_nil, or_false] at hb
  rcases hb with rfl | rfl <;> exact ⟨by decide, by decide, by decide, rfl, rfl, rfl, rfl, rfl, by decide +kernel⟩

/-- Link 0 as given. -/
def linkState (k : Link) (sf : State → State := id) : State := sf { State.reset with links := State.reset.links.set 0 k }
/-- Link 0 with all lanes. -/
def upLink : Link := { Link.reset with state := .up16 }
/-- A flit of no, one and two slots, numbered 0, as its sender makes it. -/
def aFlit (slots : List (List Byte)) : List Byte := Link.flit Link.reset 0 slots

/-- A good flit of each kind and a damaged one; a flit to send, one to send again, an acknowledgement due; lane 15; the last
cycle of a retraining and the one after. -/
theorem test_witness_LinkEvents :
    (∀ slots ∈ [[], [List.replicate 64 (5 : Byte)], [List.replicate 64 5, List.replicate 64 6]], let b := aFlit slots
      b.length = 144 ∧ field b 136 4 = (crc32 (b.take 136)).toNat ∧ field b 4 1 % 4 = 2 ^ slots.length - 1 ∧
      field b 0 2 % 4096 = (((linkState upLink).link 0).expected)) ∧
    (let b : List Byte := List.replicate 144 5
     b.length = 144 ∧ field b 136 4 ≠ (crc32 (b.take 136)).toNat) ∧
    (((linkState upLink).link 0).state = .up16 ∧ ((linkState upLink).link 0).asked = false ∧ (State.reset.link 0).state = .training) ∧
    (let k : Link := { upLink with out := [[5]] }
     (linkState k).msgs.find? ((linkState k).forLink 0) = none ∧ ((linkState k).link 0).free 0 = true ∧ k.again = [] ∧ k.out ≠ [] ∧
     k.buffer.length < 512) ∧
    (let k : Link := { upLink with again := [7], buffer := [(7, [[5]])], owed := 64 }
     ((linkState k).link 0).again = 7 :: [] ∧ k.free 0 = true ∧ k.buffer.find? (fun (x : Nat × List (List Byte)) => x.1 == 7) = some (7, [[5]]) ∧
     64 ≤ k.owed) ∧ (upLink.askNow = false ∧ upLink.owed < 64 ∧ upLink.ackBy = none) ∧
    (((linkState { upLink with state := .up8 }).link 0).state = .up8 ∧ ((linkState { upLink with state := .up8, again := [7] }).link 0).again ≠ []) ∧
    (let s (t : Nat) := linkState { Link.reset with half := some (true, 0) } (fun s => { s with rtime := t })
     (∀ t, ((s t).link 0).state = .training ∧ ((s t).link 0).half = some (true, 0)) ∧ (s 4000).rtime ≤ 0 + 4000 ∧
     0 + 4000 < (s 4001).rtime) ∧ (State.reset.link 0).half = none := by
  refine ⟨?_, ⟨by decide, by decide +kernel⟩, ⟨rfl, rfl, rfl⟩, ⟨rfl, rfl, rfl, by decide, by decide⟩, ⟨rfl, rfl, rfl, by decide⟩, ⟨rfl, by decide, rfl⟩, ⟨rfl, by decide⟩,
    ⟨fun t => ⟨rfl, rfl⟩, by decide, by decide⟩, rfl⟩
  intro x hx
  simp only [List.mem_cons, List.not_mem_nil, or_false] at hx
  rcases hx with rfl | rfl | rfl <;> exact ⟨by decide +kernel, by decide +kernel, by decide +kernel, by decide +kernel⟩

/-- A migration of a page of two lines to core 5's vault, with some lines copied, waiting for a lease or not. -/
def aMove (copied : Nat) (waiting : Bool := false) : Migration := ⟨3, 0, 2 ^ 42, 128, 1, 0, 5, 0, copied, waiting, false⟩
/-- An RDMA read of a doubleword that is being served. -/
def aRdma : Rdma := ⟨3, 0, 1, [(0x2000, 8)], [], [], .swap, 0, 0⟩
/-- The management key of the device. -/
def managementKey : BitVec 32 := BitVec.ofNat 32 (2 ^ 30 + Config.managementKey % 2 ^ 30)

/-- The management key opens Pacia. -/
theorem managementKey_pacia (s : State) : s.keyTo managementKey = .pacia := by
  have h : (BitVec.ofNat 32 (2 ^ 30 + Config.managementKey % 2 ^ 30)).toNat = 2 ^ 30 + Config.managementKey % 2 ^ 30 := by
    rw [BitVec.toNat_ofNat]; omega
  have h1 : (2 ^ 30 + Config.managementKey % 2 ^ 30) / 2 ^ 30 = 1 := by omega
  have h2 : (2 ^ 30 + Config.managementKey % 2 ^ 30) % 2 ^ 30 = Config.managementKey % 2 ^ 30 := by omega
  unfold State.keyTo managementKey
  rw [h, h1, h2]
  exact if_pos rfl
/-- A key of no space, one of space 0 and the management key; a write that ends with the page and one that goes beyond it, a read, a
misaligned atomic and an aligned one; the management unit's command area, its snapshot and a place that is neither; the answer of a home
and its fault; the moment of the snapshot and the one before; the version agreed on; a page to move; a move that waits, that may begin,
that has a line to copy and that is over; a line at its home, and its acknowledgement. -/
theorem test_witness_HostEvents :
    (let s := launchState []
     s.keyTo 0x80000000 = .bad ∧ s.keyTo 0 = .asid 0 ∧ s.keyTo managementKey = .pacia ∧ s.rdmas = [] ∧
     (rdmaParts 0xFFFC0 65).any (fun (x : Word × Nat) => !s.rdmaOpen 0 x false true) = true ∧
     (rdmaParts 0xFFFC0 64).any (fun (x : Word × Nat) => !s.rdmaOpen 0 x false true) = false ∧
     (rdmaParts 0xFFFC0 65).any (fun (x : Word × Nat) => !s.rdmaOpen 0 x true false) = true ∧
     (rdmaParts 0x2000 4).any (fun (x : Word × Nat) => !s.rdmaOpen 0 x true false) = false ∧ (0x2001 : Word).toNat % 8 ≠ 0 ∧
     (0x2000 : Word).toNat % 8 = 0 ∧ s.rdmaOpen 0 (0x2000, 8) true true = true ∧ s.rdmaOpen 0 (0x100000, 8) true true = false ∧
     (∃ t, s.paciaWrite 0x02000000 [5] = some t) ∧ s.paciaWrite 0x02000000 (List.replicate 65537 5) = none ∧
     s.paciaReadable 0 8 = true ∧ s.paciaReadable 0x05000000 8 = false ∧ s.migrations = [] ∧ aRdma.parts = [(0x2000, 8)] ∧ aRdma.kind < 3) ∧
    (∀ k ∈ [MsgKind.copyDone 0 [(5, false)] 1 none, .copyDone 0 [] 1 (some (det cLeaseMiss 8))],
      let m : Msg := { msgOf k 0 0x2000 0x2000 with slot := 17 }
      let s : State := { launchState [] with msgs := [m], rdmas := [aRdma], rtime := 64 }
      s.arrived? 7 = some m ∧ s.rdmas = [aRdma] ∧ aRdma.id = m.pend) ∧
    (let s (t : Nat) : State := { State.reset with rtime := t }
     (s 20000000).snap.stamp + 20000000 ≤ (s 20000000).rtime ∧ (s 19999999).snap.stamp + 20000000 = (s 19999999).rtime + 1 ∧
     (s 19999999).snap.seq % 2 = 0 ∧ (s 19999998).rtime + 1 < (s 19999998).snap.stamp + 20000000) ∧
    (let v : BitVec 128 := 0x0100000000000000000000000000000F
     v.extractLsb' 120 8 = 1#8 ∧ ({ State.reset with devState := 1 } : State).devState = 1 ∧ State.reset.devState ≠ 1 ∧
     State.reset.feat.getLsbD 3 = false ∧ ({ State.reset with feat := v } : State).feat.getLsbD 3 = true) ∧
    (let s := launchState []
     let p : Page := ⟨2 ^ 42, 0x100000, 1, 0, true, true, true, false⟩
     (2 ^ 42 : Word).toNat % 2 ^ 53 = 2 ^ 42 ∧
     s.page? 0 (2 ^ 42 / Config.homeSpan) (2 ^ 42 % Config.homeSpan) 1 = some p ∧
     p.pageBytes (2 ^ 42) = 65536 ∧ 0x50000 + 65536 ≤ Config.vaultBytes ∧
     s.migrations.any (fun (m : Migration) => m.asid == 0 && m.va == 2 ^ 42) = false) ∧
    (∀ copied ∈ [0, 1, 2], ∀ w ∈ [false, true], ({ State.reset with migrations := [aMove copied w] } : State).migrations.find?
        (fun (m : Migration) => m.id == 3) = some (aMove copied w) ∧ (aMove copied w).busy = false) ∧
    (({ launchState [] with migrations := [aMove 0 true] } : State).mayMove (aMove 0 true) = true ∧
     (meshState .ratom []).mayMove { aMove 0 true with va := 0, home := 0 } = false) ∧
    (64 * 1 < (aMove 1).bytes ∧ (aMove 2).bytes ≤ 64 * 2 ∧ (aMove 0).home < 1024 ∧ (aMove 0).newHome < 1024) ∧
    (let m : Msg := { msgOf (.copyRead 64 0) 0 0 0 with slot := 19 }
     let s : State := { homeState m id (some .agentRun) with migrations := [aMove 1] }
     let s1 := s.sense 0 0 (beatBytes 0 64) m.actor
     s.agentMsg? 0 = some m ∧ s.forwardTo m = none ∧ s.hasBeat 0 .agentRun = true ∧ s.copyAt m 64 true false = .ok 0 0 ∧
     64 ≤ beatBytes 0 64 ∧ (s.core 0).agentGot = [] ∧
     (s1.agentDone 0).migrations.find? (fun (x : Migration) => x.id == m.pend) = some (aMove 1)) ∧
    (let m : Msg := { msgOf (.copyDone 0 [] 64 none) 0 0 0 with slot := 19 }
     ({ launchState [] with msgs := [m], rtime := 64 } : State).arrived? 7 = some m) ∧
    (let m : Msg := { msgOf (.copyDone 0 [] 64 (some (det cFarPortDown 0))) 0 0 0 with slot := 19 }
     ({ launchState [] with msgs := [m], rtime := 64 } : State).arrived? 7 = some m) ∧
    ((launchState []).devState ≠ 0 ∧ State.reset.devState = 0 ∧ ({ launchState [] with rdmas := [aRdma] } : State).keyTo managementKey =
      .pacia ∧ ({ launchState [] with rdmas := [aRdma] } : State).rdmas ≠ []) := by
  refine ⟨⟨rfl, by decide +kernel, ?_, rfl, by decide +kernel, by decide +kernel, by decide +kernel, by decide +kernel, by decide, by decide,
      by decide +kernel, by decide +kernel, ⟨_, rfl⟩, by decide +kernel, by decide +kernel, by decide +kernel, rfl, rfl, by decide⟩, ?_, ⟨by decide, by decide, by decide, by decide⟩,
    ⟨by decide, rfl, by decide, rfl, by decide⟩, ⟨by decide, by decide +kernel, by decide +kernel, by decide, by decide +kernel⟩, ?_,
    ⟨by decide +kernel, by decide +kernel⟩, ⟨by decide, by decide, by decide, by decide⟩,
    ⟨rfl, by decide +kernel, rfl, by decide +kernel, by decide, rfl, rfl⟩, rfl, rfl, by decide, rfl, managementKey_pacia _, by decide⟩
  · exact managementKey_pacia _
  · intro k hk
    simp only [List.mem_cons, List.not_mem_nil, or_false] at hk
    rcases hk with rfl | rfl <;> exact ⟨rfl, rfl, rfl⟩
  · intro n hn w hw
    simp only [List.mem_cons, List.not_mem_nil, or_false] at hn hw
    rcases hn with rfl | rfl | rfl <;> rcases hw with rfl | rfl <;> exact ⟨rfl, rfl⟩

/-- The device ready, with a number, with every feature, ASID 0, queue 511, and an idle link that is down. -/
def readyState (sf : State → State := id) : State :=
  sf { launchState [] with devNum := 5, feat := 0x0100000000000000000000000000000F, links := State.reset.links.set 0 { Link.reset with state := .down } }
/-- A finished cairn of a launch of one instance. -/
def doneCairn : Cairn := { aCairn with live := false }

/-- A device whose next bell is a slot's, whose record holds a code, and for ATTEST the first slot of its nonce. -/
def turning (code slot : Nat) (s : State) (n : Nat := 0) : State :=
  { s with rung := [slot, 2], pacia := [(0x02000000 + 64 * slot, BitVec.ofNat 8 code), (0x02000000 + 64 * slot + 8, BitVec.ofNat 8 n), (0x02000000 + 64 * slot + 9, BitVec.ofNat 8 (n / 256))] }
/-- Every device that has come up can have a slot's turn with each code of the table, and with others. -/
theorem turning_turn {s : State} (h : s.devState ≠ 0) :
    ∀ code ∈ List.range 0x20, ∀ slot ∈ [0, 1023], CommandTurn (turning code slot s) code slot := by
  have f : ∀ code ∈ List.range 0x20, ∀ slot ∈ [0, 1023], (turning code slot State.reset).slotField slot 0 = code := by decide +kernel
  intro code hc slot hs
  refine ⟨?_, rfl, f code hc slot hs, h⟩
  simp only [List.mem_cons, List.not_mem_nil, or_false] at hs
  omega

/-- The device whose next bell is slot 1023's, with a code. -/
def atTurn (code : Nat) (sf : State → State := id) : State := turning code 1023 (readyState sf)
/-- A firmware image that has been read, and one that has not. -/
def stageJob (failed : Bool) : Job := { id := 7, asid := 512, core := 0, fn := .firmware, obj := 1023, launch := none, ops := [], part := [], got := [[1]], failed := failed }

/-- Slots 0 and 1023 whose bell is next; each argument at and beyond its bounds; each wrong state. -/
theorem test_witness_PaciaCommands :
    ((readyState).devState ≠ 0 ∧ ∀ code ∈ List.range 0x20, ∀ slot ∈ [0, 1023], CommandTurn (turning code slot readyState) code slot) ∧
    (let known (s : State) (n : Nat) : Bool := s.asids.any (fun (x : Asid) => x.id == n)
     known (atTurn 1) 0 = true ∧ known (atTurn 1) 511 = false ∧ (atTurn 1).devState = 2 ∧ (atTurn 1).devNum ≠ 0) ∧
    (((atTurn 2).ridges.any (fun (r : Ridge) => r.asid == 0 && r.state != .ended) || (atTurn 2).queues.any (fun (q : Queue) => q.asid == 0)) = true ∧
     (let s := atTurn 2 (fun s => { s with queues := [] })
      (s.ridges.any (fun (r : Ridge) => r.asid == 0 && r.state != .ended) || s.queues.any (fun (q : Queue) => q.asid == 0)) = false)) ∧
    ((atTurn 4).queue? 510 = none ∧ (atTurn 4).queue? 511 ≠ none) ∧
    ((atTurn 5).queue? 510 = none ∧ (atTurn 5).queue? 511 ≠ none ∧ (∀ l ∈ (atTurn 5).launches, l.queue = 511 → l.state = .checking ∧ l.replay = false) ∧
     (∀ x ∈ [aLaunch .running (sized 1 1) [], { aLaunch .checking (sized 1 1) [] with replay := true }],
       let s := atTurn 5 (fun s => { s with launches := [x] })
       s.queue? 511 ≠ none ∧ ∃ l ∈ s.launches, l.queue = 511 ∧ (l.state ≠ .checking ∨ l.replay = true)) ∧
     (let s := atTurn 5 (fun s => { s with launches := [aLaunch .checking (sized 1 1) []] })
      s.queue? 511 ≠ none ∧ ∀ l ∈ s.launches, l.queue = 511 → l.state = .checking ∧ l.replay = false)) ∧
    ((atTurn 6).modes.getLsbD 4 = false ∧ (atTurn 6 (fun s => { s with modes := 16 })).modes.getLsbD 4 = true ∧ (atTurn 6).capSeq = none ∧
     (atTurn 6 (fun s => { s with capSeq := some 7 })).capSeq = some 7) ∧
    ((atTurn 7).asids ≠ [] ∧ (atTurn 7 (fun s => { s with asids := [] })).asids = [] ∧ (atTurn 7 (fun s => { s with asids := [] })).devState = 2) ∧
    (2046 ≠ (atTurn 8).devNum ∧ (atTurn 8).drain.getLsbD 0 = false ∧ (atTurn 8 (fun s => { s with drain := 1 })).drain.getLsbD 0 = true ∧
     (atTurn 8 (fun s => { s with drain := 1 })).ridges = []) ∧
    ((atTurn 10 (fun s => { s with feat := 0 })).feat.getLsbD 2 = false ∧ (atTurn 10).feat.getLsbD 2 = true ∧ (atTurn 10).queue? 511 ≠ none) ∧
    ((atTurn 11 (fun s => { s with feat := 0 })).feat.getLsbD 2 = false ∧ (atTurn 11).feat.getLsbD 2 = true ∧ (atTurn 11).queue? 510 = none ∧
     (atTurn 11).queue? 511 = some (aQueue 0) ∧ (∀ l ∈ (atTurn 11).launches, l.replay = true → l.state ≠ .queued) ∧
     (∀ k ∈ [doneCairn, aCairn, { doneCairn with header := { fetchHeader with codeSize := 64 } }], let s := atTurn 11 (fun s => { s with cairns := [k] })
       (∀ l ∈ s.launches, l.replay = true → l.state ≠ .queued) ∧ s.feat.getLsbD 2 = true ∧ s.queue? 511 = some (aQueue 0) ∧
       s.cairns.find? (fun (k : Cairn) => k.id == 4) = some k ∧ s.cairnSound k = true ∧ s.launch? s.fresh = none) ∧
     doneCairn.live = false ∧ aCairn.live = true ∧ 0 + 1 ≤ doneCairn.packet.count ∧ doneCairn.packet.count < 1 + doneCairn.packet.count ∧
     ({ doneCairn with header := { fetchHeader with codeSize := 64 } } : Cairn).header.codeSize ≠ 0 ∧
     (∃ v : Byte, let k : Cairn := { doneCairn with flips := [(0x24, v)] }
       let s := atTurn 11 (fun s => { s with cairns := [k] })
       s.cairns.find? (fun (k : Cairn) => k.id == 4) = some k ∧ s.queue? 511 = some (aQueue 0) ∧ s.cairnSound k = false) ∧
     (atTurn 11).cairns.find? (fun (k : Cairn) => k.id == 0x2000) = none ∧ (atTurn 11).cairns.find? (fun (k : Cairn) => k.id == 2 ^ 42) = none ∧
     isGlobal (BitVec.ofNat 64 0x2000) = false ∧ isGlobal (BitVec.ofNat 64 (2 ^ 42)) = true ∧
     (atTurn 11).memExists (aQueue 0).asid (BitVec.ofNat 64 (2 ^ 42)) 64 = true) ∧
    ((atTurn 13).link 0).state = .down ∧ ((atTurn 13).link 5).state ≠ .down ∧
    ((atTurn 14).modes.getLsbD 4 = false ∧ (atTurn 14 (fun s => { s with modes := 16 })).modes.getLsbD 4 = true) ∧
    ((turning 15 0 readyState 1019).slotField 0 8 = 1019 ∧ (turning 15 1023 readyState 1).slotField 1023 8 = 1 ∧
     (turning 15 0 readyState 1020).slotField 0 8 = 1020 ∧ (turning 15 0 readyState 1020).slotField 0 8 ≠ 1019 ∧ 1019 + 4 ≤ 1023 ∧ 1023 < 1020 + 4) ∧
    (∀ st ∈ [0, 1], let s := atTurn 16 (fun s => { s with devState := st })
      s.devState = st ∧ s.rung.head? = some 1023 ∧ s.slotField 1023 0 = 0x10 ∧ s.job? .firmware 1023 = none ∧ s.thisDev 0x2000 = true ∧ gaHome 0x2000 < 1040 ∧
      s.thisDev 0xFFE0000000000000 = false) ∧
    (∀ failed ∈ [false, true], (stageJob failed).fn = .firmware ∧ (stageJob failed).ops = [] ∧ (stageJob failed).got = [[1]] ∧ (stageJob failed).failed = failed) ∧
    (∀ (r : Option Nat) (n : Nat), (∃ v, r = some v ∧ n ≤ v) ∨ ∀ v, r = some v → v < n) ∧
    ((atTurn 17 (fun s => { s with feat := 0 })).feat.getLsbD 1 = false ∧ (atTurn 17).feat.getLsbD 1 = true ∧ (atTurn 17).ridges = []) ∧
    (let s := atTurn 1 (fun s => { s with devState := 0 })
     s.rung = [1023, 2] ∧ s.devState = 0 ∧ s.slotField 1023 0 ≠ 0x10) := by
  have hd : (readyState).devState ≠ 0 := by decide
  refine ⟨⟨hd, turning_turn hd⟩, ⟨rfl, rfl, rfl, by decide⟩, ⟨by decide +kernel, by decide +kernel⟩, ⟨rfl, by decide +kernel⟩,
    ⟨rfl, by decide +kernel, (fun l h => by cases h), ?_, by decide +kernel, ?_⟩, ⟨rfl, rfl, rfl, rfl⟩,
    ⟨by decide, rfl, rfl⟩, ⟨by decide, rfl, rfl, rfl⟩, ⟨rfl, rfl, by decide +kernel⟩,
    ⟨rfl, rfl, rfl, rfl, (fun l h => by cases h), ?_, rfl, rfl, by decide, by decide, by decide, ⟨1, rfl, rfl, ?_⟩, rfl, rfl, by decide, by decide +kernel, by decide +kernel⟩,
    rfl, by decide, ⟨rfl, rfl⟩, ⟨by decide +kernel, by decide +kernel, by decide +kernel, by decide +kernel, by decide, by decide⟩, ?_, ?_, fun r n => ?_, ⟨rfl, rfl, rfl⟩, rfl, rfl, by decide +kernel⟩
  · intro x hx
    simp only [List.mem_cons, List.not_mem_nil, or_false] at hx
    rcases hx with rfl | rfl
    · exact ⟨by decide +kernel, _, .head _, rfl, .inl (by decide)⟩
    · exact ⟨by decide +kernel, _, .head _, rfl, .inr rfl⟩
  · intro l h hq
    cases h with
    | head => exact ⟨rfl, rfl⟩
    | tail _ h => cases h
  · intro k hk
    simp only [List.mem_cons, List.not_mem_nil, or_false] at hk
    rcases hk with rfl | rfl | rfl <;> exact ⟨(fun l h => by cases h), rfl, rfl, rfl, rfl, rfl⟩
  · exact Laws.damaged_cairn rfl
  · intro st h
    simp only [List.mem_cons, List.not_mem_nil, or_false] at h
    rcases h with rfl | rfl <;> exact ⟨rfl, rfl, by decide +kernel, rfl, by decide +kernel, by decide +kernel, by decide +kernel⟩
  · intro b h
    simp only [List.mem_cons, List.not_mem_nil, or_false] at h
    rcases h with rfl | rfl <;> exact ⟨rfl, rfl, rfl, rfl⟩
  cases r with
  | none => exact .inr (fun v h => by cases h)
  | some w => exact (Nat.lt_or_ge w n).elim (fun h => .inr (fun v hv => by cases hv; exact h)) (fun h => .inl ⟨w, rfl, h⟩)

/-! ### The machine as a whole -/

/-- The state in which core 0 is about to run a word, without the values of the other witnesses. -/
def fetched (w : Nat) : State := State.reset.withFetchWord 32 w

/-- An event and an instruction in the agenda; a router cycle, the rest of a core's cycle, an instruction and a word that is none. -/
theorem test_witness_StepRunsDecoded :
    Instr.snapshotRewrite.isEvent = true ∧ (Instr.add 1 2 3).isEvent = false ∧ State.reset.agenda = [] ∧ State.reset.due = [] ∧
    ({ State.reset with due := [0], opened := true } : State).due = [0] ∧
    (∀ w ∈ [(1 : Nat), 0x7F], let s := fetched w
      let s1 := s.cycleStart 0
      let t := s1.thr 0 0
      s.agenda = [] ∧ s.due = [0] ∧ s.opened = false ∧ s1.curSlot = 0 ∧ t.life = .live ∧ t.removed = false ∧ t.replayNext = false ∧
      s1.held 0 0 = false ∧ t.wakeAt ≤ s1.now 0 ∧ s1.mayIssue 0 0 = true ∧
      ∃ s2, s1.pcHits 0 0 = (s2, none) ∧ s2.persists 0 0 = false ∧ (s2.thr 0 0).pc.toNat < s2.codeSize 0 ∧
        ∃ x, (s2.core 0).fetchWord (s2.thr 0 0).pc = .word x ∧ x.toNat = w) ∧
    decode 1 = .ok (.add 0 0 0) ∧ ∃ r, decode 0x7F = .error r := by
  refine ⟨rfl, rfl, rfl, rfl, rfl, ?_, rfl, _, rfl⟩
  intro w hw
  simp only [List.mem_cons, List.not_mem_nil, or_false] at hw
  rcases hw with rfl | rfl <;>
    exact ⟨rfl, rfl, rfl, rfl, rfl, rfl, rfl, rfl, by decide, rfl, _, rfl, rfl, by decide +kernel, _, rfl, rfl⟩
/-- An instruction with every field at its largest value. -/
theorem test_witness_DecodeEncode : (Instr.add 63 63 63).wf = true ∧ decode (encode (.add 63 63 63)) = .ok (.add 63 63 63) := ⟨by decide, by rfl⟩
theorem test_witness_MemoryStaysCanonical : MemInv State.reset ∧ (∃ t, step State.reset = .next t) ∧
    MemInv ((fetched 1).setBytes 0 0x2000 [1, 0, 2]) ∧ ((fetched 1).setBytes 0 0x2000 [1, 0, 2]).mem = [(0x2000, 1), (0x2002, 2)] ∧
    ∃ t, step ((fetched 1).setBytes 0 0x2000 [1, 0, 2]) = .next t := ⟨by rfl, ⟨_, rfl⟩, by rfl, by rfl, _, rfl⟩

/-- g1 full, g5 pending, g47 free; v2 full, v47 free. -/
def mixed : State :=
  testState 0 vals (fun t => { t with g := (t.g.set 5 ⟨0, .pending, false⟩).set 47 ⟨0, .free, false⟩, v := t.v.set 47 ⟨0, .free, false⟩ })
theorem test_witness_RegisterAccess :
    (mixed.thr 0 0).g[1]? = some ⟨5, .full, false⟩ ∧ (mixed.thr 0 0).g[5]? = some ⟨0, .pending, false⟩ ∧
    (mixed.thr 0 0).g[47]? = some ⟨0, .free, false⟩ ∧ (mixed.thr 0 0).v[2]? = some ⟨2, .full, false⟩ ∧
    (mixed.thr 0 0).v[47]? = some ⟨0, .free, false⟩ := ⟨by rfl, by rfl, by rfl, by rfl, by rfl⟩

/-- The last register of each file; the last bytes of a home's space. -/
theorem test_witness_Frames :
    (∀ x ∈ [(Opnd.g 47, Val.of 5), (.v 47, ⟨5, false⟩), (.m 7, ⟨5, false⟩)], PlainRegister x.1) ∧
    (∃ s2, (testState 0 vals).putAll 0 0 [(.g 47, Val.of 5), (.v 47, ⟨5, false⟩), (.m 7, ⟨5, false⟩)] = .ok s2) ∧
    (testState 0 vals).curCore = 0 ∧ (testState 0 vals).curSlot = 0 ∧ MemInv (testState 0 vals) ∧
    Config.homeSpan - 2 + [(1 : Byte), 2].length ≤ Config.homeSpan := by
  refine ⟨?_, ⟨_, rfl⟩, rfl, rfl, rfl, by decide⟩
  intro x hx
  simp only [List.mem_cons, List.not_mem_nil, or_false] at hx
  rcases hx with rfl | rfl | rfl <;> simp [PlainRegister]

/-- An instance with a user trap handler. -/
def handlerState (running : Bool) : State :=
  testState 0 vals (fun t => { t with handler := running }) id (withRidge (fun r => { r with header := { r.header with trapEntry := some 128 } }))
/-- A soft trap where the handler is declared, where it runs, and where none is declared. -/
theorem test_witness_ExceptionEntry :
    (det cSoftTrap 1 &&& 0xFF00 = cSoftTrap) ∧ ((handlerState false).thr 0 0).handler = false ∧ (handlerState false).trapEntry? 0 = some 128 ∧
    ((handlerState true).thr 0 0).handler = true ∧ (testState 0 vals).trapEntry? 0 = none ∧
    (∃ r x, ((handlerState true).core 0).ridge = some r ∧ (handlerState true).ridges.find? (fun (x : Ridge) => x.id == r) = some x ∧
      x.state ≠ .ended) ∧ 2 ≤ grade (det cMisaligned 8) ∧ grade (det cMisaligned 8) < 7 :=
  ⟨by decide, rfl, rfl, rfl, rfl, ⟨_, _, rfl, rfl, by decide⟩, by decide, by decide⟩
theorem test_witness_ExceptionReturn :
    (let s := handlerState true
     Opens s { srcs := [], dsts := [], ordering := true, slots := 0x8FFF } s [] ∧ s.curSlot < 16 ∧ (s.thr 0 0).handler = true) ∧
    (let s := handlerState false
     Opens s { srcs := [], dsts := [], ordering := true, slots := 0x8FFF } s [] ∧ (s.thr 0 0).handler = false) :=
  ⟨⟨opens_of rfl rfl, by decide, rfl⟩, opens_of rfl rfl, rfl⟩

/-- A slot-15 form in slot 0; a register beyond the declared ones; a full window and a wait; an empty, a pending and a poisoned source. -/
theorem test_witness_IssueChecks :
    ({ fR 9 1 with slots := 0x8000 } : Form).slotOk 0 false = false ∧ (fR 9 1).slotOk 0 false = true ∧
    (let s := testState 0 vals id id (withRidge (fun r => { r with header := { r.header with regs := 8 } }))
     s.undeclared 0 (fR 9 1).names = some 9 ∧ s.undeclared 0 (fR 8 1).names = none) ∧
    (let t := (dueState (.divide 7) [.g 9]).thr 0 0
     t.windowWait true ≠ none ∧ t.windowWait false = none ∧ ({ t with pend := [{ pendOf (.divide 7) [.g 9] with la := 0 }] } : Thread).windowWait false ≠ none) ∧
    (mixed.undeclared 0 (fR 9 47).names = none ∧ (mixed.thr 0 0).invocation = none ∧ (mixed.thr 0 0).windowWait false = none ∧
     mixed.edgePort 0 0 (fR 9 47).names = none ∧ mixed.isPair 0 0 = false ∧
     mixed.readAll 0 0 [.g 47] = .trap (det cRegisterEmpty 47) ∧ ∃ w, mixed.readAll 0 0 [.g 5] = .park w) ∧
    (let s := testState 0 vals (fun t => { t with g := t.g.set 1 ⟨5, .full, true⟩ })
     s.readAll 0 0 [.g 1] = .ok s [⟨5, true⟩] ∧ s.accessHits 0 0 (fR 9 1) [⟨5, true⟩] = [] ∧ (s.thr 0 0).dstWait [.g 9] = none ∧
     (fR 9 1).passes = false) :=
  ⟨by decide, by decide, ⟨rfl, rfl⟩, ⟨by decide, by decide, by decide⟩, ⟨rfl, rfl, rfl, rfl, rfl, rfl, _, rfl⟩, rfl, rfl, rfl, rfl⟩

/-- The first address of each region and the last that an access of 8 bytes reaches; a window for reading, for writing, for both. -/
theorem test_witness_AccessChecks :
    let k (r w : Bool) (therm : Nat) : Core := { Core.reset with windows := [⟨0, 0x100000, r, w⟩], scratch := 0x8000, therm := therm }
    (k true true 0).check 0x40000000000 8 8 true false false = some (det cNonlocal 0) ∧
    (k true true 0).check 0x3FFFFFFFFFC 8 8 true false false = some (det cMisaligned 8) ∧
    (k true true 0).check 0x40000000 8 8 true false false = some (det cLeaseMiss 2) ∧
    (k true true 0).check 0x10000200000 8 8 true false false = some (det cLeaseMiss 2) ∧
    (k true true 0).check 0x10000008000 8 8 true false false = some (det cScratchBound 0) ∧
    (k true true 3).check 0x10000007FF8 8 8 true false false = none ∧
    (k true true 0).check 0x100000 8 8 true false false = some (det cLeaseMiss 1) ∧
    (k false true 0).check 0xFFFF8 8 8 true false false = some (det cLeaseMiss 5) ∧
    (k true false 0).check 0xFFFF8 8 8 true true false = some (det cLeaseMiss 4) ∧
    (k true true 3).check 0xFFFF8 8 8 true true false = some (det cVaultThermal 1) ∧
    (k true true 0).check 0xFFFF8 8 8 true true false = none := by decide +kernel

/-! ### Witnesses of the clauses that a single state does not meet -/

/-- A sector that a beat reads whose stored CRC no longer fits, and one that is sound. -/
theorem test_witness_BankEvents_rebuild :
    let s (soft : List Soft) : State := { bankState { Bank.reset with state := .opened } (fun k => { k with beats := [bankBeat] }) with soft := soft }
    (s []).readsAt 0 bankRead false = [(0x40, 8)] ∧ (s []).mustRebuild 0 0x40 8 = false ∧ (s [⟨1, 1, 0, false⟩]).readsAt 0 bankRead false = [(0x40, 8)] ∧
    (s [⟨1, 1, 0, false⟩]).mustRebuild 0 0x40 8 = true := by decide +kernel
/-- A merge in a critical vault whose line has not been read yet. -/
theorem test_witness_TagEvents_critical :
    let m := msgOf (.merge 9) 0 0 0
    let s := (homeState m).modCore 0 (fun k => { k with cells := [aCell (homeState m)], therm := 3 })
    s.agentMsg? 0 = some m ∧ s.nextMerge 0 9 = some (aCell (homeState m)) ∧ s.hasBeat 0 .agent = false ∧ (s.core 0).therm = 3 ∧
    (s.core 0).halfDone .agent = false := by decide +kernel
/-- An LDX whose message is at no home, and one whose message has its turn at core 1. -/
theorem test_witness_TagInstructions_home :
    (∀ ea ∈ [(0x40 : Word), 0x10000000000], (taggedState vals (pending (.ldx 0 ea 9) [.g 9])).ldxAt 0 0 3 = none) ∧
    (let m := msgOf (.ldx 0 9) 1 0 core1
     let k : Core := { Core.reset with inbuf := [m], cycle := 16 }
     let s : State := { State.reset with cores := [(1, k)] }
     s.cores = [(1, k)] ∧ s.agentMsg? 1 = some m ∧ m.dev = 0 ∧ s.ldxAt 0 0 3 = some (1, m)) := by
  refine ⟨?_, rfl, rfl, rfl, rfl⟩
  intro ea he
  simp only [List.mem_cons, List.not_mem_nil, or_false] at he
  rcases he with rfl | rfl <;> rfl
/-- No older store of the thread is waiting to be performed where a symbol goes; the vault under a window takes spills. -/
theorem test_witness_Streams_stores :
    (let s := streamState [] [pendOf (.tdec tableWord 0x00010000000FFFFE 0 []) [.g 9]] (window false 64)
     s.symHeld 0 3 0x00010000000FFFFE 0 = false ∧ ([] : List Gathered).find? (fun (g : Gathered) => s.hasBeat 0 (.word 3 g.first)) = none) ∧
    (streamState [] [pendOf (.lmerge 0x00010000000FFFFE 0 []) [.g 9]] BitBuf.reset [aLane]).symHeld 0 3 0x00010000000FFFFE 0 = false ∧
    (streamState [] [pendOf (.zrenc 0x10000000008 1 0 false 0) [.g 9]] (window true 0)).spillHeld 0 = false ∧
    (let hot := testState 15 [] (fun t => { t with bb := window true 62 }) (fun k => { k with therm := 3 })
     hot.spillHeld 0 = true ∧ (hot.bb 0).valid ≤ 62) := by decide +kernel
/-- A packet that has been read, clean and poisoned, by an instance and by a mirror; one that stands in its ring. -/
theorem test_witness_ThreadControl_launch :
    (∀ po ∈ [false, true], ∀ mirror ∈ [false, true], let p : Pend := { pendOf (.launch 0 0xFFF80 511 0) [.g 9] with got := [(0, 5, po)] }
      let s := testState 0 vals (fun t => { t with pend := [p] }) id (fun s => withRidge (fun r => { r with mirror := mirror })
        { s with asids := [testAsid], queues := [aQueue 0], lockstep := if mirror then 1 else 0 })
      DuePend s 0 0 3 p ∧ p.gotOf 0 = some (5, po) ∧ s.queue? 511 = some (aQueue 0) ∧ s.isMirror 0 = mirror) ∧
    (let p := pendOf (.launch 5 0xFFF80 511 2) [.g 9]
     DuePend (dueState p.kind p.dst) 0 0 3 p ∧ p.kind = .launch 5 0xFFF80 511 2) := by
  refine ⟨?_, ⟨rfl, by decide⟩, rfl⟩
  intro po hp mirror hm
  simp only [List.mem_cons, List.not_mem_nil, or_false] at hp hm
  rcases hp with rfl | rfl <;> rcases hm with rfl | rfl <;> exact ⟨⟨rfl, by decide⟩, rfl, rfl, rfl⟩
/-- A request whose release is over and one that waits; slot 14 removed; a window on its way; a home that no refused message precedes. -/
theorem test_witness_CopyRequests_waits :
    (let r (ids : List Nat) : CopyReq := { aCopy 0 0x10000000000 counterWord false 0 with waits := ids }
     let s (ids : List Nat) : State := (copyState (r ids)).modThr 0 0 (fun t => { t with pend := [pendOf (.stl 0 8 5 0 2 []) []] })
     (∀ ids, ((s ids).core 0).copies.find? (fun (r : CopyReq) => !r.active) = some (r ids)) ∧ (s []).waitsOver 0 0 [] = true ∧
     (s [3]).waitsOver 0 0 [3] = false ∧ ((s []).thr 0 14).removed = false ∧ (s []).windowsMove 0 = false ∧
     (((s []).modThr 0 14 (fun t => { t with removed := true })).thr 0 14).removed = true ∧
     (let w := withRidge (fun x => { x with state := .resuming }) (s [])
      ({ w with jobs := w.ridges.map (fun x => aJob .resume x.id none [.put 0 0 [5]] []) } : State).windowsMove 0 = true)) ∧
    (∀ k ∈ [MsgKind.copyWrite [(5, false)], .copyRead 64 0x10000000000], (homeState (msgOf k 0 0xFFF00 0xFFF00) id (some .agentRun)).behindRefused
      (msgOf k 0 0xFFF00 0xFFF00) = false) := by
  refine ⟨⟨fun _ => rfl, rfl, by decide, rfl, by decide +kernel, rfl, by decide +kernel⟩, ?_⟩
  intro k hk
  simp only [List.mem_cons, List.not_mem_nil, or_false] at hk
  rcases hk with rfl | rfl <;> decide +kernel

/-- A slot of a redundant pair with the pair's queues. -/
def pairState (sl : Nat) (p : Pair) : State :=
  testState sl vals id (fun k => { k with redundant := true, pairs := k.pairs.set 0 p, cycle := 64 + sl })
theorem pair_opens_of {s s1 : State} {f : Form} {xs : List Val}
    (h : (f.slotOk s.curSlot (me s).invocation.isSome && (s.undeclared s.curCore f.names).isNone && (me s).invocation.isNone &&
      ((me s).windowWait f.ordering).isNone && (s.edgePort s.curCore s.curSlot f.names).isNone &&
      (s.accessHits s.curCore s.curSlot f (s.allSrcs s.curCore s.curSlot f xs)).isEmpty && ((me s).dstWait f.dsts).isNone &&
      !xs.any (·.poison) && s.isPair s.curCore s.curSlot && (f.takesIn || f.givesOut)) = true)
    (r : s.readAll s.curCore s.curSlot (f.ownSrcs (s.isTrailing s.curCore s.curSlot)) = .ok s1 xs) : PairOpens s f s1 xs := by
  simp only [Bool.and_eq_true, Bool.or_eq_true, Bool.not_eq_true', Option.isNone_iff_eq_none, List.isEmpty_iff] at h
  obtain ⟨⟨⟨⟨⟨⟨⟨⟨⟨h1, h2⟩, h3⟩, h4⟩, h5⟩, h6⟩, h7⟩, h8⟩, h9⟩, h10⟩ := h
  exact ⟨h1, h2, fun v hv => by simp [h3] at hv, h4, h5, r, .inr h6, h7, .inl h8, h9, h10⟩
/-- A form that gives an effect, one that takes a value, and one with a shared register as a source. -/
def givesForm : Form := { srcs := [.g 1], dsts := [], gives := true }
def takesForm : Form := { srcs := [.g 1], dsts := [.g 9], la := some 0, takes := true }
def sourceForm : Form := { srcs := [.g 48], dsts := [.g 9] }
/-- A body that pends and one that issues at once. -/
def pendBody (s : State) (c _sl : Nat) (_xs : List Val) : Act := .pend s (.divide 7) (s.now c)
def giveBody (s : State) (_c _sl : Nat) (_xs : List Val) : Act := .ret s [] none
/-- The deposit of a slot of the pair, its effect on g1 = 5, and another with other data. -/
def aDeposit (lead : Bool) (v : Word) (matched : Bool) : CmpEntry := ⟨lead, 64, 0, ownData [Val.of v], 64, matched⟩
/-- A load-value entry for the pair's next taking instruction. -/
def anEntry (v : Word) (isReady : Bool) : LvEntry := { pc := 64, ops := ownData [Val.of v], id := 3, vals := [(8, false)], ready := isReady }

/-- A slot of a pair at a form that gives an effect, leading and trailing: no deposit, with room and none; its twin's that agrees and that
differs; its own that has been matched. -/
theorem test_witness_InstructionSupply_gives :
    (∀ sl ∈ [0, 1], ∀ cmp ∈ [[], List.replicate 8 (⟨true, 64, 2, [], 64, false⟩ : CmpEntry), [aDeposit (sl == 1) 5 false], [aDeposit (sl == 1) 6 false],
        [aDeposit (sl == 0) 5 true]],
      let p : Pair := { Pair.reset with cmp := cmp }
      let s := pairState sl p
      PairOpens s givesForm s [Val.of 5] ∧ (myPair s).lvq.length ≤ 32 ∧ (myPair s).cmp = cmp ∧ (s.curSlot % 2 == 0) = (sl == 0) ∧ (me s).pc = 64 ∧
      HasEffect (giveBody s 0 sl [Val.of 5]) ∧ HasEffect (pendBody s 0 sl [Val.of 5])) ∧
    (givesForm.takes = false ∧ givesForm.srcsIn = false ∧ givesForm.givesOut = true) ∧
    (∀ l ∈ [false, true],
      let q (es : List CmpEntry) : Pair := { Pair.reset with cmp := es }
      (ownDeposit (q []) l = none ∧ twinDeposit (q []) l = none) ∧
      (let full := q (List.replicate 8 ⟨true, 64, 2, [], 64, false⟩)
       ownDeposit full l = none ∧ twinDeposit full l = none ∧ 8 ≤ full.cmp.length) ∧
      (∀ v ∈ [(5 : Word), 6], ownDeposit (q [aDeposit (!l) v false]) l = none ∧
        twinDeposit (q [aDeposit (!l) v false]) l = some (aDeposit (!l) v false)) ∧
      ownDeposit (q [aDeposit l 5 true]) l = some (aDeposit l 5 true)) := by
  refine ⟨?_, ⟨rfl, rfl, rfl⟩, ?_⟩
  · intro sl hs cmp hc
    simp only [List.mem_cons, List.not_mem_nil, or_false] at hs hc
    rcases hs with rfl | rfl <;> rcases hc with rfl | rfl | rfl | rfl | rfl <;>
      exact ⟨pair_opens_of rfl rfl, by decide, rfl, rfl, rfl, .inl ⟨_, _, _, rfl⟩, .inr ⟨_, _, _, rfl⟩⟩
  · intro l hl
    simp only [List.mem_cons, List.not_mem_nil, or_false] at hl
    rcases hl with rfl | rfl <;> exact ⟨⟨rfl, rfl⟩, ⟨rfl, rfl, by decide⟩, fun v _ => ⟨rfl, rfl⟩, rfl⟩
/-- A slot of a pair at a form that takes a value: the leading slot with room in the load-value queue and with none; the trailing slot with no
entry, with one whose value has not come, with one of other operands, and with its own. -/
theorem test_witness_InstructionSupply_takes :
    (∀ q ∈ [[], List.replicate 32 (anEntry 5 true)], let s := pairState 0 { Pair.reset with lvq := q }
      PairOpens s takesForm s [Val.of 5] ∧ (myPair s).lvq.length = q.length) ∧
    (∀ q ∈ [[], [anEntry 5 false], [anEntry 6 true], [anEntry 5 true]], let s := pairState 1 { Pair.reset with lvq := q }
      PairOpens s takesForm s [Val.of 5] ∧ (myPair s).leadTrap (me s).pc = none ∧ ((s.core 0).pair 0).lvq = q ∧ (me s).pc = 64) ∧
    (takesForm.takes = true ∧ takesForm.srcsIn = false ∧ takesForm.givesOut = false) ∧
    (let s := testState 0 vals id (fun k => shared { k with redundant := true })
     PairOpens s sourceForm s [Val.of 9] ∧ (myPair s).lvq.length < 32) ∧
    (let s := testState 1 vals id (fun k => shared { k with redundant := true })
     PairOpens s sourceForm s [] ∧ (myPair s).leadTrap (me s).pc = none ∧ ((s.core 0).pair 0).lvq = []) ∧
    (sourceForm.takes = false ∧ sourceForm.srcsIn = true ∧ sourceForm.givesOut = false) ∧
    (let s := pairState 0 { Pair.reset with lvq := [anEntry 5 false] }
     s.isPair 0 0 = true ∧ ((s.core 0).pair 0).lvq = [anEntry 5 false] ∧ (anEntry 5 false).id = 3 ∧ (anEntry 5 false).ready = false) := by
  refine ⟨?_, ?_, ⟨rfl, rfl, rfl⟩, ⟨pair_opens_of rfl rfl, by decide⟩, ⟨pair_opens_of rfl rfl, rfl, rfl⟩, ⟨rfl, rfl, rfl⟩, rfl, rfl, rfl, rfl⟩
  · intro q hq
    simp only [List.mem_cons, List.not_mem_nil, or_false] at hq
    rcases hq with rfl | rfl <;> exact ⟨pair_opens_of rfl rfl, rfl⟩
  · intro q hq
    simp only [List.mem_cons, List.not_mem_nil, or_false] at hq
    rcases hq with rfl | rfl | rfl | rfl <;> exact ⟨pair_opens_of rfl rfl, rfl, rfl, rfl⟩
/-- A trap of one slot of a pair, of both, and of both that differ; the fourth flag on a word that is in the instruction store. -/
theorem test_witness_InstructionSupply_traps :
    (∀ sl ∈ [0, 1], let e (lead : Bool) (code : Word) : CmpEntry := ⟨lead, 64, 1, [code, 0, 0], 64, false⟩
      let s (es : List CmpEntry) := pairState sl { Pair.reset with cmp := es }
      let lead : Bool := sl == 0
      (ownDeposit ((s []).core 0 |>.pair (sl / 2)) lead = none ∧ twinDeposit ((s []).core 0 |>.pair (sl / 2)) lead = none) ∧
      (∀ code ∈ [(0x402 : Word), 0x403], let es := [e (!lead) code]
        ownDeposit ((s es).core 0 |>.pair (sl / 2)) lead = none ∧ twinDeposit ((s es).core 0 |>.pair (sl / 2)) lead = some (e (!lead) code))) ∧
    (let s := testState 0 [] (fun t => { t with replays := 3 })
     (s.thr 0 0).life = .live ∧ 3 ≤ (s.thr 0 0).replays ∧ (s.core 0).fetchWord (s.thr 0 0).pc = .word 1 ∧ s.isPair 0 0 = false ∧
     (testState 0 [] (fun t => { t with replays := 3 }) (fun k => { k with redundant := true })).isPair 0 0 = true) := by
  refine ⟨?_, rfl, by decide, rfl, rfl, rfl⟩
  intro sl hs
  simp only [List.mem_cons, List.not_mem_nil, or_false] at hs
  rcases hs with rfl | rfl <;> exact ⟨⟨rfl, rfl⟩, fun code _ => ⟨rfl, rfl⟩⟩

/-- A core whose queue the device serves; a resumed instance whose windows are being copied, have been copied, and whose requests stand
ready; an instance whose twin is set up and one whose twin is not. -/
theorem test_witness_PlacementEvents_resume :
    (launchState [] (fun s => { s with launches := [aLaunch .placing (sized 32 16) []] })).serves (aLaunch .placing (sized 32 16) []).queue = true ∧
    (let s (ops : List JobOp) : State := let s := instState .resuming
       { s with jobs := [aJob .resume (inst s).id none ops []] }
     let r := inst (instState .resuming)
     (∀ ops ∈ [[], [JobOp.put 0 0 [5]]], (s ops).ridges.find? (fun (x : Ridge) => x.id == r.id) = some r ∧ r.state = .resuming ∧
       (s ops).jobs.any (fun (j : Job) => j.obj == r.id && j.fn == .resume) = true) ∧
     (s []).jobs.all (fun (j : Job) => !j.setsUp r.id || j.isOver) = true ∧
     (s [.put 0 0 [5]]).jobs.all (fun (j : Job) => !j.setsUp r.id || j.isOver) = false) ∧
    (let s := instState .starting
     s.twinSetUp (inst s) = true ∧ s.recommitted (inst s) = true ∧
     (let w : State := { s with ridges := s.ridges ++ [{ inst s with id := (inst s).id + 1, startAt := s.rtime + 1 }] }
      w.twinSetUp (inst s) = false) ∧
     (let w := s.modCore 0 (fun k => { k with copies := [{ aCopy 0 0x10000000000 counterWord false 0 with due := k.cycle + 2 }] })
      w.recommitted (inst w) = false)) ∧
    (∀ m ∈ (instState .saving).msgs, m.refused = true → m.dev = 0 → m.slot < 17 → (inst (instState .saving)).cores.contains m.core = false) := by
  refine ⟨by decide +kernel, by decide +kernel, by decide +kernel, fun m hm => by cases hm⟩

/-- A shipment whose release is over and one that waits; the moment at which shares are taken and another; a clock whose core loses no
cycle of another's. -/
theorem test_witness_PowerEvents_release :
    (let x (ids : List Nat) : Shipment := { dest := 1, entries := [5], waits := [(0, ids)] }
     let s (ids : List Nat) : State := testState 0 [] (fun t => { t with pend := [pendOf (.stl 0 8 5 0 2 []) []] }) (fun k => { k with shipping := [x ids], placedAt := k.cycle })
       (fun s => withRidge (fun r => { r with w := 2 }) s)
     (∀ ids ∈ [[], [3]], ((s ids).core 0).shipping = [x ids] ∧ ((s ids).ridge? 0).map (s ids |>.levelDue 0) = some false) ∧
     (x []).waits.all (fun w => (s []).waitsOver 0 w.1 w.2) = true ∧ (x [3]).waits.all (fun w => (s [3]).waitsOver 0 w.1 w.2) = false ∧
     (let s1 := ((s []).modCore 0 (fun k => { k with shipping := [] })).shipOff 0 (x []).dest (x []).entries
      (s1.ridge? 0).map (s1.levelDue 0) = some false)) ∧
    ((levelState 3).core 0).shipping = [] ∧
    (testState 0 [] id id (fun s => { s with rtime := 1024 })).rtime % 1024 = 0 ∧ (testState 0 [] id id (fun s => { s with rtime := 1025 })).rtime % 1024 ≠ 0 ∧
    ((testState 0 [] id (fun k => { k with pause := some (32, 800) })).core 0).gap = none := by decide +kernel

/-- The start of a device whose links are all trained, and of one with a link still training. -/
theorem test_witness_HostEvents_boot :
    (let s : State := { State.reset with booting := true }
     s.booting = true ∧ s.devState = 0 ∧ s.links.all (fun (k : Link) => k.state != .training) = false) ∧
    (let s : State := { State.reset with booting := true, links := State.reset.links.map (fun k => { k with state := .up16 }) }
     s.booting = true ∧ s.devState = 0 ∧ s.links.all (fun (k : Link) => k.state != .training) = true) ∧
    (({ State.reset with booting := false, rtime := 20000000 } : State).booting = false) := by decide +kernel

/-- A full, a pending and a free mask; a pending vector register. -/
theorem test_witness_RegisterAccess_masks :
    let s := testState 0 vals (fun t => { t with m := (t.m.set 5 ⟨0, .pending, false⟩).set 6 ⟨0, .free, false⟩, v := t.v.set 46 ⟨0, .pending, false⟩ })
    (s.thr 0 0).m[7]? = some ⟨0xFFFF, .full, false⟩ ∧ (s.thr 0 0).m[5]? = some ⟨0, .pending, false⟩ ∧ (s.thr 0 0).m[6]? = some ⟨0, .free, false⟩ ∧
    (s.thr 0 0).v[46]? = some ⟨0, .pending, false⟩ := by decide +kernel

/-- Two windows, of which one may only be read and the other only written; what each refuses, and what each allows. -/
theorem test_witness_AccessChecks_windows :
    let k (therm : Nat) : Core := { Core.reset with windows := [⟨0, 0x1000, true, false⟩, ⟨0x1000, 0x1000, false, true⟩], therm := therm }
    (∀ v ∈ (k 0).windows, v.base ≤ 0xFF8 → 0xFF8 + 8 ≤ v.base + v.len → v = ⟨0, 0x1000, true, false⟩) ∧
    (∀ v ∈ (k 0).windows, v.base ≤ 0x1000 → 0x1000 + 8 ≤ v.base + v.len → v = ⟨0x1000, 0x1000, false, true⟩) ∧
    (k 0).check 0xFF8 8 8 true false false = none ∧ (k 3).check 0xFF8 8 8 true false false = some (det cVaultThermal 1) ∧
    (k 0).check 0xFF8 8 8 false true false = some (det cLeaseMiss 4) ∧ (k 0).check 0x1000 8 8 false true false = none ∧
    (k 3).check 0x1000 8 8 false true false = some (det cVaultThermal 1) ∧ (k 0).check 0x1000 8 8 true false false = some (det cLeaseMiss 5) ∧
    (k 0).check 0x1000 8 8 false false true = none := by decide +kernel

/-- A remote read whose reply has been accepted, and one whose window is full. -/
theorem test_witness_IssueChecks_answered :
    let p (served : Bool) : Pend := { pendOf (.remote 8 false) [.g 9] with la := 0, served := served }
    let t (served : Bool) : Thread := { Thread.reset with pend := [p served] }
    (p true).answered = true ∧ (p false).answered = false ∧ (t true).windowWait true = none ∧ (t false).windowWait false ≠ none := by decide +kernel

/-- A slot that claims no member. -/
theorem test_witness_Frames_claims : ∀ x ∈ (testState 0 vals).pairOf 0 0, ((testState 0 vals).thr 0 x).claiming = none := by decide +kernel

end Sys2Proof.Tests
end

section
/-! SUPPORT. Far agents: what an access leaves to the captures, what one clean block reads as, and what an agent does with the request
it serves (03 R53-R63; 14 R282; 19 R409, R410). -/

namespace Sys2Proof.Laws
open Sys2Proof.Machine

/-! ### Captures see an access and leave the rest (19 R409, R410) -/

/-- Nothing but the cairns and the pre-images on their way to them differs. -/
def CapturesOnly (s t : State) : Prop := ∃ ks ps, t = { s with cairns := ks, preImages := ps }

theorem CapturesOnly.refl (s : State) : CapturesOnly s s := ⟨_, _, rfl⟩

theorem CapturesOnly.trans {s t u : State} (h : CapturesOnly s t) (h' : CapturesOnly t u) : CapturesOnly s u := by
  obtain ⟨_, _, rfl⟩ := h
  obtain ⟨ks, ps, rfl⟩ := h'
  exact ⟨ks, ps, rfl⟩

theorem capturesOnly_foldl {α : Type} (f : State → α → State) (hf : ∀ s a, CapturesOnly s (f s a)) (s : State) (xs : List α) :
    CapturesOnly s (xs.foldl f s) :=
  List.foldlRecOn xs f (.refl s) fun t ht a _ => ht.trans (hf t a)

theorem capturesOnly_touchPage (s : State) (actor home off : Nat) (wr : Bool) (k : Cairn) :
    CapturesOnly s (s.touchPage actor home off wr k) := by
  simp only [State.touchPage]
  split
  · split
    · exact .refl s
    · exact ⟨_, _, rfl⟩
  · split
    · exact ⟨_, _, rfl⟩
    · exact .refl s

theorem capturesOnly_touch (s : State) (actor home off n : Nat) (wr : Bool) : CapturesOnly s (s.touch actor home off n wr) := by
  unfold State.touch
  split
  · exact .refl s
  · exact capturesOnly_foldl _ (fun s k => capturesOnly_foldl _ (fun s o => capturesOnly_touchPage s actor home o wr k) s _) s _

theorem bytes_of_mem {s t : State} (h : t.mem = s.mem) (home off n : Nat) : t.bytes home off n = s.bytes home off n := by
  induction n generalizing off with
  | zero => rfl
  | succ n ih => simp only [State.bytes, State.byte, h, ih]

section
variable (s : State) (actor : Nat) (home off n : Nat) (wr : Bool)

@[simp] theorem touch_bytes (home' off' n' : Nat) : (s.touch actor home off n wr).bytes home' off' n' = s.bytes home' off' n' := by
  obtain ⟨_, _, h⟩ := capturesOnly_touch s actor home off n wr
  exact bytes_of_mem (by rw [h]) home' off' n'

@[simp] theorem touch_checkBlock (home' off' : Nat) : (s.touch actor home off n wr).checkBlock home' off' = s.checkBlock home' off' := by
  obtain ⟨_, _, h⟩ := capturesOnly_touch s actor home off n wr
  rw [h]
  rfl

@[simp] theorem touch_tagBad (home' off' asid : Nat) (left : List (Nat × Vec)) :
    (s.touch actor home off n wr).tagBad home' off' asid left = s.tagBad home' off' asid left := by
  obtain ⟨_, _, h⟩ := capturesOnly_touch s actor home off n wr
  rw [h]
  rfl

end

/-! ### One block (R54-R57) -/

/-- A range within one block is one part. -/
theorem blockParts_single {off n : Nat} (hn : 0 < n) (h : off / 256 = (off + n - 1) / 256) : blockParts off n = [(off, n)] := by
  have hlow : max off (off / 256 * 256) = off := by omega
  have hhigh : min (off + n) (off / 256 * 256 + 256) - off = n := by omega
  simp only [blockParts, ← h, Nat.add_sub_cancel_left, List.range_one, List.map_cons, List.map_nil, Nat.mul_zero, Nat.add_zero, hlow, hhigh]

/-- A part of a clean block under its keys is delivered as it stands in memory. -/
theorem farGotBlock_clean (g : FarGot) {home off n asid : Nat} (core : Nat) (hb : g.broken = none)
    (hc : g.st.checkBlock home off = .clean) (ht : g.st.tagBad home off asid [] = false) :
    g.block home asid core (off, n) =
      { g with st := g.st.touch core home off n false, data := g.data ++ (g.st.bytes home off n).map (fun b => (b, false)) } := by
  simp only [FarGot.block, hb, touch_checkBlock, touch_tagBad, touch_bytes, hc, ht, Option.isSome_none, Bool.false_eq_true, if_false]

/-- A read within one clean block gives the bytes of memory. -/
theorem farGet_clean {s : State} {home off n asid : Nat} (core : Nat) (hn : 0 < n) (h : off / 256 = (off + n - 1) / 256)
    (hc : s.checkBlock home off = .clean) (ht : s.tagBad home off asid [] = false) :
    s.farGet home off n asid core =
      { st := s.touch core home off n false, data := (s.bytes home off n).map (fun b => (b, false)), lost := [], broken := none } := by
  simp only [State.farGet, blockParts_single hn h, List.foldl_cons, List.foldl_nil]
  exact farGotBlock_clean _ core rfl hc ht

/-! ### Serving a request (R61-R63) -/

/-- The agent's port is up, the request's line or page lies here, and its walk does not wait for the host. -/
structure FarReady (s : State) (j : Nat) (m : Msg) : Prop where
  up : s.portsDown.contains (j / 2) = false
  here : s.forwardTo m = none
  walks : s.ask 1 m.id = (true, s)

theorem farServe_down {s : State} {j : Nat} {m : Msg} (rd wr : Bool) (go : State → Nat → State)
    (h : s.portsDown.contains (j / 2) = true) : s.farServe j m rd wr go = s.farFail m (det cFarPortDown 0) := by
  simp only [State.farServe, h, if_true]

/-- A request whose address does not translate touches no page, so that it waits for no pre-image. -/
theorem farHeld_of_fault {s : State} {m : Msg} {rd wr : Bool} {code : BitVec 16} (h : s.homeAt m m.span rd wr = .fault code) :
    s.farHeld m rd wr = none := by
  simp only [State.farHeld, h]

theorem FarReady.serve_fault {s : State} {j : Nat} {m : Msg} {rd wr : Bool} {code : BitVec 16} (r : FarReady s j m)
    (go : State → Nat → State) (h : s.homeAt m m.span rd wr = .fault code) : s.farServe j m rd wr go = s.farFail m code := by
  simp only [State.farServe, r.up, r.here, farHeld_of_fault h, r.walks, h, Bool.false_eq_true, if_false]

theorem FarReady.serve {s : State} {j : Nat} {m : Msg} {rd wr : Bool} {off : Nat} (r : FarReady s j m)
    (go : State → Nat → State) (h : s.homeAt m m.span rd wr = .ok m.home off) (hh : s.farHeld m rd wr = none) :
    s.farServe j m rd wr go = go s off := by
  simp only [State.farServe, r.up, r.here, hh, r.walks, h, Bool.false_eq_true, if_false, ne_eq, not_true_eq_false]

theorem farFail_rget {m : Msg} {n : Nat} (s : State) (code : BitVec 16) (h : m.kind = .rget n) :
    s.farFail m code = (s.dropMsg m.id).reply m (m.va.setWidth 512) false (some code) := by
  simp only [State.farFail, h]

/-- A bad tag fails the request of a thread or of the movement thread of this device (R58). -/
theorem farBroken_thread {m : Msg} (s : State) (b : Word × Nat) (hd : m.dev = 0) (hs : m.slot < 17) :
    s.farBroken m b = s.farFail { m with bad := [b] } (det cIntegrity 0) := by
  simp only [State.farBroken, hd, hs, ne_eq, not_true_eq_false, if_false, if_true]

/-- The core of a thread's request records its lost blocks, not the agent (R58). -/
theorem lostHere_thread {m : Msg} (s : State) (hs : m.slot < 17) : s.lostHere m = s := by
  have h : decide (17 ≤ m.slot) = false := decide_eq_false (by omega)
  simp only [State.lostHere, h, Bool.false_and, Bool.false_eq_true, if_false]

/-! ### Reading (R57, R58) -/

section
variable {s : State} {j : Nat} {m : Msg} {n off : Nat} (hm : s.farNext j MsgKind.farReads = some m)
include hm

theorem execFarRead_down (hk : m.kind = .rget n) (h : s.portsDown.contains (j / 2) = true) :
    execFarRead j s = .next ((s.dropMsg m.id).reply m (m.va.setWidth 512) false (some (det cFarPortDown 0))) := by
  simp only [execFarRead, hm, farServe_down _ _ _ h, farFail_rget _ _ hk]

variable (r : FarReady s j m)
include r

theorem execFarRead_fault {code : BitVec 16} (h : s.homeAt m m.span true false = .fault code) :
    execFarRead j s = .next (s.farFail m code) := by
  simp only [execFarRead, hm, r.serve_fault _ h]

variable (hs : m.slot < 17) (hh : s.homeAt m m.span true false = .ok m.home off) (hp : s.farHeld m true false = none)
include hs hh hp

theorem execFarRead_broken (hd : m.dev = 0) {b : Word × Nat} (hb : (s.farGet m.home off m.span m.asid m.actor).broken = some b) :
    execFarRead j s =
      .next ((s.farGet m.home off m.span m.asid m.actor).st.farFail { m with bad := [b] } (det cIntegrity 0)) := by
  simp only [execFarRead, hm, r.serve _ hh hp, hb, farBroken_thread _ _ hd hs]

variable (hb : (s.farGet m.home off m.span m.asid m.actor).broken = none)
include hb

theorem execFarRead_rget (hk : m.kind = .rget n) :
    let g := s.farGet m.home off m.span m.asid m.actor
    execFarRead j s = .next ((g.st.dropMsg m.id).reply { m with bad := g.lost }
      (BitVec.ofNat 512 (leNat (g.data.map (fun x => x.1)))) (g.data.any (fun x => x.2)) none) := by
  simp only [execFarRead, hm, r.serve _ hh hp, hb, hk, lostHere_thread, hs]

theorem execFarRead_copyRead {dst : Word} (hk : m.kind = .copyRead n dst) :
    let g := s.farGet m.home off m.span m.asid m.actor
    execFarRead j s = .next ((g.st.dropMsg m.id).sendBack { m with bad := g.lost } (.copyDone dst g.data n none)) := by
  have hline : m.slot ≠ 19 := by omega
  simp only [execFarRead, hm, r.serve _ hh hp, hb, hk, lostHere_thread, hs, if_neg hline]

end

/-! ### Writing (R60; 14 R282) -/

theorem farAck_written {s s1 : State} {m : Msg} {off : Nat} {data : List (Byte × Bool)} (k : MsgKind)
    (h : s.farPut m.home off m.asid m.actor data = (s1, none)) : s.farAck m off data k = (s1.dropMsg m.id).sendBack m k := by
  simp only [State.farAck, h]

theorem tagged_eq_false {m : Msg} (h : m.tag = 0) : m.tagged = false := by
  simp only [Msg.tagged, h, bne_self_eq_false]

section
variable {s : State} {j : Nat} {m : Msg} {off : Nat} (hm : s.farNext j MsgKind.farWrites = some m) (r : FarReady s j m)
include hm r

theorem execFarWrite_rput {n : Nat} {v : Vec} {po : Bool} (hk : m.kind = .rput n v po) (ht : m.tag = 0)
    (hh : s.homeAt m m.span false true = .ok m.home off) (hp : s.farHeld m false true = none) :
    execFarWrite j s = .next (s.farAck m off ((vecBytes v n).map (fun b => (b, false))) (.reply 0 false none)) := by
  simp only [execFarWrite, hm, hk, r.serve _ hh hp, tagged_eq_false ht, Bool.false_eq_true, if_false]

theorem execFarWrite_copyWrite {data : List (Byte × Bool)} (hk : m.kind = .copyWrite data)
    (hh : s.homeAt m m.span false true = .ok m.home off) (hp : s.farHeld m false true = none) :
    execFarWrite j s = .next (s.farAck m off data (.copyDone 0 [] data.length none)) := by
  simp only [execFarWrite, hm, hk, r.serve _ hh hp]

/-- An atomic operation of bytes without poison that writes a new value (14 R282). -/
theorem execFarWrite_ratom {op : AtomOp} {x y v : Word} (hk : m.kind = .ratom op x y) (ht : m.tag = 0)
    (hh : s.homeAt m m.span true true = .ok m.home off) (hp : s.farHeld m true true = none)
    (hb : (s.farGet m.home off 8 m.asid m.actor).broken = none)
    (hpo : (s.farGet m.home off 8 m.asid m.actor).data.any (fun x => x.2) = false)
    (hmi : (s.farGet m.home off 8 m.asid m.actor).st.isMirror m.core = false) :
    let g := s.farGet m.home off 8 m.asid m.actor
    let old : Word := BitVec.ofNat 64 (leNat (g.data.map (fun x => x.1)))
    op.new old x y = some v →
    execFarWrite j s =
      .next (g.st.farAck m off ((leBytes v.toNat 8).map (fun b => (b, false))) (.reply (old.setWidth 512) false none)) := by
  intro g old hv
  simp only [execFarWrite, hm, hk, r.serve _ hh hp, tagged_eq_false ht, hb, hpo, hmi, Bool.false_eq_true, if_false]
  simp only [g, old] at hv ⊢
  rw [hv]

end

/-! ### Ports (R53, R63) -/

theorem execFarPortRestore_down {p : Nat} {s : State} (cap : Nat) (h : s.portsDown.contains p = true) :
    execFarPortRestore p cap s = .next { s with
      portsDown := s.portsDown.filter (fun x => x != p)
      farCap := assocSet (assocSet s.farCap (2 * p) (dataCapacity (cap / 2))) (2 * p + 1) (dataCapacity (cap / 2)) } := by
  simp only [execFarPortRestore, h, if_true]

theorem execFarPortRestore_up {p : Nat} {s : State} (cap : Nat) (h : s.portsDown.contains p = false) :
    execFarPortRestore p cap s = .next s := by
  simp only [execFarPortRestore, h, Bool.false_eq_true, if_false]

/-- Settles O40: a request that the agent serves runs as its kind has it, a read of one clean block gives the bytes of memory, and a
port that is down answers until it is restored. -/
theorem farAgents : Obligations.FarAgents := by
  unfold Obligations.FarAgents
  intro plain
  refine ⟨?_, ?_, ?_, fun p s => rfl, ?_⟩
  · intro j m s hup hhere hask hslot
    have r : FarReady s j m := ⟨hup, hhere, hask⟩
    refine ⟨fun hm => ⟨?_, ?_, ?_⟩, fun hm => ⟨?_, ?_, ?_⟩⟩
    · intro n off hk hh hp
      obtain rfl : m.span = n := by simp only [Msg.span, hk]
      exact ⟨fun hb => execFarRead_rget hm r hslot hh hp hb hk, fun b hb hd => execFarRead_broken hm r hslot hh hp hd hb⟩
    · intro n dst off hk hh hp
      obtain rfl : m.span = n := by simp only [Msg.span, hk]
      exact fun hb => execFarRead_copyRead hm r hslot hh hp hb hk
    · intro n code hk hh
      obtain rfl : m.span = n := by simp only [Msg.span, hk]
      exact execFarRead_fault hm r hh
    · intro n v po off s1 hk ht hh hp hput
      obtain rfl : m.span = n := by simp only [Msg.span, hk]
      exact (execFarWrite_rput hm r hk ht hh hp).trans (congrArg _ (farAck_written _ hput))
    · intro data off s1 hk hh hp hput
      have hspan : m.span = data.length := by simp only [Msg.span, hk]
      exact (execFarWrite_copyWrite hm r hk (hspan ▸ hh) hp).trans (congrArg _ (farAck_written _ hput))
    · intro op x y off v s1 hk ht hh hp g old hb hpo hmi hv hput
      have hspan : m.span = 8 := by simp only [Msg.span, hk]
      exact (execFarWrite_ratom hm r hk ht (hspan ▸ hh) hp hb hpo hmi hv).trans (congrArg _ (farAck_written _ hput))
  · intro j m n s hdown hk hm
    exact execFarRead_down hm hk hdown
  · intro home off n asid core s hn hone hc ht g
    have hg : g = _ := farGet_clean core hn hone hc ht
    exact ⟨congrArg FarGot.data hg, congrArg FarGot.lost hg, congrArg FarGot.broken hg⟩
  · exact fun p cap s => ⟨fun h => ⟨_, execFarPortRestore_down cap h, rfl, rfl, rfl, rfl⟩, execFarPortRestore_up cap⟩

end Sys2Proof.Laws
end

section
/-! SUPPORT. CTRWAIT and CTRADD: what their bodies answer once the checks of 04 R66 pass, and what a comparison of CTRWAIT does with the
counter it reads (05 R106-R108). -/

namespace Sys2Proof.Laws
open Sys2Proof.Machine

/-- A completion event whose cycle has come runs on its pending instruction. -/
theorem onPend_due {s : State} {c sl id : Nat} {p : Pend} (h : DuePend s c sl id p) (f : Pend → State) :
    s.onPend c sl id f = f p := by
  obtain ⟨hp, hdue⟩ := h
  simp only [State.onPend, hp, hdue, if_true]

/-- A local read that passes its checks pends with its bank's latency (04 R66, R68; 06 R112). -/
theorem loadAt_pends {s : State} {c : Nat} {ea : Word} {size : Nat} (sl : Nat) (kind : BitVec 16 → PKind)
    (h : s.checkAt c ea size true false = none) :
    loadAt s c sl ea size kind = .pend (s.toBank c sl ea size (s.thr c sl).tag) (kind (s.thr c sl).tag)
      (s.now c + if inVault ea.toNat then 6 else 3) := by
  simp only [loadAt, h, latency]

/-- The first comparison of CTRWAIT consumes a poisoned counter, ends at its threshold and waits on below it (05 R107). -/
theorem execLoadCompletion_ctrwait {s : State} {c sl id : Nat} {p : Pend} {ea thr : Word} {tag : BitVec 16}
    (h : DuePend s c sl id p) (hk : p.kind = .ctrwait ea thr tag false none) (hr : p.ready ea = true) :
    let x := s.valueOf c sl p ea 8 tag
    let v : Word := BitVec.ofNat 64 x.1
    execLoadCompletion c sl id s = .next (if x.2 then s.consumed c sl p
      else if thr.toNat ≤ v.toNat then s.finish c sl p [Val.of v]
      else s.modPend c sl p.id (fun q => { q with kind := .ctrwait ea thr tag true none })) := by
  simp only [execLoadCompletion, onPend_due h, hk, hr, if_true, Bool.false_eq_true, if_false]

/-- Settles O17: both instructions open into a body that pends, and a comparison has one of three outcomes by the counter's value. -/
theorem counters : Obligations.Counters := by
  unfold Obligations.Counters
  refine ⟨?_, ?_, ?_⟩
  · intro d a b l s s1 x y f tag hopen hcheck
    exact pends_of_pend hopen (loadAt_pends _ _ hcheck)
  · intro d a b l s s1 x y f tag hopen hcheck hstop
    refine pends_of_pend hopen ?_
    have hc : s1.checkAt s.curCore (arg [x, y] 0) 8 true true = none := hcheck
    have hs : s1.storeStop s.curCore s.curSlot (s1.thr s.curCore s.curSlot).tag [(arg [x, y] 0).toNat] false = none := hstop
    simp only [hc, hs]
    rfl
  · intro c sl id p ea thr tag s hdue hk hr x v
    have hout := execLoadCompletion_ctrwait hdue hk hr
    refine ⟨fun hclean hge => ?_, fun hclean hlt => ?_, fun hpoison => ?_⟩
    · exact hout.trans (by rw [hclean, if_neg Bool.false_ne_true, if_pos hge])
    · exact hout.trans (by rw [hclean, if_neg Bool.false_ne_true, if_neg (Nat.not_le.mpr hlt)])
    · exact hout.trans (by rw [hpoison, if_pos rfl])

end Sys2Proof.Laws
end

section
/-! SUPPORT. The pieces of a row: each ends at a boundary or at the row's end (05 R96, R99; log 34). -/

namespace Sys2Proof.Laws
open Sys2Proof.Machine

/-- Adding less than what is left of a unit stays in the unit. -/
theorem div_add_eq_of_mod_add_lt {x k unit : Nat} (h : x % unit + k < unit) : (x + k) / unit = x / unit := by
  have hunit : 0 < unit := by omega
  have hsum : x + k = x % unit + k + unit * (x / unit) := by
    have := Nat.mod_add_div x unit
    omega
  rw [hsum, Nat.add_mul_div_left _ _ hunit, Nat.div_eq_of_lt h, Nat.zero_add]

/-- Taking away no more than lies above the unit's start stays in the unit. -/
theorem div_sub_eq_of_le_mod {x k unit : Nat} (h : k ≤ x % unit) : (x - k) / unit = x / unit := by
  rcases Nat.eq_zero_or_pos unit with rfl | hunit
  · simp only [Nat.div_zero]
  · have hlow : x - k = x % unit - k + unit * (x / unit) := by
      have := Nat.mod_add_div x unit
      omega
    have hin : x % unit - k < unit := Nat.lt_of_le_of_lt (Nat.sub_le _ _) (Nat.mod_lt x hunit)
    rw [hlow, Nat.add_mul_div_left _ _ hunit, Nat.div_eq_of_lt hin, Nat.zero_add]

/-- Going up, a piece runs from what is done to the next boundary or the end of the row. -/
theorem nextPiece_up (cut unit len done : Nat) :
    nextPiece cut unit len done false = (done, min (len - done) (unit - (cut + done) % unit)) := rfl

/-- Going down, a piece runs from the last boundary, or the start of the row, to the end of what is left. -/
theorem nextPiece_down {cut unit len done : Nat} (h : done < len) :
    let n := min (len - done) ((cut + (len - done) - 1) % unit + 1)
    nextPiece cut unit len done true = (len - done - n, n) := by
  have hmod := Nat.mod_le (cut + (len - done) - 1) unit
  simp only [nextPiece, if_true]
  split <;> refine Prod.ext ?_ ?_ <;> dsimp only <;> omega

/-- Settles O38: a piece has the bytes up to a boundary, or all that are left, on the side its row goes towards. -/
theorem copyPieces : Obligations.CopyPieces := by
  unfold Obligations.CopyPieces
  intro cut unit len done hdone hunit down p
  cases down with
  | false =>
    have hmod := Nat.mod_lt (cut + done) hunit
    obtain ⟨n, hn⟩ : ∃ n, n = min (len - done) (unit - (cut + done) % unit) := ⟨_, rfl⟩
    have hp : p = (done, n) := hn ▸ nextPiece_up cut unit len done
    have hlast : cut + done + n - 1 = cut + done + (n - 1) := by omega
    have hsame : (cut + done + (n - 1)) / unit = (cut + done) / unit := div_add_eq_of_mod_add_lt (by omega)
    rw [hp, hlast]
    exact ⟨by omega, by omega, by omega, fun _ => rfl, nofun, hsame.symm⟩
  | true =>
    have hmod := Nat.mod_lt (cut + (len - done) - 1) hunit
    obtain ⟨n, hn⟩ : ∃ n, n = min (len - done) ((cut + (len - done) - 1) % unit + 1) := ⟨_, rfl⟩
    have hp : p = (len - done - n, n) := hn ▸ nextPiece_down hdone
    have hfirst : cut + (len - done - n) = cut + (len - done) - 1 - (n - 1) := by omega
    have hlast : cut + (len - done - n) + n - 1 = cut + (len - done) - 1 := by omega
    have hsame : (cut + (len - done) - 1 - (n - 1)) / unit = (cut + (len - done) - 1) / unit := div_sub_eq_of_le_mod (by omega)
    rw [hp, hlast, hfirst]
    exact ⟨by omega, by omega, by omega, nofun, fun _ => by omega, hsame⟩

end Sys2Proof.Laws
end

section
/-! SUPPORT. Copy requests: starting, one beat or message of a request, serving a request's messages at their home, the answers, and the
completion, an equation for each case of each (05 R96-R102, R441). -/

namespace Sys2Proof.Laws
open Sys2Proof.Machine

/-! ### Starting (R97, R101; 17 R358; 18 R395) -/

section
variable {c : Nat} {r : CopyReq} {s : State} (hr : (s.core c).copies.find? (fun r => !r.active) = some r)
include hr

theorem execCopyRequestStart_starts (hroom : (s.core c).activeCopies.length < 4) (hdue : r.due ≤ s.now c)
    (hover : s.waitsOver c r.slot r.waits = true) (hin : (s.thr c 14).removed = false) (hstill : s.windowsMove c = false) :
    execCopyRequestStart c s = .next (s.modCopy c r.id (fun r => { r with active := true, due := s.now c })) := by
  simp only [execCopyRequestStart, hr, hroom, hdue, hover, hin, hstill, decide_true, Bool.not_false, Bool.and_self, if_true]

theorem execCopyRequestStart_waits (h : 4 ≤ (s.core c).activeCopies.length ∨ s.waitsOver c r.slot r.waits = false ∨
    (s.thr c 14).removed = true ∨ s.windowsMove c = true) : execCopyRequestStart c s = .next s := by
  have hno : (decide ((s.core c).activeCopies.length < 4) && decide (r.due ≤ s.now c) && s.waitsOver c r.slot r.waits &&
      !(s.thr c 14).removed && !s.windowsMove c) = false := by
    rcases h with h | h | h | h
    · rw [decide_eq_false (Nat.not_lt.mpr h)]
      simp only [Bool.false_and]
    all_goals simp only [h, Bool.not_true, Bool.and_false, Bool.false_and]
  simp only [execCopyRequestStart, hr, hno, Bool.false_eq_true, if_false]

end

/-! ### One beat or message (R96, R97; log 34) -/

/-- The request whose turn it is issues its next beat or message, and the cycle is the movement thread's (R97, R441). -/
theorem execCopyBeat_of_goes {c id : Nat} {r : CopyReq} {s : State} (hg : (s.core c).copyGoes = some id) (hr : s.copy? c id = some r) :
    execCopyBeat c s = .next ((s.modCore c (fun k => { k with copyTurn := r.id, copyNext := k.cycle + 1, granted := none })).copyPiece c r) := by
  simp only [execCopyBeat, hg, Option.bind_some, hr]

section
variable {c : Nat} {r : CopyReq} (s : State)

theorem land_register (hf : r.fill = true) (dst : Word) (data : List (Byte × Bool)) :
    s.land c r dst data = (s.fillReg c r data).wrote c r data.length := by
  simp only [State.land, hf, if_true]

theorem land_memory (hf : r.fill = false) (dst : Word) (data : List (Byte × Bool)) :
    s.land c r dst data = (s.deliverBytes c dst.toNat data (r.actor.getD c)).wrote c r data.length := by
  simp only [State.land, hf, Bool.false_eq_true, if_false]

/-- Bytes that have come are written before more are read, as many as a beat holds. -/
theorem copyPiece_landing {dst : Word} {data : List (Byte × Bool)} {rest : List (Word × List (Byte × Bool))}
    (hl : r.landing = (dst, data) :: rest) (hf : r.fill = false) :
    let n := beatBytes dst.toNat data.length
    s.copyPiece c r = ((s.modCopy c r.id (fun r => { r with
      landing := if n < data.length then (dst + BitVec.ofNat 64 n, data.drop n) :: rest else rest })).deliverBytes c dst.toNat
        (data.take n) (r.actor.getD c)).wrote c r (data.take n).length := by
  simp only [State.copyPiece, hl, hf, Bool.false_eq_true, if_false, land_memory]

variable (hl : r.landing = [])
include hl

/-- Bytes that lie elsewhere are asked for in one message. -/
theorem copyPiece_global (hs : isGlobal (s.piece c r).1 = true) :
    let p := s.piece c r
    s.copyPiece c r = ((s.modCopy c r.id (fun r => { r with
      issued := r.issued + p.2.2, outstanding := r.outstanding + 1 })).send (.copyRead p.2.2 p.2.1) c 14 r.id (gaHome p.1) (gaOff p.1)
        p.1 0).asParty r.actor := by
  simp only [State.copyPiece, hl, hs, if_true]

/-- Bytes of the core's own memory are read a beat at a time until the piece is whole. -/
theorem copyPiece_local (hs : isGlobal (s.piece c r).1 = false) :
    let p := s.piece c r
    let a := p.1.toNat + r.gath.length
    let left := p.2.2 - r.gath.length
    let k := if inVault a = false ∧ r.fill = false ∧ isGlobal p.2.1 = false ∧ inVault p.2.1.toNat = true then left else beatBytes a left
    let s1 := s.sense c a k (r.actor.getD c)
    let data := r.gath ++ s1.copyBytes c a k
    s.copyPiece c r =
      if k < left then s1.modCopy c r.id (fun r => { r with gath := data }) else s1.pieceRead c r p.1 p.2.1 data := by
  simp only [State.copyPiece, hl, hs, Bool.false_eq_true, if_false, Bool.and_eq_true, Bool.not_eq_true', and_assoc]

end

section
variable {c : Nat} {r : CopyReq} (s : State) {src dst : Word} (data : List (Byte × Bool))

/-- The request with the bytes of a whole piece issued. -/
def pieceIssued (s : State) (c : Nat) (r : CopyReq) (data : List (Byte × Bool)) : State :=
  s.modCopy c r.id (fun r => { r with issued := r.issued + data.length, gath := [] })

theorem pieceRead_register (hf : r.fill = true) :
    s.pieceRead c r src dst data = ((pieceIssued s c r data).fillReg c r data).wrote c r data.length := by
  simp only [State.pieceRead, pieceIssued, hf, Bool.not_true, Bool.false_and, Bool.false_eq_true, if_false, land_register]

theorem pieceRead_message (hf : r.fill = false) (hd : isGlobal dst = true) :
    s.pieceRead c r src dst data = (((pieceIssued s c r data).modCopy c r.id (fun r => { r with
      outstanding := r.outstanding + 1 })).send (.copyWrite data) c 14 r.id (gaHome dst) (gaOff dst) dst 0).asParty r.actor := by
  simp only [State.pieceRead, pieceIssued, hf, hd, Bool.not_false, Bool.true_and, if_true]

theorem pieceRead_vaults (hf : r.fill = false) (hd : isGlobal dst = false) (hvs : inVault src.toNat = true)
    (hvd : inVault dst.toNat = true) :
    s.pieceRead c r src dst data = (pieceIssued s c r data).modCopy c r.id (fun r => { r with landing := [(dst, data)] }) := by
  simp only [State.pieceRead, pieceIssued, hf, hd, hvs, hvd, Bool.not_false, Bool.true_and, Bool.false_eq_true, if_false, if_true]

theorem pieceRead_memory (hf : r.fill = false) (hd : isGlobal dst = false) (hv : inVault src.toNat = false ∨ inVault dst.toNat = false) :
    s.pieceRead c r src dst data =
      ((pieceIssued s c r data).deliverBytes c dst.toNat data (r.actor.getD c)).wrote c r data.length := by
  have hno : (inVault src.toNat && inVault dst.toNat) = false := Bool.and_eq_false_iff.mpr hv
  simp only [State.pieceRead, pieceIssued, hf, hd, hno, Bool.not_false, Bool.true_and, Bool.false_eq_true, if_false, land_memory]

end

/-! ### Messages at their home (R96; 14 R291) -/

/-- The agent runs its head message where nothing forwards or refuses it (14 R275, R279, R292). -/
theorem runAgent_runs {s t : State} {c : Nat} {m : Msg} {f : Msg → Option State} (hm : s.agentMsg? c = some m)
    (hhere : s.forwardTo m = none) (hfirst : s.behindRefused m = false) (hf : f m = some t) : s.runAgent c f = t := by
  simp only [State.runAgent, hm, hf, hhere, hfirst, Bool.false_eq_true, if_false]

section
variable {c : Nat} {m : Msg} {s : State} (hm : s.agentMsg? c = some m) (hhere : s.forwardTo m = none)
  (hfirst : s.behindRefused m = false)
include hm hhere hfirst

theorem execHomeCopyTransfer_fault {data : List (Byte × Bool)} {code : BitVec 16} (hk : m.kind = .copyWrite data)
    (hat : s.copyAt m data.length false true = .fault code) :
    execHomeCopyTransfer c s = .next ((s.agentDone c).sendBack m (.copyDone 0 [] data.length (some code))) :=
  congrArg _ (runAgent_runs hm hhere hfirst (by simp only [hk, hat]))

/-- A beat writes its part of the message, and the last acknowledges it. -/
theorem execHomeCopyTransfer_beat {data : List (Byte × Bool)} {h off : Nat} (hk : m.kind = .copyWrite data)
    (hat : s.copyAt m data.length false true = .ok h off) (hbeat : s.hasBeat c .agentRun = true) :
    let pos := (s.core c).agentPos
    let n := beatBytes (off + pos) (data.length - pos)
    let s1 := (s.deliverBytes c (off + pos) ((data.drop pos).take n) m.actor).modCore c (fun k =>
      { k with granted := none, agentPos := pos + n })
    execHomeCopyTransfer c s = .next (if pos + n < data.length then s1
      else (s1.agentDone c).sendBack m (.copyDone 0 [] data.length none)) :=
  congrArg _ (runAgent_runs hm hhere hfirst (by
    simp only [hk, hat, hbeat, Bool.not_true, Bool.false_eq_true, if_false]))

theorem execHomeCopyRead_fault {n : Nat} {dst : Word} {code : BitVec 16} (hk : m.kind = .copyRead n dst)
    (hat : s.copyAt m n true false = .fault code) :
    execHomeCopyRead c s = .next ((s.agentDone c).sendBack m (.copyDone dst [] n (some code))) :=
  congrArg _ (runAgent_runs hm hhere hfirst (by simp only [hk, hat]))

/-- A beat reads its part of what the message asks for, and the last sends the bytes. -/
theorem execHomeCopyRead_beat {n : Nat} {dst : Word} {h off : Nat} (hk : m.kind = .copyRead n dst) (hslot : m.slot ≠ 19)
    (hat : s.copyAt m n true false = .ok h off) (hbeat : s.hasBeat c .agentRun = true) :
    let got := (s.core c).agentGot
    let k := beatBytes (off + got.length) (n - got.length)
    let s1 := s.sense c (off + got.length) k m.actor
    let all := got ++ s1.copyBytes c (off + got.length) k
    execHomeCopyRead c s = .next (if all.length < n then s1.modCore c (fun k => { k with granted := none, agentGot := all })
      else (s1.agentDone c).sendBack m (.copyDone dst all n none)) :=
  congrArg _ (runAgent_runs hm hhere hfirst (by
    simp only [hk, hat, hbeat, if_neg hslot, Bool.not_true, Bool.false_eq_true, if_false]))

end

/-! ### Answers (R96, R100, R102) -/

/-- The answer to a message of a request that is still there is taken for it. -/
theorem execCopyWritePerformed_answers {id n : Nat} {m : Msg} {r : CopyReq} {dst : Word} {data : List (Byte × Bool)}
    {fault : Option (BitVec 16)} {s : State} (hm : s.arrived? id = some m) (hthread : m.slot < 20) (h16 : m.slot ≠ 16)
    (h17 : m.slot ≠ 17) (h19 : m.slot ≠ 19) (hdev : m.dev = 0) (hr : s.copy? m.core m.pend = some r)
    (hk : m.kind = .copyDone dst data n fault) :
    execCopyWritePerformed id s = .next ((s.takeAnswer m).copyAnswer m r dst data n fault) := by
  simp only [execCopyWritePerformed, hm, hk, hdev, hr, h16, h17, h19, Nat.not_le.mpr hthread, decide_false, bne_self_eq_false,
    Bool.or_self, Bool.false_eq_true, if_false]

section
variable (s : State) (m : Msg) {r : CopyReq} (dst : Word) {data : List (Byte × Bool)} (n : Nat)

/-- The request with one message fewer to be answered. -/
def answered (s : State) (m : Msg) (r : CopyReq) : State :=
  s.modCopy m.core r.id (fun r => { r with outstanding := r.outstanding - 1 })

theorem copyAnswer_acknowledged : s.copyAnswer m r dst [] n none = (answered s m r).wrote m.core r n := by
  simp only [State.copyAnswer, answered, List.isEmpty_nil, if_true]

theorem copyAnswer_fault (code : BitVec 16) : s.copyAnswer m r dst data n (some code) =
    ((answered s m r).failCopy m.core r.id code m.va).asFar (answered s m r) m := rfl

variable (hdata : data ≠ [])
include hdata

theorem copyAnswer_register (hf : r.fill = true) : s.copyAnswer m r dst data n none =
    (((answered s m r).recordBad m).fillReg m.core r data).wrote m.core r data.length := by
  simp only [State.copyAnswer, answered, List.isEmpty_eq_false_iff.mpr hdata, hf, Bool.false_eq_true, if_false, if_true, land_register]

theorem copyAnswer_memory (hf : r.fill = false) : s.copyAnswer m r dst data n none =
    ((answered s m r).recordBad m).modCopy m.core r.id (fun r => { r with landing := r.landing ++ [(dst, data)] }) := by
  simp only [State.copyAnswer, answered, List.isEmpty_eq_false_iff.mpr hdata, hf, Bool.false_eq_true, if_false]

end

/-! ### Completion (R92, R93, R100; log 91) -/

/-- Every byte of the request has been issued and performed. -/
structure Performed (s : State) (c id : Nat) (r : CopyReq) : Prop where
  here : s.copy? c id = some r
  active : r.active = true
  issued : r.allIssued = true
  performed : r.total ≤ r.performed

/-- What a counter completion adds (R92). -/
def posted (r : CopyReq) : Word := if cmpAmount (r.w 3) = 0 then 1 else BitVec.ofNat 64 (r.before + r.total)

section
variable {c id : Nat} {r : CopyReq} {s : State} (h : Performed s c id r)
include h

/-- A request that has been performed completes as its kind has it. -/
theorem execCopyCompletion_performed :
    let a := cmpTarget (r.w 3)
    execCopyCompletion c id s = .next (
      if cmpKind (r.w 3) = 1 then
        if inVault a && (s.core c).therm == 3 && !s.hasBeat c (.post id) && !(s.core c).halfDone (.post id) then
          s.failCopy c id (det cVaultThermal 5) (BitVec.ofNat 64 a)
        else
          let x := s.counterAdd c 14 id (r.w 3) (r.before + r.total)
          if x.2 then x.1.dropCopy c id else x.1
      else if cmpKind (r.w 3) = 2 && r.fill then (s.dropCopy c id).addBytes c a (0 - BitVec.ofNat 64 (r.before + r.total))
      else s.dropCopy c id) := by
  simp only [execCopyCompletion, h.here, h.active, h.issued, decide_eq_false (Nat.not_lt.mpr h.performed), Bool.not_true,
    Bool.or_self, Bool.false_eq_true, if_false]

theorem execCopyCompletion_none (hk : cmpKind (r.w 3) = 0) : execCopyCompletion c id s = .next (s.dropCopy c id) := by
  simp only [execCopyCompletion_performed h, hk]
  rfl

theorem execCopyCompletion_register (hk : cmpKind (r.w 3) = 2) (hf : r.fill = true) : execCopyCompletion c id s =
    .next ((s.dropCopy c id).addBytes c (cmpTarget (r.w 3)) (0 - BitVec.ofNat 64 (r.before + r.total))) := by
  simp only [execCopyCompletion_performed h, hk, hf]
  rfl

variable (hk : cmpKind (r.w 3) = 1)
include hk

theorem execCopyCompletion_scratch (hv : inVault (cmpTarget (r.w 3)) = false) :
    let a := cmpTarget (r.w 3)
    let s1 := s.sense c a 8
    execCopyCompletion c id s =
      .next ((s1.store c a (leBytes (s1.readW c a 8 + posted r).toNat 8) 0 ((s.core c).actorOf c (.post id))).dropCopy c id) := by
  simp only [execCopyCompletion_performed h, hk, hv, State.counterAdd, posted, Bool.false_and, Bool.false_eq_true, if_false, if_true]

variable (hv : inVault (cmpTarget (r.w 3)) = true)
include hv

theorem execCopyCompletion_beat (hbeat : s.hasBeat c (.post id) = true) :
    let a := cmpTarget (r.w 3)
    let s1 := s.modCore c (fun k => { k with granted := none })
    execCopyCompletion c id s =
      .next ((s1.store c a (leBytes (s1.readW c a 8 + posted r).toNat 8) 0 ((s.core c).actorOf c (.post id))).dropCopy c id) := by
  simp only [execCopyCompletion_performed h, hk, hv, hbeat, State.counterAdd, posted, Bool.not_true, Bool.and_false, Bool.false_and,
    Bool.false_eq_true, if_false, if_true]

variable (hbeat : s.hasBeat c (.post id) = false)
include hbeat

theorem execCopyCompletion_critical (ht : (s.core c).therm = 3) (hh : (s.core c).halfDone (.post id) = false) :
    execCopyCompletion c id s = .next (s.failCopy c id (det cVaultThermal 5) (BitVec.ofNat 64 (cmpTarget (r.w 3)))) := by
  simp only [execCopyCompletion_performed h, hk, hv, hbeat, ht, hh, beq_self_eq_true, Bool.not_false, Bool.and_self, if_true]

theorem execCopyCompletion_request (ht : (s.core c).therm ≠ 3) (hq : (s.core c).queued (.post id) = false) :
    execCopyCompletion c id s = .next (s.request c 14 (.post id) (cmpTarget (r.w 3)) 8 true true 0) := by
  simp only [execCopyCompletion_performed h, hk, hv, hbeat, hq, State.counterAdd, beq_eq_false_iff_ne.mpr ht, Bool.not_false,
    Bool.and_false, Bool.and_true, Bool.false_and, Bool.false_eq_true, if_false, if_true]

end

/-- Settles O37: the start, the beats, the home's beats, the answers and the completion each have one equation for each of the cases. -/
theorem copyRequests : Obligations.CopyRequests := by
  unfold Obligations.CopyRequests
  refine ⟨?start, ?beat, ?home, ?answer, ?completion⟩
  case start =>
    exact fun c r s hr => ⟨execCopyRequestStart_starts hr, execCopyRequestStart_waits hr⟩
  case beat =>
    intro c id r s hg hr s1
    have hgo : exec (.copyBeat c) s = .next (s1.copyPiece c r) := execCopyBeat_of_goes hg hr
    refine ⟨fun dst data rest hl hf => hgo.trans (congrArg _ (copyPiece_landing s1 hl hf)), fun hl => ?_⟩
    intro src dst n a left k s2 data s3
    refine ⟨fun hs => hgo.trans (congrArg _ (copyPiece_global s1 hl hs)), fun hs hmore => ?part, fun hs hwhole => ?whole⟩
    case part => exact hgo.trans (congrArg _ ((copyPiece_local s1 hl hs).trans (if_pos hmore)))
    case whole =>
      have hread : exec (.copyBeat c) s = .next (s2.pieceRead c r src dst data) :=
        hgo.trans (congrArg _ ((copyPiece_local s1 hl hs).trans (if_neg (Nat.not_lt.mpr hwhole))))
      exact ⟨fun hf => hread.trans (congrArg _ (pieceRead_register s2 data hf)),
        fun hf hd => hread.trans (congrArg _ (pieceRead_message s2 data hf hd)),
        fun hf hd hvs hvd => hread.trans (congrArg _ (pieceRead_vaults s2 data hf hd hvs hvd)),
        fun hf hd hv => hread.trans (congrArg _ (pieceRead_memory s2 data hf hd hv))⟩
  case home =>
    intro c m s hm hhere hfirst
    refine ⟨?transfer, fun data code => execHomeCopyTransfer_fault hm hhere hfirst, ?read,
      fun n dst code => execHomeCopyRead_fault hm hhere hfirst⟩
    case transfer =>
      intro data h off hk hat hbeat pos n s1
      have hwritten := execHomeCopyTransfer_beat hm hhere hfirst hk hat hbeat
      exact ⟨fun hmore => hwritten.trans (congrArg _ (if_pos hmore)),
        fun hlast => hwritten.trans (congrArg _ (if_neg (Nat.not_lt.mpr hlast)))⟩
    case read =>
      intro n dst h off hk hslot hat hbeat got k s1 all
      have hread := execHomeCopyRead_beat hm hhere hfirst hk hslot hat hbeat
      exact ⟨fun hmore => hread.trans (congrArg _ (if_pos hmore)),
        fun hlast => hread.trans (congrArg _ (if_neg (Nat.not_lt.mpr hlast)))⟩
  case answer =>
    intro id m r dst data n s hm hthread h16 h17 h19 hdev hr s2
    have htaken {bytes : List (Byte × Bool)} {fault : Option (BitVec 16)} (hk : m.kind = .copyDone dst bytes n fault) :
        exec (.copyWritePerformed id) s = .next ((s.takeAnswer m).copyAnswer m r dst bytes n fault) :=
      execCopyWritePerformed_answers hm hthread h16 h17 h19 hdev hr hk
    exact ⟨fun hk => (htaken hk).trans (congrArg _ (copyAnswer_acknowledged _ m dst n)),
      fun hk hd hf => (htaken hk).trans (congrArg _ (copyAnswer_register _ m dst n hd hf)),
      fun hk hd hf => (htaken hk).trans (congrArg _ (copyAnswer_memory _ m dst n hd hf)),
      fun code hk => (htaken hk).trans (congrArg _ (copyAnswer_fault _ m dst n code))⟩
  case completion =>
    intro c id r s hr ha hi hp a amount
    have h : Performed s c id r := ⟨hr, ha, hi, hp⟩
    exact ⟨execCopyCompletion_none h, fun hk hv ht hb => execCopyCompletion_critical h hk hv hb ht,
      fun hk hv ht hb => execCopyCompletion_request h hk hv hb ht, fun hk hv => execCopyCompletion_beat h hk hv,
      execCopyCompletion_scratch h, execCopyCompletion_register h⟩

end Sys2Proof.Laws
end

section
/-! SUPPORT. Tiles: what the bodies of the tile instructions and of RINGCFG, RINGQRY and TQRY answer once their checks pass, and what a
transfer's beat, its completion and its completion word do in each case (06 R122-R130). -/

namespace Sys2Proof.Laws
open Sys2Proof.Machine

/-! ### Fields of a word, operands, and a body without results -/

theorem bitsN_eq_div_mod (w : Word) (hi lo : Nat) : bitsN w hi lo = w.toNat / 2 ^ lo % 2 ^ (hi + 1 - lo) := by
  simp only [bitsN, BitVec.extractLsb'_toNat, Nat.shiftRight_eq_div_pow]

theorem arg_zero (x : Val) (xs : List Val) : arg (x :: xs) 0 = x.w := rfl

theorem arg_one (x y : Val) (xs : List Val) : arg (x :: y :: xs) 1 = y.w := rfl

/-- A body without results that goes on at the next word. -/
theorem issuedNext_of_ret {s s1 s2 : State} {f : Form} {xs : List Val} {body : Body} (h : Opens s f s1 xs)
    (hb : body s1 s.curCore s.curSlot xs = .ret s2 [] none) :
    s.issueStep f body = .next (issuedFrom s f s2 ((me s).pc + 4)) :=
  results_of_ret h hb s2 rfl

/-! ### Tile loads and stores, descriptors (R123-R127) -/

/-- A form whose arm is TLD of a shape loads tiles of that shape: past the checks the slot fills and the instruction pends. -/
theorem tileLoads_of_exec {i : BitVec 4 → BitVec 6 → BitVec 6 → BitVec 4 → BitVec 3 → Instr} {shapeB : Bool}
    (hi : ∀ ring a b l n s, exec (i ring a b l n) s = tld shapeB ring a b l n s) : TileLoads i shapeB := by
  intro ring a b l n s s1 x y f c t d esz rows cols row col es padonly scaled sa r hopen hring hsize hcomp helem hscale hslot e xf
  rw [hi]
  have hscaled : (if scaled then s1.checkAt c sa 4 true false else none) = none := ite_eq_right_iff.mpr hscale
  have hempty : ((r.tile r.fp).state != .empty) = false := bne_eq_false_iff_eq.mpr hslot
  refine pends_of_pend hopen ?_
  dsimp only
  rewrite [arg_zero, arg_one, hring, if_neg (Nat.not_lt.mpr hsize), hcomp, helem, hscaled, hempty]
  rfl

/-- A form whose arm is TST stores the tile at the pop pointer: past the checks a consumer reads the slot and the instruction pends. -/
theorem tileStores_of_exec {i : BitVec 4 → BitVec 6 → BitVec 6 → BitVec 4 → BitVec 3 → Instr} {pop : Bool}
    (hi : ∀ ring a b l n s, exec (i ring a b l n) s = tst pop ring a b l n s) : TileStores i pop := by
  intro ring a b l n s s1 x y f c d esz r e es hopen hring hready hfmt hcomp helem hclean hwords xf
  rw [hi]
  have hkept : (e.state == .ready && fmtBytes e.fmt != esz) = false := by
    rw [bne_eq_false_iff_eq.mpr hfmt, Bool.and_false]
  have hfull : (e.state != .ready) = false := bne_eq_false_iff_eq.mpr hready
  have hsound : (e.poison || s1.poisoned c (r.base.toNat + r.pp * r.size * 64) (tileBytes e.shapeB esz)) = false :=
    Bool.or_eq_false_iff.mpr ⟨hclean, hwords⟩
  refine pends_of_pend hopen ?_
  dsimp only
  rewrite [arg_zero, arg_one, hring, hkept, hcomp, hfull, helem, hsound]
  rfl

/-- A form whose arm is TDSET of a word number replaces that word. -/
theorem setsDescriptor_of_exec {i : BitVec 3 → BitVec 6 → Instr} {word : Desc → Word → Desc} (k : Nat)
    (hi : ∀ d a s, exec (i d a) s = tdset k d a s) (hw : ∀ d x, d.set k x = word d x) : SetsDescriptor i word := by
  intro d a s s1 x f hopen
  rw [hi]
  refine issuedNext_of_ret hopen ?_
  simp only [arg_zero, hw]

/-- The format field keeps its value where a reserved one is written (R127; 00 R8). -/
theorem desc_set_form (d : Desc) (x : Word) : d.set 3 x = { d with
    form := (x &&& 0xFFFFFFFF00000010#64) ||| (if x.toNat % 16 < 6 then x &&& 0xF#64 else d.form &&& 0xF#64) } := by
  have hfmt : x.toNat % 16 = bitsN x 3 0 := ((bitsN_eq_div_mod x 3 0).trans (congrArg (· % 16) (Nat.div_one _))).symm
  rewrite [hfmt]
  rfl

/-- Settles O28: each form's arm is TLD, TST or TDSET with its own shape, pop or word. -/
theorem tileInstructions : Obligations.TileInstructions := by
  unfold Obligations.TileInstructions
  exact ⟨tileLoads_of_exec fun _ _ _ _ _ _ => rfl, tileLoads_of_exec fun _ _ _ _ _ _ => rfl,
    tileStores_of_exec fun _ _ _ _ _ _ => rfl, tileStores_of_exec fun _ _ _ _ _ _ => rfl,
    setsDescriptor_of_exec 0 (fun _ _ _ => rfl) fun _ _ => rfl, setsDescriptor_of_exec 1 (fun _ _ _ => rfl) fun _ _ => rfl,
    setsDescriptor_of_exec 2 (fun _ _ _ => rfl) fun _ _ => rfl, setsDescriptor_of_exec 3 (fun _ _ _ => rfl) desc_set_form,
    setsDescriptor_of_exec 4 (fun _ _ _ => rfl) fun _ _ => rfl⟩

/-! ### RINGCFG, RINGQRY, TQRY (R128-R130) -/

section
variable {s s1 : State}

/-- A base and a size word that RINGCFG takes: a 64-byte boundary of the scratchpad, 1 to 256 times 64 bytes a slot, 1 to 16 slots (R128). -/
structure RingForm (base w : Word) : Prop where
  inside : inScratch base.toNat = true
  aligned : base.toNat % 64 = 0
  reserved : w &&& 0x1F01FF#64 = w
  size : 1 ≤ bitsN w 8 0
  sizeTop : bitsN w 8 0 ≤ 256
  count : 1 ≤ bitsN w 20 16
  countTop : bitsN w 20 16 ≤ 16

/-- They pass RINGCFG's check. -/
theorem RingForm.passes {base w : Word} (h : RingForm base w) : (!inScratch base.toNat || base.toNat % 64 != 0 || bitsN w 8 0 == 0 ||
    256 < bitsN w 8 0 || bitsN w 20 16 == 0 || 16 < bitsN w 20 16 || w &&& 0x1F01FF#64 != w) = false := by
  have hsize : (bitsN w 8 0 == 0) = false := beq_eq_false_iff_ne.mpr (Nat.ne_of_gt h.size)
  have hcount : (bitsN w 20 16 == 0) = false := beq_eq_false_iff_ne.mpr (Nat.ne_of_gt h.count)
  simp only [h.inside, h.aligned, h.reserved, hsize, hcount, decide_eq_false (Nat.not_lt.mpr h.sizeTop),
    decide_eq_false (Nat.not_lt.mpr h.countTop), bne_self_eq_false, Bool.not_true, Bool.or_self]

/-- The ring that they configure, with every slot empty. -/
def emptyRing (base w : Word) : Ring :=
  ⟨base, bitsN w 8 0, bitsN w 20 16, 0, 0, List.replicate (bitsN w 20 16) Tile.reset⟩

section
variable {d : BitVec 4} {a b : BitVec 6} {x y : Val} (hopen : Opens s { srcs := [.g a, .g b], dsts := [], gives := true } s1 [x, y])
  (hring : d.toNat < ringsOf s1 s.curCore) (hform : RingForm x.w y.w)
include hopen hring hform

/-- A ring that ends within the declared scratchpad and is not busy is configured. -/
theorem execRingcfg_configures
    (hbound : x.w.toNat + bitsN y.w 8 0 * bitsN y.w 20 16 * 64 ≤ Config.scratchBase + (s1.core s.curCore).scratch)
    (hidle : (s1.core s.curCore).ringBusy d.toNat = false) :
    execRingcfg d a b s = .next (issuedFrom s { srcs := [.g a, .g b], dsts := [], gives := true } (s1.modCore s.curCore (fun k =>
      { k with rings := k.rings.setIfInBounds d.toNat (emptyRing x.w y.w) })) ((me s).pc + 4)) :=
  issuedNext_of_ret hopen ((if_neg (Nat.not_le.mpr hring)).trans ((if_neg (Bool.eq_false_iff.mp hform.passes)).trans
    ((if_neg (Nat.not_lt.mpr hbound)).trans (if_neg (Bool.eq_false_iff.mp hidle)))))

/-- A ring that goes beyond the declared scratchpad traps. -/
theorem execRingcfg_beyond
    (hbound : Config.scratchBase + (s1.core s.curCore).scratch < x.w.toNat + bitsN y.w 8 0 * bitsN y.w 20 16 * 64) :
    execRingcfg d a b s = .next (s.trapped s.curCore s.curSlot (det cScratchBound 0) x.w x.w) :=
  trapped_of_trap hopen ((if_neg (Nat.not_le.mpr hring)).trans ((if_neg (Bool.eq_false_iff.mp hform.passes)).trans (if_pos hbound)))

end

section
variable {d : BitVec 6} {a : BitVec 4} (hring : a.toNat < ringsOf s1 s.curCore)
include hring

theorem execRingqry_samples (hopen : Opens s { srcs := [], dsts := [.g d], takes := true } s1 []) :
    Results s { srcs := [], dsts := [.g d], takes := true } s1 [(.g d, Val.of ((s1.core s.curCore).ring a.toNat).word)]
      (execRingqry d a s) :=
  results_of_ret hopen (if_neg (Nat.not_le.mpr hring))

theorem execTqry_samples {b : BitVec 6} {x : Val} (hopen : Opens s { srcs := [.g b], dsts := [.g d], takes := true } s1 [x])
    (hslot : x.w.toNat < 16) :
    let r := (s1.core s.curCore).ring a.toNat
    Results s { srcs := [.g b], dsts := [.g d], takes := true } s1
      [(.g d, Val.of (if x.w.toNat < r.count then (r.tile x.w.toNat).word else 0))] (execTqry d a b s) := by
  have hshift : x.w >>> 4 = 0 := BitVec.eq_of_toNat_eq
    ((BitVec.toNat_ushiftRight x.w 4).trans ((Nat.shiftRight_eq_div_pow _ 4).trans (Nat.div_eq_of_lt hslot)))
  have hin : (x.w >>> 4 != 0) = false := bne_eq_false_iff_eq.mpr hshift
  exact results_of_ret hopen ((if_neg (Nat.not_le.mpr hring)).trans (if_neg (Bool.eq_false_iff.mp hin)))

end

end

/-! ### A beat of a core's only transfer (R124, R125) -/

section
variable {c : Nat} {x : Xfer} {s : State} (hx : (s.core c).xfers = [x])
include hx

theorem xfer?_only : s.xfer? c x.id = some x := by
  simp only [State.xfer?, hx, List.find?_cons, beq_self_eq_true]

theorem execTransferBeat_only (hpost : x.posting = false) : execTransferBeat c s = .next (s.transferMoves c x.id) := by
  simp only [execTransferBeat, hx, List.foldl_cons, List.foldl_nil, hpost, Bool.false_eq_true, if_false]

variable (hpad : x.pad.2.2 = [])
include hpad

/-- A piece in the vault moves in the cycle that its beat crosses the bus. -/
theorem transferMoves_vaultPiece {p : Piece} {ps : List Piece} (hp : x.pieces = p :: ps) (hv : inVault p.at' = true) :
    s.transferMoves c x.id = if s.hasBeat c (.xfer x.id) then s.pieceBeat c x p ps else s := by
  simp only [State.transferMoves, xfer?_only hx, hpad, hp, hv, List.isEmpty_nil, Bool.not_true, Bool.false_and, Bool.false_eq_true,
    if_false, if_true]

/-- The scale in the scratchpad comes when no piece is left. -/
theorem transferMoves_scratchScale {a : Word} (hp : x.pieces = []) (ha : x.scaleAt = some a) (hdue : x.due ≤ s.now c)
    (hv : inVault a.toNat = false) : s.transferMoves c x.id = s.scaleIn c x a := by
  simp only [State.transferMoves, xfer?_only hx, hpad, hp, ha, hdue, hv, List.isEmpty_nil, Bool.not_true, Bool.false_and,
    Bool.false_eq_true, if_false, if_true, decide_true, Bool.and_self]

end

/-- A piece of a load pours its elements into the slot, which counts them. -/
theorem pieceBeat_load {x : Xfer} (hload : x.store = false) (c : Nat) (p : Piece) (ps : List Piece) (s : State) :
    let s0 := s.sense c p.at' p.span
    let got := s0.pieceIn c x p.moves
    let put := s0.pour c (s.xferBase c x) x.held got
    s.pieceBeat c x p ps = (put.1.setXfer c { x with pieces := ps, due := s.now c + 1, held := put.2 }).tileLanded c x p.bytes
      (got.any (fun (e : Nat × Nat × Nat × Bool) => e.2.2.2)) := by
  simp only [State.pieceBeat, hload, Bool.false_eq_true, if_false]

/-! ### Completion (R122, R124, R125) -/

section
variable {c sl id : Nat} {p : Pend} {x : Xfer} {s : State} (hdue : DuePend s c sl id p) (hdone : s.xferDone c id = some x)
include hdue hdone

theorem execTileLoadReady_load (hload : x.store = false) :
    execTileLoadReady c sl id s = .next (((s.modCore c (fun k =>
      k.modTile x.ring x.rslot (fun e => { e with state := .ready, scale := x.scale }))).postTile c x).finish c sl p []) := by
  simp only [execTileLoadReady, onPend_due hdue, hdone, hload, Bool.false_eq_true, if_false]

theorem execTstCompletion_store (hstore : x.store = true) :
    execTstCompletion c sl id s =
      .next (((s.modCore c (fun k => k.modTile x.ring x.rslot Tile.release)).postTile c x).finish c sl p []) := by
  simp only [execTstCompletion, onPend_due hdue, hdone, hstore, Bool.not_true, Bool.false_eq_true, if_false]

end

theorem postTile_none {x : Xfer} (c : Nat) (s : State) (hk : cmpKind x.comp = 0) : s.postTile c x = s.dropXfer c x.id := by
  have hcounter : ¬ cmpKind x.comp = 1 := by omega
  have hbarrier : (decide (cmpKind x.comp = 2) && x.store) = false := by
    rw [decide_eq_false (by omega), Bool.false_and]
  exact (if_neg hcounter).trans (if_neg (Bool.eq_false_iff.mp hbarrier))

/-- A store counts its bytes at its barrier when it is complete; a load has counted them piece by piece. -/
theorem postTile_storeBarrier {x : Xfer} (c : Nat) (s : State) (hk : cmpKind x.comp = 2) (hstore : x.store = true) :
    s.postTile c x = (s.dropXfer c x.id).addBytes c (cmpTarget x.comp) (0 - BitVec.ofNat 64 x.tbytes) := by
  have hcounter : ¬ cmpKind x.comp = 1 := by omega
  exact (if_neg hcounter).trans (if_pos (Bool.and_eq_true_iff.mpr ⟨decide_eq_true hk, hstore⟩))

/-- Settles O29: each instruction, beat and completion has one equation for each of its cases. -/
theorem ringsAndTransfers : Obligations.RingsAndTransfers := by
  unfold Obligations.RingsAndTransfers
  refine ⟨⟨?ringcfg, fun d a s s1 hopen hring => execRingqry_samples hring hopen,
    fun d a b s s1 x hopen hring hslot => execTqry_samples hring hopen hslot⟩, ?beat, ?piece, ?completion, ?word⟩
  case ringcfg =>
    intro d a b s s1 x y f size count hopen hring hin halign hreserved hsize hsizeTop hcount hcountTop
    have esize : size = bitsN y.w 8 0 := ((bitsN_eq_div_mod y.w 8 0).trans (congrArg (· % 512) (Nat.div_one _))).symm
    have ecount : count = bitsN y.w 20 16 := (bitsN_eq_div_mod y.w 20 16).symm
    rw [esize] at hsize hsizeTop ⊢
    rw [ecount] at hcount hcountTop ⊢
    have hform : RingForm x.w y.w := ⟨hin, halign, hreserved, hsize, hsizeTop, hcount, hcountTop⟩
    exact ⟨execRingcfg_configures hopen hring hform, execRingcfg_beyond hopen hring hform⟩
  case beat =>
    intro c x s hx hpost hpad
    have hbeat : exec (.transferBeat c) s = .next (s.transferMoves c x.id) := execTransferBeat_only hx hpost
    refine ⟨fun p ps hp hv => ?_, fun a hp ha hdue hv => hbeat.trans (congrArg _ (transferMoves_scratchScale hx hpad hp ha hdue hv))⟩
    have hmoves := hbeat.trans (congrArg _ (transferMoves_vaultPiece hx hpad hp hv))
    exact ⟨fun hgranted => hmoves.trans (congrArg _ (if_pos hgranted)),
      fun hnone => hmoves.trans (congrArg _ (if_neg (Bool.eq_false_iff.mp hnone)))⟩
  case piece => exact fun c x p ps s hload => pieceBeat_load hload c p ps s
  case completion =>
    exact fun c sl id p x s hdue hdone => ⟨execTileLoadReady_load hdue hdone, execTstCompletion_store hdue hdone⟩
  case word => exact fun c x s => ⟨postTile_none c s, postTile_storeBarrier c s⟩

end Sys2Proof.Laws
end

section
/-! SUPPORT. FEMPTY of a pending register parks in the class of its producer, in whichever slot that one stands (07 R134, R143). -/

namespace Sys2Proof.Laws
open Sys2Proof.Machine

section
variable {s s1 : State} {a : BitVec 6} {k : BitVec 2}
  (hopen : Opens s { srcs := [], dsts := [], more := [feOpnd k a], gives := (feOpnd k a).isShared } s1 [])
include hopen

/-- FEMPTY of a pending register, past the change guard, parks in the class of the register's producer, whichever slot issued it. -/
theorem execFempty_pending (hg : feOpnd k a ≠ .g 0) (hm : feOpnd k a ≠ .m 0)
    (hguard : ((feOpnd k a).isShared && shGuard ((s1.core s.curCore).shOf (a.toNat - 48)) (s1.now s.curCore)) = false)
    (hfe : s1.feOf s.curCore s.curSlot (feOpnd k a) = .pending) :
    exec (.fempty a k) s = .next (s.parked s.curCore s.curSlot (s1.waitFor s.curCore s.curSlot (feOpnd k a))) := by
  refine parked_of_park hopen ?_
  rw [if_neg (not_or.mpr ⟨hg, hm⟩), hguard, if_neg Bool.false_ne_true, hfe]

end

/-- RATOM of slot 1, its destination sh0 empty and pending. -/
def sharedAtomic : Pend :=
  { id := 0, kind := .ratom, pc := 64, word := 0, la := 15, issued := 0, dst := [.g 48], due := 1, served := false, start := 1 }

/-- Core 0 at the opportunity of slot 0, sh0 pending since slot 1 issued that RATOM a rotation ago. -/
def sharedAtomicState : State :=
  State.reset.setCore 0 { Core.reset with
    cycle := 16
    sh := Core.reset.sh.set 0 [⟨1, ⟨0, .pending, false⟩⟩]
    threads := (Core.reset.threads.set 0 { Thread.reset with life := .live, pc := 64 }).set 1
      { Thread.reset with life := .live, pc := 68, pend := [sharedAtomic] } }

theorem sharedAtomicState_opens :
    Opens sharedAtomicState { srcs := [], dsts := [], more := [feOpnd 0 48], gives := (feOpnd 0 48).isShared } sharedAtomicState [] where
  slot := rfl
  declared := rfl
  handler := nofun
  window := rfl
  edge := rfl
  read := rfl
  hits := .inr rfl
  dst := rfl
  clean := .inl rfl
  alone := .inl rfl

/-- What the last opportunity of slot 0 counts as in the rotation's account. -/
def slotClass (o : Out) : Option Nat :=
  match o with
  | .next s => (s.core 0).dbg.rot.head?
  | _ => none

/-- Refutes O9: FEMPTY of a shared register whose producer is a RATOM of another slot parks on message (07 R134), and the statement has
it park as for a register that no pending instruction of the thread itself fills, on memory. -/
theorem not_fullEmptyBits : ¬ Obligations.FullEmptyBits := by
  unfold Obligations.FullEmptyBits
  rintro ⟨hfempty, -⟩
  obtain ⟨-, -, -, hpending⟩ := hfempty 48 0 _ _ sharedAtomicState_opens
  have hstated : exec (.fempty 48 0) sharedAtomicState = .next (sharedAtomicState.parked 0 0 .memory) :=
    hpending (by decide) (by decide) (fun _ => rfl) rfl
  have hmodel : exec (.fempty 48 0) sharedAtomicState = .next (sharedAtomicState.parked 0 0 .message) :=
    execFempty_pending sharedAtomicState_opens (by decide) (by decide) rfl rfl
  have hclass : slotClass (.next (sharedAtomicState.parked 0 0 .memory)) = slotClass (.next (sharedAtomicState.parked 0 0 .message)) :=
    congrArg slotClass (hstated.symm.trans hmodel)
  exact absurd hclass (by decide)

end Sys2Proof.Laws
end

section
/-! SUPPORT. The moves, PBIND and PQRY: what each body answers once its attempt opens (07 R138-R151). -/

namespace Sys2Proof.Laws
open Sys2Proof.Machine

/-! ### Reading a source leaves the pairing of slots (02 R40; 18 R385) -/

theorem sendCredit_core (s : State) (c sl p d : Nat) : (s.sendCredit c sl p).core d = s.core d := by
  unfold State.sendCredit
  split
  · rfl
  · split <;> rfl

theorem setThr_redundant (s : State) (c sl : Nat) (t : Thread) : ((s.setThr c sl t).core c).redundant = (s.core c).redundant := by
  rw [State.setThr, State.core_modCore, Core.setThread_redundant]

theorem readReg_ok {n file num : Nat} {s s1 : State} {t : Thread} {o : Opnd} {r : Reg n} {v : Val}
    (h : readReg s t o file num r = .ok s1 v) : s1 = s := by
  unfold readReg at h
  split at h <;> cases h
  rfl

theorem popPort_redundant {s s1 : State} {c sl p : Nat} {v : Val} (h : s.popPort c sl p = .ok s1 v) :
    (s1.core c).redundant = (s.core c).redundant := by
  unfold State.popPort at h
  dsimp only at h
  split at h
  · cases h
  · split at h
    · split at h <;> cases h
      rw [sendCredit_core, setThr_redundant]
    · cases h

theorem readOp_redundant {s s1 : State} {c sl : Nat} {o : Opnd} {v : Val} (h : s.readOp c sl o = .ok s1 v) :
    (s1.core c).redundant = (s.core c).redundant := by
  unfold State.readOp at h
  cases o with
  | g n =>
    dsimp only at h
    split at h
    · cases h; rfl
    split at h
    · rw [readReg_ok h]
    split at h
    · split at h <;> cases h
      rfl
    split at h
    · exact popPort_redundant h
    split at h
    · split at h <;> cases h
      rw [State.core_modCore]
    split at h
    · split at h <;> cases h
      rw [State.core_modCore]
    · cases h; rfl
  | v n =>
    dsimp only at h
    split at h
    · rw [readReg_ok h]
    split at h
    · exact popPort_redundant h
    split at h
    · split at h <;> cases h
      exact setThr_redundant ..
    · cases h
  | m n =>
    dsimp only at h
    split at h
    · cases h; rfl
    · rw [readReg_ok h]

theorem readAll_redundant {c sl : Nat} {os : List Opnd} {s s1 : State} {vs : List Val} (h : s.readAll c sl os = .ok s1 vs) :
    (s1.core c).redundant = (s.core c).redundant := by
  induction os generalizing s vs with
  | nil => cases h; rfl
  | cons o rest ih =>
    rw [State.readAll] at h
    split at h
    · cases h
    · cases h
    · rename_i s2 v hop
      split at h
      · cases h
      · cases h
      · rename_i s3 ws hrest
        cases h
        rw [ih hrest, readOp_redundant hop]

/-- An attempt with an effect that leaves the pair opens in no pair. -/
theorem not_trailing_of_opens {s s1 : State} {f : Form} {xs : List Val} (h : Opens s f s1 xs) (hg : f.gives = true) :
    s1.isTrailing s.curCore s.curSlot = false := by
  have hpair : s.isPair s.curCore s.curSlot = false := by
    rcases h.alone with halone | ⟨-, hout⟩
    · exact halone
    · simp only [Form.givesOut, hg, Bool.true_or, Bool.true_eq_false] at hout
  have hpair1 : s1.isPair s.curCore s.curSlot = false := by
    rw [State.isPair, readAll_redundant h.read]
    exact hpair
  rw [State.isTrailing, hpair1, Bool.false_and]

/-! ### Moves (07 R138-R141) -/

theorem moves_of_move {i : Instr} {o src : Opnd} (hi : ∀ s, exec i s = move o src s) : Moves i o src := by
  intro s s1 x hopen
  rw [hi]
  exact results_of_ret hopen rfl

section
variable {d a : BitVec 6} {s s1 : State} {x : Val}

/-- MOV.TAKE past the change guard leaves its shared register empty and free. -/
theorem execMovTake_takes
    (hopen : Opens s { srcs := [.g a], dsts := [.g d], ends := true, passes := true, gives := true } s1 [x])
    (hguard : shGuard ((s1.core s.curCore).shOf (a.toNat - 48)) (s1.now s.curCore) = false) :
    Results s { srcs := [.g a], dsts := [.g d], ends := true, passes := true, gives := true }
      (s1.setSh s.curCore (a.toNat - 48) { shNow ((s1.core s.curCore).shOf (a.toNat - 48)) with fe := .free }) [(.g d, x)]
      (exec (.movTake d a) s) := by
  refine results_of_ret hopen ?_
  dsimp only
  rw [not_trailing_of_opens hopen rfl, hguard]
  rfl

/-- MOV.PUT past the change guard fills an empty, free shared register. -/
theorem execMovPut_puts
    (hopen : Opens s { srcs := [.g a], dsts := [], more := [.g d], ends := true, passes := true, gives := true } s1 [x])
    (hguard : shGuard ((s1.core s.curCore).shOf (d.toNat - 48)) (s1.now s.curCore) = false)
    (hfree : (shView ((s1.core s.curCore).shOf (d.toNat - 48)) (s1.now s.curCore)).fe = .free) :
    exec (.movPut d a) s =
      .next (issuedFrom s { srcs := [.g a], dsts := [], more := [.g d], ends := true, passes := true, gives := true }
        (s1.setSh s.curCore (d.toNat - 48) ⟨x.w, .full, x.poison⟩) ((me s).pc + 4)) := by
  refine issuedNext_of_ret hopen ?_
  dsimp only
  rw [not_trailing_of_opens hopen rfl, hguard, hfree]
  rfl

end

/-! ### PBIND and PQRY (07 R148-R151) -/

/-- A word has no bit from bit n on exactly when it is below 2 ^ n. -/
theorem ushiftRight_bne_zero (w : Word) (n : Nat) : (w >>> n != 0#64) = decide (2 ^ n ≤ w.toNat) := by
  rw [Bool.eq_iff_iff, bne_iff_ne, decide_eq_true_iff, ne_eq, ← BitVec.toNat_inj, BitVec.toNat_ushiftRight,
    Nat.shiftRight_eq_div_pow, BitVec.toNat_zero, Nat.div_eq_zero_iff_lt (Nat.two_pow_pos n), Nat.not_lt]

/-- A dimension whose wrap bit stays, or whose edges are quiet, does not hold PBIND back. -/
theorem wrap_goes {old new quiet : Bool} (h : new ≠ old → quiet = true) : (new != old && !quiet) = false := by
  rw [Bool.and_eq_false_iff, bne_eq_false_iff_eq, Bool.not_eq_false']
  exact Decidable.or_iff_not_imp_left.mpr h

/-- The direction that PQRY names (07 R151). -/
theorem bitsN_port (w : Word) : bitsN w 2 0 = w.toNat % 8 :=
  (bitsN_eq_div_mod w 2 0).trans (congrArg (· % 8) (Nat.div_one _))

section
variable {d a : BitVec 6} {s s1 : State} {x : Val}

theorem execPbind_binds (hopen : Opens s { srcs := [.g a], dsts := [] } s1 [x]) (hw : x.w.toNat < 4)
    (hx : x.w.getLsbD 0 ≠ (s1.thr s.curCore s.curSlot).wrapX → s1.dimQuiet s.curCore s.curSlot true = true)
    (hy : x.w.getLsbD 1 ≠ (s1.thr s.curCore s.curSlot).wrapY → s1.dimQuiet s.curCore s.curSlot false = true) :
    exec (.pbind a) s = .next (issuedFrom s { srcs := [.g a], dsts := [] } (s1.setThr s.curCore s.curSlot
      { s1.thr s.curCore s.curSlot with wrapX := x.w.getLsbD 0, wrapY := x.w.getLsbD 1 }) ((me s).pc + 4)) := by
  have hform : (x.w >>> 2 != 0#64) = false := (ushiftRight_bne_zero x.w 2).trans (decide_eq_false (Nat.not_le.mpr hw))
  exact issuedNext_of_ret hopen ((if_neg (Bool.eq_false_iff.mp hform)).trans
    ((if_neg (Bool.eq_false_iff.mp (wrap_goes hx))).trans (if_neg (Bool.eq_false_iff.mp (wrap_goes hy)))))

theorem execPbind_reserved (hopen : Opens s { srcs := [.g a], dsts := [] } s1 [x]) (hw : 4 ≤ x.w.toNat) :
    exec (.pbind a) s = .next (s.trapped s.curCore s.curSlot (det cPortForm 1) 0 0) := by
  have hform : (x.w >>> 2 != 0#64) = true := (ushiftRight_bne_zero x.w 2).trans (decide_eq_true hw)
  exact trapped_of_trap hopen (if_pos hform)

theorem execPqry_reads (hopen : Opens s { fR d a with takes := true } s1 [x]) (hp : x.w.toNat % 8 < 5)
    (hw : x.w &&& ~~~0x107#64 = 0) :
    Results s { fR d a with takes := true } s1
      [(.g d, Val.of (s1.pqryWord s.curCore s.curSlot (x.w.toNat % 8) (x.w.getLsbD 8)))] (exec (.pqry d a) s) := by
  rw [← bitsN_port] at hp ⊢
  have hform : (decide (5 ≤ bitsN x.w 2 0) || x.w &&& ~~~0x107#64 != 0) = false :=
    Bool.or_eq_false_iff.mpr ⟨decide_eq_false (Nat.not_le.mpr hp), bne_eq_false_iff_eq.mpr hw⟩
  exact results_of_ret hopen (if_neg (Bool.eq_false_iff.mp hform))

theorem execPqry_reserved (hopen : Opens s { fR d a with takes := true } s1 [x])
    (h : 5 ≤ x.w.toNat % 8 ∨ x.w &&& ~~~0x107#64 ≠ 0) :
    exec (.pqry d a) s = .next (s.trapped s.curCore s.curSlot (det cPortForm 2) 0 0) := by
  rw [← bitsN_port] at h
  have hform : (decide (5 ≤ bitsN x.w 2 0) || x.w &&& ~~~0x107#64 != 0) = true :=
    Bool.or_eq_true_iff.mpr (h.imp decide_eq_true bne_iff_ne.mpr)
  exact trapped_of_trap hopen (if_pos hform)

end

/-- Settles O8: each move, PBIND and PQRY has one equation for each of its cases. -/
theorem registerAndPortMoves : Obligations.RegisterAndPortMoves := by
  unfold Obligations.RegisterAndPortMoves
  refine ⟨⟨fun d a => moves_of_move fun _ => rfl, fun d a => moves_of_move fun _ => rfl, fun d a => moves_of_move fun _ => rfl,
    fun d a => moves_of_move fun _ => rfl, fun d a s s1 x => execMovTake_takes, fun d a s s1 x => execMovPut_puts⟩, ?pbind, ?pqry⟩
  case pbind => exact fun a s s1 x hopen => ⟨execPbind_binds hopen, execPbind_reserved hopen⟩
  case pqry => exact fun d a s s1 x hopen => ⟨execPqry_reads hopen, execPqry_reserved hopen⟩

end Sys2Proof.Laws
end

section
/-! SUPPORT. The queue windows: what a push, a pop and an arrival do in each case (07 R145, R148, R153; 10 R208; 05 R88, R89). -/

namespace Sys2Proof.Laws
open Sys2Proof.Machine

/-! ### Ports (07 R145, R147) -/

section
variable {s : State} {c sl p : Nat}

theorem pushPort_credit {far fsl fp h x : Nat} {w : Bool} (v : Val) (hb : s.binding c sl p = .link far fsl fp h x w true)
    (hc : ((s.thr c sl).port p).credits ≠ 0) :
    let q := (s.thr c sl).port p
    let s1 := s.setThr c sl ((s.thr c sl).setPort p { q with credits := q.credits - 1 })
    s.pushPort c sl p v = .ok (s1.fly c (.entry v.x v.poison) far fsl fp (p % 5 == 4)
      (if p % 5 = 4 then { num := s1.now c + 4, den := 1 } else s1.portDue c h x (decide (5 ≤ p)))) := by
  have hgo : (decide (((s.thr c sl).port p).credits = 0) || !true) = false := by
    rw [decide_eq_false hc, Bool.not_true, Bool.or_self]
  simp only [State.pushPort, hb, hgo, Bool.false_eq_true, if_false]

theorem pushPort_noCredit (v : Val) (hb : s.binding c sl p ≠ .edge) (hc : ((s.thr c sl).port p).credits = 0) :
    s.pushPort c sl p v = .park .message := by
  unfold State.pushPort
  cases hbind : s.binding c sl p with
  | edge => exact absurd hbind hb
  | link far fsl fp h x w live => simp only [hc, decide_true, Bool.true_or, if_true]

theorem pushPort_edge (v : Val) (hb : s.binding c sl p = .edge) :
    s.pushPort c sl p v = .trap (det cPortEdge (p % 5 + (if 5 ≤ p then 16 else 0))) 0 := by
  simp only [State.pushPort, hb]

theorem popPort_edge (hb : s.binding c sl p = .edge) :
    s.popPort c sl p = .trap (det cPortEdge (p % 5 + (if 5 ≤ p then 16 else 0))) := by
  simp only [State.popPort, hb]

theorem popPort_entry {x : Vec} {po : Bool} {at' : Nat} {rest : List (Vec × Bool × Nat)} (hb : s.binding c sl p ≠ .edge)
    (hq : ((s.thr c sl).port p).queue = (x, po, at') :: rest) (hnow : at' ≤ s.now c) :
    s.popPort c sl p = .ok ((s.setThr c sl ((s.thr c sl).setPort p
      { (s.thr c sl).port p with queue := rest })).sendCredit c sl p) ⟨x, po⟩ := by
  unfold State.popPort
  cases hbind : s.binding c sl p with
  | edge => exact absurd hbind hb
  | link far fsl fp h x w live => simp only [hq, if_pos hnow]

end

/-! ### A push or a pop as an event -/

section
variable {s : State} {c sl : Nat}

theorem queueTrap_live (hlive : (s.thr c sl).life = .live) (code : BitVec 16) (addr : Word) :
    s.queueTrap c sl code addr = s.trapped c sl code addr addr := if_pos hlive

theorem pushed_ok {p : Put} {t : State} (h : p = .ok t) : pushed s c sl p = .next t := by rw [h]; rfl

theorem pushed_park {p : Put} {w : Wait} (h : p = .park w) : pushed s c sl p = .next s := by rw [h]; rfl

theorem pushed_trap {p : Put} {code : BitVec 16} {addr : Word} (h : p = .trap code addr) (hlive : (s.thr c sl).life = .live) :
    pushed s c sl p = .next (s.trapped c sl code addr addr) := by
  rw [h, pushed, queueTrap_live hlive]

theorem popped_ok {g : Got} {t : State} {v : Val} (h : g = .ok t v) : popped s c sl g = .next t := by rw [h]; rfl

theorem popped_trap {g : Got} {code : BitVec 16} (h : g = .trap code) (hlive : (s.thr c sl).life = .live) :
    popped s c sl g = .next (s.trapped c sl code 0 0) := by
  rw [h, popped, queueTrap_live hlive]

end

/-! ### The work list, the transform queue and vmq (07 R153; 10 R208) -/

section
variable {s : State} {c : Nat}

/-- The oldest entry is taken once its push is seen. -/
theorem popQueue_seen {q rest : List (Word × Nat)} {x : Word} {t now : Nat} (hq : q = (x, t) :: rest) (ht : t + 4 ≤ now) :
    popQueue q now = some (x, rest) := by
  rw [hq, popQueue, if_pos ht]

theorem pushWl_room (sl : Nat) (v : Word) (h : (s.core c).wl.length + unseen ((s.core c).wlGone.map (fun g => g.2)) (s.now c) < 4096)
    (hrel : s.releaseReady c sl 2 = true) :
    s.pushWl c sl v = .ok ((s.oweWl c sl).modCore c (fun k => { k with wl := k.wl ++ [(v, k.cycle)] })) := by
  rw [State.pushWl, if_neg (Nat.not_le.mpr h), hrel]
  rfl

theorem pushTq_room (sl : Nat) (v : Word) (h : (s.core c).tq.length + unseen (s.core c).tqGone (s.now c) < 16)
    (hrel : s.releaseReady c sl 2 = true) :
    s.pushTq c sl v = .ok (s.modCore c (fun k => { k with tq := k.tq ++ [(v, k.cycle)] })) := by
  rw [State.pushTq, if_neg (Nat.not_le.mpr h), hrel]
  rfl

theorem readOp_wl (sl : Nat) {x : Word} {t : Nat} {rest : List (Word × Nat)} (hq : (s.core c).wl = (x, t) :: rest)
    (ht : t + 4 ≤ s.now c) : s.readOp c sl (.g 61) = .ok (s.modCore c (fun k =>
      { k with wl := rest, wlGone := (t, k.cycle) :: k.wlGone.filter (fun (g : Nat × Nat) => k.cycle < g.2 + 4) })) (Val.of x) := by
  unfold State.readOp
  rw [popQueue_seen hq ht]
  simp only [State.modCore, hq]
  rfl

theorem readOp_tq (sl : Nat) {x : Word} {t : Nat} {rest : List (Word × Nat)} (hq : (s.core c).tq = (x, t) :: rest)
    (ht : t + 4 ≤ s.now c) : s.readOp c sl (.g 62) = .ok (s.modCore c (fun k =>
      { k with tq := rest, tqGone := k.cycle :: k.tqGone.filter (fun (t : Nat) => k.cycle < t + 4) })) (Val.of x) := by
  unfold State.readOp
  rw [popQueue_seen hq ht]
  rfl

theorem execTqPop_entry {x : Word} {t : Nat} {rest : List (Word × Nat)} (hq : (s.core c).tq = (x, t) :: rest) (ht : t + 4 ≤ s.now c) :
    execTqPop c s = .next (s.modCore c (fun k =>
      { k with tq := rest, tqGone := k.cycle :: k.tqGone.filter (fun (t : Nat) => k.cycle < t + 4) })) := by
  rw [execTqPop, readOp_tq 15 hq ht]

theorem readOp_vmq {sl : Nat} {x : Vec} {po : Bool} {at' : Nat} {rest : List (Vec × Bool × Nat)}
    (hq : (s.thr c sl).vmq = (x, po, at') :: rest) (hnow : at' ≤ s.now c) :
    s.readOp c sl (.v 62) = .ok (s.setThr c sl { s.thr c sl with vmq := rest }) ⟨x, po⟩ := by
  unfold State.readOp
  dsimp only
  rw [hq]
  exact if_pos hnow

end

/-! ### cq (05 R88, R89, R101) -/

section
variable {s : State} {c sl : Nat}

/-- A thread's life is what it was where a change of the thread leaves it, whatever the slot. -/
theorem thr_modThr_life (f : Thread → Thread) (hf : ∀ t, (f t).life = t.life) : ((s.modThr c sl f).thr c sl).life = (s.thr c sl).life := by
  by_cases hsl : sl < 16
  · rw [State.thr_modThr s c f hsl, hf]
  · have hsame : (s.modThr c sl f).thr c sl = s.thr c sl := by
      simp only [State.modThr, State.setThr, State.thr, State.core_modCore, Core.thread, Core.setThread,
        Vector.getElem?_eq_none (Nat.not_lt.mp hsl)]
    rw [hsame]

theorem pushCq_stages (v : Word) (h : (s.thr c sl).staging.length < 3) :
    s.pushCq c sl v = .ok (s.setThr c sl { s.thr c sl with staging := (s.thr c sl).staging ++ [v] }) := by
  have hshort : ¬ 4 ≤ ((s.thr c sl).staging ++ [v]).length := by
    rw [List.length_append, List.length_singleton]
    omega
  exact if_neg fun hfull => hshort hfull.1

/-- The request that a push of the last of some words commits (R88, R101). -/
def committed (s : State) (c sl : Nat) (ws : List Word) : CopyReq :=
  { id := s.fresh, slot := sl, words := ws, active := false, before := 0, issued := 0, performed := 0, outstanding := 0, due := s.now c + 1,
    waits := s.releaseIds c sl (s.scopeOf c (reqSrcs ws ++ reqDests ws)),
    actor := if sl = 13 then (s.thr c 13).invocation.bind (fun v => v.actor) else none }

section
variable {v : Word} {ws : List Word} (hws : (s.thr c sl).staging ++ [v] = ws)
  (hfull : 4 ≤ ws.length ∧ reqWords ((ws[2]?).getD 0) ≤ ws.length)
include hws hfull

theorem pushCq_refused {f : BitVec 16 × Word} (hcheck : s.checkRequest c ws = some f) : s.pushCq c sl v = .trap f.1 f.2 := by
  subst hws
  unfold State.pushCq
  rw [if_pos hfull, hcheck]

theorem pushCq_commits (hcheck : s.checkRequest c ws = none) (hreg : lfReg ((ws[2]?).getD 0) = false)
    (hroom : ((s.core c).copies.filter (fun (r : CopyReq) => !r.active)).length < 16) :
    let s1 := { s with fresh := s.fresh + 1 }
    s.pushCq c sl v = .ok ((s1.modCore c (fun k => { k with copies := k.copies ++ [committed s c sl ws] })).modThr c sl
      (fun t => { t with staging := [] })) := by
  have hactor : (if sl = 13 then (s.thr c sl).invocation.bind (·.actor) else none) = (committed s c sl ws).actor :=
    ite_congr rfl (fun h => by rw [h]) fun _ => rfl
  subst hws
  unfold State.pushCq
  rw [if_pos hfull, hcheck]
  dsimp only
  rw [if_neg (Nat.not_le.mpr hroom), hreg, hactor]
  rfl

end

/-- A refused request traps and empties the staging buffer. -/
theorem execCqPush_refused {v : Word} {f : BitVec 16 × Word} (h : s.pushCq c sl v = .trap f.1 f.2) (hlive : (s.thr c sl).life = .live) :
    exec (.cqPush c sl v) s = .next ((s.modThr c sl (fun t => { t with staging := [] })).trapped c sl f.1 f.2 f.2) := by
  have hexec : exec (.cqPush c sl v) s = execCqPush c sl v s := rfl
  have hstill : ((s.modThr c sl (fun t => { t with staging := [] })).thr c sl).life = (s.thr c sl).life :=
    thr_modThr_life _ fun _ => rfl
  rw [hexec, execCqPush, h]
  dsimp only
  rw [queueTrap_live (hstill.trans hlive)]

theorem execCqPush_ok {v : Word} {t : State} (h : s.pushCq c sl v = .ok t) : exec (.cqPush c sl v) s = .next t := by
  have hexec : exec (.cqPush c sl v) s = execCqPush c sl v s := rfl
  rw [hexec, execCqPush, h]
  rfl

end

/-! ### Arrivals at a port (07 R145, R437) -/

section
variable {s : State} {id : Nat} {f : Flight} (hland : s.landed? id = some f)
include hland

theorem execPortEntryArrival_entry {v : Vec} {po : Bool} (hload : f.load = .entry v po) :
    execPortEntryArrival id s = .next ((s.dropFlight id).modThr f.core f.slot (fun t => t.setPort f.port
      { t.port f.port with queue := (t.port f.port).queue ++ [(v, po, s.now f.core + 1)] })) := by
  rw [execPortEntryArrival, hland]
  dsimp only
  rw [State.landFlight, hload]
  rfl

theorem execPortCreditReturn_credit (hload : f.load = .credit) :
    execPortCreditReturn id s = .next ((s.dropFlight id).modThr f.core f.slot (fun t => t.setPort f.port
      { t.port f.port with credits := (t.port f.port).credits + 1 })) := by
  rw [execPortCreditReturn, hland]
  dsimp only
  rw [State.landFlight, hload]

end

/-- Settles O36: each event is a push, a pop or an arrival of its window, and each of these has one equation for each of its cases. -/
theorem queueWindows : Obligations.QueueWindows := by
  unfold Obligations.QueueWindows
  refine ⟨?port, ?queue, ?arrival⟩
  case port =>
    intro c sl port v s
    exact ⟨fun far fsl fp h x w hb hc => pushed_ok (pushPort_credit ⟨v, false⟩ hb hc),
      fun hb hc => pushed_park (pushPort_noCredit ⟨v, false⟩ hb hc),
      fun hb hlive => ⟨pushed_trap (pushPort_edge ⟨v, false⟩ hb) hlive, popped_trap (popPort_edge hb) hlive⟩,
      fun x po at' rest hb hq hnow => popped_ok (popPort_entry hb hq hnow)⟩
  case queue =>
    intro c sl v s
    refine ⟨fun h hrel => pushed_ok (pushWl_room sl v h hrel), fun h hrel => pushed_ok (pushTq_room sl v h hrel),
      fun h => pushed_park (if_pos h), fun h => pushed_park (if_pos h), fun x t rest hq ht => popped_ok (readOp_wl sl hq ht),
      fun x t rest hq ht => execTqPop_entry hq ht, fun x po at' rest hq hnow => popped_ok (readOp_vmq hq hnow),
      fun h => execCqPush_ok (pushCq_stages v h), fun a b len hst hlen => ?_⟩
    have hws : (s.thr c sl).staging ++ [v] = [a, b, len, v] := by rw [hst]; rfl
    have hfull : 4 ≤ [a, b, len, v].length ∧ reqWords (([a, b, len, v][2]?).getD 0) ≤ [a, b, len, v].length := ⟨Nat.le_refl _, Nat.le_of_eq hlen⟩
    exact ⟨fun f hcheck => execCqPush_refused (pushCq_refused hws hfull hcheck),
      fun hcheck hreg hroom => execCqPush_ok (pushCq_commits hws hfull hcheck hreg hroom)⟩
  case arrival =>
    exact fun id f s hland => ⟨fun v po => execPortEntryArrival_entry hland, execPortCreditReturn_credit hland⟩

end Sys2Proof.Laws
end

section
/-! SUPPORT. Thread control: what SPAWN, TEXIT, WLQRY and LAUNCH answer once their attempts open, and what the wake of slot 15 and the
steps of a pending LAUNCH do (07 R155-R157; 13 R254; 17 R361-R365). -/

namespace Sys2Proof.Laws
open Sys2Proof.Machine

/-! ### SPAWN (07 R155-R157) -/

section
variable {s s1 s2 t : State} {f : Form} {o : Out}

/-- An attempt that opens carries out the answer that its body comes to. -/
theorem step_answers {xs : List Val} {body : Body} {act : Act} (h : Opens s f s1 xs) (hb : body s1 s.curCore s.curSlot xs = act) :
    s.issueStep f body = .next (s.perform s.curCore s.curSlot f act) :=
  hb ▸ step_of_opens body h

theorem perform_answer {act act' : Act} (ho : o = .next (s.perform s.curCore s.curSlot f act)) (h : act = act') :
    o = .next (s.perform s.curCore s.curSlot f act') := h ▸ ho

/-- An attempt whose body pends. -/
theorem pends_of_perform {kind : PKind} {due : Nat} (ho : o = .next (s.perform s.curCore s.curSlot f (.pend t kind due))) :
    Pends s f t kind due o := by
  intro u hu
  rw [ho]
  simp only [State.perform, hu]
  rfl

/-- The message by which a SPAWN on its own core answers itself (log 63). -/
def ownSpawn (s : State) (c sl member : Nat) (child : Thread) : Msg :=
  { id := 0, kind := .spawn member child true, core := c, slot := sl, pend := s.fresh + 1, home := c, off := 0, va := 0,
    asid := s.asidOf c, tag := 0, due := { num := 0, den := 1 }, refused := false }

theorem spawnGo_waits {c sl far member : Nat} (child : Thread) (h : s.writesDone c sl (s.smallestScope c far) = false) :
    s.spawnGo c sl far member child = .parkIn s .memory := by
  rw [State.spawnGo, h]
  rfl

theorem spawnGo_goes {c sl far member : Nat} (child : Thread) (h : s.writesDone c sl (s.smallestScope c far) = true) :
    let s1 := s.modThr c sl (fun t => { t with claiming := none })
    s.spawnGo c sl far member child = .pend (if far = c then (s1.setUp c member child).reply (ownSpawn s c sl member child) 0 false none 2
      else s1.sendFor (.spawn member child false) c sl far 0 0 0) (.spawn far member) (s.now c) := by
  rw [State.spawnGo, h]
  rfl

/-- A SPAWN that holds its member parks on memory until the thread's writes are released, then pends: its child's state travels to
another core, or is set up on its own. -/
theorem pends_of_spawnGo {far member : Nat} {child : Thread}
    (ho : o = .next (s.perform s.curCore s.curSlot f (t.spawnGo s.curCore s.curSlot far member child))) :
    let c := s.curCore
    let sl := s.curSlot
    let t1 := t.modThr c sl (fun u => { u with claiming := none })
    (t.writesDone c sl (t.smallestScope c far) = false → o = .next (t.parked c sl .memory)) ∧
    (t.writesDone c sl (t.smallestScope c far) = true →
      (far ≠ c → Pends s f (t1.sendFor (.spawn member child false) c sl far 0 0 0) (.spawn far member) (t.now c) o) ∧
      (far = c → Pends s f ((t1.setUp c member child).reply (ownSpawn t c sl member child) 0 false none 2) (.spawn far member)
        (t.now c) o)) := by
  refine ⟨fun hearly => ?_, fun hdone => ⟨fun haway => ?_, fun hhome => ?_⟩⟩
  · rw [ho, spawnGo_waits child hearly]
    rfl
  · rw [spawnGo_goes child hdone, if_neg haway] at ho
    exact pends_of_perform ho
  · rw [spawnGo_goes child hdone, if_pos hhome] at ho
    exact pends_of_perform ho

section
variable {d a b : BitVec 6} {l : BitVec 4} {start w : Val}

/-- The form of SPAWN: g[d] is the first register of its run (R155). -/
def spawnForm (d a b : BitVec 6) (l : BitVec 4) : Form :=
  { fRR 0 a b with dsts := [], more := [.g d], la := some l, ordering := true, ends := true, gives := true, slots := 0x1FFF, inHandler := false }

/-- A SPAWN that a check of R156 refuses traps. -/
theorem execSpawn_refused {code : BitVec 16} (hopen : Opens s (spawnForm d a b l) s1 [start, w])
    (hcheck : s1.spawnCheck s.curCore s.curSlot d.toNat start.w w.w = some code) :
    exec (.spawn d a b l) s = .next (s.trapped s.curCore s.curSlot code 0 0) := by
  refine trapped_of_trap hopen ?_
  dsimp only
  rw [arg_zero, arg_one, hcheck]
  rfl

/-- What a SPAWN answers that has read its run of registers: it goes on with a member that it holds, takes a dormant one of its own
core, and asks for any other. -/
def spawnAct (s : State) (c sl far member : Nat) (child : Thread) : Act :=
  if s.holds c sl far member then s.spawnGo c sl far member child
  else if far = c && s.spawnFree c member then
    ((s.claim c member).modThr c sl (fun t => { t with claiming := some (c, member, 1) })).spawnGo c sl c member child
  else s.seek c sl far member

theorem execSpawn_reads {r : Ridge} {vs : List Val} (hopen : Opens s (spawnForm d a b l) s1 [start, w])
    (hr : s1.ridge? s.curCore = some r) (hcheck : s1.spawnCheck s.curCore s.curSlot d.toNat start.w w.w = none)
    (hread : s1.readAll s.curCore s.curSlot (((List.range (bitsN w.w 29 24)).map (fun i => d.toNat + i)).map
      (fun n => .g (BitVec.ofNat 6 n))) = .ok s2 vs)
    (hclean : vs.any (·.poison) = false) :
    exec (.spawn d a b l) s = .next (s.perform s.curCore s.curSlot (spawnForm d a b l)
      (spawnAct s2 s.curCore s.curSlot (r.coreAt (bitsN w.w 7 0) (bitsN w.w 15 8)) (bitsN w.w 19 16)
        (childOf (s2.thr s.curCore s.curSlot) start.w
          (((List.range (bitsN w.w 29 24)).map (fun i => d.toNat + i)).zip (vs.map Val.w))))) := by
  refine step_answers hopen ?_
  dsimp only
  rw [arg_zero, arg_one, hcheck, hr]
  dsimp only
  rw [hread]
  dsimp only
  rw [hclean]
  rfl

end

section
variable {c sl far member : Nat} {child : Thread}

theorem spawnAct_holds (h : s.holds c sl far member = true) : spawnAct s c sl far member child = s.spawnGo c sl far member child :=
  if_pos h

/-- A dormant member of the own core is claimed at once. -/
theorem spawnAct_claims (h : s.holds c sl far member = false) (hfar : far = c) (hfree : s.spawnFree c member = true) :
    spawnAct s c sl far member child = ((s.claim c member).modThr c sl (fun t => { t with claiming := some (far, member, 1) })).spawnGo
      c sl far member child := by
  subst hfar
  rw [spawnAct, h, if_neg Bool.false_ne_true, hfree, decide_eq_true (rfl : far = far)]
  rfl

theorem spawnAct_seeks (h : s.holds c sl far member = false) (hown : far = c → s.spawnFree c member = false) :
    spawnAct s c sl far member child = s.seek c sl far member := by
  have hcond : (decide (far = c) && s.spawnFree c member) = false := by
    rw [Bool.and_eq_false_iff, decide_eq_false_iff_not]
    exact Decidable.or_iff_not_imp_left.mpr fun hfar => hown (Decidable.not_not.mp hfar)
  rw [spawnAct, h, if_neg Bool.false_ne_true, hcond, if_neg Bool.false_ne_true]

theorem seek_own (hfar : far = c) : s.seek c sl far member = .park .message := if_pos hfar

theorem seek_asked (hfar : far ≠ c) (h : (s.thr c sl).claiming = some (far, member, 0)) : s.seek c sl far member = .park .message := by
  rw [State.seek, if_neg hfar, h, beq_self_eq_true, if_pos rfl]

theorem seek_asks (hfar : far ≠ c) (h : (s.thr c sl).claiming ≠ some (far, member, 0)) : s.seek c sl far member =
    .parkIn ((s.send (.claim member) c sl member far 0 0 0).modThr c sl (fun t => { t with claiming := some (far, member, 0) })) .message := by
  rw [State.seek, if_neg hfar, beq_eq_false_iff_ne.mpr h, if_neg Bool.false_ne_true]

end

end

/-! ### TEXIT, the wake of slot 15, WLQRY (13 R254; 17 R363-R365) -/

section
variable {s s1 : State}

theorem pairOf_alone {c sl : Nat} (h : s.isPair c sl = false) : s.pairOf c sl = [sl] := if_neg (Bool.eq_false_iff.mp h)

/-- The form of TEXIT (R364). -/
def texitForm : Form :=
  { srcs := [], dsts := [], ordering := true, ends := true, gives := true, slots := 0x8FFF, inHandler := false }

section
variable (hopen : Opens s texitForm s1 [])
include hopen

theorem execTexit_exits (hsl : s.curSlot ≠ 15) (hpair : s1.isPair s.curCore s.curSlot = false)
    (hlast : s1.lastWaits s.curCore [s.curSlot] = false) :
    exec .texit s = .next (issuedFrom s texitForm (s1.exit s.curCore s.curSlot) ((me s).pc + 4)) := by
  refine issuedNext_of_ret hopen ((if_neg hsl).trans ?_)
  dsimp only
  rw [pairOf_alone hpair, hlast, hpair]
  rfl

/-- The last TEXIT of a ridge waits while a copy of its threads is outstanding (05 R103). -/
theorem execTexit_waits (hsl : s.curSlot ≠ 15) (hpair : s1.isPair s.curCore s.curSlot = false)
    (hlast : s1.lastWaits s.curCore [s.curSlot] = true) : exec .texit s = .next (s.parked s.curCore s.curSlot .memory) := by
  refine parked_of_park hopen ((if_neg hsl).trans ?_)
  dsimp only
  rw [pairOf_alone hpair, hlast]
  rfl

theorem execTexit_sleeps {r : Ridge} (hsl : s.curSlot = 15) (hr : s1.ridge? s.curCore = some r) :
    exec .texit s = .next (issuedFrom s texitForm (s1.transformSleep s.curCore) (BitVec.ofNat 64 r.header.entry)) := by
  refine issued_of_ret (next := some (BitVec.ofNat 64 r.header.entry)) hopen ((if_pos hsl).trans ?_)
  rw [hr]

end

theorem execTransformWake_wakes {c : Nat} (hlife : (s.thr c 15).life = .asleep)
    (hq : (s.core c).tq.any (fun (x : Word × Nat) => x.2 + 4 ≤ s.now c) = true) :
    execTransformWake c s = .next (s.modThr c 15 (fun t => { t with life := .live })) := by
  rw [execTransformWake, hlife, hq]
  rfl

theorem execTransformWake_waits {c : Nat} (hq : (s.core c).tq.any (fun (x : Word × Nat) => x.2 + 4 ≤ s.now c) = false) :
    execTransformWake c s = .next s := by
  rw [execTransformWake, hq, Bool.and_false, if_neg Bool.false_ne_true]

/-! ### LAUNCH (17 R361, R362) -/

/-- The form of LAUNCH: it touches the 128 bytes of its packet (R361). -/
def launchForm (d a b : BitVec 6) (l : BitVec 4) : Form :=
  { srcs := [.g a, .g b], dsts := [.g d], la := some l, ordering := true, ends := true, takes := true, gives := true, slots := 0x9FFF,
    touch := fun xs => [(arg xs 0, 128)], rd := true }

section
variable {d a b : BitVec 6} {l : BitVec 4} {x y : Val} {q : Queue} (hopen : Opens s (launchForm d a b l) s1 [x, y])
  (hcheck : (s1.core s.curCore).check x.w 128 128 true false false = none) (hnum : y.w.toNat < 512)
  (hq : s1.queue? y.w.toNat = some q)
include hopen hcheck hnum hq

/-- A LAUNCH that may read its packet, to a queue that there is: its queue is another program's, or it waits for its release and for room
in the queue, and pends. -/
theorem execLaunch_queue : exec (.launch d a b l) s = .next (s.perform s.curCore s.curSlot (launchForm d a b l)
    (if q.asid ≠ s1.asidOf s.curCore then fault0 (det cLaunchForm 1)
      else if !s1.releaseReady s.curCore s.curSlot 8 then .park .memory
      else if q.slots ≤ q.tail + s1.inSlots q.id + s1.launching q.id - q.head then .park .message
      else .pend (s1.toBank s.curCore s.curSlot x.w 128 0) (.launch 0 x.w q.id 0) (s1.now s.curCore))) := by
  refine step_answers hopen ?_
  dsimp only
  rw [arg_zero, arg_one, hcheck, if_neg (Nat.not_le.mpr hnum), hq]

theorem execLaunch_foreign (hasid : q.asid ≠ s1.asidOf s.curCore) :
    exec (.launch d a b l) s = .next (s.trapped s.curCore s.curSlot (det cLaunchForm 1) 0 0) := by
  rw [execLaunch_queue hopen hcheck hnum hq, if_pos hasid]
  rfl

variable (hasid : q.asid = s1.asidOf s.curCore)
include hasid

theorem execLaunch_early (hrel : s1.releaseReady s.curCore s.curSlot 8 = false) :
    exec (.launch d a b l) s = .next (s.parked s.curCore s.curSlot .memory) := by
  rw [execLaunch_queue hopen hcheck hnum hq, if_neg (not_not_intro hasid), hrel]
  rfl

variable (hrel : s1.releaseReady s.curCore s.curSlot 8 = true)
include hrel

theorem execLaunch_full (hfull : q.slots ≤ q.tail + s1.inSlots q.id + s1.launching q.id - q.head) :
    exec (.launch d a b l) s = .next (s.parked s.curCore s.curSlot .message) := by
  rw [execLaunch_queue hopen hcheck hnum hq, if_neg (not_not_intro hasid), hrel, Bool.not_true, if_neg Bool.false_ne_true, if_pos hfull]
  rfl

theorem execLaunch_pends (hroom : q.tail + s1.inSlots q.id + s1.launching q.id - q.head < q.slots) :
    Pends s (launchForm d a b l) (s1.toBank s.curCore s.curSlot x.w 128 0) (.launch 0 x.w q.id 0) (s1.now s.curCore)
      (exec (.launch d a b l) s) := by
  refine pends_of_perform ?_
  rw [execLaunch_queue hopen hcheck hnum hq, if_neg (not_not_intro hasid), hrel, Bool.not_true, if_neg Bool.false_ne_true,
    if_neg (Nat.not_le.mpr hroom)]

end

section
variable {c sl id q : Nat} {p : Pend} {seq ea : Word} (hdue : DuePend s c sl id p)
include hdue

theorem launchOn_poisoned {v : Nat} (hk : p.kind = .launch seq ea q 0) (hgot : p.gotOf 0 = some (v, true)) :
    s.launchOn c sl id = s.consumed c sl p := by
  simp only [State.launchOn, onPend_due hdue, hk, hgot, if_true]

/-- The packet that has been read goes to its queue's next slot; a mirror's is written nowhere (log 72). -/
theorem launchOn_read {v : Nat} {x : Queue} (hk : p.kind = .launch seq ea q 0) (hgot : p.gotOf 0 = some (v, false))
    (hq : s.queue? q = some x) :
    let n := x.tail + s.inSlots q
    let goes (stage : Nat) : State := s.modPend c sl id (fun p => { p with kind := .launch (BitVec.ofNat 64 n) ea q stage })
    s.launchOn c sl id = if s.isMirror c then goes 2
      else (goes 1).jobBegin x.asid c (.launch c sl) q ((s.ridge? c).map (fun r => r.launch))
        [.write (x.ring + BitVec.ofNat 64 (128 * (n % x.slots))) (leBytes v 128)] := by
  simp only [State.launchOn, onPend_due hdue, hk, hgot, hq, Bool.false_eq_true, if_false]

/-- LAUNCH ends with the packet's number. -/
theorem launchOn_ends (hk : p.kind = .launch seq ea q 2) : s.launchOn c sl id = s.finish c sl p [Val.of seq] := by
  simp only [State.launchOn, onPend_due hdue, hk]

end

end

/-- Settles O35: each instruction and event has one equation for each of its cases. -/
theorem threadControl : Obligations.ThreadControl := by
  unfold Obligations.ThreadControl
  refine ⟨?spawn, ?child, ?texit, fun c s => ⟨execTransformWake_wakes, execTransformWake_waits⟩,
    ?wlqry, ?launch, ?packet⟩
  case spawn =>
    intro d a b l s s1 start w r f c nums far member hopen hr
    refine ⟨?_, fun code => execSpawn_refused hopen⟩
    intro hcheck s2 vs hread hclean child claims goes
    have hexec := execSpawn_reads hopen hr hcheck hread hclean
    refine ⟨fun hholds => pends_of_spawnGo (perform_answer hexec (spawnAct_holds hholds)), fun hnot => ⟨?_, ?_, ?_, ?_⟩⟩
    · exact fun hfar hfree => pends_of_spawnGo (perform_answer hexec (spawnAct_claims hnot hfar hfree))
    · exact fun hfar hbusy => perform_answer hexec ((spawnAct_seeks hnot fun _ => hbusy).trans (seek_own hfar))
    · exact fun hfar hasked => perform_answer hexec ((spawnAct_seeks hnot fun h => absurd h hfar).trans (seek_asked hfar hasked))
    · exact fun hfar hnew => perform_answer hexec ((spawnAct_seeks hnot fun h => absurd h hfar).trans (seek_asks hfar hnew))
  case child => exact fun parent member start regs => ⟨rfl, rfl, rfl, rfl, rfl, rfl, rfl, rfl, rfl, rfl, rfl, rfl, rfl, rfl, rfl, rfl⟩
  case texit =>
    intro s s1 f c hopen
    exact ⟨execTexit_exits hopen, execTexit_waits hopen, fun r => execTexit_sleeps hopen⟩
  case wlqry =>
    intro d s s1 f k len hopen
    exact results_of_ret hopen rfl
  case launch =>
    intro d a b l s s1 x y q f c taken hopen hcheck hnum hq
    exact ⟨fun hasid hrel => ⟨execLaunch_pends hopen hcheck hnum hq hasid hrel, execLaunch_full hopen hcheck hnum hq hasid hrel⟩,
      execLaunch_early hopen hcheck hnum hq, execLaunch_foreign hopen hcheck hnum hq⟩
  case packet =>
    intro c sl id p seq ea q s hdue
    refine ⟨fun v po hk hgot => ⟨fun hpo => launchOn_poisoned hdue hk (hpo ▸ hgot), fun x hpo hq => ?_⟩, launchOn_ends hdue⟩
    have hread := launchOn_read hdue hk (hpo ▸ hgot) hq
    exact ⟨fun hm => hread.trans (if_neg (Bool.eq_false_iff.mp hm)), fun hm => hread.trans (if_pos hm)⟩

end Sys2Proof.Laws
end

section
/-! SUPPORT. The scalar integer families: an instruction whose arm is a short-latency form or a divide, with the operation of the
statement in place of the model's (09 R182-R186). -/

namespace Sys2Proof.Laws
open Sys2Proof.Machine

/-! ### The forms -/

theorem alu2_of_exec {i : BitVec 6 → BitVec 6 → BitVec 6 → Instr} {op op' : Word → Word → Word}
    (hop : ∀ x y, op' x y = op x y) (hi : ∀ d a b s, exec (i d a b) s = alu2 d a b op' s) : Alu2 i op := by
  intro d a b s s1 x y hopen
  rw [hi, ← hop]
  exact results_of_ret hopen rfl

theorem alu1_of_exec {i : BitVec 6 → BitVec 6 → Instr} {op op' : Word → Word}
    (hop : ∀ x, op' x = op x) (hi : ∀ d a s, exec (i d a) s = alu1 d a op' s) : Alu1 i op := by
  intro d a s s1 x hopen
  rw [hi, ← hop]
  exact results_of_ret hopen rfl

theorem divides_of_exec {i : BitVec 6 → BitVec 6 → BitVec 6 → BitVec 4 → Instr} {op op' : Word → Word → Word}
    (hop : ∀ x y, op' x y = op x y) (hi : ∀ d a b l s, exec (i d a b l) s = divider d a b l op' s) : Divides i op := by
  intro d a b l s s1 x y hopen
  rw [hi, ← hop]
  exact pends_of_pend hopen rfl

/-! ### Comparison and saturation (09 R182) -/

theorem if_slt (x y u v : Word) : (if x.slt y then u else v) = if x.toInt < y.toInt then u else v :=
  ite_congr (propext BitVec.slt_iff_toInt_lt) (fun _ => rfl) fun _ => rfl

theorem if_ult (x y u v : Word) : (if x.ult y then u else v) = if x.toNat < y.toNat then u else v :=
  ite_congr (propext BitVec.ult_iff_toNat_lt) (fun _ => rfl) fun _ => rfl

theorem bit_slt (x y : Word) : bit (x.slt y) = if x.toInt < y.toInt then 1 else 0 :=
  if_slt x y 1 0

theorem bit_ult (x y : Word) : bit (x.ult y) = if x.toNat < y.toNat then 1 else 0 :=
  if_ult x y 1 0

/-- A saturated value is an end of the signed range, or the low 64 bits of the value. -/
theorem sat64_eq (i : Int) : sat64 i = if i < -2 ^ 63 then 0x8000000000000000#64
    else if 2 ^ 63 ≤ i then 0x7FFFFFFFFFFFFFFF#64 else BitVec.ofInt 64 i := by
  unfold sat64
  split
  · rfl
  split
  · rfl
  · rfl

theorem sat64_add (x y : Word) : sat64 (x.toInt + y.toInt) = if x.toInt + y.toInt < -2 ^ 63 then 0x8000000000000000#64
    else if 2 ^ 63 ≤ x.toInt + y.toInt then 0x7FFFFFFFFFFFFFFF#64 else x + y := by
  rw [sat64_eq, BitVec.ofInt_add, BitVec.ofInt_toInt, BitVec.ofInt_toInt]

theorem sat64_sub (x y : Word) : sat64 (x.toInt - y.toInt) = if x.toInt - y.toInt < -2 ^ 63 then 0x8000000000000000#64
    else if 2 ^ 63 ≤ x.toInt - y.toInt then 0x7FFFFFFFFFFFFFFF#64 else x - y := by
  have hlow : BitVec.ofInt 64 (x.toInt - y.toInt) = x - y := by
    rw [Int.sub_eq_add_neg, BitVec.ofInt_add, BitVec.ofInt_neg, BitVec.ofInt_toInt, BitVec.ofInt_toInt, BitVec.sub_eq_add_neg]
  rw [sat64_eq, hlow]

/-! ### Products and quotients (09 R185, R186) -/

/-- Bits 127:64 of an integer are the low bits of its floor quotient by 2 ^ 64. -/
theorem extract_high_ofInt (p : Int) : (BitVec.ofInt 128 p).extractLsb' 64 64 = BitVec.ofInt 64 (p / 2 ^ 64) := by
  apply BitVec.eq_of_toNat_eq
  rw [BitVec.extractLsb'_toNat, BitVec.toNat_ofInt, BitVec.toNat_ofInt, Nat.shiftRight_eq_div_pow]
  omega

theorem productHigh_eq (sg : BitVec 2) (x y : Word) : productHigh sg x y = BitVec.ofInt 64 (product sg x y / 2 ^ 64) :=
  extract_high_ofInt _

/-- The one signed quotient that does not fit wraps to the dividend, and leaves no remainder. -/
theorem sdivrem_overflow : sdivrem 0x8000000000000000#64 (-1) = (0x8000000000000000#64, 0) := by decide

theorem sdivrem_quotient (x y : Word) : (sdivrem x y).1 = if y = 0 then -1
    else if x = 0x8000000000000000#64 ∧ y = -1 then x else BitVec.ofInt 64 (x.toInt.tdiv y.toInt) := by
  by_cases hy : y = 0
  · rw [sdivrem, if_pos hy, if_pos hy]
  rw [if_neg hy]
  split
  case isTrue h =>
    obtain ⟨rfl, rfl⟩ := h
    rw [sdivrem_overflow]
  case isFalse => rw [sdivrem, if_neg hy]

theorem sdivrem_remainder (x y : Word) : (sdivrem x y).2 = if y = 0 then x
    else if x = 0x8000000000000000#64 ∧ y = -1 then 0 else BitVec.ofInt 64 (x.toInt - y.toInt * x.toInt.tdiv y.toInt) := by
  by_cases hy : y = 0
  · rw [sdivrem, if_pos hy, if_pos hy]
  rw [if_neg hy]
  split
  case isTrue h =>
    obtain ⟨rfl, rfl⟩ := h
    rw [sdivrem_overflow]
  case isFalse => rw [sdivrem, if_neg hy, Int.tmod_def]

theorem udivrem_quotient (x y : Word) : (udivrem x y).1 = if y = 0 then -1 else BitVec.ofNat 64 (x.toNat / y.toNat) := by
  unfold udivrem
  split <;> rfl

theorem udivrem_remainder (x y : Word) : (udivrem x y).2 = if y = 0 then x
    else BitVec.ofNat 64 (x.toNat - y.toNat * (x.toNat / y.toNat)) := by
  unfold udivrem
  split
  · rfl
  · rw [Nat.mod_def]

theorem execMulp_pair {sg : BitVec 2} {d a b : BitVec 6} {s s1 : State} {x y : Val}
    (hopen : Opens s { srcs := [.g a, .g b], dsts := [.g d, .g (d + 1)] } s1 [x, y]) :
    Results s { srcs := [.g a, .g b], dsts := [.g d, .g (d + 1)] } s1
      [(.g d, Val.of (BitVec.ofInt 64 (product sg x.w y.w))),
        (.g (d + 1), Val.of (BitVec.ofInt 64 (product sg x.w y.w / 2 ^ 64)))] (exec (.mulp d a b sg) s) := by
  rw [← productHigh_eq]
  exact results_of_ret hopen rfl

/-- Settles O3: the high half is a floor quotient by 2 ^ 64, and the divider's corners are the zero divisor and the one overflow. -/
theorem multiplyDivideResults : Obligations.MultiplyDivideResults := by
  unfold Obligations.MultiplyDivideResults
  refine ⟨⟨?mul, ?mulW, fun sg => ⟨?mulh, ?mulp⟩⟩, ?div, ?rem, ?divu, ?remu⟩
  case mul => exact alu2_of_exec (fun _ _ => rfl) fun _ _ _ _ => rfl
  case mulW => exact alu2_of_exec (fun _ _ => rfl) fun _ _ _ _ => rfl
  case mulh => exact alu2_of_exec (productHigh_eq sg) fun _ _ _ _ => rfl
  case mulp => exact fun d a b s s1 x y => execMulp_pair
  case div => exact divides_of_exec sdivrem_quotient fun _ _ _ _ _ => rfl
  case rem => exact divides_of_exec sdivrem_remainder fun _ _ _ _ _ => rfl
  case divu => exact divides_of_exec udivrem_quotient fun _ _ _ _ _ => rfl
  case remu => exact divides_of_exec udivrem_remainder fun _ _ _ _ _ => rfl

/-- Settles O1: each instruction is a form of two sources with its operation. -/
theorem integerRegisterResults : Obligations.IntegerRegisterResults := by
  unfold Obligations.IntegerRegisterResults
  refine ⟨?add, ?sub, ?and, ?or, ?xor, ?andn, ?sll, ?srl, ?sra, ?ror, ?slt, ?sltu, ?min, ?minu, ?max, ?maxu, ?addW, ?subW,
    ?adds, ?subs⟩
  case slt => exact alu2_of_exec bit_slt fun _ _ _ _ => rfl
  case sltu => exact alu2_of_exec bit_ult fun _ _ _ _ => rfl
  case min | max => exact alu2_of_exec (fun _ _ => if_slt ..) fun _ _ _ _ => rfl
  case minu | maxu => exact alu2_of_exec (fun _ _ => if_ult ..) fun _ _ _ _ => rfl
  case adds => exact alu2_of_exec sat64_add fun _ _ _ _ => rfl
  case subs => exact alu2_of_exec sat64_sub fun _ _ _ _ => rfl
  all_goals exact alu2_of_exec (fun _ _ => rfl) fun _ _ _ _ => rfl

theorem execMovhi_high {d : BitVec 6} {s s1 : State} (im : BitVec 19) (hopen : Opens s { srcs := [], dsts := [.g d] } s1 []) :
    Results s { srcs := [], dsts := [.g d] } s1 [(.g d, Val.of (upper im))] (exec (.movhi d im) s) :=
  results_of_ret hopen rfl

theorem execAdrhi_high {d : BitVec 6} {s s1 : State} (im : BitVec 19) (hopen : Opens s { srcs := [], dsts := [.g d] } s1 []) :
    Results s { srcs := [], dsts := [.g d] } s1 [(.g d, Val.of ((s1.thr s.curCore s.curSlot).pc + upper im))]
      (exec (.adrhi d im) s) :=
  results_of_ret hopen rfl

/-- Settles O2: each immediate form is a form of one source whose operation has the immediate fixed. -/
theorem immediateResults : Obligations.ImmediateResults := by
  unfold Obligations.ImmediateResults
  refine ⟨fun im => ⟨?add, ?and, ?or, ?xor, ?slt, ?sltu⟩, fun n => ⟨?sll, ?srl, ?sra, ?ror⟩, ?upper⟩
  case slt => exact alu1_of_exec (fun x => bit_slt x _) fun _ _ _ => rfl
  case sltu => exact alu1_of_exec (fun x => bit_ult x _) fun _ _ _ => rfl
  case upper => exact fun d im s s1 hopen => ⟨execMovhi_high im hopen, execAdrhi_high im hopen⟩
  all_goals exact alu1_of_exec (fun _ => rfl) fun _ _ _ => rfl

end Sys2Proof.Laws
end

section
/-! SUPPORT. The bit family: what a count or a reversal says of the single bits and bytes of its operand (09 R187). -/

namespace Sys2Proof.Laws
open Sys2Proof.Machine

/-! ### Counts -/

/-- The most significant 1 of a word stands below as many zeros as are counted. -/
theorem clz64_spec (x : Word) : (x = 0 ∧ clz64 x = 64) ∨
    (clz64 x < 64 ∧ x.getLsbD (63 - clz64 x) = true ∧ ∀ j, 63 - clz64 x < j → x.getLsbD j = false) := by
  by_cases hx : x = 0
  · exact .inl ⟨hx, if_pos hx⟩
  have hpos : x.toNat ≠ 0 := fun h => hx (BitVec.eq_of_toNat_eq h)
  have htop : x.toNat.log2 < 64 := (Nat.log2_lt hpos).mpr x.isLt
  have hclz : clz64 x = 63 - x.toNat.log2 := if_neg hx
  have hbit : 63 - clz64 x = x.toNat.log2 := by omega
  refine .inr ⟨by omega, ?_, fun j hj => ?_⟩
  · rw [hbit, BitVec.getLsbD]
    exact Nat.testBit_log2 hpos
  · rw [hbit] at hj
    exact Nat.testBit_lt_two_pow ((Nat.log2_lt hpos).mp hj)

/-- The first n steps of the reversal have placed the bits below n. -/
theorem brev64_steps (x : Word) {n j : Nat} (hj : j < 64) (hn : n ≤ 64) :
    ((List.range n).foldl (fun acc i => if x.getLsbD i then acc ||| (1#64 <<< (63 - i)) else acc) 0).getLsbD j =
      (decide (63 - j < n) && x.getLsbD (63 - j)) := by
  induction n with
  | zero => simp
  | succ n ih =>
    have hstep : (1#64 <<< (63 - n)).getLsbD j = decide (63 - j = n) := by
      rw [← BitVec.twoPow_eq, BitVec.getLsbD_twoPow, decide_eq_true (by omega), Bool.true_and, decide_eq_decide]
      omega
    rw [List.range_succ, List.foldl_append, List.foldl_cons, List.foldl_nil]
    split
    case isTrue hbit =>
      rw [BitVec.getLsbD_or, ih (by omega), hstep]
      grind
    case isFalse hbit =>
      rw [ih (by omega)]
      grind

theorem getLsbD_brev64 (x : Word) {j : Nat} (hj : j < 64) : (brev64 x).getLsbD j = x.getLsbD (63 - j) := by
  rw [brev64, brev64_steps x hj (Nat.le_refl 64), decide_eq_true (by omega), Bool.true_and]

/-- The least significant 1 of a word stands above as many zeros as are counted. -/
theorem ctz64_spec (x : Word) : (x = 0 ∧ ctz64 x = 64) ∨
    (ctz64 x < 64 ∧ x.getLsbD (ctz64 x) = true ∧ ∀ j, j < ctz64 x → x.getLsbD j = false) := by
  rcases clz64_spec (brev64 x) with ⟨hzero, hcount⟩ | ⟨hcount, hbit, habove⟩
  · refine .inl ⟨BitVec.eq_of_getLsbD_eq fun j hj => ?_, hcount⟩
    have hflip := getLsbD_brev64 x (show 63 - j < 64 by omega)
    rw [hzero, show 63 - (63 - j) = j by omega] at hflip
    simp only [← hflip, BitVec.ofNat_eq_ofNat, BitVec.getLsbD_zero]
  · refine .inr ⟨hcount, ?_, fun j hj => ?_⟩
    · rw [getLsbD_brev64 x (by omega), show 63 - (63 - clz64 (brev64 x)) = clz64 (brev64 x) by omega] at hbit
      exact hbit
    · have hflip := habove (63 - j) (by unfold ctz64 at hj; omega)
      rw [getLsbD_brev64 x (by omega), show 63 - (63 - j) = j by unfold ctz64 at hj; omega] at hflip
      exact hflip

/-! ### Bytes -/

theorem extract_byte_ofNat (n : Nat) {a : Nat} (ha : a + 8 ≤ 64) :
    (BitVec.ofNat 64 n).extractLsb' a 8 = BitVec.ofNat 8 (n / 2 ^ a) := by
  apply BitVec.eq_of_getLsbD_eq
  intro i hi
  rw [BitVec.getLsbD_extractLsb', BitVec.getLsbD_ofNat, BitVec.getLsbD_ofNat, Nat.testBit_div_two_pow, Nat.add_comm a i]
  simp [show i + a < 64 by omega]

/-- Byte j of a little-endian number. -/
theorem leNat_byte (bs : List Byte) (j : Nat) : BitVec.ofNat 8 (leNat bs / 2 ^ (8 * j)) = (bs[j]?).getD 0 := by
  induction bs generalizing j with
  | nil => simp [leNat]
  | cons b rest ih =>
    cases j with
    | zero =>
      apply BitVec.eq_of_toNat_eq
      simp [leNat]
      omega
    | succ j =>
      have hdrop : leNat (b :: rest) / 2 ^ (8 * (j + 1)) = leNat rest / 2 ^ (8 * j) := by
        rw [Nat.mul_succ, Nat.add_comm, Nat.pow_add, ← Nat.div_div_eq_div_mul, leNat]
        congr 1
        omega
      rw [hdrop, ih, List.getElem?_cons_succ]

theorem leBytes_byte (x : Nat) {n j : Nat} (hj : j < n) : (leBytes x n)[j]? = some (BitVec.ofNat 8 (x / 2 ^ (8 * j))) := by
  induction n generalizing x j with
  | zero => omega
  | succ n ih =>
    cases j with
    | zero => simp [leBytes]
    | succ j =>
      rw [leBytes, List.getElem?_cons_succ, ih _ (by omega), Nat.div_div_eq_div_mul, Nat.mul_succ, Nat.add_comm (8 * j), Nat.pow_add]

theorem extract_rev8 (x : Word) {j : Nat} (hj : j < 8) : (rev8 x).extractLsb' (8 * j) 8 = x.extractLsb' (8 * (7 - j)) 8 := by
  have hlen : (leBytes x.toNat 8).length = 8 := leBytes_length 8 _
  calc (rev8 x).extractLsb' (8 * j) 8
      = ((leBytes x.toNat 8).reverse[j]?).getD 0 := by rw [rev8, extract_byte_ofNat _ (by omega), leNat_byte]
    _ = ((leBytes x.toNat 8)[7 - j]?).getD 0 := by rw [List.getElem?_reverse (by omega), hlen]
    _ = BitVec.ofNat 8 (x.toNat / 2 ^ (8 * (7 - j))) := by rw [leBytes_byte _ (by omega), Option.getD_some]
    _ = x.extractLsb' (8 * (7 - j)) 8 := by rw [← extract_byte_ofNat _ (by omega), BitVec.ofNat_toNat, BitVec.setWidth_eq]

/-! ### Zero extension -/

/-- The low n bits of a word, by a mask and by a change of width. -/
theorem and_ones_eq_setWidth (x : Word) (n : Nat) : x &&& BitVec.ofNat 64 (2 ^ n - 1) = (x.setWidth n).setWidth 64 := by
  apply BitVec.eq_of_getLsbD_eq
  intro i hi
  rw [BitVec.getLsbD_and, BitVec.getLsbD_ofNat, Nat.testBit_two_pow_sub_one, BitVec.getLsbD_setWidth, BitVec.getLsbD_setWidth]
  simp [hi, Bool.and_comm]

section
variable {d a : BitVec 6} {s s1 : State} {x : Val} (hopen : Opens s (fR d a) s1 [x])
include hopen

theorem execClz_counts : Results s (fR d a) s1 [(.g d, Val.of (BitVec.ofNat 64 (clz64 x.w)))] (exec (.clz d a) s) :=
  results_of_ret hopen rfl

theorem execCtz_counts : Results s (fR d a) s1 [(.g d, Val.of (BitVec.ofNat 64 (ctz64 x.w)))] (exec (.ctz d a) s) :=
  results_of_ret hopen rfl

theorem execBrev_reverses : Results s (fR d a) s1 [(.g d, Val.of (brev64 x.w))] (exec (.brev d a) s) :=
  results_of_ret hopen rfl

theorem execRev8_reverses : Results s (fR d a) s1 [(.g d, Val.of (rev8 x.w))] (exec (.rev8 d a) s) :=
  results_of_ret hopen rfl

end

/-- Settles O4: the counts and the reversals are told bit by bit and byte by byte; the other forms of one source have the operation itself. -/
theorem bitResults : Obligations.BitResults := by
  unfold Obligations.BitResults
  refine ⟨?clz, ?ctz, ?popc, ?brev, ?rev8, ?extBS, ?extHS, ?extWS, ?extBZ, ?extHZ, ?extWZ⟩
  case clz => exact fun d a s s1 x hopen => ⟨_, clz64_spec x.w, execClz_counts hopen⟩
  case ctz => exact fun d a s s1 x hopen => ⟨_, ctz64_spec x.w, execCtz_counts hopen⟩
  case brev => exact fun d a s s1 x hopen => ⟨_, fun j => getLsbD_brev64 x.w, execBrev_reverses hopen⟩
  case rev8 => exact fun d a s s1 x hopen => ⟨_, fun j => extract_rev8 x.w, execRev8_reverses hopen⟩
  case extBZ => exact alu1_of_exec (fun x => and_ones_eq_setWidth x 8) fun _ _ _ => rfl
  case extHZ => exact alu1_of_exec (fun x => and_ones_eq_setWidth x 16) fun _ _ _ => rfl
  case extWZ => exact alu1_of_exec (fun x => and_ones_eq_setWidth x 32) fun _ _ _ => rfl
  case popc | extBS | extHS | extWS => exact alu1_of_exec (fun _ => rfl) fun _ _ _ => rfl

end Sys2Proof.Laws
end

section
/-! SUPPORT. Scalar floating point: the forms that round an exact value or work on the operand bits, divide and square root, and
conversion (09 R181, R192-R198). -/

namespace Sys2Proof.Laws
open Sys2Proof.Machine

/-! ### The forms -/

/-- A format reads the low bits of its width. -/
theorem decode_mod (f : Fmt) (x : Nat) : f.decode (x % 2 ^ f.bits) = f.decode x := by
  rw [Fmt.decode, Fmt.decode, Nat.mod_mod]

theorem fp2_of_exec {i : BitVec 6 → BitVec 6 → BitVec 6 → BitVec 1 → Instr} (op : Rm → Machine.Num → Machine.Num → Machine.Num)
    (hi : ∀ d a b w s, exec (i d a b w) s = fp2 d a b w op s) :
    Fp2 i (fun f m x y => roundIeee (op m (f.decode x) (f.decode y)) f m) := by
  intro d a b w s s1 x y hopen
  dsimp only
  rw [hi, decode_mod, decode_mod]
  exact results_of_ret hopen rfl

theorem fp2_of_bits {i : BitVec 6 → BitVec 6 → BitVec 6 → BitVec 1 → Instr} {op : Fmt → Rm → Nat → Nat → Nat × Flg}
    (op' : Fmt → Nat → Nat → Nat × Flg)
    (hop : ∀ w m x y, x < 2 ^ (fmtW w).bits → y < 2 ^ (fmtW w).bits → op' (fmtW w) x y = op (fmtW w) m x y)
    (hi : ∀ d a b w s, exec (i d a b w) s = fpBits d a b w op' s) : Fp2 i op := by
  intro d a b w s s1 x y hopen
  dsimp only
  rw [hi, ← hop w _ _ _ (Nat.mod_lt _ (Nat.two_pow_pos _)) (Nat.mod_lt _ (Nat.two_pow_pos _))]
  exact results_of_ret hopen rfl

theorem fp3_of_exec {i : BitVec 6 → BitVec 6 → BitVec 6 → BitVec 1 → Instr} {np nz : Bool}
    (hi : ∀ d a b w s, exec (i d a b w) s = fma3 d a b w np nz s) : Fp3 i np nz := by
  intro d a b w s s1 x y z hopen
  rw [hi]
  exact results_of_ret hopen rfl

/-! ### Sign forms (09 R193) -/

theorem fmtW_bits_pos (w : BitVec 1) : 0 < (fmtW w).bits := by
  unfold fmtW
  split <;> decide

theorem sign_eq_mul (f : Fmt) (b : Bool) : f.sign b = b.toNat * 2 ^ (f.bits - 1) := by
  cases b <;> simp [Fmt.sign]

/-- Above the other bits of an operand stands its sign. -/
theorem div_eq_signOf {w : BitVec 1} {x : Nat} (hx : x < 2 ^ (fmtW w).bits) :
    x / 2 ^ ((fmtW w).bits - 1) = (signOf (fmtW w) x).toNat := by
  have hbits : 2 ^ (fmtW w).bits = 2 * 2 ^ ((fmtW w).bits - 1) := by
    rw [← Nat.pow_succ', Nat.succ_eq_add_one, Nat.sub_add_cancel (fmtW_bits_pos w)]
  have hpos := Nat.two_pow_pos ((fmtW w).bits - 1)
  by_cases hneg : 2 ^ ((fmtW w).bits - 1) ≤ x
  · rw [signOf, decide_eq_true hneg]
    exact Nat.div_eq_of_lt_le (by simpa using hneg) (by simpa [← hbits] using hx)
  · rw [signOf, decide_eq_false hneg]
    exact Nat.div_eq_of_lt (by omega)

/-- A sign form gives the magnitude of x and the sign, as a number, that it forms of both signs. -/
theorem signForm_eq (g : Bool → Bool → Bool) (h : Nat → Nat → Nat) (hg : ∀ p q : Bool, (g p q).toNat = h p.toNat q.toNat)
    {w : BitVec 1} {x y : Nat} (hx : x < 2 ^ (fmtW w).bits) (hy : y < 2 ^ (fmtW w).bits) : signForm g (fmtW w) x y =
      (x % 2 ^ ((fmtW w).bits - 1) +
        h (x / 2 ^ ((fmtW w).bits - 1)) (y / 2 ^ ((fmtW w).bits - 1)) * 2 ^ ((fmtW w).bits - 1), 0) := by
  rw [signForm, withSign, sign_eq_mul, hg, div_eq_signOf hx, div_eq_signOf hy]
  rfl

theorem fp2_of_sign {i : BitVec 6 → BitVec 6 → BitVec 6 → BitVec 1 → Instr} (g : Bool → Bool → Bool) (h : Nat → Nat → Nat)
    (hg : ∀ p q : Bool, (g p q).toNat = h p.toNat q.toNat) (hi : ∀ d a b w s, exec (i d a b w) s = fpBits d a b w (signForm g) s) :
    Fp2 i (fun f _ x y =>
      (x % 2 ^ (f.bits - 1) + h (x / 2 ^ (f.bits - 1)) (y / 2 ^ (f.bits - 1)) * 2 ^ (f.bits - 1), 0)) :=
  fp2_of_bits (signForm g) (fun _ _ _ _ => signForm_eq g h hg) hi

/-! ### Divide and square root (09 R195) -/

theorem if_width (w : BitVec 1) (m n : Nat) : (if w = 1 then m else n) = if w = 0 then n else m := by
  have hw : w = 0 ∨ w = 1 := by revert w; decide
  rcases hw with rfl | rfl <;> rfl

section
variable {d a : BitVec 6} {l : BitVec 4} {w : BitVec 1} {s s1 : State} {x : Val}

theorem execFdiv_pends {b : BitVec 6} {y : Val} (hopen : Opens s { fRR d a b with la := some l } s1 [x, y]) :
    let q := ((fmtW w).decode x.w.toNat).div ((fmtW w).decode y.w.toNat)
    let r := roundIeee q.1 (fmtW w) (s1.rm s.curCore s.curSlot)
    Pends s { fRR d a b with la := some l } s1 (.fdiv (BitVec.ofNat 64 r.1) (r.2 ||| q.2))
      (s1.now s.curCore + (if w = 0 then 28 else 16)) (exec (.fdiv d a b l w) s) := by
  rw [← if_width]
  exact pends_of_pend hopen rfl

theorem execFsqrt_pends (hopen : Opens s { fR d a with la := some l } s1 [x]) :
    let r := roundIeee ((fmtW w).decode x.w.toNat).sqrt (fmtW w) (s1.rm s.curCore s.curSlot)
    Pends s { fR d a with la := some l } s1 (.fdiv (BitVec.ofNat 64 r.1) r.2)
      (s1.now s.curCore + (if w = 0 then 30 else 16)) (exec (.fsqrt d a l w) s) := by
  rw [← if_width]
  exact pends_of_pend hopen rfl

end

/-- Settles O6: each form rounds its exact value, works on the operand bits, or pends with what it has rounded. -/
theorem floatingResults : Obligations.FloatingResults := by
  unfold Obligations.FloatingResults
  refine ⟨⟨?fadd, ?fsub, ?fmul, ?fmin, ?fmax, ?fsgn, ?fsgnn, ?fsgnx, ?fma, ?fms, ?fnma, ?fnms⟩, ?fdiv, ?fsqrt⟩
  case fadd => exact fp2_of_exec Machine.Num.add fun _ _ _ _ _ => rfl
  case fsub => exact fp2_of_exec Machine.Num.sub fun _ _ _ _ _ => rfl
  case fmul => exact fp2_of_exec (fun _ => Machine.Num.mul) fun _ _ _ _ _ => rfl
  case fmin => exact fp2_of_bits (fun f => minmax f false) (fun _ _ _ _ _ _ => rfl) fun _ _ _ _ _ => rfl
  case fmax => exact fp2_of_bits (fun f => minmax f true) (fun _ _ _ _ _ _ => rfl) fun _ _ _ _ _ => rfl
  case fsgn => exact fp2_of_sign (fun _ q => q) (fun _ q => q) (by decide) fun _ _ _ _ _ => rfl
  case fsgnn => exact fp2_of_sign (fun _ q => !q) (fun _ q => 1 - q) (by decide) fun _ _ _ _ _ => rfl
  case fsgnx => exact fp2_of_sign (fun p q => p != q) (fun p q => (p + q) % 2) (by decide) fun _ _ _ _ _ => rfl
  case fma | fms | fnma | fnms => exact fp3_of_exec fun _ _ _ _ _ => rfl
  case fdiv => exact fun d a b l w s s1 x y => execFdiv_pends
  case fsqrt => exact fun d a l w s s1 x => execFsqrt_pends

/-! ### Compares (09 R196) -/

theorem fp2_of_compare {i : BitVec 6 → BitVec 6 → BitVec 6 → BitVec 1 → Instr} (quietToo : Bool)
    (rel : Machine.Num → Machine.Num → Bool) (hi : ∀ d a b w s, exec (i d a b w) s = fcmp d a b w quietToo rel s) :
    Fp2 i (fun f _ x y => (if rel (f.decode x) (f.decode y) then 1 else 0,
      if (f.decode x).isSig || (f.decode y).isSig || quietToo && ((f.decode x).isNan || (f.decode y).isNan) then 16 else 0)) :=
  fp2_of_bits _ (fun _ _ _ _ _ _ => rfl) hi

/-! ### Conversion (09 R197, R198) -/

section
variable {d a b : BitVec 6} {x : BitVec 1} {y z : BitVec 3} {s s1 : State} {v : Val} {vs : List Val}

/-- The exact value that FCVT converts: its first source, scaled. -/
def fcvtValue (x : BitVec 1) (y z : BitVec 3) (s s1 : State) (xs : List Val) : Machine.Num :=
  scaled (s1.thr s.curCore s.curSlot) (if x = 1 then some (arg xs 1) else none) y.toNat z.toNat (valueOf z.toNat (arg xs 0))

variable (hopen : Opens s { srcs := if x = 1 then [.g a, .g b] else [.g a], dsts := [.g d] } s1 (v :: vs))
include hopen

theorem execFcvt_converts {r : Word} {fl : Flg}
    (h : convert y.toNat (fcvtValue x y z s s1 (v :: vs)) (s1.rm s.curCore s.curSlot) = .ok r fl) :
    Results s { srcs := if x = 1 then [.g a, .g b] else [.g a], dsts := [.g d] } (s1.orFlags s.curCore s.curSlot fl)
      [(.g d, Val.of r)] (exec (.fcvt d a b x y z) s) := by
  unfold fcvtValue at h
  refine results_of_ret hopen ?_
  dsimp only
  rw [h]
  rfl

theorem execFcvt_narrow {u : Machine.Num}
    (h : convert y.toNat (fcvtValue x y z s s1 (v :: vs)) (s1.rm s.curCore s.curSlot) = .narrow u) :
    exec (.fcvt d a b x y z) s =
      .next (s.trapped s.curCore s.curSlot (det cNarrowRange 1) (BitVec.ofNat 64 (xexp u * 2 ^ 16 + 1)) 0) := by
  unfold fcvtValue at h
  refine trapped_of_trap hopen ?_
  dsimp only
  rw [h]

end

/-- Settles O7: the compares are forms on the operand bits, and FCVT answers as the conversion of its scaled source does. -/
theorem floatingCompareConvert : Obligations.FloatingCompareConvert := by
  unfold Obligations.FloatingCompareConvert
  refine ⟨?feq, ?flt, ?fle, ?fclass, ?fcvt⟩
  case feq => exact fp2_of_compare false Machine.Num.eq fun _ _ _ _ _ => rfl
  case flt => exact fp2_of_compare true Machine.Num.lt fun _ _ _ _ _ => rfl
  case fle => exact fp2_of_compare true (fun x y => x.lt y || x.eq y) fun _ _ _ _ _ => rfl
  case fclass => exact fun w => alu1_of_exec (fun _ => rfl) fun _ _ _ => rfl
  case fcvt =>
    intro d a b x y z s s1 v vs f hopen t e
    split
    case h_1 h => exact execFcvt_converts hopen h
    case h_2 h => exact execFcvt_narrow hopen h

end Sys2Proof.Laws
end

section
/-! SUPPORT. CSR access: the write forms, and the field map of a write (09 R199-R201; 08 R161, R173). -/

namespace Sys2Proof.Laws
open Sys2Proof.Machine

theorem execCsrrd_reads {d : BitVec 6} {n : BitVec 12} {s s1 : State}
    (hopen : Opens s { srcs := [], dsts := [.g d], takes := csrOutside n.toNat } s1 []) :
    Results s { srcs := [], dsts := [.g d], takes := csrOutside n.toNat } s1
      [(.g d, Val.of (s1.csr s.curCore s.curSlot n.toNat))] (exec (.csrrd d n) s) :=
  results_of_ret hopen rfl

theorem csrWrites_of_exec {i : BitVec 6 → BitVec 6 → BitVec 12 → Instr} {op : Word → Word → Word}
    (hi : ∀ d a n s, exec (i d a n) s = csrWrite d a n op s) : CsrWrites i op := by
  intro d a n s s1 x f hopen
  rw [hi]
  exact results_of_ret hopen rfl

/-! ### The field map -/

section
variable (t : Thread) (v : Word)

/-- Of a thread a CSR write changes fcsr and fmtd only. -/
theorem writeCsr_frame (n : Nat) :
    t.writeCsr n v = { t with fcsr := (t.writeCsr n v).fcsr, fmtd := (t.writeCsr n v).fmtd } := by
  unfold Thread.writeCsr
  split <;> rfl

theorem writeCsr_fcsr_kept {n : Nat} (hfcsr : n ≠ 1) (hflags : n ≠ 4) (hfrm : n ≠ 5) : (t.writeCsr n v).fcsr = t.fcsr := by
  unfold Thread.writeCsr
  split
  case h_1 => exact absurd rfl hfcsr
  case h_3 => exact absurd rfl hflags
  case h_4 => exact absurd rfl hfrm
  all_goals rfl

theorem writeCsr_fmtd_kept {n : Nat} (hfmtd : n ≠ 2) : (t.writeCsr n v).fmtd = t.fmtd := by
  unfold Thread.writeCsr
  split
  case h_2 => exact absurd rfl hfmtd
  all_goals rfl

theorem writeCsr_fcsr_bit {j : Nat} (hj : j < 64) :
    (t.writeCsr 1 v).fcsr.getLsbD j = (v.getLsbD j && (j ≤ 7 && j != 5)) := by
  have hmask : ∀ j < 64, (0xDF#64).getLsbD j = (decide (j ≤ 7) && j != 5) := by decide
  exact (BitVec.getLsbD_and ..).trans (by rw [hmask j hj])

theorem writeCsr_fflags_bit {j : Nat} (hj : j < 8) (hfive : j ≠ 5) :
    (t.writeCsr 4 v).fcsr.getLsbD j = if j ≤ 4 then v.getLsbD j else t.fcsr.getLsbD j := by
  have hkept : ∀ j < 8, j ≠ 5 → (0xC0#64).getLsbD j = !decide (j ≤ 4) := by decide
  have hset : ∀ j < 8, (0x1F#64).getLsbD j = decide (j ≤ 4) := by decide
  change ((t.fcsr &&& 0xC0#64) ||| (v &&& 0x1F#64)).getLsbD j = _
  rw [BitVec.getLsbD_or, BitVec.getLsbD_and, BitVec.getLsbD_and, hkept j hj hfive, hset j hj]
  split <;> simp [*]

theorem writeCsr_frm_bit {j : Nat} (hj : j < 8) (hfive : j ≠ 5) :
    (t.writeCsr 5 v).fcsr.getLsbD j = if 6 ≤ j then v.getLsbD (j - 6) else t.fcsr.getLsbD j := by
  have hkept : ∀ j < 8, j ≠ 5 → (0x1F#64).getLsbD j = !decide (6 ≤ j) := by decide
  have hset : ∀ j < 8, 6 ≤ j → (3#64).getLsbD (j - 6) = true := by decide
  change ((t.fcsr &&& 0x1F#64) ||| ((v &&& 3#64) <<< 6)).getLsbD j = _
  rw [BitVec.getLsbD_or, BitVec.getLsbD_and, BitVec.getLsbD_shiftLeft, BitVec.getLsbD_and, hkept j hj hfive]
  split
  case isTrue hhigh => simp [hhigh, hset j hj hhigh, show j < 64 by omega]
  case isFalse hlow => simp [hlow, show j < 6 by omega]

end

/-- Settles O20: the four instructions are forms of one register result; a write's field map is told bit by bit. -/
theorem csrAccess : Obligations.CsrAccess := by
  unfold Obligations.CsrAccess
  refine ⟨⟨fun d n s s1 => execCsrrd_reads, csrWrites_of_exec fun _ _ _ _ => rfl, csrWrites_of_exec fun _ _ _ _ => rfl,
    csrWrites_of_exec fun _ _ _ _ => rfl⟩, fun t n v => ⟨writeCsr_frame t v n, fun h1 h4 h5 => writeCsr_fcsr_kept t v h1 h4 h5,
    fun h2 => writeCsr_fmtd_kept t v h2, ?fmtd, ?fcsr, ?fflags, ?frm⟩⟩
  case fmtd => rintro rfl; rfl
  case fcsr => rintro rfl j hj; exact writeCsr_fcsr_bit t v hj
  case fflags => rintro rfl j hj hfive; exact writeCsr_fflags_bit t v hj hfive
  case frm => rintro rfl j hj hfive; exact writeCsr_frm_bit t v hj hfive

end Sys2Proof.Laws
end

section
/-! SUPPORT. Lanewise vector arithmetic: an instruction whose arm is a lanewise form has its operation in every active lane (10 R206,
R209, R210). -/

namespace Sys2Proof.Laws
open Sys2Proof.Machine

/-! ### Lane widths -/

/-- A lane is as wide as its floating format (R209). -/
theorem laneBits_eq_bits (w : BitVec 1) : laneBits w = (fmtL w).bits := by
  unfold laneBits fmtL
  split <;> rfl

/-- An integer operation in the lane width is the operation in the width of the lane's format. -/
theorem intLane_eq (op : {n : Nat} → BitVec n → BitVec n → BitVec n) (w : BitVec 1) (x y : Nat) :
    (op (BitVec.ofNat (laneBits w) x) (BitVec.ofNat (laneBits w) y)).toNat =
      (op (BitVec.ofNat (fmtL w).bits x) (BitVec.ofNat (fmtL w).bits y)).toNat := by
  rw [laneBits_eq_bits]

/-- A choice by a signed comparison is the choice by the order of the signed values. -/
theorem ite_slt {n : Nat} {α : Type} (x y : BitVec n) (u v : α) : (if x.slt y then u else v) = if x.toInt < y.toInt then u else v :=
  ite_congr (propext BitVec.slt_iff_toInt_lt) (fun _ => rfl) fun _ => rfl

/-! ### The forms -/

theorem lanes2_of_exec {i : BitVec 6 → BitVec 6 → BitVec 6 → BitVec 3 → Instr} {op : Rm → Nat → Nat → Nat × Flg} (w : BitVec 1)
    (hi : ∀ d a b m s, exec (i d a b m) s = lanewise d a b m w op s) : Lanes2 i (laneBits w) (lanesOf w) op := by
  intro d a b m s s1 x y k old hopen
  rw [hi]
  exact results_of_ret hopen rfl

section
variable {i : BitVec 6 → BitVec 6 → BitVec 6 → BitVec 3 → BitVec 1 → Instr}

theorem lanesWD_of_exec {op : Fmt → Rm → Nat → Nat → Nat × Flg}
    (hi : ∀ d a b m w s, exec (i d a b m w) s = lanewise d a b m w (op (fmtL w)) s) : LanesWD i op :=
  ⟨lanes2_of_exec 0 fun _ _ _ _ _ => hi .., lanes2_of_exec 1 fun _ _ _ _ _ => hi ..⟩

theorem lanesInt_of_exec {op op' : {n : Nat} → BitVec n → BitVec n → BitVec n}
    (hop : ∀ {n : Nat} (x y : BitVec n), op' x y = op x y) (hi : ∀ d a b m w s, exec (i d a b m w) s = vint d a b m w op' s) :
    LanesInt i op := by
  have hsame : @op' = @op := funext fun n => funext fun x => funext fun y => hop x y
  subst hsame
  exact ⟨lanes2_of_exec 0 fun _ _ _ _ _ => hi .., lanes2_of_exec 1 fun _ _ _ _ _ => hi ..⟩

theorem lanesFma_of_exec {np nz : Bool} (hi : ∀ d a b m w s, exec (i d a b m w) s = vfma3 d a b m w np nz s) : LanesFma i np nz := by
  intro d a b m w s s1 x y k z hopen
  rw [hi]
  exact results_of_ret hopen rfl

end

/-- Settles O10: each instruction is a lanewise form with its operation, floating, on the lanes' bits, or integer. -/
theorem vectorResults : Obligations.VectorResults := by
  unfold Obligations.VectorResults
  refine ⟨?vfadd, ?vfsub, ?vfmul, ?vfmin, ?vfmax, ?vfsgn, ?vfsgnn, ?vfsgnx, ?vand, ?vor, ?vxor, ?vandn, ?vadd, ?vsub, ?vmul,
    ?vmin, ?vmax, ?vsll, ?vsrl, ?vsra, ?vfma, ?vfms, ?vfnma, ?vfnms⟩
  case vfadd | vfsub | vfmul | vfmin | vfmax | vfsgn | vfsgnn | vfsgnx => exact lanesWD_of_exec fun _ _ _ _ _ _ => rfl
  case vand | vor | vxor | vandn => exact lanes2_of_exec 0 fun _ _ _ _ _ => rfl
  case vadd | vsub | vmul | vsll | vsrl | vsra => exact lanesInt_of_exec (fun _ _ => rfl) fun _ _ _ _ _ _ => rfl
  case vmin | vmax => exact lanesInt_of_exec (fun _ _ => ite_slt ..) fun _ _ _ _ _ _ => rfl
  case vfma | vfms | vfnma | vfnms => exact lanesFma_of_exec fun _ _ _ _ _ _ => rfl

end Sys2Proof.Laws
end

section
/-! SUPPORT. Masks and the moves of lanes: the compares and mask operations as forms, and each move of lanes without flags (10 R211-R214). -/

namespace Sys2Proof.Laws
open Sys2Proof.Machine

/-! ### Lanes without flags -/

theorem unionFlags_none {fs : List Flg} (h : ∀ f ∈ fs, f = 0) : unionFlags fs = 0 := by
  rw [List.eq_replicate_of_mem h, unionFlags]
  exact List.foldlRecOn (motive := (· = 0)) _ _ rfl fun f hf g hg => by rw [hf, List.eq_of_mem_replicate hg, BitVec.or_self]

@[simp] theorem orFlags_zero (s : State) (c sl : Nat) : s.orFlags c sl 0 = s := if_pos rfl

/-- Lanes that are only moved raise no flag. -/
theorem maskLanes_moved (b n : Nat) (m : Word) (old : Vec) (f : Nat → Nat) : maskLanes b n m old (fun i => (f i, fNone)) =
    (pack b ((List.range n).map (fun i => if m.getLsbD i then f i else lane b old i)), 0) := by
  have hlane : ∀ i, (if active m i then (f i, fNone) else (lane b old i, fNone)) =
      (if m.getLsbD i then f i else lane b old i, fNone) := fun i => by
    rw [active]
    split <;> rfl
  simp only [maskLanes, hlane, List.map_map]
  exact congrArg _ (unionFlags_none fun g hg => by
    obtain ⟨_, -, rfl⟩ := List.mem_map.mp hg
    rfl)

/-- A body that answers moved lanes leaves the state and raises no flag. -/
theorem results_of_moved {s s1 : State} {f : Form} {xs : List Val} {body : Body} {d : BitVec 6} {b n : Nat} {m : Word} {old : Vec}
    {g : Nat → Nat} (hopen : Opens s f s1 xs)
    (hb : body s1 s.curCore s.curSlot xs = retV s1 s.curCore s.curSlot d (maskLanes b n m old (fun i => (g i, fNone)))) :
    Results s f s1 [(.v d, ⟨pack b ((List.range n).map (fun i => if m.getLsbD i then g i else lane b old i)), false⟩)]
      (s.issueStep f body) :=
  results_of_ret hopen (hb.trans (by rw [maskLanes_moved, retV, orFlags_zero]))

/-! ### The forms -/

theorem lanesCmp_of_exec {i : BitVec 3 → BitVec 6 → BitVec 6 → BitVec 3 → BitVec 1 → Instr} {op : Fmt → Nat → Nat → Bool × Flg}
    (op' : BitVec 1 → Nat → Nat → Bool × Flg) (hop : ∀ w x y, op' w x y = op (fmtL w) x y)
    (hi : ∀ d a b m w s, exec (i d a b m w) s = vcompare d a b m w (op' w) s) : LanesCmp i op := by
  intro d a b m w s s1 x y k hopen
  have hsame : op' w = op (fmtL w) := funext fun x => funext fun y => hop w x y
  rw [hi, hsame]
  exact results_of_ret hopen rfl

theorem mask2_of_exec {i : BitVec 3 → BitVec 3 → BitVec 3 → Instr} {op : BitVec 16 → BitVec 16 → BitVec 16}
    (hi : ∀ d a b s, exec (i d a b) s = mask2 d a b op s) : Mask2 i op := by
  intro d a b s s1 x y hopen
  rw [hi]
  exact results_of_ret hopen rfl

theorem maskNum_of_exec {i : BitVec 6 → BitVec 3 → Instr} {op : BitVec 16 → Nat}
    (hi : ∀ d a s, exec (i d a) s = maskG d a op s) : MaskNum i op := by
  intro d a s s1 x hopen
  rw [hi]
  exact results_of_ret hopen rfl

/-- A form whose arm extracts a lane of a width gives that lane, extended as it says, and traps beyond the lanes. -/
theorem extracts_of_exec {i : BitVec 6 → BitVec 6 → BitVec 6 → Instr} {out : Nat → Word} (w : BitVec 1) (signed : Bool)
    (hout : ∀ x, (if signed then sext32 (BitVec.ofNat 64 x) else BitVec.ofNat 64 x) = out x)
    (hi : ∀ d a c s, exec (i d a c) s = vext d a c w signed s) : Extracts i (laneBits w) (lanesOf w) out := by
  intro d a c s s1 x y hopen
  rw [hi]
  refine ⟨fun hin => ?_, fun hbeyond => trapped_of_trap hopen (if_pos hbeyond)⟩
  rw [← hout]
  exact results_of_ret hopen (if_neg (Nat.not_le.mpr hin))

theorem sext32_ofNat (x : Nat) : sext32 (BitVec.ofNat 64 x) = (BitVec.ofNat 32 x).signExtend 64 := by
  rw [sext32, BitVec.setWidth_ofNat_of_le (by decide)]

/-! ### Single instructions -/

section
variable {s s1 : State} {x y : Val}

theorem execMnot_inverts {d a : BitVec 3} (hopen : Opens s { srcs := [.m a], dsts := [.m d] } s1 [x]) :
    Results s { srcs := [.m a], dsts := [.m d] } s1 [(.m d, ⟨BitVec.ofNat 512 (~~~(BitVec.setWidth 16 x.w)).toNat, false⟩)]
      (exec (.mnot d a) s) := by
  refine results_of_ret hopen ?_
  rw [retM, Nat.mod_eq_of_lt (BitVec.isLt _), arg_zero]

/-- The low n bits of a mask, all of them from 16 on. -/
theorem ones_mod (n : Nat) : (2 ^ Nat.min n 16 - 1) % 2 ^ 16 = if n < 16 then 2 ^ n - 1 else 0xFFFF := by
  have hle : 2 ^ Nat.min n 16 ≤ 2 ^ 16 := Nat.pow_le_pow_right (by decide) (Nat.min_le_right n 16)
  rw [Nat.mod_eq_of_lt (by omega)]
  split
  case isTrue h => exact congrArg (2 ^ · - 1) (Nat.min_eq_left (Nat.le_of_lt h))
  case isFalse h => exact congrArg (2 ^ · - 1) (Nat.min_eq_right (Nat.le_of_not_lt h))

theorem execMlen_ones {d : BitVec 3} {a : BitVec 6} (hopen : Opens s { srcs := [.g a], dsts := [.m d] } s1 [x]) :
    Results s { srcs := [.g a], dsts := [.m d] } s1
      [(.m d, ⟨BitVec.ofNat 512 (if x.w.toNat < 16 then 2 ^ x.w.toNat - 1 else 0xFFFF), false⟩)] (exec (.mlen d a) s) := by
  refine results_of_ret hopen ?_
  rw [retM, arg_zero, ones_mod]

variable {d a b : BitVec 6} {m : BitVec 3} {w : BitVec 1}

/-- VINS replaces the lane that its index names (R213). -/
theorem execVins_replaces {i : Val} (hopen : Opens s { srcs := [.g a, .g b, .v d], dsts := [.v d] } s1 [x, i, y])
    (hin : i.w.toNat < lanesOf w) :
    Results s { srcs := [.g a, .g b, .v d], dsts := [.v d] } s1 [(.v d, ⟨pack (laneBits w) ((List.range (lanesOf w)).map (fun j =>
      if j = i.w.toNat then x.w.toNat else lane (laneBits w) y.x j)), false⟩)] (exec (.vins d a b w) s) := by
  refine results_of_ret hopen ((if_neg (Nat.not_le.mpr hin)).trans ?_)
  rw [retV, fNone, orFlags_zero]
  rfl

theorem execVins_beyond {i : Val} (hopen : Opens s { srcs := [.g a, .g b, .v d], dsts := [.v d] } s1 [x, i, y])
    (hbeyond : lanesOf w ≤ i.w.toNat) : exec (.vins d a b w) s = .next (s.trapped s.curCore s.curSlot (det cVectorIndex 1) 0 0) :=
  trapped_of_trap hopen (if_pos hbeyond)

end

/-- Settles O11: the compares and mask operations are forms, and the moves of lanes change neither the state nor the flags. -/
theorem maskAndLaneResults : Obligations.MaskAndLaneResults := by
  unfold Obligations.MaskAndLaneResults
  refine ⟨⟨?vfeq, ?vflt, ?vfle, ?veq, ?vltu, ?vlt, ?mand, ?mor, ?mxor, ?mandn, fun d a s s1 x => execMnot_inverts, ?mpopc, ?mfirst,
    ?mlast, fun d a s s1 x => execMlen_ones⟩, ?vsel, ?vbcast, ?vins, ?vextWZ, ?vextWS, ?vextD, ?vperm, ?vrot⟩
  case vfeq | vflt | vfle | vltu => exact lanesCmp_of_exec _ (fun _ _ _ => rfl) fun _ _ _ _ _ _ => rfl
  case veq => exact lanesCmp_of_exec (fun _ x y => (x == y, fNone)) (fun _ _ _ => rfl) fun _ _ _ _ _ _ => rfl
  case vlt =>
    exact lanesCmp_of_exec (fun w x y => ((BitVec.ofNat (laneBits w) x).slt (BitVec.ofNat (laneBits w) y), fNone))
      (fun w x y => by rw [laneBits_eq_bits]; rfl) fun _ _ _ _ _ _ => rfl
  case mand | mor | mxor | mandn => exact mask2_of_exec fun _ _ _ _ => rfl
  case mpopc | mfirst | mlast => exact maskNum_of_exec fun _ _ _ => rfl
  case vsel => exact fun d a b m w s s1 x y k hopen => results_of_moved hopen rfl
  case vbcast => exact fun d a m w s s1 x k old hopen => results_of_moved hopen rfl
  case vins => exact fun d a b w s s1 x y old hopen => ⟨execVins_replaces hopen, execVins_beyond hopen⟩
  case vextWZ => exact extracts_of_exec 0 false (fun _ => rfl) fun _ _ _ _ => rfl
  case vextWS => exact extracts_of_exec 0 true sext32_ofNat fun _ _ _ _ => rfl
  case vextD => exact extracts_of_exec 1 false (fun _ => rfl) fun _ _ _ _ => rfl
  case vperm | vrot => exact fun d a b m w s s1 x y k old hopen => results_of_moved hopen rfl

end Sys2Proof.Laws
end

section
/-! SUPPORT. Reductions and VCVT: the tree of an instruction in both lane widths, and the lanes that a NARROW_RANGE names (10 R215-R219;
08 R171). -/

namespace Sys2Proof.Laws
open Sys2Proof.Machine

/-! ### Reductions (R215, R216) -/

theorem reduces_of_exec {i : BitVec 6 → BitVec 6 → BitVec 3 → Instr} {empty : Nat} {op : Rm → Nat → Nat → Nat × Flg}
    {out : Nat → Word} (w : BitVec 1) (hi : ∀ d a m s, exec (i d a m) s = reduce d a m w empty op out s) :
    Reduces i (laneBits w) (lanesOf w) (if w = 1 then 3 else 4) empty op out := by
  intro d a m s s1 x k hopen
  rw [hi]
  exact results_of_ret hopen rfl

section
variable {i : BitVec 6 → BitVec 6 → BitVec 3 → BitVec 1 → Instr}

/-- A form whose arm is the tree in the instruction's lane width reduces 16 lanes in four levels and 8 lanes in three. -/
theorem reduces_both (empty : Fmt → Nat) (op : Fmt → Rm → Nat → Nat → Nat × Flg) (out : BitVec 1 → Nat → Word)
    (hi : ∀ d a m w s, exec (i d a m w) s = reduce d a m w (empty (fmtL w)) (op (fmtL w)) (out w) s) :
    Reduces (fun d a m => i d a m 0) 32 16 4 (empty f32) (op f32) (out 0) ∧
      Reduces (fun d a m => i d a m 1) 64 8 3 (empty f64) (op f64) (out 1) :=
  ⟨reduces_of_exec 0 fun _ _ _ _ => hi .., reduces_of_exec 1 fun _ _ _ _ => hi ..⟩

/-- The word of an integer reduction: a lane of 32 bits is sign-extended (R216). -/
def reducedWord (w : BitVec 1) (x : Nat) : Word := if w = 1 then BitVec.ofNat 64 x else (BitVec.ofNat 32 x).signExtend 64

/-- The combination of an integer reduction: a number of two lanes in the width of a format. -/
def intTree (num : {n : Nat} → BitVec n → BitVec n → Nat) (f : Fmt) (_ : Rm) (x y : Nat) : Nat × Flg :=
  (num (BitVec.ofNat f.bits x) (BitVec.ofNat f.bits y), 0)

theorem intReduce_eq (op : {n : Nat} → BitVec n → BitVec n → BitVec n) (num : {n : Nat} → BitVec n → BitVec n → Nat)
    (hnum : ∀ {n : Nat} (x y : BitVec n), (op x y).toNat = num x y) (d a : BitVec 6) (m : BitVec 3) (w : BitVec 1) (s : State) :
    intReduce d a m w op s = reduce d a m w 0 (intTree num (fmtL w)) (reducedWord w) s := by
  simp only [intReduce, intLane_eq op, hnum, sext32_ofNat]
  rfl

theorem reduces_int {op : {n : Nat} → BitVec n → BitVec n → BitVec n} (num : {n : Nat} → BitVec n → BitVec n → Nat)
    (hnum : ∀ {n : Nat} (x y : BitVec n), (op x y).toNat = num x y)
    (hi : ∀ d a m w s, exec (i d a m w) s = intReduce d a m w op s) :
    Reduces (fun d a m => i d a m 0) 32 16 4 0 (intTree num f32) (reducedWord 0) ∧
      Reduces (fun d a m => i d a m 1) 64 8 3 0 (intTree num f64) (reducedWord 1) :=
  reduces_both (fun _ => 0) (intTree num) reducedWord fun d a m w s => by rw [hi, intReduce_eq op num hnum]

end

/-- A choice between two numbers, as a number. -/
theorem toNat_ite_slt {n : Nat} (x y u v : BitVec n) :
    (if x.slt y then u else v).toNat = if x.toInt < y.toInt then u.toNat else v.toNat := by
  rw [apply_ite BitVec.toNat, ite_slt]

/-! ### The lanes that a mask of numbers names -/

theorem maskBits_succ (n : Nat) (p : Nat → Bool) : maskBits (n + 1) p = maskBits n p + 2 ^ n * (p n).toNat := by
  rw [maskBits, List.range_succ, List.foldl_append, List.foldl_cons, List.foldl_nil, ← maskBits]
  cases p n <;> simp

theorem maskBits_lt (n : Nat) (p : Nat → Bool) : maskBits n p < 2 ^ n := by
  induction n with
  | zero => exact Nat.one_pos
  | succ n ih =>
    have hbit : 2 ^ n * (p n).toNat ≤ 2 ^ n * 1 := Nat.mul_le_mul_left _ (Bool.toNat_le _)
    rw [maskBits_succ, Nat.pow_succ]
    omega

/-- Bit j of the mask says whether lane j is in it. -/
theorem testBit_maskBits {n j : Nat} (p : Nat → Bool) (hj : j < n) : (maskBits n p).testBit j = p j := by
  induction n with
  | zero => omega
  | succ n ih =>
    rw [maskBits_succ, Nat.add_comm, Nat.testBit_two_pow_mul_add _ (maskBits_lt n p)]
    split
    case isTrue hlow => exact ih hlow
    case isFalse hhigh =>
      obtain rfl : j = n := by omega
      rw [Nat.sub_self]
      cases p j <;> rfl

/-- The sum of the powers of the lanes that satisfy p. -/
theorem foldl_filter_two_pow (n : Nat) (p : Nat → Bool) :
    ((List.range n).filter p).foldl (fun acc i => acc + 2 ^ i) 0 = maskBits n p :=
  List.foldl_filter ..

/-! ### VCVT (R217-R219) -/

section
variable {d a b : BitVec 6} {m : BitVec 3} {code : BitVec 4} {s s1 : State} {xs : List Val}

/-- The form of VCVT: its scale register where it names one, the mask, and the old destination under it (R217, R218). -/
def vcvtForm (d a b : BitVec 6) (m : BitVec 3) : Form :=
  { srcs := [.v a] ++ (if b = 0 then [] else [.g b]) ++ [.m m] ++ (if readsOld d m then [.v d] else []), dsts := [.v d] }

/-- The number of scale registers that VCVT names. -/
def vcvtScales (b : BitVec 6) : Nat := if b = 0 then 0 else 1

/-- What VCVT makes of element j of its source. -/
def vcvtLane (b : BitVec 6) (code : BitVec 4) (s s1 : State) (xs : List Val) (j : Nat) : Cvt :=
  convert (vcvtCode code).2.2 (scaled (s1.thr s.curCore s.curSlot) (if b = 0 then none else some (arg xs 1))
    (vcvtCode code).2.2 (vcvtCode code).2.1
    (valueOf (vcvtCode code).2.1 (BitVec.ofNat 64 (lane (codeBits (vcvtCode code).2.1) (argV xs 0) j)))) (s1.rm s.curCore s.curSlot)

/-- A converted element and its flags. -/
def vcvtElement : Cvt → Nat × Flg
  | .ok r fl => (r.toNat, fl)
  | .narrow _ => (0, 0)

/-- An active element whose conversion traps. -/
def vcvtTraps (mask : Word) (cv : Nat → Cvt) (j : Nat) : Bool :=
  active mask j && (match cv j with | .narrow _ => true | _ => false)

/-- What NARROW_RANGE tells of the trapping elements: the greatest exponent of their values, and their lanes (08 R171). -/
def vcvtInfo (cv : Nat → Cvt) (bad : List Nat) : Word :=
  BitVec.ofNat 64 (bad.foldl (fun acc i => match cv i with | .narrow v => Nat.max acc (xexp v) | _ => acc) 0 * 2 ^ 16 +
    bad.foldl (fun acc i => acc + 2 ^ i) 0)

theorem vcvtTraps_eq_false {mask : Word} {cv : Nat → Cvt} {j : Nat} (h : mask.getLsbD j = true → ∃ r fl, cv j = .ok r fl) :
    vcvtTraps mask cv j = false := by
  rw [vcvtTraps, Bool.and_eq_false_iff]
  by_cases hact : mask.getLsbD j = true
  · obtain ⟨r, fl, hcv⟩ := h hact
    exact .inr (by rw [hcv])
  · exact .inl (Bool.eq_false_iff.mpr hact)

theorem vcvtTraps_of_narrow {mask : Word} {cv : Nat → Cvt} {j : Nat} {u : Machine.Num} (hact : mask.getLsbD j = true)
    (hcv : cv j = .narrow u) : vcvtTraps mask cv j = true := by
  rw [vcvtTraps, active, hact, hcv]
  rfl

theorem vcvtCode_elements (code : BitVec 4) : (vcvtCode code).1 ≤ 16 := by
  revert code
  decide

/-- Below the exponent stands a bit for each trapping element. -/
theorem getLsbD_vcvtInfo {n j : Nat} {p : Nat → Bool} (cv : Nat → Cvt) (hn : n ≤ 16) (hj : j < n) (hp : p j = true) :
    (vcvtInfo cv ((List.range n).filter p)).getLsbD j = true := by
  have hlow : maskBits n p < 2 ^ 16 := Nat.lt_of_lt_of_le (maskBits_lt n p) (Nat.pow_le_pow_right (by decide) hn)
  rw [vcvtInfo, foldl_filter_two_pow, BitVec.getLsbD_ofNat, decide_eq_true (show j < 64 by omega), Bool.true_and, Nat.mul_comm,
    Nat.testBit_two_pow_mul_add _ hlow, if_pos (show j < 16 by omega), testBit_maskBits p hj, hp]

variable (hopen : Opens s (vcvtForm d a b m) s1 xs)
include hopen

/-- Without a trapping element every active one is converted. -/
theorem execVcvt_converts
    (h : ∀ j, j < (vcvtCode code).1 → (arg xs (1 + vcvtScales b)).getLsbD j = true → ∃ r fl, vcvtLane b code s s1 xs j = .ok r fl) :
    let out := maskLanes (codeBits (vcvtCode code).2.2) (vcvtCode code).1 (arg xs (1 + vcvtScales b)) (argV xs (2 + vcvtScales b))
      (fun j => vcvtElement (vcvtLane b code s s1 xs j))
    Results s (vcvtForm d a b m) (s1.orFlags s.curCore s.curSlot out.2) [(.v d, ⟨out.1, false⟩)] (exec (.vcvt d a b m code) s) := by
  have hnone : (List.range (vcvtCode code).1).filter (vcvtTraps (arg xs (1 + vcvtScales b)) (vcvtLane b code s s1 xs)) = [] :=
    List.filter_eq_nil_iff.mpr fun j hj =>
      Bool.eq_false_iff.mp (vcvtTraps_eq_false (h j (List.mem_range.mp hj)))
  exact results_of_ret hopen (if_pos (congrArg List.isEmpty hnone))

/-- A trapping element is named by the trap. -/
theorem execVcvt_narrow {j : Nat} {u : Machine.Num} (hj : j < (vcvtCode code).1)
    (hact : (arg xs (1 + vcvtScales b)).getLsbD j = true) (hcv : vcvtLane b code s s1 xs j = .narrow u) :
    ∃ info : Word, info.getLsbD j = true ∧
      exec (.vcvt d a b m code) s = .next (s.trapped s.curCore s.curSlot (det cNarrowRange 2) info 0) := by
  have htrap := vcvtTraps_of_narrow hact hcv
  have hsome : (List.range (vcvtCode code).1).filter (vcvtTraps (arg xs (1 + vcvtScales b)) (vcvtLane b code s s1 xs)) ≠ [] :=
    List.ne_nil_of_mem (List.mem_filter.mpr ⟨List.mem_range.mpr hj, htrap⟩)
  exact ⟨_, getLsbD_vcvtInfo (vcvtLane b code s s1 xs) (vcvtCode_elements code) hj htrap,
    trapped_of_trap hopen (if_neg (hsome ∘ List.isEmpty_iff.mp))⟩

end

/-- Settles O12: each reduction is the tree of its operation in both lane widths; VCVT converts where no active element traps, and a
trapping element's bit is set among the lanes that the trap names. -/
theorem vectorReductionsAndConversion : Obligations.VectorReductionsAndConversion := by
  unfold Obligations.VectorReductionsAndConversion
  refine ⟨⟨?vfredsum, ?vfredmin, ?vfredmax, ?vredadd, ?vredmin, ?vredmax⟩, ?vcvt⟩
  case vfredsum =>
    exact reduces_both (fun _ => 0) (fun f r x y => roundIeee (Machine.Num.add r (f.decode x) (f.decode y)) f r) (fun _ => fres)
      fun _ _ _ _ _ => rfl
  case vfredmin => exact reduces_both Fmt.nanBits (fun f _ => minmax f false) (fun _ => fres) fun _ _ _ _ _ => rfl
  case vfredmax => exact reduces_both Fmt.nanBits (fun f _ => minmax f true) (fun _ => fres) fun _ _ _ _ _ => rfl
  case vredadd => exact reduces_int (fun x y => (x + y).toNat) (fun _ _ => rfl) fun _ _ _ _ _ => rfl
  case vredmin =>
    exact reduces_int (fun x y => if x.toInt < y.toInt then x.toNat else y.toNat) (fun _ _ => toNat_ite_slt ..) fun _ _ _ _ _ => rfl
  case vredmax =>
    exact reduces_int (fun x y => if x.toInt < y.toInt then y.toNat else x.toNat) (fun _ _ => toNat_ite_slt ..) fun _ _ _ _ _ => rfl
  case vcvt =>
    intro d a b m code s s1 xs k f hopen fm cv
    exact ⟨fun h => ⟨_, rfl, execVcvt_converts hopen h⟩, fun j u hj hact hcv => execVcvt_narrow hopen hj hact hcv⟩

end Sys2Proof.Laws
end

section
/-! SUPPORT. Vector memory: what a vector load and a vector store answer for the addresses of their lanes (10 R220-R224). -/

namespace Sys2Proof.Laws
open Sys2Proof.Machine

/-! ### What the bodies answer -/

section
variable {s : State} {c sl : Nat} {w : BitVec 1} {as : List (Nat × Word)} {v : Vec} {unit : Bool}

/-- A load of no lane completes at issue (R222). -/
theorem vectorLoad_none (hempty : as = []) : vectorLoad s c sl w as v unit = .ret s [] none := by
  subst hempty
  rfl

/-- A load whose lanes pass their checks pends, with its reads at their banks (R221, R222). -/
theorem vectorLoad_pends (hcheck : s.laneFault c (laneBytes w) true false as = none) (hlanes : as ≠ []) :
    vectorLoad s c sl w as v unit = .pend (s.laneReads c sl (laneBytes w) (s.thr c sl).tag as unit)
      (.vload as (laneBytes w) v (s.thr c sl).tag (if unit then 0 else 1))
      (s.now c + 3 + (if unit then 0 else as.length - 1)) := by
  rw [vectorLoad, hcheck]
  exact if_neg (hlanes ∘ List.isEmpty_iff.mp)

/-- A store whose lanes pass their checks posts its parts, of which a store of no lane has none (R224; log 9). -/
theorem vectorStore_posts (hcheck : s.laneStop c sl (laneBytes w) as = none)
    (hgo : s.storeStop c sl (s.thr c sl).tag (as.map (fun x => x.2.toNat)) true = none) :
    vectorStore s c sl w v as unit =
      .ret (if as = [] then s else s.post c sl (storeParts w v as unit) (s.thr c sl).tag unit) [] none := by
  simp only [vectorStore, hcheck, hgo, List.isEmpty_iff]

theorem vectorStore_stops {act : Act} (hstop : s.laneStop c sl (laneBytes w) as = some act) :
    vectorStore s c sl w v as unit = act := by
  simp only [vectorStore, hstop]

end

/-! ### The forms -/

section
variable {i : Instr} {f : Form} {w : BitVec 1} {addrs : List Val → List (Nat × Word)} {unit : Bool}

theorem vectorLoads_of_exec {old : List Val → Vec}
    (hi : ∀ s, exec i s = s.issueStep f (fun s1 c sl xs => vectorLoad s1 c sl w (addrs xs) (old xs) unit)) :
    VectorLoads i f w addrs old unit := by
  intro s s1 xs hopen hcheck tag
  rw [hi]
  exact ⟨fun hempty => issuedNext_of_ret hopen (vectorLoad_none hempty),
    fun hlanes => pends_of_pend hopen (vectorLoad_pends hcheck hlanes)⟩

theorem vectorStores_of_exec {v : List Val → Vec}
    (hi : ∀ s, exec i s = s.issueStep f (fun s1 c sl xs => vectorStore s1 c sl w (v xs) (addrs xs) unit)) :
    VectorStores i f w v addrs unit := by
  intro s s1 xs hopen tag
  rw [hi]
  exact ⟨fun hcheck hgo => issuedNext_of_ret hopen (vectorStore_posts hcheck hgo),
    fun code info ea hstop => trapped_of_trap hopen (vectorStore_stops hstop)⟩

end

/-- Settles O18: each instruction is a vector load or store of the addresses of its own lanes. -/
theorem vectorMemory : Obligations.VectorMemory := by
  unfold Obligations.VectorMemory
  refine ⟨?vld, ?vlds, ?vldx, ?vst, ?vsts, ?vstx⟩
  case vld | vlds | vldx =>
    intros
    exact vectorLoads_of_exec fun _ => rfl
  case vst | vsts | vstx =>
    intros
    exact vectorStores_of_exec fun _ => rfl

end Sys2Proof.Laws
end

section
/-! SUPPORT. Engine commands: what an instruction whose body puts a command under R228 does, and which command MMA, ACCLD, ACCST and
ACCDR put there once their checks pass (11 R227-R230, R237-R239). -/

namespace Sys2Proof.Laws
open Sys2Proof.Machine

/-! ### A command under R228 -/

section
variable {s s1 : State} {c sl : Nat} {e : EngCmd} {room : Bool} {go : State → State}

theorem command_enters (hopen : ((s.core c).acc e.acc).open? sl = true) (hwait : (s.core c).waiting < 4) (hroom : room = true) :
    s.command c sl e room go = .pend (((go s).modAcc c e.acc (fun a => a.lock sl)).modCore c (fun k => { k with engine := k.engine ++ [e] }))
      (.engine e.kind e.acc) (s.now c) := by
  simp only [State.command, hopen, hwait, hroom, decide_true, Bool.and_self, if_true]

theorem command_parks (h : ((s.core c).acc e.acc).open? sl = false ∨ 4 ≤ (s.core c).waiting ∨ room = false) :
    s.command c sl e room go = .parkIn (s.modAcc c e.acc (fun a => a.claim sl)) .memory := by
  have hstop : (((s.core c).acc e.acc).open? sl && decide ((s.core c).waiting < 4) && room) = false := by
    rcases h with hclosed | hfull | hroom
    · rw [hclosed, Bool.false_and, Bool.false_and]
    · rw [decide_eq_false (Nat.not_lt.mpr hfull), Bool.and_false, Bool.false_and]
    · rw [hroom, Bool.and_false]
  exact if_neg (Bool.eq_false_iff.mp hstop)

/-- An attempt that comes to a command under R228. -/
theorem commands_of_perform {f : Form} {o : Out}
    (ho : o = .next (s.perform s.curCore s.curSlot f (s1.command s.curCore s.curSlot e room go))) :
    Commands s f s1 (go s1) e room o :=
  ⟨fun hopen hwait hroom => pends_of_perform (perform_answer ho (command_enters hopen hwait hroom)),
    fun hstop => perform_answer ho (command_parks hstop)⟩

end

/-! ### The accumulator of a slot outside a pair (R241) -/

section
variable {s : State} {c sl : Nat} (hpair : s.isPair c sl = false)
include hpair

theorem isTrailing_unpaired : s.isTrailing c sl = false := by
  rw [State.isTrailing, hpair, Bool.false_and]

theorem accOf_unpaired (d : BitVec 3) : s.accOf c sl d = d.toNat := by
  rw [State.accOf, isTrailing_unpaired hpair]
  exact Nat.mod_eq_of_lt d.isLt

theorem accBad_unpaired (d : BitVec 3) : s.accBad c sl d = false := by
  rw [State.accBad, hpair, Bool.false_and]

end

/-! ### MMA (R229, R230) -/

/-- The tile at the pop pointer of a ring. -/
def popTile (s : State) (c ring : Nat) : Tile := ((s.core c).ring ring).tile ((s.core c).ring ring).pp

/-- The command of an MMA on the tiles at the pop pointers of its rings. -/
def mmaCommand (s : State) (c sl ra rb acc : Nat) (z : Bool) : EngCmd :=
  { cmdOf sl s.fresh 0 acc with ringA := ra, slotA := ((s.core c).ring ra).pp, ringB := rb, slotB := ((s.core c).ring rb).pp,
                                zero := z, half := (s.thr c sl).mxcfg.getLsbD 0 }

/-- An MMA finds tiles that fit each other, and no poison in them or in the accumulator that it adds to (R230). -/
structure MmaTakes (s : State) (c ra rb acc : Nat) (z : Bool) : Prop where
  fit : mmaTiles (popTile s c ra) (popTile s c rb) = none
  tileA : (popTile s c ra).poison = false
  tileB : (popTile s c rb).poison = false
  wordsA : s.poisoned c (((s.core c).ring ra).slotBase ((s.core c).ring ra).pp) 2048 = false
  wordsB : s.poisoned c (((s.core c).ring rb).slotBase ((s.core c).ring rb).pp) 4096 = false
  adds : z = true ∨ ((s.core c).acc acc).poison = false

section
variable {s : State} {c sl ra rb acc : Nat} {z kb ka : Bool}
  (hA : (popTile s c ra).state = .ready) (hB : (popTile s c rb).state = .ready)
include hA hB

theorem mmaLead_unfit {code : BitVec 16} (htiles : mmaTiles (popTile s c ra) (popTile s c rb) = some code) :
    mmaLead s c sl ra rb acc z kb ka = fault0 code := by
  unfold popTile at hA hB htiles
  simp only [mmaLead, hA, hB, htiles, bne_self_eq_false, Bool.or_self, Bool.false_eq_true, if_false]

/-- The tiles are consumed from their rings, each popped unless it is kept. -/
theorem mmaLead_takes (hpair : s.isPair c sl = false) (htakes : MmaTakes s c ra rb acc z) :
    mmaLead s c sl ra rb acc z kb ka = s.command c sl (mmaCommand s c sl ra rb acc z) true
      (fun s => s.modCore c (fun k => (k.consume ra (!ka) 1).consume rb (!kb) 1)) := by
  obtain ⟨hfit, htileA, htileB, hwordsA, hwordsB, hadds⟩ := htakes
  unfold popTile at hA hB hfit htileA htileB
  have hclean : (!z && ((s.core c).acc acc).poison) = false := by
    rcases hadds with hzero | hclean
    · rw [hzero, Bool.not_true, Bool.false_and]
    · rw [hclean, Bool.and_false]
  simp only [mmaLead, mmaCommand, hA, hB, hfit, htileA, htileB, hwordsA, hwordsB, hclean, hpair, bne_self_eq_false, Bool.or_self,
    Bool.false_and, Bool.false_eq_true, if_false]

end

section
variable {d : BitVec 3} {a b l : BitVec 4} {z y x : BitVec 1} {s s1 : State} (hopen : Opens s (engForm [] l) s1 [])
  (hpair : s1.isPair s.curCore s.curSlot = false) (hrings : s1.mmaRings s.curCore a.toNat b.toNat = none)
include hopen hpair hrings

/-- Past the checks of its rings, an MMA outside a pair reads the tiles itself. -/
theorem execMma_leads : exec (.mma d a b l z y x) s = .next (s.perform s.curCore s.curSlot (engForm [] l)
    (mmaLead s1 s.curCore s.curSlot a.toNat b.toNat d.toNat (z == 1) (y == 1) (x == 1))) := by
  refine step_answers hopen ?_
  rw [hrings, accBad_unpaired hpair, isTrailing_unpaired hpair, accOf_unpaired hpair]
  rfl

variable (hA : (popTile s1 s.curCore a.toNat).state = .ready) (hB : (popTile s1 s.curCore b.toNat).state = .ready)
include hA hB

theorem execMma_commands (htakes : MmaTakes s1 s.curCore a.toNat b.toNat d.toNat (z == 1)) :
    Commands s (engForm [] l) s1 (s1.modCore s.curCore (fun k => (k.consume a.toNat (x != 1) 1).consume b.toNat (y != 1) 1))
      (mmaCommand s1 s.curCore s.curSlot a.toNat b.toNat d.toNat (z == 1)) true (exec (.mma d a b l z y x) s) :=
  commands_of_perform (perform_answer (execMma_leads hopen hpair hrings) (mmaLead_takes hA hB hpair htakes))

theorem execMma_unfit {code : BitVec 16}
    (htiles : mmaTiles (popTile s1 s.curCore a.toNat) (popTile s1 s.curCore b.toNat) = some code) :
    exec (.mma d a b l z y x) s = .next (s.trapped s.curCore s.curSlot code 0 0) :=
  perform_answer (execMma_leads hopen hpair hrings) (mmaLead_unfit hA hB htiles)

end

section
variable {d : BitVec 3} {a : BitVec 6} {l : BitVec 4} {s s1 : State} {x : Val}

/-! ### ACCLD, ACCST (R237, R238) -/

/-- The form of ACCLD and ACCST: it touches an image. -/
def imageForm (a : BitVec 6) (l : BitVec 4) : Form := { engForm [.g a] l with touch := fun xs => [(arg xs 0, 8192)] }

section
variable (hpair : s1.isPair s.curCore s.curSlot = false) (himage : s1.imageCheck s.curCore s.curSlot d x.w = none)
include hpair himage

theorem execAccld_commands (hopen : Opens s { imageForm a l with rd := true } s1 [x]) :
    Commands s { imageForm a l with rd := true } s1 s1 { cmdOf s.curSlot s1.fresh 1 d.toNat with addr := x.w } true
      (exec (.accld d a l) s) := by
  refine commands_of_perform (go := id) (step_answers hopen ?_)
  dsimp only
  simp only [arg_zero, himage, isTrailing_unpaired hpair, accOf_unpaired hpair, hpair, Bool.false_and, Bool.false_eq_true, if_false]
  rw [State.command, State.command, hpair]
  rfl

theorem execAccst_commands (hopen : Opens s { imageForm a l with wr := true } s1 [x]) :
    Commands s { imageForm a l with wr := true } s1 s1 { cmdOf s.curSlot s1.fresh 2 d.toNat with addr := x.w } true
      (exec (.accst d a l) s) := by
  refine commands_of_perform (go := id) (step_answers hopen ?_)
  dsimp only
  rw [arg_zero, himage, accOf_unpaired hpair]

end

/-! ### ACCDR (R239) -/

variable (hopen : Opens s { engForm [.g a] l with slots := 0x0FFF } s1 [x])
include hopen

/-- ACCDR of entries within the accumulator reserves their room in the matrix queue. -/
theorem execAccdr_commands (hpair : s1.isPair s.curCore s.curSlot = false)
    (hform : x.w &&& 0x77F#64 = x.w) (hend : bitsN x.w 6 0 + (bitsN x.w 10 8 + 1) ≤ 128) :
    let n := bitsN x.w 10 8 + 1
    let t := s1.thr s.curCore s.curSlot
    Commands s { engForm [.g a] l with slots := 0x0FFF } s1
      (s1.modThr s.curCore s.curSlot (fun t => { t with vmqReserved := t.vmqReserved + n }))
      { cmdOf s.curSlot s1.fresh 3 d.toNat with addr := BitVec.ofNat 64 (bitsN x.w 6 0), count := n }
      (t.vmq.length + t.vmqReserved + n ≤ 8) (exec (.accdr d a l) s) := by
  have hpass : (x.w &&& 0x77F#64 != x.w || decide (128 < bitsN x.w 6 0 + (bitsN x.w 10 8 + 1))) = false := by
    rw [bne_eq_false_iff_eq.mpr hform, decide_eq_false (Nat.not_lt.mpr hend), Bool.or_self]
  refine commands_of_perform (go := fun s1 => s1.modThr s.curCore s.curSlot _) (step_answers hopen ?_)
  dsimp only
  rw [arg_zero, hpass, accBad_unpaired hpair, accOf_unpaired hpair]
  rfl

/-- Reserved bits, or entries beyond the accumulator, trap. -/
theorem execAccdr_bad (hbad : x.w &&& 0x77F#64 ≠ x.w ∨ 128 < bitsN x.w 6 0 + (bitsN x.w 10 8 + 1)) :
    exec (.accdr d a l) s = .next (s.trapped s.curCore s.curSlot (det cMatrixForm 7) 0 0) := by
  have hstop : (x.w &&& 0x77F#64 != x.w || decide (128 < bitsN x.w 6 0 + (bitsN x.w 10 8 + 1))) = true :=
    Bool.or_eq_true_iff.mpr (hbad.imp bne_iff_ne.mpr decide_eq_true)
  exact trapped_of_trap hopen (if_pos hstop)

end

/-! ### The zeroing bit of an MMA beyond its field -/

/-- A ring of one slot that holds a ready tile. -/
def readyRing (base : Word) (shapeB : Bool) : Machine.Ring := ⟨base, 64, 1, 0, 0, [{ Tile.reset with state := .ready, shapeB := shapeB }]⟩

/-- Core 0 at the opportunity of slot 0, with a ready tile of each shape in rings 0 and 1. -/
def readyTilesState : State :=
  (State.reset.withFetchWord 32 1).modCore 0 (fun k => { k with
    cycle := 16
    scratch := 0x8000
    rings := (k.rings.set 0 (readyRing 0x10000000000 false)).set 1 (readyRing 0x10000001000 true) })

theorem readyTilesState_opens : Opens readyTilesState (engForm [] 0) readyTilesState [] where
  slot := rfl
  declared := rfl
  handler := nofun
  window := rfl
  edge := rfl
  read := rfl
  hits := .inr rfl
  dst := rfl
  clean := .inl rfl
  alone := .inl rfl

theorem readyTilesState_takes (z : Bool) : MmaTakes readyTilesState 0 0 1 7 z := ⟨rfl, rfl, rfl, rfl, rfl, .inr rfl⟩

/-- Whether each command in the engine of core 0 zeroes its accumulator. -/
def engineZeroes (o : Out) : Option (List Bool) :=
  match o with
  | .next s => some ((s.core 0).engine.map (·.zero))
  | _ => none

/-- Refutes O30: its z ranges over the natural numbers, not over the field's one bit.  The instruction takes z modulo 2, so at 3 its
command zeroes the accumulator (R231), and the statement's command, which compares 3 itself with 1, does not.  What the statement says of
MMA holds for each value of the field (`execMma_commands`, `execMma_unfit`), and so do its clauses on the other instructions. -/
theorem not_engineInstructions : ¬ Obligations.EngineInstructions := by
  unfold Obligations.EngineInstructions
  rintro ⟨hmma, -, -⟩
  obtain ⟨hcommands, -⟩ := hmma 7 0 1 0 3 0 0 _ _ readyTilesState_opens rfl rfl rfl rfl
  obtain ⟨hstated, -⟩ := hcommands rfl rfl rfl rfl rfl (.inr rfl)
  obtain ⟨hmodel, -⟩ := execMma_commands (d := 7) (a := 0) (b := 1) (z := ((3 : Nat) : BitVec 1)) (y := 0) (x := 0)
    readyTilesState_opens rfl rfl rfl rfl (readyTilesState_takes _)
  have hstatedOut := hstated rfl (by decide) rfl _ rfl
  have hmodelOut := hmodel rfl (by decide) rfl _ rfl
  have hzeroes := congrArg engineZeroes (hstatedOut.symm.trans hmodelOut)
  exact absurd hzeroes (by decide)

end Sys2Proof.Laws
end

section
/-! SUPPORT. Geometric predicates: what a predicate does once its registers pass the checks of R249, what its completion leaves, and
what GPCFG does with a mode word (12 R247-R253). -/

namespace Sys2Proof.Laws
open Sys2Proof.Machine

/-! ### The checks on a predicate's registers (R249) -/

/-- The registers of a list are declared where each of them is. -/
theorem undeclared_eq_none_iff {s : State} {c : Nat} {os : List Opnd} :
    s.undeclared c os = none ↔ ∀ o ∈ os, s.undeclared c [o] = none := by
  induction os with
  | nil => exact iff_of_true rfl nofun
  | cons o os ih =>
    rw [List.forall_mem_cons, ← ih]
    cases o with
    | g n | v n => simp only [State.undeclared]; split <;> simp
    | m n => simp only [State.undeclared, true_and]

theorem undeclared_of_subset {s : State} {c : Nat} {os ps : List Opnd} (hsub : ps ⊆ os) (hos : s.undeclared c os = none) :
    s.undeclared c ps = none :=
  undeclared_eq_none_iff.mpr fun o ho => undeclared_eq_none_iff.mp hos o (hsub ho)

/-! ### A predicate's body (R247, R250) -/

/-- The index vectors that a predicate reads (R244). -/
def indexCount (p : Pred) (sos : BitVec 1) : Nat := if sos = 1 then p.points else 0

/-- The coordinates among the values that a predicate has read. -/
def coordsOf (p : Pred) (xs : List Val) : List Vec := (List.range (p.points * p.coords)).map (argV xs)

/-- The mask among the values that a predicate has read. -/
def maskOf (p : Pred) (sos : BitVec 1) (xs : List Val) : Word := arg xs (p.points * p.coords + indexCount p sos)

/-- The result vector, the gstat word and the latency of a predicate that has read its sources. -/
def resultOf (p : Pred) (sos : BitVec 1) (mode : Word) (xs : List Val) : Vec × Word × Nat :=
  let n := p.points * p.coords
  p.result (coordsOf p xs) ((List.range (indexCount p sos)).map (fun j => argV xs (n + j))) (maskOf p sos xs)
    (argV xs (n + indexCount p sos + 1)) (sos == 1) (mode.getLsbD 8)

/-- The last checks of R249 and the start of the evaluation. -/
def predicateBody (p : Pred) (nf sos : BitVec 1) : Body := fun s c sl xs =>
  if 4 ≤ (s.core c).contexts then .park .memory
  else match (if nf = 0 then geomInfo (coordsOf p xs) (maskOf p sos xs) else none) with
    | some info => .trap (det cGeomNonfinite 1) info 0
    | none =>
      let r := resultOf p sos (s.thr c sl).gpcfg xs
      .pend s (.predicate r.1 r.2.1) (s.now c + r.2.2)

section
variable {p : Pred} {nf sos : BitVec 1} {s : State} {c sl : Nat} {xs : List Val} (hfree : (s.core c).contexts < 4)
include hfree

/-- A predicate that takes no trap on its coordinates takes a context (R247, R251). -/
theorem predicateBody_pends (hgo : nf = 1 ∨ geomInfo (coordsOf p xs) (maskOf p sos xs) = none) :
    let r := resultOf p sos (s.thr c sl).gpcfg xs
    predicateBody p nf sos s c sl xs = .pend s (.predicate r.1 r.2.1) (s.now c + r.2.2) := by
  have hinfo : (if nf = 0 then geomInfo (coordsOf p xs) (maskOf p sos xs) else none) = none := by
    rcases hgo with rfl | hfinite
    · exact if_neg (by decide)
    · rw [hfinite, ite_self]
  simp only [predicateBody, Nat.not_le.mpr hfree, hinfo, if_false]

/-- A non-finite coordinate of an active lane traps the form without .nf (R251). -/
theorem predicateBody_nonfinite {info : Word} (hnf : nf = 0) (hinfo : geomInfo (coordsOf p xs) (maskOf p sos xs) = some info) :
    predicateBody p nf sos s c sl xs = .trap (det cGeomNonfinite 1) info 0 := by
  simp only [predicateBody, Nat.not_le.mpr hfree, hnf, hinfo, if_true, if_false]

end

/-! ### A predicate (R249-R251) -/

/-- Where its registers are declared and its index vectors have room, a predicate issues with its body. -/
theorem predicate_issues {p : Pred} {d a : BitVec 6} {l : BitVec 4} {nf sos : BitVec 1} {m : BitVec 3} {s : State}
    (hroom : sos = 1 → bitsN (me s).gpcfg 5 0 + p.points ≤ 48)
    (hdecl : s.undeclared s.curCore (predicateForm p d a l sos m (bitsN (me s).gpcfg 5 0)).names = none) :
    predicate p d a l nf sos m s =
      s.issueStep (predicateForm p d a l sos m (bitsN (me s).gpcfg 5 0)) (predicateBody p nf sos) := by
  have hrun : s.undeclared s.curCore
      ((List.range (p.points * p.coords)).map (fun i => Opnd.v (a + BitVec.ofNat 6 i)) ++ [.v d]) = none := by
    refine undeclared_of_subset (fun o ho => ?_) hdecl
    simp only [Form.names, predicateForm, List.mem_append] at ho ⊢
    tauto
  have hplaces : (sos == 1 && decide (48 < bitsN (me s).gpcfg 5 0 + p.points)) = false := by
    rw [Bool.and_eq_false_imp, beq_iff_eq]
    exact fun hsos => decide_eq_false (Nat.not_lt.mpr (hroom hsos))
  have hcount : (if sos = 1 then (List.range p.points).map (fun i => Opnd.v (BitVec.ofNat 6 (bitsN (me s).gpcfg 5 0 + i))) else []).length =
      indexCount p sos := by
    rw [apply_ite List.length, List.length_map, List.length_range]
    rfl
  unfold me at *
  simp only [predicate, hrun, hplaces, hcount, List.length_map, List.length_range, Option.isSome_none, Bool.or_self,
    Bool.false_eq_true, if_false]
  rfl

/-- An instruction whose meaning is a predicate. -/
theorem predicates_of_exec {i : BitVec 6 → BitVec 6 → BitVec 4 → BitVec 1 → BitVec 1 → BitVec 3 → Instr} {p : Pred}
    (hi : ∀ d a l nf sos m s, exec (i d a l nf sos m) s = predicate p d a l nf sos m s) : Predicates i p := by
  intro d a l nf sos m s s1 xs ibase n k f coords ix g r hroom hopen hfree
  rw [hi, predicate_issues hroom hopen.declared]
  exact ⟨fun hgo => pends_of_pend hopen (predicateBody_pends hfree hgo),
    fun info hnf hinfo => trapped_of_trap hopen (predicateBody_nonfinite hfree hnf hinfo)⟩

/-- A predicate whose cycle has come fills its destination and replaces gstat (R250, R253). -/
theorem execPredicateCompletion_fills {c sl id : Nat} {p : Pend} {r : Vec} {g : Word} {s : State} (hdue : DuePend s c sl id p)
    (hkind : p.kind = .predicate r g) : exec (.predicateCompletion c sl id) s =
      .next ((s.modThr c sl (fun t => { t with gstat := g })).finish c sl p [⟨r, false⟩]) := by
  change execPredicateCompletion c sl id s = _
  simp only [execPredicateCompletion, onPend_due hdue, hkind]

/-! ### GPCFG (R252) -/

/-- The first index register that a mode word names. -/
theorem bitsN_ibase (w : Word) : bitsN w 5 0 = w.toNat % 64 :=
  (bitsN_eq_div_mod w 5 0).trans (congrArg (· % 64) (Nat.div_one _))

section
variable {a : BitVec 6} {s s1 : State} {x : Val} (hopen : Opens s { srcs := [.g a], dsts := [] } s1 [x])
include hopen

theorem execGpcfg_writes (hform : x.w &&& 0x13F#64 = x.w) (hbase : x.w.toNat % 64 < 48) : exec (.gpcfg a) s =
    .next (issuedFrom s { srcs := [.g a], dsts := [] }
      (s1.modThr s.curCore s.curSlot (fun t => { t with gpcfg := x.w })) ((me s).pc + 4)) := by
  rw [← bitsN_ibase] at hbase
  have hgood : (x.w &&& 0x13F#64 != x.w || decide (48 ≤ bitsN x.w 5 0)) = false :=
    Bool.or_eq_false_iff.mpr ⟨bne_eq_false_iff_eq.mpr hform, decide_eq_false (Nat.not_le.mpr hbase)⟩
  exact issuedNext_of_ret hopen (if_neg (Bool.eq_false_iff.mp hgood))

/-- Reserved bits, or an index register that is no vector register, trap. -/
theorem execGpcfg_bad (hbad : x.w &&& 0x13F#64 ≠ x.w ∨ 48 ≤ x.w.toNat % 64) :
    exec (.gpcfg a) s = .next (s.trapped s.curCore s.curSlot (det cGeomForm 1) 0 0) := by
  rw [← bitsN_ibase] at hbad
  have hstop : (x.w &&& 0x13F#64 != x.w || decide (48 ≤ bitsN x.w 5 0)) = true :=
    Bool.or_eq_true_iff.mpr (hbad.imp bne_iff_ne.mpr decide_eq_true)
  exact trapped_of_trap hopen (if_pos hstop)

end

/-- Settles O32: the five instructions are one predicate with its own determinant, whose body pends or traps; the completion and GPCFG
have one equation for each of their cases. -/
theorem predicateInstructions : Obligations.PredicateInstructions := by
  unfold Obligations.PredicateInstructions
  refine ⟨?go2d, ?go3d, ?ginc, ?gins, ?gsegx, ?completion, ?gpcfg⟩
  case go2d | go3d | ginc | gins | gsegx => exact predicates_of_exec fun _ _ _ _ _ _ _ => rfl
  case completion => exact fun _ _ _ _ _ _ _ => execPredicateCompletion_fills
  case gpcfg =>
    intro a s s1 x f hopen
    exact ⟨execGpcfg_writes hopen, execGpcfg_bad hopen⟩

end Sys2Proof.Laws
end

section
/-! SUPPORT. What a read that meets soft errors leaves: every thread as it was (04 R77, R78; 06 R113). -/

namespace Sys2Proof.Laws
open Sys2Proof.Machine

/-- No thread of any core differs. -/
structure ThreadsKept (s t : State) : Prop where
  thr : ∀ c sl, t.thr c sl = s.thr c sl

namespace ThreadsKept

theorem refl (s : State) : ThreadsKept s s := ⟨fun _ _ => rfl⟩

theorem foldl {α : Type} {s t : State} {f : State → α → State} (xs : List α) (hf : ∀ u a, ThreadsKept s u → ThreadsKept s (f u a))
    (h : ThreadsKept s t) : ThreadsKept s (xs.foldl f t) :=
  List.foldlRecOn xs f h fun u hu a _ => hf u a hu

variable {s t : State} (h : ThreadsKept s t)
include h

theorem modCore {c : Nat} {f : Core → Core} (hf : ∀ k, (f k).threads = k.threads) : ThreadsKept s (t.modCore c f) :=
  ⟨fun d sl => (State.thr_modCore t c d sl f hf).trans (h.thr d sl)⟩

theorem setBytes {home off : Nat} {bs : List Byte} : ThreadsKept s (t.setBytes home off bs) := by
  induction bs generalizing t off with
  | nil => exact h
  | cons b bs ih => exact ih (t := t.setByte home off b) ⟨h.thr⟩

theorem touch {actor home off n : Nat} {wr : Bool} : ThreadsKept s (t.touch actor home off n wr) := by
  obtain ⟨_, _, hcaptures⟩ := capturesOnly_touch t actor home off n wr
  rw [hcaptures]
  exact ⟨h.thr⟩

theorem offer {c : Nat} {ns : List Nat} : ThreadsKept s (t.offer c ns) := by
  unfold State.offer
  split
  · exact h
  · exact h.modCore fun _ => rfl

theorem record {c sl : Nat} {code : BitVec 16} {addr : Word} {late nested : Bool} {tpc : Word} :
    ThreadsKept s (t.record c sl code addr late nested tpc) :=
  ⟨(h.offer (c := c) (ns := (t.core c).dbg.hits 3 sl code.toNat 0xFFFF)).thr⟩

theorem flipBytes {u : Nat} {v : Vec} : ThreadsKept s (t.flipBytes u v) := by
  unfold State.flipBytes
  dsimp only
  split
  · exact h.modCore fun _ => rfl
  · exact h.setBytes

theorem flipUnit {u : Nat} {v : Vec} : ThreadsKept s (t.flipUnit u v) := by
  refine flipBytes ?_
  exact ⟨h.thr⟩

theorem spoil {u : Nat} : ThreadsKept s (t.spoil u) := by
  unfold State.spoil
  dsimp only
  split
  · exact h.modCore fun _ => rfl
  · exact ⟨h.thr⟩

theorem giveUp {u : Nat} : ThreadsKept s (t.giveUp u) :=
  ⟨(h.flipUnit (v := t.flipsOf u)).spoil.thr⟩

theorem writeRebuilt {u : Nat} {left : Vec} : ThreadsKept s (t.writeRebuilt u left) :=
  ⟨h.flipUnit.thr⟩

theorem halfClean {u i : Nat} : ThreadsKept s (t.halfClean u i) := ⟨h.thr⟩

theorem senseHalf {home u i : Nat} : ThreadsKept s (t.senseHalf home u i) := by
  unfold State.senseHalf
  dsimp only
  split
  · exact h
  split
  · split
    · refine record ?_
      exact ⟨h.thr⟩
    · exact h
  · have hflip : ThreadsKept s ((t.halfClean u i).flipBytes u (t.halfFlips u i)) := .flipBytes (.halfClean h)
    split
    · exact hflip
    · refine record ?_
      exact ⟨hflip.thr⟩

theorem senseUnit {home u : Nat} : ThreadsKept s (t.senseUnit home u) := by
  unfold State.senseUnit
  dsimp only
  split
  · split
    · exact .flipUnit h
    split
    · refine record (writeRebuilt (modCore h ?_))
      exact fun _ => rfl
    · split
      · refine giveUp (modCore h ?_)
        exact fun _ => rfl
      · refine record (giveUp (modCore h ?_))
        exact fun _ => rfl
  · exact .senseHalf (.senseHalf h)

theorem sense {home off n actor : Nat} : ThreadsKept s (t.sense home off n actor) :=
  .foldl _ (fun _ _ hu => hu.senseUnit) h.touch

end ThreadsKept

@[simp] theorem thr_sense (s : State) (home off n actor c sl : Nat) : (s.sense home off n actor).thr c sl = s.thr c sl :=
  (ThreadsKept.refl s).sense.thr c sl

end Sys2Proof.Laws
end

section
/-! SUPPORT. The bit buffer: what each bit-buffer instruction answers once its attempt opens, and what a refill, its arrival and a spill
do (13 R256-R262). -/

namespace Sys2Proof.Laws
open Sys2Proof.Machine

/-! ### The window (R256, R262) -/

/-- A window that bits can be taken from: it reads, no refill of it has met a critical vault, and it holds no poison (R259, R261). -/
structure Readable (b : BitBuf) : Prop where
  read : b.write = false
  cool : b.hot = false
  clean : b.poison = false

theorem valid_le_left (b : BitBuf) : b.valid ≤ b.left := Nat.le_add_right ..

/-- Bits that a readable window can give are dropped from it. -/
theorem takeBits_takes {s : State} {c : Nat} (n : Nat) {enough : Bool} (go : State → BitBuf → Act) (hread : Readable (s.bb c))
    (henough : enough = true) : s.takeBits c n enough go = go (s.modBb c (fun b => b.drop n)) (s.bb c) := by
  simp only [State.takeBits, hread.cool, hread.clean, henough, Bool.not_true, Bool.false_eq_true, if_false]

/-- A change of a thread is what it makes of the thread there. -/
theorem modThr_congr {s : State} {c sl : Nat} {f g : Thread → Thread} (h : f (s.thr c sl) = g (s.thr c sl)) :
    s.modThr c sl f = s.modThr c sl g :=
  congrArg (s.setThr c sl) h

theorem modBb_congr {s : State} {c : Nat} {f g : BitBuf → BitBuf} (h : f (s.bb c) = g (s.bb c)) : s.modBb c f = s.modBb c g :=
  modThr_congr (congrArg (fun b => { s.thr c 15 with bb := b }) h)

theorem window_none (s : State) (c : Nat) : (s.thr c 15).window none = s.bb c := rfl

theorem modWindow_none (s : State) (c : Nat) (f : BitBuf → BitBuf) : s.modWindow c none f = s.modBb c f := rfl

/-! ### Bit-buffer instructions (R260-R262) -/

/-- A bit-buffer instruction runs where no TDEC or ZRENC is pending. -/
theorem idle_runs {s : State} {c : Nat} (act : Act) (hidle : s.streamBusy c = false) :
    (if s.streamBusy c then .park .memory else act) = act :=
  if_neg (Bool.eq_false_iff.mp hidle)

section
variable {s s1 : State} (hidle : s1.streamBusy s.curCore = false)
include hidle

section
variable {a b : BitVec 6} {x y : Val} (hopen : Opens s { srcs := [.g a, .g b], dsts := [], slots := 0x8000 } s1 [x, y])
include hopen

/-- BBSET of a range that its checks allow begins a new stream. -/
theorem bbset_begins (write : Bool) (horder : x.w.toNat ≤ y.w.toNat) (hend : y.w.toNat < 2 ^ 45)
    (halign : write = true → x.w.toNat % 64 = 0 ∧ y.w.toNat % 64 = 0)
    (hcheck : (y.w.toNat + 7) / 8 ≠ x.w.toNat / 8 → (s1.core s.curCore).check (BitVec.ofNat 64 (x.w.toNat / 8))
      ((y.w.toNat + 7) / 8 - x.w.toNat / 8) 0 (!write) write false = none)
    (hrefill : (s1.bb s.curCore).refill = none) (hspill : (s1.bb s.curCore).spills = false) :
    bbset write a b s = .next (issuedFrom s { srcs := [.g a, .g b], dsts := [], slots := 0x8000 }
      (s1.modBb s.curCore (fun _ => { BitBuf.reset with rp := x.w.toNat, fin := y.w.toNat, write := write })) ((me s).pc + 4)) := by
  have hnear : (x.w >>> 45 != 0 || y.w >>> 45 != 0) = false := Bool.or_eq_false_iff.mpr
    ⟨(ushiftRight_bne_zero x.w 45).trans (decide_eq_false (by omega)), (ushiftRight_bne_zero y.w 45).trans (decide_eq_false (by omega))⟩
  have hform : (decide (y.w.toNat < x.w.toNat) || (write && (x.w.toNat % 64 != 0 || y.w.toNat % 64 != 0))) = false := by
    rw [decide_eq_false (Nat.not_lt.mpr horder), Bool.false_or, Bool.and_eq_false_imp]
    intro hwrite
    obtain ⟨hx, hy⟩ := halign hwrite
    rw [hx, hy]
    rfl
  have hrange : (if (y.w.toNat + 7) / 8 - x.w.toNat / 8 = 0 then none
      else (s1.core s.curCore).check (BitVec.ofNat 64 (x.w.toNat / 8)) ((y.w.toNat + 7) / 8 - x.w.toNat / 8) 0 (!write) write false) =
      none := by
    split
    case isTrue => rfl
    case isFalse hsome => exact hcheck (by omega)
  refine issuedNext_of_ret hopen ((idle_runs _ hidle).trans ?_)
  dsimp only
  rw [arg_zero, arg_one, streamBytes]
  simp only [hnear, hform, hrange, hrefill, hspill, Option.isSome_none, Bool.or_self, Bool.false_eq_true, if_false]

/-- BPUT appends its bits above the valid ones. -/
theorem execBput_appends (hn : y.w.toNat ≤ 64) (hwrite : (s1.bb s.curCore).write = true)
    (hend : (s1.bb s.curCore).rp + (s1.bb s.curCore).valid + y.w.toNat ≤ (s1.bb s.curCore).fin)
    (hroom : (s1.bb s.curCore).valid + y.w.toNat ≤ 128) :
    exec (.bput a b) s = .next (issuedFrom s { srcs := [.g a, .g b], dsts := [], slots := 0x8000 }
      (s1.modBb s.curCore (fun b => b.append x.w.toNat y.w.toNat)) ((me s).pc + 4)) := by
  refine issuedNext_of_ret hopen ((idle_runs _ hidle).trans ?_)
  simp only [arg_zero, arg_one, hwrite, Nat.not_lt.mpr hn, Nat.not_lt.mpr hend, Nat.not_lt.mpr hroom, Bool.not_true,
    Bool.false_eq_true, if_false]

end

section
variable {d a : BitVec 6} {x : Val} (hn : x.w.toNat ≤ 64)
include hn

section
variable (hread : Readable (s1.bb s.curCore))
include hread

theorem execBget_takes (hopen : Opens s { fR d a with slots := 0x8000 } s1 [x]) (hvalid : x.w.toNat ≤ (s1.bb s.curCore).valid) :
    Results s { fR d a with slots := 0x8000 } (s1.modBb s.curCore (fun b => b.drop x.w.toNat))
      [(.g d, Val.of (BitVec.ofNat 64 ((s1.bb s.curCore).win.toNat % 2 ^ x.w.toNat)))] (exec (.bget d a) s) := by
  have hleft := Nat.le_trans hvalid (valid_le_left _)
  refine results_of_ret hopen ((idle_runs _ hidle).trans ?_)
  dsimp only
  rw [arg_zero]
  simp only [hread.read, Nat.not_lt.mpr hn, Nat.not_lt.mpr hleft, Bool.false_eq_true, if_false]
  rw [takeBits_takes _ _ hread (decide_eq_true hvalid), BitBuf.peek, Nat.min_eq_left hvalid]
  rfl

/-- BPEEK gives the bits that there are, and drops none. -/
theorem execBpeek_gives (hopen : Opens s { fR d a with slots := 0x8000 } s1 [x])
    (henough : x.w.toNat ≤ (s1.bb s.curCore).valid ∨ (s1.bb s.curCore).fin ≤ (s1.bb s.curCore).rp) :
    Results s { fR d a with slots := 0x8000 } (s1.modBb s.curCore (fun b => b.drop 0))
      [(.g d, Val.of (BitVec.ofNat 64 ((s1.bb s.curCore).win.toNat % 2 ^ min x.w.toNat (s1.bb s.curCore).valid)))]
      (exec (.bpeek d a) s) := by
  have hbits : (decide (x.w.toNat ≤ (s1.bb s.curCore).valid) || decide ((s1.bb s.curCore).fin ≤ (s1.bb s.curCore).rp)) = true :=
    Bool.or_eq_true_iff.mpr (henough.imp decide_eq_true decide_eq_true)
  refine results_of_ret hopen ((idle_runs _ hidle).trans ?_)
  dsimp only
  rw [arg_zero]
  simp only [hread.read, Nat.not_lt.mpr hn, Bool.false_eq_true, if_false]
  rw [takeBits_takes _ _ hread hbits]
  rfl

theorem execBskip_drops (hopen : Opens s { srcs := [.g a], dsts := [], slots := 0x8000 } s1 [x])
    (hvalid : x.w.toNat ≤ (s1.bb s.curCore).valid) :
    exec (.bskip a) s = .next (issuedFrom s { srcs := [.g a], dsts := [], slots := 0x8000 }
      (s1.modBb s.curCore (fun b => b.drop x.w.toNat)) ((me s).pc + 4)) := by
  have hleft := Nat.le_trans hvalid (valid_le_left _)
  refine issuedNext_of_ret hopen ((idle_runs _ hidle).trans ?_)
  dsimp only
  rw [arg_zero]
  simp only [hread.read, Nat.not_lt.mpr hn, Nat.not_lt.mpr hleft, Bool.false_eq_true, if_false]
  rw [takeBits_takes _ _ hread (decide_eq_true hvalid)]

end

theorem execBget_end (hopen : Opens s { fR d a with slots := 0x8000 } s1 [x]) (hread : (s1.bb s.curCore).write = false)
    (hend : (s1.bb s.curCore).left < x.w.toNat) :
    exec (.bget d a) s = .next (s.trapped s.curCore s.curSlot (det cBitstreamEnd 1) (bitInfo 0 255) 0) := by
  refine trapped_of_trap hopen ((idle_runs _ hidle).trans ?_)
  simp only [arg_zero, hread, Nat.not_lt.mpr hn, hend, Bool.false_eq_true, if_false, if_true]
  rfl

end

section
variable {d : BitVec 6} (hopen : Opens s { srcs := [], dsts := [.g d], slots := 0x8000 } s1 [])
include hopen

theorem execBpeekPos_gives : Results s { srcs := [], dsts := [.g d], slots := 0x8000 } s1
    [(.g d, Val.of (BitVec.ofNat 64 (s1.bb s.curCore).pos))] (exec (.bpeekPos d) s) :=
  results_of_ret hopen (idle_runs _ hidle)

/-- BFLUSH adds zero bits up to a multiple of 64 (log 68). -/
theorem execBflush_pads (hwrite : (s1.bb s.curCore).write = true) :
    let up := ((s1.bb s.curCore).valid + 63) / 64 * 64
    Results s { srcs := [], dsts := [.g d], slots := 0x8000 } (s1.modBb s.curCore (fun b => { b with valid := up }))
      [(.g d, Val.of (BitVec.ofNat 64 ((s1.bb s.curCore).rp + up)))] (exec (.bflush d) s) := by
  refine results_of_ret hopen ((idle_runs _ hidle).trans ?_)
  simp only [hwrite, Bool.not_true, Bool.false_eq_true, if_false]
  rfl

/-- BALIGN of a stream that is written adds zero bits up to a byte. -/
theorem execBalign_pads (hwrite : (s1.bb s.curCore).write = true) :
    let k := (8 - (s1.bb s.curCore).pos % 8) % 8
    (s1.bb s.curCore).valid + k ≤ 128 →
    Results s { srcs := [], dsts := [.g d], slots := 0x8000 } (s1.modBb s.curCore (fun b => { b with valid := b.valid + k }))
      [(.g d, Val.of (BitVec.ofNat 64 k))] (exec (.balign d) s) := by
  intro k hroom
  refine results_of_ret hopen ((idle_runs _ hidle).trans ?_)
  dsimp only
  rw [if_pos hwrite, if_neg (Nat.not_lt.mpr hroom)]
  rfl

/-- BALIGN of a stream that is read drops bits up to a byte. -/
theorem execBalign_drops (hread : Readable (s1.bb s.curCore)) :
    let k := (8 - (s1.bb s.curCore).pos % 8) % 8
    k ≤ (s1.bb s.curCore).valid →
    Results s { srcs := [], dsts := [.g d], slots := 0x8000 } (s1.modBb s.curCore (fun b => b.drop k))
      [(.g d, Val.of (BitVec.ofNat 64 k))] (exec (.balign d) s) := by
  intro k hvalid
  have hleft := Nat.le_trans hvalid (valid_le_left _)
  refine results_of_ret hopen ((idle_runs _ hidle).trans ?_)
  dsimp only
  rw [if_neg (Bool.eq_false_iff.mp hread.read), if_neg (Nat.not_lt.mpr hleft), takeBits_takes _ _ hread (decide_eq_true hvalid)]
  rfl

end

end

/-! ### Refill and spill (R257-R259) -/

section
variable {s : State} {c : Nat}

section
variable (hlanes : (s.thr c 15).ldec.lanes = [])
include hlanes

/-- Without lanes the bit buffer's own window is the only one. -/
theorem windows_own : (s.thr c 15).windows = [none] := by
  simp only [Thread.windows, hlanes, List.length_nil, List.range_zero, List.filter_nil, List.map_nil]

theorem execBbRefill_own : exec (.bbRefill c) s = .next (s.refillStart c none) := by
  change execBbRefill c s = _
  rw [execBbRefill, windows_own hlanes, List.foldl_cons, List.foldl_nil]

theorem execBbRefillArrival_own : exec (.bbRefillArrival c) s = .next (s.refillArrive c none) := by
  change execBbRefillArrival c s = _
  rw [execBbRefillArrival, windows_own hlanes, List.foldl_cons, List.foldl_nil]

end

/-- A window reads its next doubleword: it reads, has room for one, its stream goes on, no refill of it is in flight or has met a critical
vault, and no load or acquire of the thread is pending (R258, R259). -/
structure Refills (s : State) (c : Nat) : Prop where
  read : (s.bb c).write = false
  room : (s.bb c).valid ≤ 64
  more : (s.bb c).rp < (s.bb c).fin
  idle : (s.bb c).refill = none
  cool : (s.bb c).hot = false
  alone : (s.thr c 15).pend.any (fun p => p.kind.isRead || p.kind.isAcquire) = false

section
variable (h : Refills s c)
include h

/-- Such a window reads the scratchpad at once, and asks a vault that is not critical. -/
theorem refillStart_goes : s.refillStart c none =
    if !inVault ((s.bb c).rp / 64 * 8) then
      let s1 := s.sense c ((s.bb c).rp / 64 * 8) 8
      s1.modBb c (fun b => { b with refill := some (s1.refillRead c b (s.now c + 3)) })
    else if (s.core c).therm == 3 then s.modBb c (fun b => { b with hot := true })
    else (s.request c 15 (.refill none) ((s.bb c).rp / 64 * 8) 8 true false 0).modBb c
      (fun b => { b with refill := some ⟨none, 0, false⟩ }) := by
  simp only [State.refillStart, window_none, modWindow_none, h.read, Nat.not_lt.mpr h.room, Nat.not_le.mpr h.more, h.idle, h.cool,
    h.alone, decide_false, Option.isSome_none, Bool.or_self, Bool.false_eq_true, if_false]
  rfl

theorem refillStart_scratch (hv : inVault ((s.bb c).rp / 64 * 8) = false) :
    let s1 := s.sense c ((s.bb c).rp / 64 * 8) 8
    s.refillStart c none = s1.modBb c (fun b => { b with refill := some (s1.refillRead c (s.bb c) (s.now c + 3)) }) := by
  intro s1
  have hbb : s1.bb c = s.bb c := congrArg Thread.bb (thr_sense ..)
  rw [refillStart_goes h, hv]
  refine (if_pos rfl).trans (modBb_congr ?_)
  rw [hbb]

section
variable (hv : inVault ((s.bb c).rp / 64 * 8) = true)
include hv

theorem refillStart_asks (hcold : (s.core c).therm ≠ 3) : s.refillStart c none =
    (s.request c 15 (.refill none) ((s.bb c).rp / 64 * 8) 8 true false 0).modBb c
      (fun b => { b with refill := some ⟨none, 0, false⟩ }) := by
  rw [refillStart_goes h, hv, if_neg (by decide), if_neg (mt beq_iff_eq.mp hcold)]

theorem refillStart_critical (hhot : (s.core c).therm = 3) : s.refillStart c none = s.modBb c (fun b => { b with hot := true }) := by
  rw [refillStart_goes h, hv, if_neg (by decide), if_pos (beq_iff_eq.mpr hhot)]

end

end

section
variable {r : Refill} (hr : (s.bb c).refill = some r)
include hr

/-- A refill takes its bytes at its beat. -/
theorem refillArrive_beat (hdue : r.due = none) (hbeat : s.hasBeat c (.refill none) = true) : s.refillArrive c none =
    s.modBb c (fun b => { b with refill := some (s.refillRead c (s.bb c) (s.now c + 2)) }) := by
  simp only [State.refillArrive, window_none, modWindow_none, hr, hdue, hbeat, if_true]
  exact modBb_congr rfl

/-- The bits of a refill join the window when they are due. -/
theorem refillArrive_joins {t : Nat} (hdue : r.due = some t) (hnow : t ≤ s.now c) :
    let b := s.bb c
    let n := min (64 - b.rp % 64) (b.fin - b.rp)
    s.refillArrive c none = s.modBb c (fun _ => { (b.append (r.val.toNat / 2 ^ (b.rp % 64)) n) with
      rp := b.rp + n, refill := none, poison := b.poison || r.poison }) := by
  simp only [State.refillArrive, window_none, modWindow_none, hr, hdue, Nat.not_lt.mpr hnow, if_false]
  exact modBb_congr rfl

end

theorem execBbSpill_spills (hwrite : (s.bb c).write = true) (hvalid : 64 ≤ (s.bb c).valid) (hroom : (s.thr c 15).psqFull = false)
    (hheld : s.spillHeld c = false) : exec (.bbSpill c) s = .next (s.spill c) := by
  have hspills : (s.bb c).spills = true := Bool.and_eq_true_iff.mpr ⟨hwrite, decide_eq_true hvalid⟩
  change execBbSpill c s = _
  rw [execBbSpill, hspills, hroom, hheld]
  rfl

end

/-- Settles O33: each instruction and each step of a refill and a spill has one equation for each of its cases. -/
theorem bitBuffer : Obligations.BitBuffer := by
  unfold Obligations.BitBuffer
  refine ⟨⟨?bbset, ?taking, ?bput, ?position⟩, ?events⟩
  case bbset =>
    intro w a b s s1 x y hopen hidle horder hend halign hcheck hrefill hspill
    rw [← bbset_begins hidle hopen w horder hend halign hcheck hrefill hspill]
    cases w <;> rfl
  case taking =>
    intro d a s s1 x b n hidle hn hwrite hcool hclean
    have hread : Readable b := ⟨hwrite, hcool, hclean⟩
    exact ⟨fun hopen hvalid _ => execBget_takes hidle hn hread hopen hvalid, execBpeek_gives hidle hn hread,
      fun hopen hvalid _ => execBskip_drops hidle hn hread hopen hvalid, fun hopen => execBget_end hidle hn hopen hwrite⟩
  case bput =>
    intro a b s s1 x y bb n hopen hidle
    exact execBput_appends hidle hopen
  case position =>
    intro d s s1 b up k hopen hidle
    exact ⟨execBpeekPos_gives hidle hopen, execBflush_pads hidle hopen, execBalign_pads hidle hopen,
      fun hwrite hcool hclean => execBalign_drops hidle hopen ⟨hwrite, hcool, hclean⟩⟩
  case events =>
    intro c s b off
    refine ⟨fun hlanes hread => ⟨fun hroom hmore hnone hcool halone => ?start, fun r hr => ?arrival⟩, execBbSpill_spills⟩
    case start =>
      have h : Refills s c := ⟨hread, hroom, hmore, hnone, hcool, halone⟩
      rw [execBbRefill_own hlanes]
      exact ⟨fun hv => congrArg _ (refillStart_scratch h hv), fun hv hcold => congrArg _ (refillStart_asks h hv hcold),
        fun hv hhot => congrArg _ (refillStart_critical h hv hhot)⟩
    case arrival =>
      rw [execBbRefillArrival_own hlanes]
      exact ⟨fun hdue hbeat => congrArg _ (refillArrive_beat hr hdue hbeat),
        fun t hdue hnow => congrArg _ (refillArrive_joins hr hdue hnow)⟩

end Sys2Proof.Laws
end

section
/-! SUPPORT. Streams: what TDEC, LDEC, LMERGE and ZRENC answer once their attempts open, and what a step of each does (13 R264-R270). -/

namespace Sys2Proof.Laws
open Sys2Proof.Machine

/-! ### The instructions (R264, R270) -/

section
variable {s s1 : State} {d a : BitVec 6} {l : BitVec 4} {x : Val}

section
variable {b : BitVec 6} {y : Val} (hopen : Opens s (streamForm [.g a, .g b] d l) s1 [x, y])
include hopen

section
variable (htable : s1.tableCheck s.curCore x.w = none)
include htable

/-- A TDEC past its checks parks inside the window of an earlier TDEC or ZRENC, and else pends (log 90). -/
theorem execTdec_checked (hform : outBad y.w = false) (hread : (s1.bb s.curCore).write = false) (hout : s1.outCheck s.curCore y.w = none) :
    exec (.tdec d a b l) s = .next (s.perform s.curCore s.curSlot (streamForm [.g a, .g b] d l)
      (if s1.streamBusy s.curCore then .park .memory else .pend s1 (.tdec x.w y.w 0 []) (s1.now s.curCore + 1))) := by
  refine step_answers hopen ?_
  rw [arg_zero, arg_one, htable]
  simp only [hform, hread, hout, Bool.false_eq_true, if_false]

/-- An LDEC past its checks reads its index, where no symbol of an earlier one is left and none pends. -/
theorem execLdec_pends (hform : y.w &&& 0x000703FFFFFFFFFF#64 = y.w) (halign : outOff y.w % 16 = 0)
    (hcheck : (s1.core s.curCore).check (BitVec.ofNat 64 (outOff y.w)) (16 * chunkCount y.w) 0 true false false = none)
    (hleft : (s1.thr s.curCore s.curSlot).ldec.pending = 0)
    (halone : (s1.thr s.curCore s.curSlot).pend.any (fun p => match p.kind with | .ldec .. => true | _ => false) = false) :
    Pends s (streamForm [.g a, .g b] d l) (s1.laneReads s.curCore s.curSlot 16 0 (chunkAddrs y.w) true) (.ldec x.w y.w)
      (s1.now s.curCore + latency (outOff y.w)) (exec (.ldec d a b l) s) := by
  have hgood : (y.w &&& 0x000703FFFFFFFFFF#64 != y.w || outOff y.w % 16 != 0) = false :=
    Bool.or_eq_false_iff.mpr ⟨bne_eq_false_iff_eq.mpr hform, bne_eq_false_iff_eq.mpr halign⟩
  refine pends_of_pend hopen ?_
  dsimp only
  rw [arg_zero, arg_one, htable]
  simp only [hgood, hcheck, hleft, Nat.lt_irrefl, decide_false, Bool.false_or, Bool.false_eq_true, if_false]
  exact if_neg (Bool.eq_false_iff.mp halone)

end

/-- A ZRENC past its checks pends; of an empty source nothing is checked (log 101). -/
theorem zrencIssue_pends (fin : Bool) (hwrite : (s1.bb s.curCore).write = true) (hcount : y.w.toNat ≤ 65536)
    (hsource : y.w ≠ 0 → isGlobal x.w = false ∧ x.w.toNat % 8 = 0 ∧
      (s1.core s.curCore).check x.w (8 * y.w.toNat) 0 true false false = none) (hidle : s1.streamBusy s.curCore = false) :
    Pends s (streamForm [.g a, .g b] d l) s1 (.zrenc x.w y.w 0 fin 0) (s1.now s.curCore + 1) (zrencIssue fin d a b l s) := by
  have hrange : (if y.w.toNat = 0 then none else if !isGlobal x.w && x.w.toNat % 8 != 0 then some (det cMisaligned 8)
      else (s1.core s.curCore).check x.w (8 * y.w.toNat) 0 true false false) = none := by
    split
    case isTrue => rfl
    case isFalse hsome =>
      obtain ⟨-, halign, hcheck⟩ := hsource fun hzero => hsome (congrArg BitVec.toNat hzero)
      rw [halign, hcheck, bne_self_eq_false, Bool.and_false]
      rfl
  refine pends_of_pend hopen ?_
  dsimp only
  rw [arg_zero, arg_one]
  simp only [hwrite, Nat.not_lt.mpr hcount, hrange, hidle, Bool.not_true, Bool.false_eq_true, if_false]

end

section
variable (hopen : Opens s (streamForm [.g a] d l) s1 [x]) (hform : outBad x.w = false)
  (halone : (s1.thr s.curCore s.curSlot).pend = [])
include hopen hform halone

/-- An LMERGE of symbols that its lanes still have pends. -/
theorem execLmerge_pends (hout : s1.outCheck s.curCore x.w = none) (hcount : outCount x.w ≤ (s1.thr s.curCore s.curSlot).ldec.pending) :
    Pends s (streamForm [.g a] d l) s1 (.lmerge x.w 0 []) (s1.now s.curCore + 1) (exec (.lmerge d a l) s) := by
  refine pends_of_pend hopen ?_
  dsimp only
  rw [arg_zero, halone]
  simp only [hform, hout, List.map_nil, List.sum_nil, List.any_nil, Nat.sub_zero, Nat.not_lt.mpr hcount, Bool.false_eq_true, if_false]

/-- An LMERGE of more symbols than its lanes still have traps. -/
theorem execLmerge_short (hcount : (s1.thr s.curCore s.curSlot).ldec.pending < outCount x.w) :
    exec (.lmerge d a l) s = .next (s.trapped s.curCore s.curSlot (det cBitstreamForm 6) (bitInfo 0 255) 0) := by
  refine trapped_of_trap hopen ?_
  dsimp only
  rw [arg_zero, halone]
  simp only [hform, List.map_nil, List.sum_nil, List.any_nil, Nat.sub_zero, hcount, Bool.false_eq_true, if_false, if_true]
  rfl

end

end

/-! ### TDEC (R265) -/

/-- A vault that is not critical, or the scratchpad, takes an access. -/
theorem vault_takes {s : State} {c off : Nat} (h : inVault off = false ∨ (s.core c).therm ≠ 3) :
    (inVault off && (s.core c).therm == 3) = false :=
  Bool.and_eq_false_iff.mpr (h.imp_right beq_eq_false_iff_ne.mpr)

section
variable {s : State} {c id : Nat} {out : Word} {held : List Gathered}

theorem writeSyms_none (h : held.find? (fun g => s.hasBeat c (.word id g.first)) = none) : s.writeSyms c id out held = (s, held) := by
  simp only [State.writeSyms, h]

variable {p : Pend} {table : Word} {done : Nat} (hdue : DuePend s c 15 id p) (hkind : p.kind = .tdec table out done held)
  (hbeat : held.find? (fun g => s.hasBeat c (.word id g.first)) = none)
include hdue hkind hbeat

theorem execTdecCompletion_ends (hdone : done = outCount out) (hheld : held = []) :
    exec (.tdecCompletion c 15 id) s = .next (s.finish c 15 p [Val.of (BitVec.ofNat 64 (s.bb c).pos)]) := by
  change execTdecCompletion c 15 id s = _
  simp only [execTdecCompletion, onPend_due hdue, hkind, writeSyms_none hbeat, if_pos hdone]
  rw [hheld]
  rfl

/-- A table entry of a length that the window has left gives its symbol. -/
theorem execTdecCompletion_takes (hmore : done ≠ outCount out) (hcool : (s.bb c).hot = false) (hvalid : tabW table ≤ (s.bb c).valid)
    (hclean : (s.bb c).poison = false) (hvault : inVault (outOff out) = false ∨ (s.core c).therm ≠ 3)
    (hfree : s.symHeld c id out done = false) :
    let s1 := s.sense c (tabBase table + 2 * (s.bb c).peek (tabW table)) 2
    let e := s1.tabEntry c table ((s.bb c).peek (tabW table))
    e.2 = false → 1 ≤ e.1 / 4096 → e.1 / 4096 ≤ tabW table → e.1 / 4096 ≤ (s.bb c).left →
    exec (.tdecCompletion c 15 id) s =
      .next ((s1.modBb c (fun b => b.drop (e.1 / 4096))).takeSymbol c id table out done held e.1) := by
  intro s1 e hentry hpos hwidth hleft
  have hlen : ¬ (e.1 / 4096 = 0 ∨ tabW table < e.1 / 4096) := by omega
  change execTdecCompletion c 15 id s = _
  simp only [execTdecCompletion, onPend_due hdue, hkind, writeSyms_none hbeat, hmore, hcool, Nat.not_lt.mpr hvalid, hclean, hfree,
    vault_takes hvault, decide_false, Bool.false_and, Bool.or_self, Bool.false_eq_true, if_false]
  refine congrArg _ ((if_neg hlen).trans ((if_neg (Nat.not_lt.mpr hleft)).trans (if_neg ?_)))
  exact Bool.eq_false_iff.mp hentry

end

/-! ### LDEC (R266) -/

section
variable {s : State} {c : Nat}

/-- An LDEC that has read its index starts its lanes. -/
theorem execLdecLaneSymbol_starts {p : Pend} {table w : Word} (lane : Nat) (hpend : (s.thr c 15).pend = [p])
    (hkind : p.kind = .ldec table w) (hready : p.ready (BitVec.ofNat 64 (outOff w)) = true) (hdue : p.due ≤ s.now c) :
    exec (.ldecLaneSymbol c lane) s = .next (s.startLanes c 15 p table w) := by
  change execLdecLaneSymbol c lane s = _
  simp only [execLdecLaneSymbol, hpend, List.find?_cons, hkind, hready, hdue, decide_true, Bool.and_self]

theorem thr_laneStep (l : Lane) (sl : Nat) : (s.laneStep c l).1.thr c sl = s.thr c sl := by
  have hsense := thr_sense s c (tabBase l.table + 2 * l.bb.peek (tabW l.table)) 2 c c sl
  unfold State.laneStep
  dsimp only
  split
  · rfl
  split
  · rfl
  split
  · rfl
  split
  · exact hsense
  split
  · exact hsense
  split
  · exact hsense
  · exact hsense

/-- A lane decodes one symbol where no LDEC is pending. -/
theorem execLdecLaneSymbol_steps {n : Nat} {l : Lane} (hpend : (s.thr c 15).pend = []) (hlane : (s.thr c 15).ldec.lanes[n]? = some l) :
    let x := s.laneStep c l
    exec (.ldecLaneSymbol c n) s = .next (x.1.modThr c 15 (fun t => { t with ldec := ⟨(s.thr c 15).ldec.lanes.set n x.2⟩ })) := by
  intro x
  change execLdecLaneSymbol c n s = _
  simp only [execLdecLaneSymbol, hpend, List.find?_nil, hlane]
  refine congrArg _ (modThr_congr ?_)
  rw [thr_laneStep]

end

/-! ### LMERGE (R267) -/

/-- The oldest pending instruction of a sort is the one that its name finds. -/
theorem oldest_id {o : Option Pend} {p : Pend} {id : Nat} (h : o = some p) (hid : p.id = id) :
    ¬ (o.map (fun q => q.id) != some id) = true := by
  rw [h, Option.map_some, hid, bne_self_eq_false]
  exact Bool.false_ne_true

section
variable {s : State} {c sl id : Nat} {p : Pend} {out : Word} {done : Nat} (hdue : DuePend s c sl id p)
  (hkind : p.kind = .lmerge out done [])
  (hfirst : (s.thr c sl).pend.find? (fun q => match q.kind with | .lmerge .. => true | _ => false) = some p) (hid : p.id = id)
include hdue hkind hfirst hid

theorem execLmergeCompletion_ends (hdone : done = outCount out) : exec (.lmergeCompletion c sl id) s =
    .next (s.finish c sl p [Val.of (BitVec.ofNat 64 (s.thr c sl).ldec.pending)]) := by
  change execLmergeCompletion c sl id s = _
  simp only [execLmergeCompletion, onPend_due hdue, hkind, writeSyms_none List.find?_nil, if_pos hdone, List.isEmpty_nil, if_true]
  exact congrArg _ (if_neg (oldest_id hfirst hid))

/-- The symbols that the lanes have for one bank word leave their queues together. -/
theorem execLmergeCompletion_takes {x : BitVec 16} {ls : List Lane} (hmore : done ≠ outCount out)
    (hvault : inVault (outOff out) = false ∨ (s.core c).therm ≠ 3) (hnext : nextSym 0 (s.thr c sl).ldec.lanes = .sym x ls)
    (hfree : s.symHeld c id out done = false) :
    let r := takeSyms out 32 done (s.thr c sl).ldec.lanes
    let y := (s.modThr c sl (fun t => { t with ldec := ⟨r.2.1⟩ })).sendSyms c id out [⟨done, r.2.2⟩]
    exec (.lmergeCompletion c sl id) s = .next (y.1.setKind c sl id (.lmerge out r.1 y.2)) := by
  change execLmergeCompletion c sl id s = _
  simp only [execLmergeCompletion, onPend_due hdue, hkind, writeSyms_none List.find?_nil, hmore, vault_takes hvault, hnext, hfree,
    Bool.false_eq_true, if_false, List.nil_append]
  exact congrArg _ (if_neg (oldest_id hfirst hid))

end

/-! ### ZRENC (R269, R270) -/

section
variable {s : State} {c sl id : Nat} {p : Pend} {src count : Word} {done : Nat} {fin : Bool} {bits : Nat}

/-- Of at most six entries at least two places of the posted-store queue are free. -/
theorem psqTight_eq_false {t : Thread} (h : t.psq.length ≤ 6) : t.psqTight = false :=
  decide_eq_false (Nat.not_lt.mpr (Nat.le_trans (List.length_filter_le ..) h))

theorem zrArrive_none (h : (s.core c).granted = none) : s.zrArrive c p src = s := by
  simp only [State.zrArrive, h]

/-- A ZRENC that has every word of its source reads none. -/
theorem zrRead_all (h : count.toNat ≤ done + p.got.length) : s.zrRead c p src count done = s :=
  if_pos (.inl (Nat.le_trans h (Nat.le_add_right ..)))

section
variable (hdue : DuePend s c sl id p) (hkind : p.kind = .zrenc src count done fin bits) (hvalid : (s.bb c).valid < 64)
  (hroom : (s.thr c sl).psq.length ≤ 6)
include hdue hkind hvalid hroom

theorem execZrencCompletion_ends (hdone : done = count.toNat) (hfin : fin = false) :
    exec (.zrencCompletion c sl id) s = .next (s.finish c sl p [Val.of (BitVec.ofNat 64 bits)]) := by
  change execZrencCompletion c sl id s = _
  simp only [execZrencCompletion, onPend_due hdue, hkind, if_pos hdone, hfin, psqTight_eq_false hroom, Nat.not_le.mpr hvalid,
    decide_false, Bool.or_self, Bool.false_eq_true, if_false]

/-- A ZRENC that has every word of a source in the scratchpad goes on to its next token. -/
theorem execZrencCompletion_encodes (hmore : done ≠ count.toNat) (hsource : inVault (src.toNat + 8 * done) = false)
    (hgrant : (s.core c).granted = none) (hall : count.toNat ≤ done + p.got.length)
    (hspill : s.spillHeld c = false ∨ (s.bb c).valid ≤ 62) :
    exec (.zrencCompletion c sl id) s = .next (s.zrToken c p src count done fin bits) := by
  have hheld : (s.spillHeld c && decide (62 < (s.bb c).valid)) = false :=
    Bool.and_eq_false_iff.mpr (hspill.imp_right fun h => decide_eq_false (Nat.not_lt.mpr h))
  change execZrencCompletion c sl id s = _
  simp only [execZrencCompletion, onPend_due hdue, hkind, hmore, hsource, zrArrive_none hgrant, zrRead_all hall, hheld,
    psqTight_eq_false hroom, Nat.not_le.mpr hvalid, decide_false, Bool.false_and, Bool.or_self, Bool.false_eq_true, if_false]

end

section
variable {v : Nat} (hgot : p.gotOf done = some (v, false))
include hgot

/-- A word that is neither zero nor the word before is a literal. -/
theorem zrToken_literal (hzero : BitVec.ofNat 64 v ≠ 0) (hrepeat : BitVec.ofNat 64 v ≠ (s.bb c).zprev)
    (hend : (s.bb c).rp + (s.bb c).valid + 66 ≤ (s.bb c).fin) : s.zrToken c p src count done fin bits =
      (((s.modBb c (fun b => { b with zprev := BitVec.ofNat 64 v })).putBits c 2 2).putBits c v 64).encoded c p.id src count (done + 1)
        fin (bits + 66) := by
  have hnew : ¬ (BitVec.ofNat 64 v = 0 ∨ BitVec.ofNat 64 v = (s.bb c).zprev) := not_or.mpr ⟨hzero, hrepeat⟩
  simp only [State.zrToken, hgot, hnew, hend, decide_true, Bool.false_eq_true, if_false, if_true]

/-- Zero words whose run is known are one token. -/
theorem zrToken_zeros {n : Nat} (hzero : BitVec.ofNat 64 v = 0)
    (hrun : p.zrRun (BitVec.ofNat 64 v) (min 256 (count.toNat - done)) done = (n, true))
    (hclean : (List.range n).any (fun i => ((p.gotOf (done + i)).map (fun (g : Nat × Bool) => g.2)).getD false) = false)
    (hend : (s.bb c).rp + (s.bb c).valid + 10 ≤ (s.bb c).fin) : s.zrToken c p src count done fin bits =
      (((s.modBb c (fun b => { b with zprev := BitVec.ofNat 64 v })).putBits c 0 2).putBits c (n - 1) 8).encoded c p.id src count
        (done + n) fin (bits + 10) := by
  rw [hzero] at hrun
  simp only [State.zrToken, hgot, hrun, hclean, hend, hzero, true_or, decide_true, Bool.not_true, Bool.false_eq_true, if_false, if_true]

end

end

/-- Settles O34: each instruction past its checks, and each step of a pending one, has one equation for each of its cases. -/
theorem streams : Obligations.Streams := by
  unfold Obligations.Streams
  refine ⟨⟨?tdec, ?ldec, ?lmerge, ?zrenc⟩, ?decode, ?start, ?step, ?merge, ?encode⟩
  case tdec =>
    intro d a b l s s1 x y hopen htable hform hread hout
    have hexec := execTdec_checked hopen htable hform hread hout
    exact ⟨fun hidle => pends_of_perform (perform_answer hexec (if_neg (Bool.eq_false_iff.mp hidle))),
      fun hbusy => perform_answer hexec (if_pos hbusy)⟩
  case ldec =>
    intro d a b l s s1 x y hopen htable hform halign hcheck hleft halone
    exact execLdec_pends hopen htable hform halign hcheck hleft halone
  case lmerge =>
    intro d a l s s1 x hopen hform halone hout
    exact ⟨execLmerge_pends hopen hform halone hout, execLmerge_short hopen hform halone⟩
  case zrenc =>
    intro fin d a b l s s1 x y hopen hwrite hcount hsource hidle
    have hpends := zrencIssue_pends hopen fin hwrite hcount hsource hidle
    cases fin with
    | true => exact hpends
    | false => exact hpends
  case decode =>
    intro c id p table out done held s hdue hkind hbeat b
    exact ⟨execTdecCompletion_ends hdue hkind hbeat, execTdecCompletion_takes hdue hkind hbeat⟩
  case start =>
    intro c lane p table w s
    exact execLdecLaneSymbol_starts lane
  case step =>
    intro c n l s
    exact execLdecLaneSymbol_steps
  case merge =>
    intro c sl id p out done s hdue hkind hfirst hid
    exact ⟨execLmergeCompletion_ends hdue hkind hfirst hid, fun x ls => execLmergeCompletion_takes hdue hkind hfirst hid⟩
  case encode =>
    intro c sl id p src count done fin bits s hdue hkind hvalid hroom
    refine ⟨execZrencCompletion_ends hdue hkind hvalid hroom, ?_⟩
    intro v hmore hsource hgrant hall hgot hspill x b
    rw [execZrencCompletion_encodes hdue hkind hvalid hroom hmore hsource hgrant hall hspill]
    exact ⟨fun hzero hrepeat hend => congrArg _ (zrToken_literal hgot hzero hrepeat hend),
      fun n hzero hrun hclean hend => congrArg _ (zrToken_zeros hgot hzero hrun hclean hend)⟩

end Sys2Proof.Laws
end

section
/-! SUPPORT. Local atomics: the one body of the eight instructions, and what each operation writes over the old value (16 R332-R336). -/

namespace Sys2Proof.Laws
open Sys2Proof.Machine

/-- An instruction whose arm is an AMO with the operation's own sources is the local atomic of that operation. -/
theorem atomic_of_exec {i : BitVec 6 → BitVec 6 → BitVec 6 → BitVec 4 → Instr} {op : AtomOp} {srcs : BitVec 6 → BitVec 6 → List Opnd}
    (hi : ∀ d a b l s, exec (i d a b l) s = amo op d a b l s)
    (hsrcs : ∀ a b, (if op == .cas then [Opnd.g a, .g b, .g (b + 1)] else [.g a, .g b]) = srcs a b) : Atomic i op srcs := by
  intro d a b l s s1 xs f ea tag hopen
  simp only [hi, amo, hsrcs]
  refine ⟨fun hcheck hstop => pends_of_pend hopen ?_, fun code hcheck => trapped_of_trap hopen ?_⟩
  · simp only [ea, tag] at hcheck hstop
    simp only [hcheck, hstop, ea, tag]
  · simp only [ea] at hcheck
    simp only [hcheck, faultAt, ea]

theorem toInt_max (old x : Word) : (if old.slt x then x else old).toInt = max old.toInt x.toInt := by
  rw [if_slt]
  split <;> omega

theorem toInt_min (old x : Word) : (if x.slt old then x else old).toInt = min old.toInt x.toInt := by
  rw [if_slt]
  split <;> omega

/-- Outside cas an atomic writes the same here and far away (16 R334, R336). -/
theorem new_eq_newHere {op : AtomOp} (h : op ≠ .cas) (old x y : Word) : op.new old x y = op.newHere old x y := by
  cases op with
  | cas => exact absurd rfl h
  | _ => rfl

/-- Settles O15: the eight instructions are one AMO each, and the operations write what R334 says. -/
theorem localAtomics : Obligations.LocalAtomics := by
  unfold Obligations.LocalAtomics
  refine ⟨?_, fun old x y => ⟨rfl, rfl, rfl, rfl, rfl, ⟨_, rfl, toInt_max old x⟩, ⟨_, rfl, toInt_min old x⟩, if_pos rfl, fun h => if_neg h,
    fun op h => new_eq_newHere h old x y, fun h => if_pos ⟨rfl, h.symm⟩, if_neg (fun h => h.2 rfl), fun h => if_neg (fun k => h k.1)⟩⟩
  exact ⟨atomic_of_exec (fun _ _ _ _ _ => rfl) (fun _ _ => rfl), atomic_of_exec (fun _ _ _ _ _ => rfl) (fun _ _ => rfl),
    atomic_of_exec (fun _ _ _ _ _ => rfl) (fun _ _ => rfl), atomic_of_exec (fun _ _ _ _ _ => rfl) (fun _ _ => rfl),
    atomic_of_exec (fun _ _ _ _ _ => rfl) (fun _ _ => rfl), atomic_of_exec (fun _ _ _ _ _ => rfl) (fun _ _ => rfl),
    atomic_of_exec (fun _ _ _ _ _ => rfl) (fun _ _ => rfl), atomic_of_exec (fun _ _ _ _ _ => rfl) (fun _ _ => rfl)⟩

end Sys2Proof.Laws
end

section
/-! SUPPORT. Entry to the user trap handler and the return from it: what taking a trap leaves, and where a trap inside a handler ends its
ridge (18 R375-R380). -/

namespace Sys2Proof.Laws
open Sys2Proof.Machine

/-! ### What the debug block sees leaves the rest (19 R400, R405-R407) -/

/-- Nothing but the debug blocks of the cores differs. -/
structure DebugOnly (s t : State) : Prop where
  rest : ∃ cs, t = { s with cores := cs }
  core : ∀ d, ∃ b, t.core d = { s.core d with dbg := b }

namespace DebugOnly

theorem refl (s : State) : DebugOnly s s := ⟨⟨_, rfl⟩, fun _ => ⟨_, rfl⟩⟩

theorem trans {s t u : State} (h : DebugOnly s t) (h' : DebugOnly t u) : DebugOnly s u := by
  obtain ⟨⟨_, ht⟩, htc⟩ := h
  obtain ⟨⟨cs, hu⟩, huc⟩ := h'
  refine ⟨⟨cs, by rw [hu, ht]⟩, fun d => ?_⟩
  obtain ⟨_, ht⟩ := htc d
  obtain ⟨b, hu⟩ := huc d
  exact ⟨b, by rw [hu, ht]⟩

theorem modDebug (s : State) (c : Nat) (f : Debug → Debug) : DebugOnly s (s.modCore c fun k => { k with dbg := f k.dbg }) := by
  refine ⟨⟨_, rfl⟩, fun d => ?_⟩
  by_cases hd : d = c
  · subst hd
    exact ⟨_, State.core_modCore ..⟩
  · exact ⟨_, State.core_modCore_other _ _ hd⟩

theorem trace (s : State) (c sl kind : Nat) (pc : Word) (pay : List Byte) : DebugOnly s (s.trace c sl kind pc pay) := by
  unfold State.trace
  split
  · exact modDebug s c fun d => { d with events := d.events ++ [⟨sl, kind, pc, pay⟩] }
  · exact refl s

theorem offer (s : State) (c : Nat) (ns : List Nat) : DebugOnly s (s.offer c ns) := by
  unfold State.offer
  split
  · exact refl s
  · exact modDebug s c fun d => d.offer ns

variable {s t : State} (h : DebugOnly s t)
include h

theorem mem : t.mem = s.mem := by
  obtain ⟨_, ht⟩ := h.rest
  rw [ht]

theorem ridges : t.ridges = s.ridges := by
  obtain ⟨_, ht⟩ := h.rest
  rw [ht]

theorem log : t.log = s.log := by
  obtain ⟨_, ht⟩ := h.rest
  rw [ht]

theorem logCount : t.logCount = s.logCount := by
  obtain ⟨_, ht⟩ := h.rest
  rw [ht]

theorem thr (c sl : Nat) : t.thr c sl = s.thr c sl := by
  obtain ⟨_, ht⟩ := h.core c
  unfold State.thr
  rw [ht]
  rfl

theorem ridge (c : Nat) : (t.core c).ridge = (s.core c).ridge := by
  obtain ⟨_, ht⟩ := h.core c
  rw [ht]

end DebugOnly

/-! ### Taking a trap (R375-R377) -/

/-- A thread with the trap registers of a trap that is not late written (R376). -/
def trapRegisters (code : BitVec 16) (info pc : Word) (t : Thread) : Thread := { t with
  seen := false, parkSeen := false, skipAt := none, replays := 0, replayNext := false, tpc := pc &&& 0xFFFFFFFF#64
  tcause := causeWord code false t.handler 0, tinfo := info }

/-- The state in which a thread's trap registers are written, before its handler or the supervisor gets the trap. -/
def trapWritten (s : State) (c sl : Nat) (code : BitVec 16) (info pc : Word) : State :=
  ((s.modCore c fun k => k.dropClaims sl).trace c sl 4 (pc &&& 0xFFFFFFFF#64) (leBytes code.toNat 8 ++ leBytes info.toNat 8)).modThr c sl
    (trapRegisters code info pc)

/-- The thread as its own handler takes over (R375, R382). -/
def handlerEntered (entry : Nat) (t : Thread) : Thread :=
  { t with iep := iepSuspend t.iep, handler := true, pc := BitVec.ofNat 64 entry }

section
variable (s : State) (c : Nat) (code : BitVec 16) (info addr pc : Word)

theorem dropClaims_thr (sl i : Nat) : (s.modCore c fun k => k.dropClaims sl).thr c i = s.thr c i :=
  State.thr_modCore _ _ _ _ _ fun _ => rfl

theorem trapWritten_thr {sl : Nat} (hsl : sl < 16) : (trapWritten s c sl code info pc).thr c sl = trapRegisters code info pc (s.thr c sl) := by
  rw [trapWritten, State.thr_modThr _ _ _ hsl, (DebugOnly.trace _ _ _ _ _ _).thr, dropClaims_thr]

variable (sl : Nat)

theorem trapWritten_mem : (trapWritten s c sl code info pc).mem = s.mem := by
  rw [trapWritten, State.modThr_mem, (DebugOnly.trace _ _ _ _ _ _).mem, State.modCore_mem]

theorem trapWritten_log : (trapWritten s c sl code info pc).log = s.log := by
  rw [trapWritten, State.modThr_log, (DebugOnly.trace _ _ _ _ _ _).log, State.modCore_log]

theorem trapWritten_logCount : (trapWritten s c sl code info pc).logCount = s.logCount := by
  rw [trapWritten, State.modThr_logCount, (DebugOnly.trace _ _ _ _ _ _).logCount, State.modCore_logCount]

theorem trapWritten_ridges : (trapWritten s c sl code info pc).ridges = s.ridges := by
  rw [trapWritten, State.modThr_ridges, (DebugOnly.trace _ _ _ _ _ _).ridges, State.modCore_ridges]

theorem trapWritten_ridge : ((trapWritten s c sl code info pc).core c).ridge = (s.core c).ridge := by
  rw [trapWritten, State.modThr, State.setThr, State.core_modCore, Core.setThread_ridge, (DebugOnly.trace _ _ _ _ _ _).ridge, State.core_modCore]
  rfl

theorem trapWritten_trapEntry? : (trapWritten s c sl code info pc).trapEntry? c = s.trapEntry? c := by
  simp only [State.trapEntry?, State.header?, State.ridge?, trapWritten_ridge, trapWritten_ridges]

/-- A trap written is delivered to the thread's own handler, or to the supervisor. -/
theorem takeTrap_delivers : s.takeTrap c sl code info addr pc false 0 =
    match (if userCode code && !(s.thr c sl).handler then s.trapEntry? c else none) with
    | some e => ((trapWritten s c sl code info pc).offerFault c sl code).modThr c sl (handlerEntered e)
    | none => ((trapWritten s c sl code info pc).record c sl code addr false (s.thr c sl).handler pc).actByGrade c sl code := by
  have hhandler : (((s.modCore c fun k => k.dropClaims sl).trace c sl 4 (pc &&& 0xFFFFFFFF#64) (leBytes code.toNat 8 ++
      leBytes info.toNat 8)).thr c sl).handler = (s.thr c sl).handler := by
    rw [(DebugOnly.trace _ _ _ _ _ _).thr, dropClaims_thr]
  rw [← trapWritten_trapEntry? s c code info pc sl]
  simp only [State.takeTrap, trapWritten, trapRegisters, State.modThr, hhandler, Bool.not_false, Bool.and_true]
  rfl

/-- Where nothing keeps a code from the kernel's handler, its thread enters it (R375). -/
theorem takeTrap_enters {entry : Nat} (hcode : userCode code = true) (hrun : (s.thr c sl).handler = false) (hentry : s.trapEntry? c = some entry) :
    s.takeTrap c sl code info addr pc false 0 =
      ((trapWritten s c sl code info pc).offerFault c sl code).modThr c sl (handlerEntered entry) := by
  rw [takeTrap_delivers, hcode, hrun, hentry]
  rfl

/-- Every other trap goes to the supervisor (R377). -/
theorem takeTrap_supervised (h : userCode code = false ∨ (s.thr c sl).handler = true ∨ s.trapEntry? c = none) :
    s.takeTrap c sl code info addr pc false 0 =
      ((trapWritten s c sl code info pc).record c sl code addr false (s.thr c sl).handler pc).actByGrade c sl code := by
  rw [takeTrap_delivers]
  rcases h with h | h | h
  · rw [h]
    rfl
  · rw [h, Bool.not_true, Bool.and_false]
    rfl
  · rw [h, ite_self]

end

/-! ### Recording a trap and acting on it (R370, R373, R374) -/

/-- The ASID of a core marked suspect by a code of G6 (R370). -/
def suspected (s : State) (c : Nat) (code : BitVec 16) : State :=
  if grade code = 6 then { s with asids := replaceFirst (fun a => a.id == s.asidOf c) (fun a => { a with suspect := true }) s.asids } else s

/-- What a code does to the instances (R370). -/
def ended (s : State) (c sl : Nat) (code : BitVec 16) : State :=
  if grade code ≤ 1 then s
  else if grade code = 7 then
    { s with ridges := s.ridges.map fun x => { x with
        state := match x.state with | .ended => .ended | _ => .ending
        fault := match x.fault with | none => some (s.rtime, c, sl, code) | some g => some g } }
  else match (s.core c).ridge with
    | some r => s.endRidge r c sl code
    | none => s

theorem actByGrade_eq (s : State) (c sl : Nat) (code : BitVec 16) : s.actByGrade c sl code = ended (suspected s c code) c sl code := rfl

theorem suspected_rest (s : State) (c : Nat) (code : BitVec 16) : ∃ as, suspected s c code = { s with asids := as } := by
  unfold suspected
  split
  · exact ⟨_, rfl⟩
  · exact ⟨_, rfl⟩

theorem ended_rest (s : State) (c sl : Nat) (code : BitVec 16) : ∃ rs, ended s c sl code = { s with ridges := rs } := by
  unfold ended
  split
  · exact ⟨_, rfl⟩
  split
  · exact ⟨_, rfl⟩
  split
  · exact ⟨_, rfl⟩
  · exact ⟨_, rfl⟩

/-- Acting on a code changes the instances and the suspect marks of ASIDs alone. -/
theorem actByGrade_rest (s : State) (c sl : Nat) (code : BitVec 16) : ∃ as rs, s.actByGrade c sl code = { s with asids := as, ridges := rs } := by
  obtain ⟨as, hs⟩ := suspected_rest s c code
  obtain ⟨rs, he⟩ := ended_rest (suspected s c code) c sl code
  refine ⟨as, rs, ?_⟩
  rw [actByGrade_eq, he, hs]

section
variable (s : State) (c sl : Nat) (code : BitVec 16) (addr : Word) (late nested : Bool) (tpc : Word)

theorem actByGrade_thr (d i : Nat) : (s.actByGrade c sl code).thr d i = s.thr d i := by
  obtain ⟨_, _, h⟩ := actByGrade_rest s c sl code
  rw [h]
  rfl

theorem actByGrade_mem : (s.actByGrade c sl code).mem = s.mem := by
  obtain ⟨_, _, h⟩ := actByGrade_rest s c sl code
  rw [h]

theorem actByGrade_logCount : (s.actByGrade c sl code).logCount = s.logCount := by
  obtain ⟨_, _, h⟩ := actByGrade_rest s c sl code
  rw [h]

theorem record_mem : (s.record c sl code addr late nested tpc).mem = s.mem := (DebugOnly.offer s c _).mem

theorem record_ridges : (s.record c sl code addr late nested tpc).ridges = s.ridges := (DebugOnly.offer s c _).ridges

theorem record_ridge (d : Nat) : ((s.record c sl code addr late nested tpc).core d).ridge = (s.core d).ridge :=
  (DebugOnly.offer s c _).ridge d

theorem record_logCount : (s.record c sl code addr late nested tpc).logCount = s.logCount + 1 :=
  congrArg (· + 1) (DebugOnly.offer s c _).logCount

theorem record_thr (d i : Nat) : (s.record c sl code addr late nested tpc).thr d i = s.thr d i := (ThreadsKept.refl s).record.thr d i

end

/-- The first element of a list with a name, after a change of it that keeps names. -/
theorem find?_replaceFirst_of_find? {α : Type} {p : α → Bool} {f : α → α} {xs : List α} {x : α} (hf : ∀ y, p (f y) = p y)
    (h : xs.find? p = some x) : (replaceFirst p f xs).find? p = some (f x) := by
  induction xs with
  | nil => exact absurd h nofun
  | cons y ys ih =>
    by_cases hy : p y = true
    · obtain rfl : y = x := by simpa only [List.find?_cons, hy, Option.some.injEq] using h
      simp only [replaceFirst, hy, if_true, List.find?_cons, hf]
    · simp only [Bool.not_eq_true] at hy
      simp only [List.find?_cons, hy] at h
      simp only [replaceFirst, hy, Bool.false_eq_true, if_false, List.find?_cons, ih h]

/-- A code of G2 to G6 ends the ridge of its core (R370, R374). -/
theorem actByGrade_ends {s : State} {c sl r : Nat} {code : BitVec 16} {x : Ridge} (hr : (s.core c).ridge = some r)
    (hx : s.ridges.find? (fun x => x.id == r) = some x) (hlow : 2 ≤ grade code) (hhigh : grade code < 7) (hstate : x.state ≠ .ended) :
    ∃ y, (s.actByGrade c sl code).ridges.find? (fun x => x.id == r) = some y ∧ y.state = .ending := by
  obtain ⟨as, hs⟩ := suspected_rest s c code
  have hcore : ((suspected s c code).core c).ridge = some r := hs ▸ hr
  have hfind : (suspected s c code).ridges.find? (fun x => x.id == r) = some x := hs ▸ hx
  have h1 : ¬ grade code ≤ 1 := by omega
  have h7 : ¬ grade code = 7 := by omega
  rw [actByGrade_eq, ended, if_neg h1, if_neg h7, hcore]
  refine ⟨_, find?_replaceFirst_of_find? (fun _ => rfl) hfind, ?_⟩
  cases hx' : x.state with
  | ended => exact absurd hx' hstate
  | _ => rfl

/-! ### The trap registers (R376, R382) -/

section
variable (code : BitVec 16) (nested : Bool)

theorem causeWord_toNat : (causeWord code false nested 0).toNat = 2 ^ 34 * nested.toNat + code.toNat := by
  have := code.isLt
  cases nested
  · rw [causeWord, BitVec.toNat_ofNat]
    norm_num
    omega
  · rw [causeWord, BitVec.toNat_ofNat]
    norm_num
    omega

theorem causeWord_code : (causeWord code false nested 0).extractLsb' 0 16 = code := by
  apply BitVec.eq_of_toNat_eq
  have := code.isLt
  rw [BitVec.extractLsb'_toNat, causeWord_toNat, Nat.shiftRight_zero]
  omega

theorem causeWord_high {j : Nat} : (causeWord code false nested 0).getLsbD (34 + j) = nested.toNat.testBit j := by
  have hcode : code.toNat < 2 ^ 34 := Nat.lt_of_lt_of_le code.isLt (by norm_num)
  rw [BitVec.getLsbD, causeWord_toNat, Nat.testBit_two_pow_mul_add _ hcode, if_neg (by omega), Nat.add_sub_cancel_left]

theorem causeWord_nested : (causeWord code false nested 0).getLsbD 34 = nested := by
  rw [causeWord_high (j := 0)]
  cases nested <;> rfl

theorem causeWord_late : (causeWord code false nested 0).getLsbD 35 = false := by
  rw [causeWord_high (j := 1)]
  cases nested <;> rfl

theorem causeWord_issued : (causeWord code false nested 0).extractLsb' 36 4 = 0#4 := by
  apply BitVec.eq_of_toNat_eq
  have hcode := code.isLt
  have hnested := nested.toNat_le
  rw [BitVec.extractLsb'_toNat, causeWord_toNat, Nat.shiftRight_eq_div_pow, Nat.div_eq_of_lt (by omega)]
  rfl

end

theorem iepSuspend_valid (w : Word) : (iepSuspend w).getLsbD 32 = false := by
  simp only [iepSuspend]
  split <;> simp

theorem iepSuspend_held (w : Word) : (iepSuspend w).getLsbD 34 = w.getLsbD 32 := by
  simp only [iepSuspend]
  split <;> simp_all

theorem iepRestore_valid (w : Word) : (iepRestore w).getLsbD 32 = w.getLsbD 34 := by
  simp only [iepRestore]
  split <;> simp_all

theorem iepRestore_held (w : Word) : (iepRestore w).getLsbD 34 = false := by
  simp only [iepRestore]
  split <;> simp

/-! ### Entry and return -/

theorem userCode_iff (code : BitVec 16) :
    userCode code = true ↔ code &&& 0xFF00 = cNarrowRange ∨ code &&& 0xFF00 = cGeomNonfinite ∨ code &&& 0xFF00 = cSoftTrap := by
  simp only [userCode, Bool.or_eq_true, beq_iff_eq, or_assoc]

/-- A trapped thread has its trap registers written; its handler has taken over, or nothing else has changed. -/
theorem takeTrap_thr (s : State) (c : Nat) {sl : Nat} (code : BitVec 16) (info addr pc : Word) (hsl : sl < 16) :
    (s.takeTrap c sl code info addr pc false 0).thr c sl = trapRegisters code info pc (s.thr c sl) ∨
    ∃ entry, (s.takeTrap c sl code info addr pc false 0).thr c sl = handlerEntered entry (trapRegisters code info pc (s.thr c sl)) := by
  rw [takeTrap_delivers]
  split
  next entry _ =>
    refine .inr ⟨entry, ?_⟩
    rw [State.thr_modThr _ _ _ hsl, State.offerFault, (DebugOnly.offer _ _ _).thr, trapWritten_thr _ _ _ _ _ hsl]
  next =>
    refine .inl ?_
    rw [actByGrade_thr, record_thr, trapWritten_thr _ _ _ _ _ hsl]

theorem takeTrap_mem (s : State) (c sl : Nat) (code : BitVec 16) (info addr pc : Word) :
    (s.takeTrap c sl code info addr pc false 0).mem = s.mem := by
  rw [takeTrap_delivers]
  split
  · rw [State.modThr_mem, State.offerFault, (DebugOnly.offer _ _ _).mem, trapWritten_mem]
  · rw [actByGrade_mem, record_mem, trapWritten_mem]

/-- Settles O57: a trap is written into its thread's registers, and delivered to the handler or to the supervisor. -/
theorem exceptionEntry : Obligations.ExceptionEntry := by
  unfold Obligations.ExceptionEntry
  intro s c sl code info addr pc hsl t old new
  have hthr := takeTrap_thr s c code info addr pc hsl
  refine ⟨?_, ?_, ?_, ?_, ?_⟩
  · have hregs : new.tpc = pc &&& 0xFFFFFFFF#64 ∧ new.tinfo = info ∧ new.tcause = causeWord code false old.handler 0 := by
      rcases hthr with h | ⟨entry, h⟩ <;> exact ⟨congrArg Thread.tpc h, congrArg Thread.tinfo h, congrArg Thread.tcause h⟩
    obtain ⟨htpc, htinfo, hcause⟩ := hregs
    rw [hcause]
    exact ⟨htpc, htinfo, causeWord_code .., causeWord_nested .., causeWord_late .., causeWord_issued ..⟩
  · have hmem : t.mem = s.mem := takeTrap_mem ..
    rcases hthr with h | ⟨entry, h⟩ <;>
      · rw [show new = _ from h]
        exact ⟨rfl, rfl, rfl, rfl, rfl, hmem⟩
  · intro entry hcode hrun hentry
    have ht : t = _ := takeTrap_enters s c code info addr pc sl ((userCode_iff code).mpr hcode) hrun hentry
    have hnew : new = handlerEntered entry (trapRegisters code info pc old) := by
      rw [show new = t.thr c sl from rfl, ht, State.thr_modThr _ _ _ hsl, State.offerFault, (DebugOnly.offer _ _ _).thr,
        trapWritten_thr _ _ _ _ _ hsl]
    rw [hnew, ht, State.modThr_log, State.offerFault, (DebugOnly.offer _ _ _).log, trapWritten_log]
    exact ⟨rfl, rfl, iepSuspend_valid _, iepSuspend_held _, rfl⟩
  · intro h
    have ht : t = _ := takeTrap_supervised s c code info addr pc sl (.inr h)
    have hnew : new = trapRegisters code info pc old := by
      rw [show new = t.thr c sl from rfl, ht, actByGrade_thr, record_thr, trapWritten_thr _ _ _ _ _ hsl]
    rw [hnew, ht, actByGrade_logCount, record_logCount, trapWritten_logCount]
    exact ⟨rfl, rfl⟩
  · intro r x hnested hr hx hlow hhigh hstate
    have ht : t = _ := takeTrap_supervised s c code info addr pc sl (.inr (.inl hnested))
    rw [ht]
    exact actByGrade_ends (by rw [record_ridge, trapWritten_ridge, hr]) (by rw [record_ridges, trapWritten_ridges, hx]) hlow hhigh hstate

end Sys2Proof.Laws
end

section
/-! SUPPORT. What a debug stop and an issue leave of a thread, and the return from the user trap handler (18 R380-R382; 19 R401, R402). -/

namespace Sys2Proof.Laws
open Sys2Proof.Machine

/-! ### A debug stop (19 R401, R402) -/

/-- Nothing of a thread differs but what a debug stop and the withdrawal of a SPAWN set. -/
def HeldOnly (t u : Thread) : Prop := ∃ life stopped stepping dirWait skipAt claiming ebrk, u = { t with
  life := life, stopped := stopped, stepping := stepping, dirWait := dirWait, skipAt := skipAt, claiming := claiming, ebrk := ebrk }

theorem HeldOnly.refl (t : Thread) : HeldOnly t t := ⟨_, _, _, _, _, _, _, rfl⟩

theorem HeldOnly.trans {t u v : Thread} (h : HeldOnly t u) (h' : HeldOnly u v) : HeldOnly t v := by
  obtain ⟨_, _, _, _, _, _, _, rfl⟩ := h
  obtain ⟨_, _, _, _, _, _, _, rfl⟩ := h'
  exact ⟨_, _, _, _, _, _, _, rfl⟩

/-- A core has no slot beyond its sixteen. -/
theorem thr_modThr_beyond (s : State) (c : Nat) {sl : Nat} (f : Thread → Thread) (h : 16 ≤ sl) : (s.modThr c sl f).thr c sl = s.thr c sl := by
  have hnone : ∀ k : Core, k.thread sl = Thread.reset := fun k => by
    rw [Core.thread, Vector.getElem?_eq_none h, Option.getD_none]
  rw [State.thr, State.thr, hnone, hnone]

/-- No memory differs, and of the threads only what a debug stop sets. -/
structure StopOnly (s t : State) : Prop where
  mem : t.mem = s.mem
  thr : ∀ d i, HeldOnly (s.thr d i) (t.thr d i)

namespace StopOnly

theorem refl (s : State) : StopOnly s s := ⟨rfl, fun _ _ => .refl _⟩

theorem trans {s t u : State} (h : StopOnly s t) (h' : StopOnly t u) : StopOnly s u :=
  ⟨h'.mem.trans h.mem, fun d i => (h.thr d i).trans (h'.thr d i)⟩

theorem of_debugOnly {s t : State} (h : DebugOnly s t) : StopOnly s t := ⟨h.mem, fun d i => h.thr d i ▸ .refl _⟩

theorem foldl {α : Type} {f : State → α → State} (hf : ∀ s a, StopOnly s (f s a)) (s : State) (xs : List α) : StopOnly s (xs.foldl f s) :=
  List.foldlRecOn xs f (.refl s) fun t ht a _ => ht.trans (hf t a)

theorem modCore (s : State) (c : Nat) {f : Core → Core} (hf : ∀ k, (f k).threads = k.threads) : StopOnly s (s.modCore c f) :=
  ⟨rfl, fun d i => State.thr_modCore s c d i f hf ▸ .refl _⟩

theorem modThr (s : State) (c sl : Nat) {f : Thread → Thread} (hf : ∀ t, HeldOnly t (f t)) : StopOnly s (s.modThr c sl f) := by
  refine ⟨rfl, fun d i => ?_⟩
  by_cases hd : d = c
  · subst hd
    by_cases hi : i = sl
    · subst hi
      by_cases hsl : i < 16
      · rw [State.thr_modThr _ _ _ hsl]
        exact hf _
      · exact thr_modThr_beyond s d f (Nat.not_lt.mp hsl) ▸ .refl _
    · exact State.thr_modThr_slot s d f hi ▸ .refl _
  · exact State.thr_modThr_core s sl i f hd ▸ .refl _

theorem dropClaims (s : State) (c sl : Nat) : StopOnly s (s.modCore c fun k => k.dropClaims sl) := modCore s c fun _ => rfl

theorem setPair (s : State) (c i : Nat) (p : Pair) : StopOnly s (s.setPair c i p) := modCore s c fun _ => rfl

theorem unhold (s : State) (c member : Nat) : StopOnly s (s.unhold c member) := by
  refine foldl (fun s x => modThr s c x fun t => ?_) s _
  split
  · exact ⟨_, _, _, _, _, _, _, rfl⟩
  · exact .refl t

theorem unclaim (s : State) (c sl : Nat) : StopOnly s (s.unclaim c sl) := by
  unfold State.unclaim
  split
  · exact refl s
  next far member st _ =>
    have hgone : StopOnly s (s.modThr c sl fun t => { t with claiming := none }) := modThr s c sl fun t => ⟨_, _, _, _, _, _, _, rfl⟩
    dsimp only
    split
    · exact hgone.trans (unhold _ far member)
    · exact hgone

theorem debugStop (s : State) (c sl cause n : Nat) : StopOnly s (s.debugStop c sl cause n) := by
  unfold State.debugStop
  dsimp only
  refine .trans (.trans ?_ (foldl (fun s x => ?_) _ _)) (of_debugOnly (DebugOnly.trace ..))
  · split
    · exact setPair ..
    · exact refl s
  · exact ((unclaim s c x).trans (dropClaims _ c x)).trans (modThr _ c x fun t => ⟨_, _, _, _, _, _, _, rfl⟩)

theorem stepped (s : State) (c sl : Nat) : StopOnly s (s.stepped c sl) := by
  unfold State.stepped
  split
  · exact (modThr s c sl fun t => ⟨_, _, _, _, _, _, _, rfl⟩).trans (debugStop ..)
  split
  · exact debugStop ..
  · exact refl s

theorem stepPair (s : State) (c sl : Nat) : StopOnly s (s.stepPair c sl) := by
  unfold State.stepPair
  split
  · exact setPair ..
  · exact refl s

theorem account (s : State) (c sl : Nat) (cl : Machine.Class) : StopOnly s (s.account c sl cl) := modCore s c fun _ => rfl

/-- What follows the bookkeeping of an issue: the count of its pair, a stop behind it, and the account. -/
theorem passed (s : State) (c sl : Nat) : StopOnly s (((s.stepPair c sl).stepped c sl).account c sl .issued) :=
  ((stepPair s c sl).trans (stepped _ c sl)).trans (account _ c sl .issued)

end StopOnly

/-! ### An issue (02 R26; 18 R383) -/

section
variable (s : State) (c sl : Nat) (before : List Nat) (ends : Bool) (next : Word)

theorem issued_mem : (s.issued c sl before ends next).mem = s.mem := (StopOnly.passed ..).mem.trans (DebugOnly.trace ..).mem

/-- An issued thread is counted and goes on at the next PC, and may be stopped there. -/
theorem issued_thr {sl : Nat} (hsl : sl < 16) :
    HeldOnly { (s.thr c sl).counted before ends with pc := next } ((s.issued c sl before ends next).thr c sl) := by
  have h : HeldOnly _ ((s.issued c sl before ends next).thr c sl) := (StopOnly.passed _ c sl).thr c sl
  rwa [State.thr_modThr _ _ _ hsl, (DebugOnly.trace ..).thr] at h

end

/-! ### FENCE, TRAP, TRET, IDEM, EBRK (16 R332, R333; 18 R378-R382) -/

section
variable {s s1 : State}

/-- The operand form of TRET and IDEM. -/
def regionForm : Form := { srcs := [], dsts := [], ordering := true, slots := 0x8FFF }

theorem execFence_issues {b : BitVec 6} (hopen : Opens s { srcs := [], dsts := [], ordering := true, fence := true } s1 [])
    (hdone : s1.writesDone s.curCore s.curSlot b.toNat = true) :
    exec (.fence b) s = .next (issuedFrom s { srcs := [], dsts := [], ordering := true, fence := true } s1 ((me s).pc + 4)) :=
  issued_of_ret (next := none) hopen (if_pos hdone)

theorem execFence_waits {b : BitVec 6} (hopen : Opens s { srcs := [], dsts := [], ordering := true, fence := true } s1 [])
    (hdone : s1.writesDone s.curCore s.curSlot b.toNat = false) : exec (.fence b) s = .next (s.parked s.curCore s.curSlot .stall) :=
  parked_of_park hopen (if_neg (Bool.eq_false_iff.mp hdone))

theorem execTrap_traps {a : BitVec 6} {x : Val} (hopen : Opens s { srcs := [.g a], dsts := [], ordering := true, slots := 0x8FFF } s1 [x]) :
    exec (.trap a) s = .next (s.trappedAt s.curCore s.curSlot (det cSoftTrap x.w.toNat) x.w 0 ((me s).pc + 4)) := by
  have h : exec (.trap a) s = .next (s.perform s.curCore s.curSlot { srcs := [.g a], dsts := [], ordering := true, slots := 0x8FFF }
    (.trapAfter (det cSoftTrap x.w.toNat) x.w)) := step_answers hopen rfl
  exact h

variable (hopen : Opens s regionForm s1 [])
include hopen

theorem execTret_returns (h : (s1.thr s.curCore s.curSlot).handler = true) : exec .tret s =
    .next (issuedFrom s regionForm (s1.trapReturn s.curCore s.curSlot) (s1.thr s.curCore s.curSlot).returnPc) :=
  issued_of_ret (next := some _) hopen (if_pos h)

theorem execTret_outside (h : (s1.thr s.curCore s.curSlot).handler = false) :
    exec .tret s = .next (s.trapped s.curCore s.curSlot (det cIllegalInstruction 8) 0 0) :=
  trapped_of_trap hopen (if_neg (Bool.eq_false_iff.mp h))

theorem execIdem_opens (h : (s1.thr s.curCore s.curSlot).handler = false) : exec .idem s =
    .next (issuedFrom s regionForm (s1.modThr s.curCore s.curSlot fun t => { t with
      iep := (t.iep &&& 0x400000000#64) ||| 0x100000000#64 ||| ((t.pc + 4) &&& 0xFFFFFFFF#64) }) ((me s).pc + 4)) :=
  issued_of_ret (next := none) hopen (if_neg (Bool.eq_false_iff.mp h))

theorem execIdem_inside (h : (s1.thr s.curCore s.curSlot).handler = true) :
    exec .idem s = .next (s.trapped s.curCore s.curSlot (det cIllegalInstruction 8) 0 0) :=
  trapped_of_trap hopen (if_pos h)

end

/-- EBRK leaves its thread to be stopped behind it where a comparator is armed or the debug block asks for it (R381). -/
theorem execEbrk_completes {s s1 : State} (hopen : Opens s { srcs := [], dsts := [], ordering := true, slots := 0xAFFF } s1 []) :
    let d := (s1.core s.curCore).dbg
    exec .ebrk s = .next (issuedFrom s { srcs := [], dsts := [], ordering := true, slots := 0xAFFF }
      (if ((d.armed || d.dbgctl.getLsbD 0) && s.curSlot != 13 && !s1.isTrailing s.curCore s.curSlot) = true
        then s1.modThr s.curCore s.curSlot fun t => { t with ebrk := true } else s1) ((me s).pc + 4)) := by
  intro d
  refine issued_of_ret (next := none) hopen ?_
  dsimp only
  split <;> rfl

/-- Settles O21: each instruction issues, parks or traps by the one condition its body looks at. -/
theorem systemInstructions : Obligations.SystemInstructions := by
  unfold Obligations.SystemInstructions
  refine ⟨⟨fun b s s1 hopen => ⟨execFence_issues hopen, execFence_waits hopen⟩, fun b s s1 hopen => issued_of_ret (next := none) hopen rfl⟩,
    ?_, ?_, ?_⟩
  · intro a s s1 x f hopen
    exact execTrap_traps hopen
  · intro s s1 f t hopen
    exact ⟨execTret_returns hopen, execTret_outside hopen, execIdem_opens hopen, execIdem_inside hopen⟩
  · intro s s1 f d stops hopen
    exact execEbrk_completes hopen

/-- The thread that a TRET leaves: out of its handler, at the PC of its trap, its region as it was before (R380, R382). -/
theorem tret_thr {s s1 : State} (hsl : s.curSlot < 16) :
    let old := s1.thr s.curCore s.curSlot
    let t := issuedFrom s regionForm (s1.trapReturn s.curCore s.curSlot) old.returnPc
    HeldOnly { ({ old with handler := false, iep := iepRestore old.iep } : Thread).counted ((me s).pend.map (·.id)) false with pc := old.returnPc }
      (t.thr s.curCore s.curSlot) := by
  intro old t
  have h := issued_thr (s1.trapReturn s.curCore s.curSlot) s.curCore ((me s).pend.map (·.id)) false old.returnPc hsl
  rwa [State.trapReturn, State.thr_modThr _ _ _ hsl] at h

/-- Settles O58: outside a handler TRET traps, and in one it issues with the handler's state cleared. -/
theorem exceptionReturn : Obligations.ExceptionReturn := by
  unfold Obligations.ExceptionReturn
  intro s s1 hopen hsl c sl old
  refine ⟨execTret_outside hopen, fun h => ⟨_, execTret_returns hopen h, ?_⟩⟩
  obtain ⟨_, _, _, _, _, _, _, ht⟩ := tret_thr (s := s) (s1 := s1) hsl
  rw [ht]
  exact ⟨rfl, rfl, iepRestore_valid _, iepRestore_held _, rfl, rfl, issued_mem ..⟩

end Sys2Proof.Laws
end

section
/-! SUPPORT. The step: what each turn comes to, and the word that a thread fetches (17 R338-R340; log 2). -/

namespace Sys2Proof.Laws
open Sys2Proof.Machine

section
variable {s : State}

theorem step_event {i : Instr} {rest : List Instr} (h : s.agenda = i :: rest) (hi : i.isEvent = true) :
    step s = exec i { s with agenda := rest } := by
  simp only [step, h, hi, if_true]

theorem step_badAgenda {i : Instr} {rest : List Instr} (h : s.agenda = i :: rest) (hi : i.isEvent = false) : step s = .fault .badAgenda := by
  simp only [step, h, hi, Bool.false_eq_true, if_false]

variable (hagenda : s.agenda = [])
include hagenda

theorem step_tick (h : s.due = []) : step s = .next s.tick := by
  simp only [step, hagenda, h]

variable {c : Nat} {rest : List Nat} (hdue : s.due = c :: rest)
include hdue

theorem step_rest (h : s.opened = true) : step s = .next { (s.coreEvents c).cycleEnd c with due := rest, opened := false } := by
  simp only [step, hagenda, hdue, h, if_true]

theorem step_turn {i : Instr} {s1 : State} (h : s.opened = false) (hturn : s.turn = .run i s1) :
    step s = exec i { s1 with opened := true } := by
  simp only [step, hagenda, hdue, h, hturn, Bool.false_eq_true, if_false]

end

/-- The thread of a slot may issue: none of what takes its opportunity away holds (17 R339, R350; 19 R401). -/
structure MayRun (s : State) (c sl : Nat) : Prop where
  notScheduler : sl ≠ 12
  notMover : sl ≠ 14
  live : (s.thr c sl).life = .live
  in' : (s.thr c sl).removed = false
  noReplay : (s.thr c sl).replayNext = false
  free : s.held c sl = false
  awake : (s.thr c sl).wakeAt ≤ s.now c
  may : s.mayIssue c sl = true

theorem slotTurn_fetches {s : State} {c sl : Nat} (h : MayRun s c sl) : s.slotTurn c sl = s.fetchTurn c sl := by
  simp only [State.slotTurn, h.notScheduler, h.notMover, h.live, h.in', h.noReplay, h.free, h.may, Nat.not_lt.mpr h.awake, ne_eq,
    not_true_eq_false, Bool.false_eq_true, Bool.true_eq_false, false_and, or_false, if_false]

/-- The instruction that a word runs as: what it decodes to, or a non-instruction (02 R22). -/
def runsAs (w : BitVec 32) : Instr := match decode w with | .ok i => i | .error _ => .nonInstruction w

/-- The state in which a thread has fetched a word. -/
def fetched (s : State) (c sl : Nat) (w : BitVec 32) : State := s.modThr c sl fun t => { t with word := w }

/-- A word that the thread fetches runs (17 R340). -/
theorem fetchTurn_word {s s2 : State} {c sl : Nat} {w : BitVec 32} (hpc : s.pcHits c sl = (s2, none)) (htiming : s2.persists c sl = false)
    (hin : (s2.thr c sl).pc.toNat < s2.codeSize c) (hword : (s2.core c).fetchWord (s2.thr c sl).pc = .word w) :
    s.fetchTurn c sl = .run (runsAs w) (fetched s2 c sl w) := by
  simp only [State.fetchTurn, hpc, htiming, Nat.not_le.mpr hin, hword, Bool.false_eq_true, if_false, runsAs, fetched]
  cases decode w <;> rfl

/-- Settles O51: a step is the head of the agenda, an opportunity, the rest of a cycle or a tick, and an opportunity of a thread that may
issue runs the word at its PC. -/
theorem stepRunsDecoded : Obligations.StepRunsDecoded := by
  unfold Obligations.StepRunsDecoded
  intro s
  refine ⟨fun i rest => step_event, fun i rest => step_badAgenda, step_tick, fun c rest hagenda hdue => ⟨step_rest hagenda hdue, ?_⟩⟩
  intro w s2 s1 sl t hopened h12 h14 hlive hin hreplay hheld hwake hmay hpc htiming hsize hword s3
  have hcore : s.curCore = c := by rw [State.curCore, hdue, List.headD_cons]
  have hturn : s.turn = .run (runsAs w) (fetched s2 c sl w) := by
    rw [State.turn, hcore]
    exact (slotTurn_fetches ⟨h12, h14, hlive, hin, hreplay, hheld, hwake, hmay⟩).trans (fetchTurn_word hpc htiming hsize hword)
  have hstep := step_turn hagenda hdue hopened hturn
  exact ⟨fun i hi => by rwa [runsAs, hi] at hstep, fun r hr => by rwa [runsAs, hr] at hstep⟩

end Sys2Proof.Laws
end

section
/-! SUPPORT. Barriers: what each instruction's body answers once its barrier passes the checks, and what a report and a release do (17
R366-R369). -/

namespace Sys2Proof.Laws
open Sys2Proof.Machine

/-- After the checks of R367 a barrier instruction goes on with the number of its barrier. -/
theorem barrierBody_goes {s : State} {c sl : Nat} {x : Val} {xs : List Val} (f : State → Nat → Nat → Nat → List Val → Act)
    (h : s.barrierCheck c x.w = none) : barrierBody f s c sl (x :: xs) = f s c sl x.w.toNat (x :: xs) := by
  simp only [barrierBody, arg_zero, h]

/-! ### Instructions (R367-R369) -/

section
variable {d a b : BitVec 6} {l : BitVec 4} {s s1 : State} {x y : Val} (hcheck : s1.barrierCheck s.curCore x.w = none)
include hcheck

/-- The operand form of BARARR. -/
def arriveForm (d a b : BitVec 6) (l : BitVec 4) : Form :=
  { fR d a with la := some l, ordering := true, ends := true, takes := true, gives := true, slots := if b = 0 then 0x8FFF else 0x0FFF }

theorem execBararr_arrives (hopen : Opens s (arriveForm d a b l) s1 [x])
    (hform : ((s1.core s.curCore).barrier x.w.toNat).form = 0 ∨ ((s1.core s.curCore).barrier x.w.toNat).form = formOf b)
    (hrel : s1.releaseReady s.curCore s.curSlot (if b.toNat < 4 then 2 else 4) = true) :
    Pends s (arriveForm d a b l) (s1.arrive s.curCore x.w.toNat (formOf b))
      (.bar (((s1.core s.curCore).barrier x.w.toNat).gen.setWidth 64)) (s1.now s.curCore + 2) (exec (.bararr d a b l) s) := by
  refine pends_of_pend hopen ((barrierBody_goes _ hcheck).trans ?_)
  have hok : ¬(((s1.core s.curCore).barrier x.w.toNat).form ≠ 0 ∧ ((s1.core s.curCore).barrier x.w.toNat).form ≠ formOf b) := by
    tauto
  simp only [hok, hrel, Bool.not_true, Bool.false_eq_true, if_false]

theorem execBararr_other (hopen : Opens s (arriveForm d a b l) s1 [x]) (hused : ((s1.core s.curCore).barrier x.w.toNat).form ≠ 0)
    (hform : ((s1.core s.curCore).barrier x.w.toNat).form ≠ formOf b) :
    exec (.bararr d a b l) s = .next (s.trapped s.curCore s.curSlot (det cBarrierForm 1) 0 0) :=
  trapped_of_trap hopen ((barrierBody_goes _ hcheck).trans (if_pos ⟨hused, hform⟩))

theorem execBarwait_pends (hopen : Opens s { srcs := [.g a, .g b], dsts := [], la := some l, takes := true, slots := 0x9FFF } s1 [x, y]) :
    Pends s { srcs := [.g a, .g b], dsts := [], la := some l, takes := true, slots := 0x9FFF } s1 (.barwait x.w.toNat y.w) (s1.now s.curCore)
      (exec (.barwait a b l) s) :=
  pends_of_pend hopen (barrierBody_goes _ hcheck)

theorem execBarbytes_adds (hopen : Opens s { srcs := [.g a, .g b], dsts := [], la := some l, gives := true, slots := 0x9FFF } s1 [x, y]) :
    Pends s { srcs := [.g a, .g b], dsts := [], la := some l, gives := true, slots := 0x9FFF } (s1.addBytes s.curCore x.w.toNat y.w) (.bar 0)
      (s1.now s.curCore + 2) (exec (.barbytes a b l) s) :=
  pends_of_pend hopen (barrierBody_goes _ hcheck)

variable (hopen : Opens s { fRR d a b with la := some l, takes := true, slots := 0x9FFF } s1 [x, y])
include hopen

theorem execBarqry_samples (hsel : y.w.toNat < 2) :
    Pends s { fRR d a b with la := some l, takes := true, slots := 0x9FFF } s1
      (.bar (if y.w = 1 then ((s1.core s.curCore).barrier x.w.toNat).pending else ((s1.core s.curCore).barrier x.w.toNat).word))
      (s1.now s.curCore + 2) (exec (.barqry d a b l) s) :=
  pends_of_pend hopen ((barrierBody_goes _ hcheck).trans (if_neg (Nat.not_le.mpr hsel)))

theorem execBarqry_reserved (hsel : 2 ≤ y.w.toNat) :
    exec (.barqry d a b l) s = .next (s.trapped s.curCore s.curSlot (det cBarrierForm 2) 0 0) :=
  trapped_of_trap hopen ((barrierBody_goes _ hcheck).trans (if_pos hsel))

end

/-! ### Completion (R368) -/

theorem execBarrierInstructionCompletion_result {c sl id : Nat} {p : Pend} {w : Word} {s : State} (hdue : DuePend s c sl id p) (hk : p.kind = .bar w) :
    exec (.barrierInstructionCompletion c sl id) s = .next (s.finish c sl p [Val.of w]) :=
  congrArg _ ((onPend_due hdue _).trans (by simp only [hk]))

theorem execBarrierInstructionCompletion_wait {c sl id n : Nat} {p : Pend} {w : Word} {s : State} (hdue : DuePend s c sl id p)
    (hk : p.kind = .barwait n w) : exec (.barrierInstructionCompletion c sl id) s =
      .next (if ((s.core c).barrier n).gen != w.setWidth 32 then s.finish c sl p [] else s) :=
  congrArg _ ((onPend_due hdue _).trans (by simp only [hk]))

/-! ### Reports and releases (R366) -/

theorem execBarrierReport_reaches {id n : Nat} {m : Msg} {s : State} (hm : s.arrived? id = some m) (hk : m.kind = .barReport n) :
    let s1 := (s.dropMsg id).traceIn m.home m
    let b := (s1.core m.home).barrier n
    exec (.barrierReport id) s = .next (if b.reports + 1 < (s1.ridgeCores m.home).length then s1.setBarrier m.home n { b with reports := b.reports + 1 }
      else (s1.ridgeCores m.home).foldl (fun (s : State) (c : Nat) => s.send (.barRelease n) m.home 12 0 c 0 0 0)
        (s1.setBarrier m.home n { b with reports := 0 })) := by
  intro s1 b
  show execBarrierReport id s = _
  simp only [execBarrierReport, hm, hk]
  rfl

theorem execBarrierRelease_completes {id n : Nat} {m : Msg} {s : State} (hm : s.arrived? id = some m) (hk : m.kind = .barRelease n) :
    let s1 := (s.dropMsg id).traceIn m.home m
    exec (.barrierRelease id) s = .next ((s1.setBarrier m.home n ((s1.core m.home).barrier n).next).settle m.home n) := by
  intro s1
  show execBarrierRelease id s = _
  simp only [execBarrierRelease, hm, hk, s1]

/-- Settles O22: each instruction past its checks has one answer, a report is the last or is not, and a release completes. -/
theorem barriers : Obligations.Barriers := by
  unfold Obligations.Barriers
  refine ⟨⟨?_, ?_, ?_, ?_, ?_, ?_⟩, ?_, ?_, fun b => ⟨rfl, rfl, rfl, rfl, rfl, rfl⟩⟩
  · intro d a b l s s1 x f k form hopen hcheck
    exact ⟨execBararr_arrives hcheck hopen, execBararr_other hcheck hopen⟩
  · intro a b l s s1 x y f hopen hcheck
    exact execBarwait_pends hcheck hopen
  · intro a b l s s1 x y f hopen hcheck
    exact execBarbytes_adds hcheck hopen
  · intro d a b l s s1 x y f k hopen hcheck
    refine ⟨fun hy => ?_, fun hy => ?_, execBarqry_reserved hcheck hopen⟩
    · have h := execBarqry_samples hcheck hopen (by rw [hy]; decide)
      rwa [hy] at h
    · have h := execBarqry_samples hcheck hopen (by rw [hy]; decide)
      rwa [hy] at h
  · intro c sl id p w s hdue hk
    exact execBarrierInstructionCompletion_result hdue hk
  · intro c sl id p n w s hdue hk
    have h := execBarrierInstructionCompletion_wait hdue hk
    exact ⟨fun hne => h.trans (by rw [if_pos (bne_iff_ne.mpr hne)]), fun heq => h.trans (by rw [if_neg (by simp [heq])])⟩
  · intro id m n s hm hk s1 b cores
    have h := execBarrierReport_reaches hm hk
    exact ⟨fun hmore => h.trans (congrArg _ (if_pos hmore)), fun hlast => h.trans (congrArg _ (if_neg (Nat.not_lt.mpr hlast)))⟩
  · intro id m n s hm hk
    exact execBarrierRelease_completes hm hk

end Sys2Proof.Laws
end

section
/-! SUPPORT. Remote instructions: what each body answers once its attempt opens and its checks pass (14 R277-R290). -/

namespace Sys2Proof.Laws
open Sys2Proof.Machine

/-! ### RGET, RPUT, RATOM (R280-R282) -/

section
variable {dst src : Opnd} {d a b : BitVec 6} {l : BitVec 4} {n : Nat} {s s1 : State} {x y : Val}

/-- The operand form of RGET. -/
def rgetForm (dst : Opnd) (a : BitVec 6) (l : BitVec 4) : Form :=
  { srcs := [.g a], dsts := [dst], la := some l, takes := true, slots := 0x9FFF, inHandler := false }

theorem rget_sends {sg : Bool} (hopen : Opens s (rgetForm dst a l) s1 [x]) (hcheck : s1.accessCheck s.curCore x.w n = none)
    (hroom : s1.hostFull s.curCore x.w = false) :
    Pends s (rgetForm dst a l) (s1.sendTo (.rget n) s.curCore s.curSlot x.w) (.remote n sg) (s1.now s.curCore) (rget dst a l n sg s) := by
  refine pends_of_pend hopen ?_
  simp only [arg_zero, hcheck, hroom, Bool.false_eq_true, if_false]

theorem rget_full {sg : Bool} (hopen : Opens s (rgetForm dst a l) s1 [x]) (hcheck : s1.accessCheck s.curCore x.w n = none)
    (hroom : s1.hostFull s.curCore x.w = true) : rget dst a l n sg s = .next (s.parked s.curCore s.curSlot .message) := by
  refine parked_of_park hopen ?_
  simp only [arg_zero, hcheck, hroom, if_true]

theorem rget_fault {sg : Bool} {code : BitVec 16} (hopen : Opens s (rgetForm dst a l) s1 [x])
    (hcheck : s1.accessCheck s.curCore x.w n = some code) : rget dst a l n sg s = .next (s.trapped s.curCore s.curSlot code x.w x.w) := by
  refine trapped_of_trap hopen ?_
  simp only [arg_zero, hcheck, faultAt]

/-- The operand form of RPUT. -/
def rputForm (src : Opnd) (a : BitVec 6) (l : BitVec 4) : Form :=
  { srcs := [.g a, src], dsts := [], la := some l, gives := true, slots := 0x9FFF, inHandler := false }

theorem rput_sends (hopen : Opens s (rputForm src a l) s1 [x, y]) (hcheck : s1.accessCheck s.curCore x.w n = none) :
    Pends s (rputForm src a l) (s1.sendTo (.rput n y.x false) s.curCore s.curSlot x.w) (.remote 0 false) (s1.now s.curCore)
      (rput src a l n s) := by
  refine pends_of_pend hopen ?_
  simp only [arg_zero, hcheck]
  rfl

theorem rput_fault {code : BitVec 16} (hopen : Opens s (rputForm src a l) s1 [x, y])
    (hcheck : s1.accessCheck s.curCore x.w n = some code) : rput src a l n s = .next (s.trapped s.curCore s.curSlot code x.w x.w) := by
  refine trapped_of_trap hopen ?_
  simp only [arg_zero, hcheck, faultAt]

end

section
variable {d a b : BitVec 6} {l : BitVec 4} {o : BitVec 3} {s s1 : State} {xs : List Val}

/-- The operand form of RATOM. -/
def ratomForm (d a b : BitVec 6) (l : BitVec 4) (o : BitVec 3) : Form :=
  { srcs := if atomOf o == .cas then [.g a, .g b, .g (b + 1)] else [.g a, .g b], dsts := [.g d], la := some l, ends := true, takes := true,
    gives := true, slots := 0x9FFF, inHandler := false }

/-- The host takes only add and compare-and-swap (20 R418). -/
def hostRefuses (o : BitVec 3) (ga : Word) : Bool := gaDev ga == 2047 && atomOf o != .add && atomOf o != .cas

theorem hostRefuses_eq_false {ga : Word} (h : gaDev ga ≠ 2047 ∨ atomOf o = .add ∨ atomOf o = .cas) : hostRefuses o ga = false := by
  rcases h with h | h | h <;> simp [hostRefuses, h]

theorem hostRefuses_eq_true {ga : Word} (h : gaDev ga = 2047) (hadd : atomOf o ≠ .add) (hcas : atomOf o ≠ .cas) :
    hostRefuses o ga = true := by
  simp [hostRefuses, h, hadd, hcas]

variable (hopen : Opens s (ratomForm d a b l o) s1 xs) (hcheck : s1.accessCheck s.curCore (arg xs 0) 8 = none)
include hopen hcheck

theorem execRatom_refused (href : hostRefuses o (arg xs 0) = true) :
    exec (.ratom d a b l o) s = .next (s.trapped s.curCore s.curSlot (det cRemoteTarget 3) (arg xs 0) (arg xs 0)) := by
  refine trapped_of_trap hopen ?_
  rw [hostRefuses] at href
  simp only [hcheck, href, if_true, faultAt]

variable (hok : hostRefuses o (arg xs 0) = false)
include hok

theorem execRatom_sends (hroom : s1.hostFull s.curCore (arg xs 0) = false) :
    Pends s (ratomForm d a b l o) (s1.sendTo (.ratom (atomOf o) (arg xs 1) (arg xs 2)) s.curCore s.curSlot (arg xs 0)) .ratom
      (s1.now s.curCore) (exec (.ratom d a b l o) s) := by
  refine pends_of_pend hopen ?_
  rw [hostRefuses] at hok
  simp only [hcheck, hok, hroom, Bool.false_eq_true, if_false]

theorem execRatom_full (hroom : s1.hostFull s.curCore (arg xs 0) = true) :
    exec (.ratom d a b l o) s = .next (s.parked s.curCore s.curSlot .message) := by
  refine parked_of_park hopen ?_
  rw [hostRefuses] at hok
  simp only [hcheck, hok, hroom, Bool.false_eq_true, if_false, if_true]

end

/-! ### AMSEND, MSEND (R283, R288) -/

section
variable {d a b : BitVec 6} {l : BitVec 4} {p : BitVec 2} {s s1 : State} {x y z : Val} (hcheck : s1.sendCheck s.curCore x.w = none)
  (hrel : s1.releaseReady s.curCore s.curSlot (s1.scopeTo s.curCore x.w) = true)
include hcheck hrel

/-- The operand form of AMSEND. -/
def amsendForm (d a b : BitVec 6) (l : BitVec 4) : Form :=
  { srcs := [.g a, .g b, .g (b + 1)], dsts := [.g d], la := some l, ends := true, takes := true, gives := true, slots := 0x9FFF,
    inHandler := false }

theorem execAmsend_sends (hopen : Opens s (amsendForm d a b l) s1 [x, y, z]) (hindex : z.w.toNat < 256) :
    Pends s (amsendForm d a b l) (s1.sendTo (.amsend z.w.toNat y.w) s.curCore s.curSlot x.w) (.send false (gaHome x.w) 0) (s1.now s.curCore)
      (exec (.amsend d a b l) s) := by
  refine pends_of_pend hopen ?_
  have hz : (z.w >>> 8 != 0) = false := (ushiftRight_bne_zero z.w 8).trans (decide_eq_false (Nat.not_le.mpr hindex))
  have harg : arg [x, y, z] 2 = z.w := rfl
  simp only [arg_zero, arg_one, harg, hcheck, hz, hrel, Bool.not_true, Bool.false_eq_true, if_false]

/-- The operand form of MSEND. -/
def msendForm (d a b : BitVec 6) (l : BitVec 4) : Form :=
  { srcs := [.g a, .g b, .g d], dsts := [], la := some l, ends := true, gives := true, slots := 0x9FFF, inHandler := false }

theorem execMsend_sends (hopen : Opens s (msendForm d a b l) s1 [x, y, z]) (hoff : gaOff x.w = 0)
    (hfirst : (s1.thr s.curCore s.curSlot).pend.any (fun (q : Pend) => q.kind == .send true (s1.coreKey x.w) p.toNat) = false) :
    Pends s (msendForm d a b l) (s1.sendTo (.msend p.toNat y.w z.w) s.curCore s.curSlot x.w) (.send true (s1.coreKey x.w) p.toNat)
      (s1.now s.curCore) (exec (.msend d a b l p) s) := by
  refine pends_of_pend hopen ?_
  simp only [arg_zero, hcheck, hoff, hfirst, hrel, ne_eq, not_true_eq_false, Bool.not_true, Bool.false_eq_true, if_false]
  rfl

end

/-! ### Mailboxes and AMRET (R286, R289, R290) -/

/-- A selector has four bits (R289, R290). -/
theorem selector_ok {w : Word} (h : w.toNat < 16) : (w >>> 4 != 0) = false :=
  (ushiftRight_bne_zero w 4).trans (decide_eq_false (Nat.not_le.mpr h))

theorem selector_bad {w : Word} (h : 16 ≤ w.toNat) : (w >>> 4 != 0) = true :=
  (ushiftRight_bne_zero w 4).trans (decide_eq_true h)

section
variable {d a : BitVec 6} {l : BitVec 4} {s s1 : State} {x : Val}

/-- The operand form of MRECV. -/
def mrecvForm (d a : BitVec 6) (l : BitVec 4) : Form :=
  { srcs := [.g a], dsts := [.g d, .g (d + 1), .g (d + 2)], la := some l, ends := true, takes := true, slots := 0x9FFF, inHandler := false }

theorem execMrecv_takes {q : Nat} {m : MailMsg} {rest : List MailMsg} (hopen : Opens s (mrecvForm d a l) s1 [x]) (hsel : x.w.toNat < 16)
    (hpick : (s1.core s.curCore).mailPick x.w = some q) (hq : (s1.core s.curCore).mailQ q = m :: rest) :
    Pends s (mrecvForm d a l) (s1.modCore s.curCore fun k => k.mailTake q) (.mrecv m.w0 m.w1 m.sender) (s1.now s.curCore + 2)
      (exec (.mrecv d a l) s) := by
  refine pends_of_pend hopen ?_
  simp only [arg_zero, selector_ok hsel, hpick, hq, Bool.false_eq_true, if_false]

theorem execMrecvCompletion_fills {c sl id : Nat} {p : Pend} {x y z : Word} (hdue : DuePend s c sl id p) (hk : p.kind = .mrecv x y z) :
    exec (.mrecvCompletion c sl id) s = .next (s.finish c sl p [Val.of x, Val.of y, Val.of z]) :=
  congrArg _ ((onPend_due hdue _).trans (by simp only [hk]))

theorem execMprobe_tells (hopen : Opens s { fR d a with takes := true } s1 [x]) (hsel : x.w.toNat < 16) :
    Results s { fR d a with takes := true } s1 [(.g d, Val.of ((s1.core s.curCore).mprobeWord x.w))] (exec (.mprobe d a) s) := by
  refine results_of_ret hopen ?_
  simp only [arg_zero, selector_ok hsel, Bool.false_eq_true, if_false, ret1]

theorem execMprobe_reserved (hopen : Opens s { fR d a with takes := true } s1 [x]) (hsel : 16 ≤ x.w.toNat) :
    exec (.mprobe d a) s = .next (s.trapped s.curCore s.curSlot (det cRemoteForm 5) 0 0) := by
  refine trapped_of_trap hopen ?_
  simp only [arg_zero, selector_bad hsel, if_true, fault0]

theorem execAmret_answers {v : Invocation} {m : Msg} (hopen : Opens s { srcs := [.g a], dsts := [], ordering := true, slots := 0x2000 } s1 [x])
    (hv : (s1.thr s.curCore s.curSlot).invocation = some v)
    (hm : (s1.core s.curCore).inbuf.find? (fun (m : Msg) => m.id == v.msg) = some m)
    (hrel : s1.releaseReady s.curCore s.curSlot (s1.scopeOfMsg s.curCore m) = true) :
    exec (.amret a) s = .next (issuedFrom s { srcs := [.g a], dsts := [], ordering := true, slots := 0x2000 }
      ((s1.setThr s.curCore 13 Thread.reset).answer s.curCore m (x.w.setWidth 512) false) ((me s).pc + 4)) := by
  refine issued_of_ret (next := none) hopen ?_
  simp only [arg_zero, hv, hm, hrel, Bool.not_true, Bool.false_eq_true, if_false]

end

/-- Settles O23: each instruction past its checks sends its message and pends, parks or faults; the mailbox instructions take or tell
what their selector picks. -/
theorem remoteInstructions : Obligations.RemoteInstructions := by
  unfold Obligations.RemoteInstructions
  refine ⟨⟨?_, ?_, ?_, ?_, ?_⟩, ?_, ?_, ?_, ?_⟩
  · intro i dst a l n sg hi s s1 x f hopen
    have hexec : exec i s = rget dst a l n sg s := by
      rcases hi with ⟨d, sz, rfl, rfl, rfl, rfl⟩ | ⟨d, sz, rfl, rfl, rfl, rfl⟩ | ⟨d, rfl, rfl, rfl, rfl⟩ <;> rfl
    rw [hexec]
    exact ⟨fun hcheck => ⟨rget_sends hopen hcheck, rget_full hopen hcheck⟩, fun code => rget_fault hopen⟩
  · intro i src a l n hi s s1 x y f hopen
    have hexec : exec i s = rput src a l n s := by
      rcases hi with ⟨b, sz, rfl, rfl, rfl⟩ | ⟨b, rfl, rfl, rfl⟩ <;> rfl
    rw [hexec]
    exact ⟨rput_sends hopen, fun code => rput_fault hopen⟩
  · intro d a b l o s s1 xs f hopen hcheck
    exact ⟨fun hok => ⟨execRatom_sends hopen hcheck (hostRefuses_eq_false hok), execRatom_full hopen hcheck (hostRefuses_eq_false hok)⟩,
      fun hdev hadd hcas => execRatom_refused hopen hcheck (hostRefuses_eq_true hdev hadd hcas)⟩
  · intro d a b l s s1 x y z f hopen hcheck hindex hrel
    exact execAmsend_sends hcheck hrel hopen hindex
  · intro d a b l p s s1 x y z f kind hopen hcheck hoff hfirst hrel
    exact execMsend_sends hcheck hrel hopen hoff hfirst
  · intro d a l s s1 x q m rest f hopen hsel hpick hq
    exact execMrecv_takes hopen hsel hpick hq
  · intro c sl id p x y z s hdue hk
    exact execMrecvCompletion_fills hdue hk
  · intro d a s s1 x f hopen
    exact ⟨execMprobe_tells hopen, execMprobe_reserved hopen⟩
  · intro a s s1 x v m f hopen hv hm hrel
    exact execAmret_answers hopen hv hm hrel

end Sys2Proof.Laws
end

section
/-! SUPPORT. What a message that has come does where it is accepted: at its issuer, at its home, and in a mailbox (14 R275-R288). -/

namespace Sys2Proof.Laws
open Sys2Proof.Machine

/-! ### Answers at their issuer (R277-R282) -/

section
variable {id : Nat} {m : Msg} {p : Pend} {s : State} {val : Vec} {poison : Bool} (hm : s.arrived? id = some m)

section
variable (h14 : m.slot ≠ 14) (h17 : m.slot < 17) (hdev : m.dev = 0) (hp : s.pend? m.core m.slot m.pend = some p)
include hm h14 h17 hdev hp

/-- The first time its answer comes, an instruction without a register to fill, or one that consumes poison, completes; any other is
full in the next cycle. -/
theorem execRemoteCompletion_accepts (hk : m.kind = .reply val poison none) (hserved : p.served = false) :
    execRemoteCompletion id s = .next
      (if p.dst.isEmpty || (poison && p.kind == .ratom) then ((s.takeAnswer m).recordBad m).completed m.core m.slot p val poison
       else { ((s.takeAnswer m).recordBad m).answered m.core m.slot p with msgs := s.msgs }) := by
  simp only [execRemoteCompletion, hm, hk, h14, hdev, hp, hserved, Nat.not_le.mpr (show m.slot < 20 by omega), Nat.ne_of_lt h17,
    decide_false, bne_self_eq_false, Bool.or_self, Bool.false_and, Bool.false_eq_true, Option.isSome_none, if_false]

theorem execRemoteCompletion_completes (hk : m.kind = .reply val poison none) (hserved : p.served = true) (hdue : p.due ≤ s.now m.core) :
    execRemoteCompletion id s = .next ((s.dropMsg id).completed m.core m.slot p val poison) := by
  simp only [execRemoteCompletion, hm, hk, h14, hdev, hp, hserved, Nat.not_le.mpr (show m.slot < 20 by omega), Nat.ne_of_lt h17,
    Nat.not_lt.mpr hdue, decide_false, bne_self_eq_false, Bool.or_self, Bool.and_false, Bool.false_eq_true, if_false, if_true]

theorem execRemoteCompletion_late {code : BitVec 16} (hk : m.kind = .reply val poison (some code)) (hserved : p.served = false) :
    execRemoteCompletion id s = .next
      (((s.takeAnswer m).lateFault m.core m.slot p code (val.setWidth 64) m.va).asFar (s.takeAnswer m) m) := by
  simp only [execRemoteCompletion, hm, hk, h14, hdev, hp, hserved, Nat.not_le.mpr (show m.slot < 20 by omega), Nat.ne_of_lt h17,
    decide_false, bne_self_eq_false, Bool.or_self, Bool.false_and, Bool.false_eq_true, Option.isSome_some, if_false, if_true]
  rfl

end

/-! ### The host's answers (20 R418) -/

/-- Whether the host refuses a request is one free value. -/
def drawn (s : State) : State := { s with fresh := s.fresh + 1 }

section
variable (hno : ∀ v po fl, m.kind ≠ .reply v po fl) (hoff : s.offDevice m = true) (hhost : gaDev m.va = 2047) (h14 : m.slot ≠ 14)
include hm hno hoff hhost h14

/-- A request that has left for the host is answered with a value from outside, or with a fault. -/
theorem execRemoteCompletion_host : execRemoteCompletion id s = .next
    (if !s.hostUp m || Config.hostNak (s.dropMsg id).fresh then
      (drawn (s.dropMsg id)).reply m (m.va.setWidth 512) false (some (det cLeaseMiss 0xA))
     else (drawn (s.dropMsg id)).outside.2.reply m (drawn (s.dropMsg id)).outside.1 false none) := by
  have hgoes : (s.offDevice m && gaDev m.va == 2047 && m.slot != 14) = true := by simp [hoff, hhost, h14]
  simp only [execRemoteCompletion, hm, hgoes, if_true]
  rfl

end

/-! ### A refusal back at its sender (R276) -/

/-- The message id is replaced. -/
def putMsg (id : Nat) (x : Msg) (s : State) : State := { s with msgs := replaceFirst (fun (y : Msg) => y.id == id) (fun _ => x) s.msgs }

include hm in
theorem execMessageRetry_refused (href : m.refused = true) : execMessageRetry id s = .next (putMsg id
    (if m.retry = 1 then { m with retry := 2, due := { num := s.rtime + 64, den := 1 } }
     else { m with refused := false, retry := 3, due := s.routed m.core (s.exitCore m.asid m.home m.va) }) s) := by
  simp only [execMessageRetry, hm, href, Bool.not_true, Bool.false_eq_true, if_false]
  rfl

/-! ### Acceptance at the home (R275, R276; 07 R157) -/

section
variable (href : m.refused = false) (hlands : (s.landsAt m).isSome = true)
include href hlands

/-- A message that lands at a core of the device. -/
theorem landed : (m.refused || (s.landsAt m).isNone) = false := by
  rw [href, Bool.false_or, ← Option.not_isSome, hlands, Bool.not_true]

include hm

theorem execMessageAccept_agent (hk : m.kind.forAgent = true) (horder : s.inOrder m = true) : execMessageAccept id s = .next
    (if s.preempted m || s.behindRefused m then s.refuse m
     else if 32 ≤ (s.core m.home).inbuf.length then s
     else s.intoBuffer m) := by
  have hgoes : (!m.kind.forAgent || !s.inOrder m) = false := by rw [hk, horder]; rfl
  simp only [execMessageAccept, hm, landed href hlands, Bool.false_eq_true, if_false]
  cases hkind : m.kind <;> simp only [hkind, MsgKind.forAgent, Bool.false_eq_true] at hk <;>
    simp only [← hkind, hgoes, Bool.false_eq_true, if_false]

theorem execMessageAccept_claim {member : Nat} (hk : m.kind = .claim member) :
    execMessageAccept id s = .next (s.claimArrives m member) := by
  simp only [execMessageAccept, hm, landed href hlands, hk, Bool.false_eq_true, if_false]

theorem execMessageAccept_claimed {won : Bool} (hk : m.kind = .claimed won) :
    execMessageAccept id s = .next (s.claimAnswered m won) := by
  simp only [execMessageAccept, hm, landed href hlands, hk, Bool.false_eq_true, if_false]

theorem execMessageAccept_spawn {member : Nat} {child : Thread} {begun : Bool} (hk : m.kind = .spawn member child begun) :
    execMessageAccept id s = .next (s.spawnArrives m member child begun) := by
  simp only [execMessageAccept, hm, landed href hlands, hk, Bool.false_eq_true, if_false]

/-- A message of a running ridge is deposited, or refused where its queue is full (R287, R288). -/
theorem execMailboxDeposit_deposits {p : Nat} {x y : Word} {r : Ridge} (hk : m.kind = .msend p x y) (hpre : s.preempted m = false)
    (hr : s.ridge? m.home = some r) (hasid : r.asid = m.asid) : execMailboxDeposit id s = .next
    (if 16 ≤ ((s.core m.home).mailQ p).length then s.refuse m
     else (((s.dropMsg id).traceIn m.home m).modCore m.home (fun k => { k with
       mail := k.mail.setIfInBounds p (k.mailQ p ++ [⟨x, y, s.senderWord m p, (s.core m.home).cycle + 5⟩]) })).reply m 0 false none 4) := by
  simp only [execMailboxDeposit, hm, landed href hlands, hk, hpre, hr, hasid, ne_eq, not_true_eq_false, Bool.false_eq_true, if_false]

end
end

theorem claimAnswered_taken {s : State} {m : Msg} {won : Bool} (h : won = false ∨ (s.thr m.core m.slot).claiming = some (m.off, m.pend, 0)) :
    s.claimAnswered m won = (s.takeAnswer m).modThr m.core m.slot (fun t => { t with
      claiming := t.claiming.map (fun (x : Nat × Nat × Nat) => if x.1 = m.off ∧ x.2.2 = 0 then (x.1, x.2.1, if won then 1 else 2) else x) }) := by
  refine if_neg ?_
  rcases h with h | h <;> simp [h]

theorem claimAnswered_withdrawn {s : State} {m : Msg} (h : (s.thr m.core m.slot).claiming ≠ some (m.off, m.pend, 0)) :
    s.claimAnswered m true = (s.takeAnswer m).unhold m.off m.pend :=
  if_pos (by simpa using h)

/-! ### The obligation -/

theorem completed_value {s : State} {c sl : Nat} {p : Pend} {n : Nat} {sg : Bool} (val : Vec) (poison : Bool) (hk : p.kind = .remote n sg)
    (hn : n ≠ 0) : s.completed c sl p val poison = s.finish c sl p [⟨rgetValue val n sg, poison⟩] := by
  simp only [State.completed, hk, if_neg hn]

/-- Settles O24: what the answer at its issuer, the refusal at its sender and the message at its home do. -/
theorem remoteMessages : Obligations.RemoteMessages := by
  unfold Obligations.RemoteMessages
  refine ⟨fun id m s hm => ⟨?_, ?_, ?_⟩, fun id m s hm => ⟨?_, ?_⟩⟩
  · intro val poison p hk h14 h17 hdev hp
    refine ⟨fun hserved => ?_, fun hserved hdue => ?_⟩
    · have hexec := execRemoteCompletion_accepts hm h14 h17 hdev hp hk hserved
      intro s1
      refine ⟨fun sg hdst hkind => hexec.trans ?_, fun hkind hpoison => hexec.trans ?_, fun hdst hkind => hexec.trans ?_⟩
      · rw [if_pos (by simp [hdst])]
        simp only [State.completed, hkind, if_true]
        rfl
      · rw [if_pos (by simp [hkind, hpoison])]
        simp only [State.completed, hkind, hpoison, if_true]
        rfl
      · rw [if_neg (by rcases hkind with h | h <;> simp [hdst, h])]
        rfl
    · have hexec := execRemoteCompletion_completes hm h14 h17 hdev hp hk hserved hdue
      intro s1
      refine ⟨fun n sg hkind hn => hexec.trans (congrArg _ (completed_value val poison hkind hn)), fun hkind hpoison => hexec.trans ?_,
        fun b t pr hkind => hexec.trans ?_⟩
      · simp only [State.completed, hkind, hpoison, Bool.false_eq_true, if_false]
        rfl
      · simp only [State.completed, hkind]
        rfl
  · intro val poison code p hk h14 h17 hdev s1 hp hserved
    exact execRemoteCompletion_late hm h14 h17 hdev hp hk hserved
  · intro hno hoff hhost h14 s1 s2
    have hexec := execRemoteCompletion_host hm hno hoff hhost h14
    refine ⟨fun hup hnak => hexec.trans ?_, fun hfails => hexec.trans ?_⟩
    · rw [if_neg (by rw [hup, hnak]; decide)]
      rfl
    · rw [if_pos (by rcases hfails with h | h <;> simp [h, s1])]
      rfl
  · intro href put
    have hexec := execMessageRetry_refused hm href
    exact ⟨fun h1 => hexec.trans (by rw [if_pos h1]; rfl), fun h1 => hexec.trans (by rw [if_neg h1]; rfl)⟩
  · intro href hlands
    refine ⟨fun hk horder => ?_, ?_, ?_⟩
    · have hexec := execMessageAccept_agent hm href hlands hk horder
      refine ⟨fun h => hexec.trans (congrArg _ (if_pos (by rcases h with h | h <;> simp [h]))), fun hpre hfirst hroom => hexec.trans ?_⟩
      rw [hpre, hfirst, if_neg (by decide), if_neg (Nat.not_le.mpr hroom)]
      rfl
    · intro taken
      refine ⟨fun member hk => ?_, fun won hk => ?_, fun member child => ⟨fun hk => ?_, fun hk => ?_⟩⟩
      · have hexec := execMessageAccept_claim hm href hlands hk
        exact ⟨fun h => hexec.trans (congrArg _ (if_pos h)), fun h => hexec.trans (congrArg _ (if_neg (by rw [h]; decide)))⟩
      · have hexec := execMessageAccept_claimed hm href hlands hk
        refine ⟨fun h => hexec.trans (congrArg _ (claimAnswered_taken h)), fun hwon h => hexec.trans ?_⟩
        rw [hwon, claimAnswered_withdrawn h]
      · exact execMessageAccept_spawn hm href hlands hk
      · exact execMessageAccept_spawn hm href hlands hk
    · intro p x y r hk hpre hr hasid
      have hexec := execMailboxDeposit_deposits hm href hlands hk hpre hr hasid
      exact ⟨fun h => hexec.trans (congrArg _ (if_neg (Nat.not_le.mpr h))), fun h => hexec.trans (congrArg _ (if_pos h))⟩

end Sys2Proof.Laws
end

section
/-! SUPPORT. What the vault agent does with the message at its head, and how a user handler starts (14 R275-R284, R292). -/

namespace Sys2Proof.Laws
open Sys2Proof.Machine

/-! ### Built-in accesses (R275, R278, R281, R282) -/

section
variable {s : State} {c n : Nat} {m : Msg} {rd wr : Bool} {go : State → Nat → BitVec 16 → State}

theorem builtin_beat {h off : Nat} (hbeat : s.hasBeat c .agent = true) (hat : s.homeAt m n rd wr = .ok h off) :
    s.builtin c m n rd wr go = go s off (if s.sameDomain m c then m.tag else 0) := by
  simp only [State.builtin, hbeat, hat, if_true]

variable (hbeat : s.hasBeat c .agent = false) (hhalf : (s.core c).halfDone .agent = false)
include hbeat hhalf

theorem builtin_asks {off : Nat} {t : BitVec 16} (hfree : (s.core c).agentFree < s.now c) (hqueued : (s.core c).queued .agent = false)
    (hat : s.atHome m n rd wr = .ok off t) (hown : s.ownStore c m off n = false) :
    s.builtin c m n rd wr go = s.request c 13 .agent off n rd wr t := by
  simp only [State.builtin, State.agentAsk, hbeat, hhalf, hat, hown, hfree, hqueued, decide_true, Bool.not_false, Bool.and_self,
    Bool.false_eq_true, if_false, if_true]

theorem builtin_fault {code : BitVec 16} {info : Word} (hat : s.atHome m n rd wr = .fault code info) :
    s.builtin c m n rd wr go = s.answerFault c m code info := by
  simp only [State.builtin, hbeat, hhalf, hat, Bool.false_eq_true, if_false]

end

/-- What an RGET does at its beat. -/
def rgetGo (c : Nat) (m : Msg) (n : Nat) (s : State) (off : Nat) (tag : BitVec 16) : State :=
  let r := s.readTagged c off n tag
  s.answer c m r.1 r.2

/-- What an RPUT does at its beat. -/
def rputGo (c : Nat) (m : Msg) (n : Nat) (data : Vec) (s : State) (off : Nat) (tag : BitVec 16) : State :=
  (s.store c off (vecBytes data n) tag m.actor).answer c m 0 false

/-- What a RATOM does at its beat: it writes nothing over poison. -/
def ratomGo (c : Nat) (m : Msg) (op : AtomOp) (x y : Word) (s : State) (off : Nat) (tag : BitVec 16) : State :=
  let old := s.tagged8 c off tag
  let s2 := match (if old.2 then none else op.new old.1 x y) with
    | some v => s.store c off (leBytes v.toNat 8) tag m.actor
    | none => s
  s2.answer c m (old.1.setWidth 512) old.2

theorem ratomGo_writes {c : Nat} {m : Msg} {op : AtomOp} {x y v : Word} {s : State} {off : Nat} {tag : BitVec 16}
    (hclean : (s.tagged8 c off tag).2 = false) (hnew : op.new (s.tagged8 c off tag).1 x y = some v) :
    ratomGo c m op x y s off tag =
      (s.store c off (leBytes v.toNat 8) tag m.actor).answer c m ((s.tagged8 c off tag).1.setWidth 512) false := by
  simp only [ratomGo, hclean, hnew, Bool.false_eq_true, if_false]

theorem ratomGo_keeps {c : Nat} {m : Msg} {op : AtomOp} {x y : Word} {s : State} {off : Nat} {tag : BitVec 16}
    (h : (s.tagged8 c off tag).2 = true ∨ op.new (s.tagged8 c off tag).1 x y = none) :
    ratomGo c m op x y s off tag = s.answer c m ((s.tagged8 c off tag).1.setWidth 512) (s.tagged8 c off tag).2 := by
  have hnone : (if (s.tagged8 c off tag).2 then none else op.new (s.tagged8 c off tag).1 x y) = none := by
    rcases h with h | h <;> simp [h]
  simp only [ratomGo, hnone]

section
variable {c : Nat} {m : Msg} {s : State} (hm : s.agentMsg? c = some m)
include hm

section
variable (hhere : s.forwardTo m = none) (hfirst : s.behindRefused m = false)
include hhere hfirst

theorem execHomeRget_runs {n : Nat} (hk : m.kind = .rget n) :
    execHomeRget c s = .next (s.builtin c m n true false (rgetGo c m n)) :=
  congrArg _ (runAgent_runs hm hhere hfirst (by simp only [hk]; rfl))

theorem execHomeRput_runs {n : Nat} {data : Vec} {po : Bool} (hk : m.kind = .rput n data po) :
    execHomeRput c s = .next (s.builtin c m n false true (rputGo c m n data)) :=
  congrArg _ (runAgent_runs hm hhere hfirst (by simp only [hk]; rfl))

theorem execHomeRatom_runs {op : AtomOp} {x y : Word} (hk : m.kind = .ratom op x y) :
    execHomeRatom c s = .next (s.builtin c m 8 true true (ratomGo c m op x y)) :=
  congrArg _ (runAgent_runs hm hhere hfirst (by simp only [hk]; rfl))

end

/-- The line of an RGET has gone on to another home (R292). -/
theorem execHomeRget_follows {n h : Nat} (hk : m.kind = .rget n) (hgone : s.forwardTo m = some h) :
    execHomeRget c s = .next ((s.agentDone c).forward m h) := by
  simp only [execHomeRget, State.runAgent, hm, hk, hgone]

/-! ### User handlers (R284) -/

section
variable {index : Nat} {x : Word} {h off : Nat} {r : Ridge} (hk : m.kind = .amsend index x) (hidle : (s.thr c 13).pend = [])
  (hfirst : s.behindRefused m = false) (hat : s.translate m.asid m.virt m.off 1 false false = .ok h off) (hr : s.ridge? c = some r)
  (hasid : r.asid = m.asid)
include hk hidle hfirst hat hr hasid

theorem execHandlerStart_enters {entry : Nat} (hentry : (r.header.amTable[index]?).getD none = some entry) :
    execHandlerStart c s = .next (s.modThr c 13 (s.handlerThread c m off entry x)) := by
  simp only [execHandlerStart, hm, hk, hidle, hfirst, hat, hr, hasid, hentry, List.isEmpty_nil, Bool.not_true, Bool.false_eq_true, if_false,
    ne_eq, not_true_eq_false]

theorem execHandlerStart_noEntry (hentry : (r.header.amTable[index]?).getD none = none) :
    execHandlerStart c s = .next (s.answerFault c m (det cRemoteTarget 2) m.va) := by
  simp only [execHandlerStart, hm, hk, hidle, hfirst, hat, hr, hasid, hentry, List.isEmpty_nil, Bool.not_true, Bool.false_eq_true, if_false,
    ne_eq, not_true_eq_false]

end
end

/-! ### The obligation -/

section
variable {s : State} {c : Nat} {m : Msg} {off entry : Nat} {x : Word} {u : Thread}

theorem handlerThread_g1 : (s.handlerThread c m off entry x u).g[1]? = some ⟨BitVec.ofNat 64 off, .full, false⟩ := by
  simp [State.handlerThread]

theorem handlerThread_g2 : (s.handlerThread c m off entry x u).g[2]? = some ⟨x, .full, false⟩ := by
  simp [State.handlerThread]

theorem handlerThread_g3 : (s.handlerThread c m off entry x u).g[3]? = some ⟨s.senderWord m 0, .full, false⟩ := by
  simp [State.handlerThread]

/-- The registers that carry nothing are those of a reset. -/
theorem handlerThread_gRest {j : Nat} (h4 : 4 ≤ j) (h48 : j < 48) : (s.handlerThread c m off entry x u).g[j]? = some ⟨0, .full, false⟩ := by
  have h1 : 1 ≠ j := by omega
  have h2 : 2 ≠ j := by omega
  have h3 : 3 ≠ j := by omega
  simp [State.handlerThread, Thread.reset, Reg.zero, h48, h1, h2, h3]

theorem handlerThread_ctx {r : Ridge} (hr : s.ridge? c = some r) :
    (s.handlerThread c m off entry x u).ctx = if r.header.tagged = true then m.tag else 0 := by
  simp only [State.handlerThread, hr]

end

/-- Settles O25: an access asks, is performed at its beat and answers, or answers its fault; a handler starts at its entry. -/
theorem agentOperations : Obligations.AgentOperations := by
  unfold Obligations.AgentOperations
  refine ⟨?_, ?_⟩
  · intro c m s hm tag
    refine ⟨fun hhere hfirst => ⟨?_, ?_, ?_, fun hbeat hhalf => ⟨?_, ?_, ?_, ?_⟩⟩, fun n h hk hgone => execHomeRget_follows hm hk hgone⟩
    · intro n h off hk hbeat hat r
      exact (execHomeRget_runs hm hhere hfirst hk).trans (congrArg _ (builtin_beat hbeat hat))
    · intro n data po h off hk hbeat hat
      exact (execHomeRput_runs hm hhere hfirst hk).trans (congrArg _ (builtin_beat hbeat hat))
    · intro op x y h off hk hbeat hat old
      have hexec := (execHomeRatom_runs hm hhere hfirst hk).trans (congrArg _ (builtin_beat hbeat hat))
      exact ⟨fun v hclean hnew => hexec.trans (congrArg _ (ratomGo_writes hclean hnew)),
        fun h => hexec.trans (congrArg _ (ratomGo_keeps h))⟩
    · intro off t hfree hqueued
      exact ⟨fun n hk hat hown =>
          (execHomeRget_runs hm hhere hfirst hk).trans (congrArg _ (builtin_asks hbeat hhalf hfree hqueued hat hown)),
        fun n data po hk hat hown =>
          (execHomeRput_runs hm hhere hfirst hk).trans (congrArg _ (builtin_asks hbeat hhalf hfree hqueued hat hown)),
        fun op x y hk hat hown =>
          (execHomeRatom_runs hm hhere hfirst hk).trans (congrArg _ (builtin_asks hbeat hhalf hfree hqueued hat hown))⟩
    · intro n code info hk hat
      exact (execHomeRget_runs hm hhere hfirst hk).trans (congrArg _ (builtin_fault hbeat hhalf hat))
    · intro n data po code info hk hat
      exact (execHomeRput_runs hm hhere hfirst hk).trans (congrArg _ (builtin_fault hbeat hhalf hat))
    · intro op x y code info hk hat
      exact (execHomeRatom_runs hm hhere hfirst hk).trans (congrArg _ (builtin_fault hbeat hhalf hat))
  · intro c m index x h off r s hm hk hidle hfirst hat hr hasid
    refine ⟨fun entry hentry => ⟨execHandlerStart_enters hm hk hidle hfirst hat hr hasid hentry, fun u => ?_⟩,
      execHandlerStart_noEntry hm hk hidle hfirst hat hr hasid⟩
    exact ⟨rfl, rfl, handlerThread_ctx hr, rfl, rfl, rfl, handlerThread_g1, handlerThread_g2, handlerThread_g3,
      fun j => handlerThread_gRest⟩

end Sys2Proof.Laws
end

section
/-! SUPPORT. The tag instructions: which message each sends, and how LDX reads a line as its tag has sealed it (15 R300-R308). -/

namespace Sys2Proof.Laws
open Sys2Proof.Machine

/-! ### CTXALLOC (R301) -/

section
variable {d : BitVec 6} {l : BitVec 4} {s s1 : State}

/-- The operand form of CTXALLOC. -/
def ctxallocForm (d : BitVec 6) (l : BitVec 4) : Form :=
  { srcs := [], dsts := [.g d], la := some l, ends := true, takes := true, gives := true, slots := 0x8FFF }

theorem execCtxalloc_sends (hopen : Opens s (ctxallocForm d l) s1 []) (htagged : s1.tagged s.curCore = true)
    (hpool : s1.poolOf s.curCore ≠ 0) :
    Pends s (ctxallocForm d l) (s1.sendFor .ctxalloc s.curCore s.curSlot (s1.originOf s.curCore) 0 0 0) .ctxalloc (s1.now s.curCore)
      (exec (.ctxalloc d l) s) := by
  refine pends_of_pend hopen ?_
  simp only [htagged, if_neg hpool, Bool.not_true, Bool.false_eq_true, if_false]

theorem execCtxalloc_untagged (hopen : Opens s (ctxallocForm d l) s1 []) (htagged : s1.tagged s.curCore = false) :
    exec (.ctxalloc d l) s = .next (s.trapped s.curCore s.curSlot (det cCtxForm 1) (tagInfo 0 s.curCore 0) 0) := by
  refine trapped_of_trap hopen ?_
  simp only [htagged, Bool.not_false, if_true]
  rfl

end

/-! ### CTXSEAL, CTXRET, CTXMRG (R302-R304) -/

section
variable {scope : Nat} {scopeBad : Bool} {go : State → Nat → Nat → BitVec 16 → Act} {s : State} {c sl : Nat} {x : Val}

theorem tagBody_goes (hcheck : s.tagCheck3 c x.w scopeBad = none) (hdone : s.writesDone c sl scope = true) :
    tagBody scope scopeBad go s c sl [x] = go s c sl (x.w.setWidth 16) := by
  simp only [tagBody, arg_zero, hcheck, hdone, Bool.not_true, Bool.false_eq_true, if_false]

theorem tagBody_fault {code : BitVec 16} (hcheck : s.tagCheck3 c x.w scopeBad = some code) :
    tagBody scope scopeBad go s c sl [x] = .trap code (tagInfo (x.w.setWidth 16) c 0) 0 := by
  simp only [tagBody, arg_zero, hcheck, tagFault]

end

section
variable {a b : BitVec 6} {l : BitVec 4} {s s1 : State} {x : Val} (hopen : Opens s (tagForm a l) s1 [x])
include hopen

theorem execCtxseal_seals (h2 : 2 ≤ b.toNat) (h5 : b.toNat < 5) (hcheck : s1.tagCheck3 s.curCore x.w false = none)
    (hdone : s1.writesDone s.curCore s.curSlot b.toNat = true) :
    let homes := s1.sealHomes s.curCore b.toNat
    Pends s (tagForm a l) (s1.sendAll (.seal (x.w.setWidth 16)) s.curCore s.curSlot (s1.fresh + homes.length) (x.w.setWidth 16) homes)
      (.ctxop (x.w.setWidth 16) homes.length 0) (s1.now s.curCore) (exec (.ctxseal a b l) s) := by
  have hscope : (decide (b.toNat < 2) || decide (5 ≤ b.toNat)) = false := by simp; omega
  refine pends_of_pend hopen (tagBody_goes ?_ hdone)
  rw [hscope]
  exact hcheck

theorem execCtxret_retires (hcheck : s1.tagCheck3 s.curCore x.w false = none) (hdone : s1.writesDone s.curCore s.curSlot 4 = true) :
    Pends s (tagForm a l)
      (s1.sendFor (.ctxretire (x.w.setWidth 16) false) s.curCore s.curSlot (s1.originOf s.curCore) 0 0 (x.w.setWidth 16))
      (.ctxop (x.w.setWidth 16) 1 0) (s1.now s.curCore) (exec (.ctxret a l) s) :=
  pends_of_pend hopen (tagBody_goes hcheck hdone)

theorem execCtxmrg_seals (hcheck : s1.tagCheck3 s.curCore x.w false = none) (hdone : s1.writesDone s.curCore s.curSlot 4 = true) :
    let homes := s1.ridgeCores s.curCore
    Pends s (tagForm a l) (s1.sendAll (.seal (x.w.setWidth 16)) s.curCore s.curSlot (s1.fresh + homes.length) (x.w.setWidth 16) homes)
      (.ctxop (x.w.setWidth 16) homes.length 1) (s1.now s.curCore) (exec (.ctxmrg a l) s) :=
  pends_of_pend hopen (tagBody_goes hcheck hdone)

theorem execCtxret_fault {code : BitVec 16} (hcheck : s1.tagCheck3 s.curCore x.w false = some code) :
    exec (.ctxret a l) s = .next (s.trapped s.curCore s.curSlot code (tagInfo (x.w.setWidth 16) s.curCore 0) 0) :=
  trapped_of_trap hopen (tagBody_fault hcheck)

end

/-! ### CTXSET (R308) -/

/-- A word is a tag of the pool, or 0. -/
theorem badTag_eq_false {s : State} {c : Nat} {w : Word} (h16 : w.toNat < 65536) (hpool : w.toNat ≤ s.poolOf c) :
    s.badTag c w true = false := by
  have hshift : (w >>> 16 != 0) = false := (ushiftRight_bne_zero w 16).trans (decide_eq_false (Nat.not_le.mpr h16))
  simp only [State.badTag, hshift, decide_eq_false (Nat.not_lt.mpr hpool), Bool.not_true, Bool.and_false, Bool.or_self]

theorem execCtxset_sets {a : BitVec 6} {s s1 : State} {x : Val}
    (hopen : Opens s { srcs := [.g a], dsts := [], ordering := true, slots := 0x8FFF } s1 [x]) (htagged : s1.tagged s.curCore = true)
    (h16 : x.w.toNat < 65536) (hpool : x.w.toNat ≤ s1.poolOf s.curCore) :
    exec (.ctxset a) s = .next (issuedFrom s { srcs := [.g a], dsts := [], ordering := true, slots := 0x8FFF }
      (s1.modThr s.curCore s.curSlot (fun t => { t with ctx := x.w.setWidth 16 })) ((me s).pc + 4)) := by
  refine issued_of_ret (next := none) hopen ?_
  simp only [arg_zero, htagged, badTag_eq_false h16 hpool, Bool.not_true, Bool.false_eq_true, if_false]

/-! ### LDX (R305-R307) -/

section
variable {form : Nat} {d a b : BitVec 6} {l : BitVec 4} {s s1 : State} {x y : Val}

/-- The operand form of LDX. -/
def ldxForm (d a b : BitVec 6) (l : BitVec 4) : Form :=
  { fRR d a b with la := some l, takes := true, gives := true, slots := 0xAFFF,
                   touch := fun xs => if isGlobal (arg xs 0) then [] else [(arg xs 0, 8)], rd := true }

variable (hopen : Opens s (ldxForm d a b l) s1 [x, y]) (htagged : s1.tagged s.curCore = true)
  (htag : s1.badTag s.curCore y.w true = false)
include hopen htagged htag

section
variable (hlocal : isGlobal x.w = false) (hcheck : s1.checkAt s.curCore x.w 8 true false = none)
include hlocal hcheck

theorem ldx_reads (hready : s1.ldxWaiting s.curCore form (y.w.setWidth 16) = false) :
    Pends s (ldxForm d a b l) (s1.toBank s.curCore s.curSlot x.w 8 (s1.ldxTag s.curCore x.w.toNat (y.w.setWidth 16)))
      (.ldx (if form = 1 then 3 else form) x.w (y.w.setWidth 16)) (s1.now s.curCore + latency x.w.toNat) (ldx form d a b l s) := by
  refine pends_of_pend hopen ?_
  simp only [arg_zero, arg_one, htagged, htag, hlocal, hcheck, hready, Bool.not_true, Bool.not_false, Bool.false_eq_true, if_false, if_true]

theorem ldx_waits (hwait : s1.ldxWaiting s.curCore form (y.w.setWidth 16) = true) :
    Pends s (ldxForm d a b l) s1 (.ldx form x.w (y.w.setWidth 16)) (s1.now s.curCore) (ldx form d a b l s) := by
  refine pends_of_pend hopen ?_
  simp only [arg_zero, arg_one, htagged, htag, hlocal, hcheck, hwait, Bool.not_true, Bool.not_false, Bool.false_eq_true, if_false, if_true]

end

section
variable (hglobal : isGlobal x.w = true) (hgood : s1.badHome (s1.asidOf s.curCore) x.w 8 = none) (halign : x.w.toNat % 8 = 0)
  (hcore : gaHome x.w < 1024)
include hglobal hgood halign hcore

theorem ldx_sends (hdev : s1.thisDev x.w = true) (hridge : (s1.ridgeCores s.curCore).contains (gaHome x.w) = true) :
    Pends s (ldxForm d a b l)
      (s1.sendFor (.ldx form (y.w.setWidth 16)) s.curCore s.curSlot (gaHome x.w) (gaOff x.w) x.w (y.w.setWidth 16))
      (.ldxRemote form x.w (y.w.setWidth 16)) (s1.now s.curCore) (ldx form d a b l s) := by
  refine pends_of_pend hopen ?_
  simp only [arg_zero, arg_one, htagged, htag, hglobal, hgood, halign, hdev, hridge, if_neg (Nat.not_le.mpr hcore), Bool.not_true,
    Bool.or_self, Bool.false_eq_true, if_false, ne_eq, not_true_eq_false]

theorem ldx_outside (hout : s1.thisDev x.w = false ∨ (s1.ridgeCores s.curCore).contains (gaHome x.w) = false) :
    let m : Msg := { id := 0, kind := .ldx form (y.w.setWidth 16), core := s.curCore, slot := s.curSlot, pend := s1.fresh + 1,
                     home := gaHome x.w, off := gaOff x.w, va := x.w, asid := s1.asidOf s.curCore, tag := y.w.setWidth 16,
                     due := { num := 0, den := 1 }, refused := false }
    Pends s (ldxForm d a b l)
      (s1.reply m ((tagInfo (y.w.setWidth 16) (gaHome x.w) (s1.homeLine m)).setWidth 512) false (some (det cCtxForm 6)))
      (.ldxRemote form x.w (y.w.setWidth 16)) (s1.now s.curCore) (ldx form d a b l s) := by
  have haway : (!s1.thisDev x.w || !(s1.ridgeCores s.curCore).contains (gaHome x.w)) = true := by
    rcases hout with h | h <;> simp only [h, Bool.not_false, Bool.true_or, Bool.or_true]
  refine pends_of_pend hopen ?_
  simp only [arg_zero, arg_one, htagged, htag, hglobal, hgood, halign, haway, if_neg (Nat.not_le.mpr hcore), Bool.not_true,
    Bool.false_eq_true, if_false, if_true, ne_eq, not_true_eq_false]

end
end

section
variable {c sl id form : Nat} {p : Pend} {ea : Word} {tag : BitVec 16} {s : State}

/-- A pending local LDX, whose message is at no agent, goes on. -/
theorem execLdxCompletion_goes (hdue : DuePend s c sl id p) (hk : p.kind = .ldx form ea tag) (hlocal : s.ldxAt c sl id = none) :
    execLdxCompletion c sl id s = .next (s.ldxGoes c sl p form ea tag) := by
  simp only [execLdxCompletion, hlocal, onPend_due hdue, hk]

theorem execLdxCompletion_runs {home : Nat} {m : Msg} (hat : s.ldxAt c sl id = some (home, m)) (hk : m.kind = .ldx form tag) :
    execLdxCompletion c sl id s = .next (s.runLdx home m form tag) := by
  simp only [execLdxCompletion, hat, hk]

theorem ldxGoes_got {v : Nat} {po : Bool} (hgot : p.gotOf 0 = some (v, po)) :
    s.ldxGoes c sl p form ea tag = s.finish c sl p [⟨BitVec.ofNat 512 v, po⟩] := by
  simp only [State.ldxGoes, hgot]

section
variable (hgot : p.gotOf 0 = none) (hready : s.ldxWaiting c form tag = false) (hqueued : (s.core c).queued (.pend sl p.id [0]) = false)
include hgot hready hqueued

theorem ldxGoes_asks (hvault : inVault ea.toNat = true) :
    s.ldxGoes c sl p form ea tag = s.request c sl (.pend sl p.id [0]) ea.toNat 8 true false (s.ldxTag c ea.toNat tag) := by
  simp only [State.ldxGoes, hgot, hready, hqueued, hvault, Bool.or_self, Bool.false_eq_true, if_false, if_true]

theorem ldxGoes_pad (hvault : inVault ea.toNat = false) :
    s.ldxGoes c sl p form ea tag = (s.sense c ea.toNat 8).readLanes c sl p [0] 3 := by
  simp only [State.ldxGoes, hgot, hready, hqueued, hvault, Bool.or_self, Bool.false_eq_true, if_false]

end
end

/-- The only core's agent has the message of the LDX at its head. -/
theorem ldxAt_single {s : State} {home : Nat} {k : Core} {m : Msg} (hcores : s.cores = [(home, k)]) (hm : s.agentMsg? home = some m)
    (hdev : m.dev = 0) : s.ldxAt m.core m.slot m.pend = some (home, m) := by
  simp only [State.ldxAt, hcores, List.findSome?_cons, hm, hdev, beq_self_eq_true, Bool.and_self, if_true]

/-- Settles O26: the tag instructions send their messages and pend, and LDX reads here, asks its home, or fails outside its ridge. -/
theorem tagInstructions : Obligations.TagInstructions := by
  unfold Obligations.TagInstructions
  refine ⟨⟨?_, ?_, ?_⟩, ?_, ?_, ?_, ?_⟩
  · intro d l s s1 f hopen
    exact ⟨execCtxalloc_sends hopen, execCtxalloc_untagged hopen⟩
  · intro a b l s s1 x f tag seals hopen
    exact ⟨execCtxseal_seals hopen, fun hcheck hdone => ⟨execCtxret_retires hopen hcheck hdone, execCtxmrg_seals hopen hcheck hdone⟩,
      fun code => execCtxret_fault hopen⟩
  · intro a s s1 x f hopen
    exact execCtxset_sets hopen
  · intro i form d a b l hi s s1 x y f tag hopen htagged htag
    have hexec : exec i s = ldx form d a b l s := by
      rcases hi with ⟨rfl, rfl⟩ | ⟨rfl, rfl⟩ | ⟨rfl, rfl⟩ <;> rfl
    rw [hexec]
    exact ⟨fun hlocal hcheck => ⟨ldx_reads hopen htagged htag hlocal hcheck, ldx_waits hopen htagged htag hlocal hcheck⟩,
      fun hglobal hgood halign hcore => ⟨ldx_sends hopen htagged htag hglobal hgood halign hcore,
        ldx_outside hopen htagged htag hglobal hgood halign hcore⟩⟩
  · intro c sl id p form ea tag s hdue hk hlocal
    have hexec := execLdxCompletion_goes hdue hk hlocal
    exact ⟨fun v po hgot => hexec.trans (congrArg _ (ldxGoes_got hgot)), fun hgot hready hqueued =>
      ⟨fun hvault => hexec.trans (congrArg _ (ldxGoes_asks hgot hready hqueued hvault)),
        fun hvault => hexec.trans (congrArg _ (ldxGoes_pad hgot hready hqueued hvault))⟩⟩
  · intro c sl id home m form tag s hat hk
    exact execLdxCompletion_runs hat hk
  · intro s home k m hcores hm hdev
    exact ldxAt_single hcores hm hdev

end Sys2Proof.Laws
end

section
/-! SUPPORT. The allocator, the agent's seals, retirements and merges, and the frontier (15 R298-R314). -/

namespace Sys2Proof.Laws
open Sys2Proof.Machine

/-! ### The allocator (R299, R301, R303) -/

section
variable {id : Nat} {m : Msg} {s : State}

/-- A request or an acknowledgement reaches the allocator. -/
theorem execAllocatorRequest_serves (hm : s.arrived? id = some m)
    (hk : m.kind = .ctxalloc ∨ (∃ tag b, m.kind = .ctxretire tag b) ∨ ∃ tag, m.kind = .retired tag) :
    execAllocatorRequest id s = .next (((s.dropMsg id).traceIn m.home m).allocatorServe m) := by
  rcases hk with h | ⟨tag, b, h⟩ | ⟨tag, h⟩ <;> simp only [execAllocatorRequest, hm, h]

variable {r : Ridge} (hr : s.ridge? m.home = some r)
include hr

theorem allocatorServe_gives {t : Nat} {rest : List Nat} (hk : m.kind = .ctxalloc) (hfree : r.freeTags = t :: rest) :
    s.allocatorServe m = (s.modRidge r.id (fun x => { x with freeTags := rest })).grant m.home t m.core m.slot m.pend := by
  simp only [State.allocatorServe, hr, hk, hfree]

theorem allocatorServe_queues (hk : m.kind = .ctxalloc) (hfree : r.freeTags = []) :
    s.allocatorServe m = s.modRidge r.id (fun x => { x with waiting := x.waiting ++ [(m.core, m.slot, m.pend)] }) := by
  simp only [State.allocatorServe, hr, hk, hfree]

theorem allocatorServe_retiredTwice {tag : BitVec 16} {b : Bool} (hk : m.kind = .ctxretire tag b)
    (hfree : r.freeTags.contains tag.toNat = true) :
    s.allocatorServe m = s.allocReply m.home m.core m.slot m.pend (tagInfo tag m.home 0).toNat (some (det cCtxRetired 3)) := by
  simp only [State.allocatorServe, hr, hk, hfree, Bool.true_or, if_true]

/-- The last home's acknowledgement frees the tag. -/
theorem allocatorServe_frees {tag : BitVec 16} {e : Retiring} (hk : m.kind = .retired tag)
    (he : r.retiring.find? (fun (x : Retiring) => x.tag == tag.toNat) = some e) (hlast : e.left = 1) (hwaiting : r.waiting = []) :
    s.allocatorServe m = ((s.modRidge r.id (fun x => { x with
      retiring := x.retiring.filter (fun (y : Retiring) => y.tag != tag.toNat) })).modRidge r.id (fun x => { x with
        freeTags := sinsert x.freeTags e.tag })).allocReply m.home e.core e.slot e.pend 0 none := by
  simp only [State.allocatorServe, hr, hk, he, hlast, hwaiting, Nat.lt_irrefl, if_false]

end

/-! ### Seal and retirement at a home (R302, R303) -/

section
variable {c : Nat} {m : Msg} {s t : State} {tag : BitVec 16}

/-- The agent runs a message at its head that it knows. -/
theorem agentRun_runs {f : Msg → Option State} (hm : s.agentMsg? c = some m) (hf : f m = some t) : s.agentRun c f = t := by
  simp only [State.agentRun, hm, hf, Option.getD_some]

section
variable (hm : s.agentMsg? c = some m) (hbusy : s.tagBusy c tag = false)
include hm hbusy

theorem execSealMessage_free (hk : m.kind = .seal tag) (hfree : (s.core c).tagState tag = .free) :
    execSealMessage c s = .next (s.answerFault c m (det cCtxRetired 4) (tagInfo tag c 0)) :=
  congrArg _ (agentRun_runs hm (by simp only [hk, hbusy, hfree, beq_self_eq_true, Bool.false_eq_true, if_false, if_true]))

theorem execSealMessage_seals (hk : m.kind = .seal tag) (hfree : (s.core c).tagState tag ≠ .free) :
    execSealMessage c s = .next ((((s.setTag c tag .sealed).modCore c (fun k => { k with
      cells := k.cells.map (fun (x : Cell) => if x.domain == s.domain c && x.tag == tag then { x with isSealed := true } else x)
      threads := vecMap (fun t => t.goesOn tag) k.threads })).wakeLdx c tag).answer c m 0 false) :=
  congrArg _ (agentRun_runs hm (by simp only [hk, hbusy, beq_eq_false_iff_ne.mpr hfree, Bool.false_eq_true, if_false]))

/-- The home without a tag and its cells, whose waiting LDX have failed. -/
def withoutTag (s : State) (c : Nat) (tag : BitVec 16) : State :=
  let mine (x : Cell) : Bool := x.domain == s.domain c && x.tag == tag
  let s1 := (s.setTag c tag .free).modCore c (fun k =>
    { k with cells := k.cells.filter (fun (x : Cell) => !mine x), fullCount := if k.cells.any mine then 0 else k.fullCount })
  (s1.failLdx c tag).failWaits c tag

theorem execRetireMessage_retires (hk : m.kind = .retire tag) :
    execRetireMessage c s = .next (((withoutTag s c tag).agentDone c).send (.retired tag) c 13 0 (s.originOf c) 0 0 tag) := by
  rw [execRetireMessage, agentRun_runs (t := ((withoutTag s c tag).agentDone c).send (.retired tag) c 13 0 (s.originOf c) 0 0 tag) hm]
  simp only [hk, hbusy, Bool.false_eq_true, if_false, withoutTag]

end

/-! ### Merge (R304) -/

section
variable (hm : s.agentMsg? c = some m) (hk : m.kind = .merge tag)
include hm hk

theorem execMergeMessage_done (hnext : s.nextMerge c tag = none) : execMergeMessage c s = .next (s.answer c m 0 false) :=
  congrArg _ (agentRun_runs hm (by simp only [hk, hnext]))

variable {x : Cell} (hnext : s.nextMerge c tag = some x)
include hnext

theorem execMergeMessage_beat (hbeat : s.hasBeat c .agent = true) :
    execMergeMessage c s = .next ((s.mergeCell c x).modCore c (fun k => { k with agentPos := x.k + 1 })) :=
  congrArg _ (agentRun_runs hm (by simp only [hk, hnext, hbeat, if_true]))

theorem execMergeMessage_asks (hbeat : s.hasBeat c .agent = false) (hcool : (s.core c).therm ≠ 3 ∨ (s.core c).halfDone .agent = true)
    (hfree : (s.core c).agentFree < s.now c) (hqueued : (s.core c).queued .agent = false) :
    execMergeMessage c s = .next (s.request c 13 .agent x.line 64 (x.mask != -1) true 0) := by
  have hgoes : ((s.core c).therm == 3 && !(s.core c).halfDone .agent) = false := by
    rcases hcool with h | h <;> simp [h]
  refine congrArg _ (agentRun_runs hm ?_)
  simp only [hk, hnext, hbeat, hgoes, State.agentAsk, hfree, hqueued, decide_true, Bool.not_false, Bool.and_self, Bool.false_eq_true,
    if_false, if_true]

theorem execMergeMessage_critical (hbeat : s.hasBeat c .agent = false) (hhot : (s.core c).therm = 3)
    (hhalf : (s.core c).halfDone .agent = false) :
    execMergeMessage c s = .next (s.answerFault c m (det cVaultThermal 4) (tagInfo tag c x.line)) := by
  refine congrArg _ (agentRun_runs hm ?_)
  simp only [hk, hnext, hbeat, hhot, hhalf, beq_self_eq_true, Bool.not_false, Bool.and_self, Bool.false_eq_true, if_false, if_true]

end
end

/-! ### A directory that stays full (R298) -/

theorem execCellStoreFull_keeps {c : Nat} {s : State} (h : (s.core c).fullCount < 2 ^ 20 ∨ ∀ m ∈ s.msgs, s.waitsEntry c m = false) :
    execCellStoreFull c s = .next s := by
  rcases h with h | h
  · exact congrArg _ (if_pos h)
  · have hnone : s.msgs.filter (s.waitsEntry c) = [] := List.filter_eq_nil_iff.mpr (fun m hm => by simp [h m hm])
    simp only [execCellStoreFull, hnone, List.foldl_nil, ite_self]

theorem execCellStoreFull_fails {c : Nat} {m : Msg} {s : State} (hfull : 2 ^ 20 ≤ (s.core c).fullCount) (hmsgs : s.msgs = [m])
    (hwaits : s.waitsEntry c m = true) : execCellStoreFull c s =
      .next ((s.dropMsg m.id).reply m ((tagInfo m.tag c (s.homeLine m)).setWidth 512) false (some (det cCellStoreFull 1))) := by
  have hone : s.msgs.filter (s.waitsEntry c) = [m] := by rw [hmsgs, List.filter_singleton, hwaits, cond_true]
  simp only [execCellStoreFull, hone, List.foldl_cons, List.foldl_nil, if_neg (Nat.not_lt.mpr hfull)]

/-! ### The frontier (R311-R314) -/

section
variable {d a : BitVec 6} {s s1 : State} {x : Val}

theorem execFrnset_raises (hopen : Opens s { fR d a with ordering := true, takes := true, gives := true, slots := 0x9FFF } s1 [x])
    (hdone : s1.writesDone s.curCore s.curSlot 7 = true) :
    Results s { fR d a with ordering := true, takes := true, gives := true, slots := 0x9FFF }
      (s1.modCore s.curCore (fun k => { k with
        frn := if (s1.core s.curCore).frn.toNat < x.w.toNat then x.w else (s1.core s.curCore).frn }))
      [(.g d, Val.of (s1.core s.curCore).frn)] (exec (.frnset d a) s) := by
  refine results_of_ret hopen ?_
  simp only [arg_zero, hdone, Bool.not_true, Bool.false_eq_true, if_false, ret1, BitVec.ult_iff_toNat_lt]

theorem execFrnget_reads (hopen : Opens s { srcs := [], dsts := [.g d], takes := true, slots := 0xBFFF } s1 []) :
    Results s { srcs := [], dsts := [.g d], takes := true, slots := 0xBFFF } s1 [(.g d, Val.of (s1.gfrnOf s.curCore))]
      (exec (.frnget d) s) :=
  results_of_ret hopen rfl

section
variable (hopen : Opens s { fR d a with takes := true, slots := 0x9FFF } s1 [x])
include hopen

theorem execFrngetWait_reads (h : x.w.toNat ≤ (s1.gfrnOf s.curCore).toNat) :
    Results s { fR d a with takes := true, slots := 0x9FFF } s1 [(.g d, Val.of (s1.gfrnOf s.curCore))] (exec (.frngetWait d a) s) :=
  results_of_ret hopen (if_neg (by rw [arg_zero, BitVec.ult_iff_toNat_lt]; exact Nat.not_lt.mpr h))

theorem execFrngetWait_waits (h : (s1.gfrnOf s.curCore).toNat < x.w.toNat) :
    exec (.frngetWait d a) s = .next (s.parked s.curCore s.curSlot .message) :=
  parked_of_park hopen (if_pos (by rw [arg_zero, BitVec.ult_iff_toNat_lt]; exact h))

end
end

/-- The frontier of an ASID after a publication: the last sample is published where it is higher, and a new one is taken. -/
def publish (s : State) (a : Asid) : Asid :=
  { a with gfrn := if a.gfrn.ult a.sample then a.sample else a.gfrn, sample := (minWord (s.frontiers a.id)).getD a.sample }

theorem publish_gfrn (s : State) (a : Asid) : (publish s a).gfrn.toNat = max a.gfrn.toNat a.sample.toNat := by
  simp only [publish, BitVec.ult_iff_toNat_lt]
  split <;> omega

/-- The state after a publication. -/
def published (s : State) : State := { s with saddleAt := s.rtime, asids := s.asids.map (publish s) }

theorem execSaddleTreePublish_publishes {s : State} (hbeat : s.rtime % 256 = 0) (hnew : s.saddleAt ≠ s.rtime) :
    execSaddleTreePublish s = .next (published s) :=
  congrArg _ (if_pos ⟨hbeat, hnew⟩)

/-- Settles O27: the allocator, the agent's messages on a tag, the full directory, and the frontier. -/
theorem tagEvents : Obligations.TagEvents := by
  unfold Obligations.TagEvents
  refine ⟨?_, ⟨?_, ?_, ?_, ?_⟩, ?_, ?_, ?_, ?_⟩
  · intro id m r s hm s1 hr
    refine ⟨fun t rest hk hfree => ?_, fun hk hfree => ?_, fun tag b hk hfree => ?_, fun tag e hk he hlast hwaiting => ?_⟩
    · exact (execAllocatorRequest_serves hm (.inl hk)).trans (congrArg _ (allocatorServe_gives hr hk hfree))
    · exact (execAllocatorRequest_serves hm (.inl hk)).trans (congrArg _ (allocatorServe_queues hr hk hfree))
    · exact (execAllocatorRequest_serves hm (.inr (.inl ⟨tag, b, hk⟩))).trans (congrArg _ (allocatorServe_retiredTwice hr hk hfree))
    · exact (execAllocatorRequest_serves hm (.inr (.inr ⟨tag, hk⟩))).trans (congrArg _ (allocatorServe_frees hr hk he hlast hwaiting))
  · intro c m tag s hm hbusy
    exact ⟨execSealMessage_free hm hbusy, execSealMessage_seals hm hbusy, execRetireMessage_retires hm hbusy⟩
  · intro c m tag s hm hk
    exact ⟨execMergeMessage_done hm hk, fun x hnext =>
      ⟨execMergeMessage_beat hm hk hnext, execMergeMessage_asks hm hk hnext, execMergeMessage_critical hm hk hnext⟩⟩
  · intro c s h
    exact execCellStoreFull_keeps h
  · intro c m s hfull hmsgs hwaits
    exact execCellStoreFull_fails hfull hmsgs hwaits
  · intro d a s s1 x f old hopen hdone
    exact execFrnset_raises hopen hdone
  · intro d s s1 f hopen
    exact execFrnget_reads hopen
  · intro d a s s1 x f hopen
    exact ⟨execFrngetWait_reads hopen, execFrngetWait_waits hopen⟩
  · intro s hbeat hnew
    refine ⟨published s, execSaddleTreePublish_publishes hbeat hnew, rfl, ?_, fun j a b ha hb => ?_⟩
    · rw [published, List.map_map]
      rfl
    · rw [published, List.getElem?_map, ha, Option.map_some, Option.some_inj] at hb
      rw [← hb, publish_gfrn]

end Sys2Proof.Laws
end

section
/-! SUPPORT. A packet from its doorbell to its leases: what the sequencer reads next, refuses, and waits for (17 R341-R346). -/

namespace Sys2Proof.Laws
open Sys2Proof.Machine

/-! ### The doorbell (20 R424) -/

theorem execQueueDoorbell_eq {q : Nat} {x : Queue} {s : State} (tail : Nat) (hq : s.queue? q = some x) : execQueueDoorbell q tail s =
    .next (if x.tail ≤ tail ∧ tail ≤ x.head + x.slots then s.modQueue q (fun x => { x with tail := tail }) else s) := by
  simp only [execQueueDoorbell, hq]

/-! ### The packet at the head (R345) -/

section
variable {q : Nat} {x : Queue} {a : Asid} {s : State} (hq : s.queue? q = some x) (hdev : s.devState = 2) (hserves : s.serves q = true)
  (hsome : x.head < x.tail) (ha : s.asids.find? (fun (a : Asid) => a.id == x.asid) = some a)
include hq hdev hserves hsome ha

/-- A served queue that holds a packet reads its slot. -/
theorem execPacketCheck_reads (hcur : x.current = none) (hjob : s.job? .check q = none) : execPacketCheck q s =
    .next (s.jobBegin a.id (seqCore (q % 4)) .check q none [.read (x.ring + BitVec.ofNat 64 (128 * (x.head % x.slots))) 128]) := by
  simp only [execPacketCheck, hq, hdev, hserves, ha, hjob, hcur, Nat.not_le.mpr hsome, ne_eq, not_true_eq_false, Bool.true_eq_false, or_self,
    Option.isSome_none, Bool.false_eq_true, if_false]

variable {j : Job} (hjob : s.job? .check q = some j)
include hjob

theorem execPacketCheck_busy (hops : j.ops ≠ []) : execPacketCheck q s = .next s := by
  have hover : j.isOver = false := by simp [Job.isOver, hops]
  simp only [execPacketCheck, hq, hdev, hserves, ha, hjob, hover, Nat.not_le.mpr hsome, ne_eq, not_true_eq_false, Bool.true_eq_false, or_self,
    Bool.not_false, if_false, if_true]

variable (hops : j.ops = [])
include hops

theorem execPacketCheck_takes (hcur : x.current = none) (hread : j.failed = false) : execPacketCheck q s =
    .next (s.takePacket x (s.newLaunch x a (Packet.ofBytes (j.got.headD []))) (j.got.headD [])) := by
  have hover : j.isOver = true := by simp [Job.isOver, hops]
  simp only [execPacketCheck, hq, hdev, hserves, ha, hjob, hcur, hover, hread, State.slotBytes, Nat.not_le.mpr hsome, ne_eq,
    not_true_eq_false, Bool.true_eq_false, or_self, Bool.not_true, Option.bind_none, Bool.false_eq_true, if_false]

theorem execPacketCheck_goesOn {l : Launch} (hl : x.current.bind s.launch? = some l) (hlaunch : j.launch.isSome = true) :
    execPacketCheck q s = .next (s.checkOn a l j) := by
  have hover : j.isOver = true := by simp [Job.isOver, hops]
  simp only [execPacketCheck, hq, hdev, hserves, ha, hjob, hl, hlaunch, hover, Nat.not_le.mpr hsome, ne_eq, not_true_eq_false,
    Bool.true_eq_false, or_self, Bool.not_true, Bool.false_eq_true, if_false, if_true]

end

section
variable {s : State} {a : Asid} {l : Launch} {j : Job}

theorem checkOn_read {ops : List JobOp} (h : s.checkNext a l.packet j.got j.failed = .read ops) :
    s.checkOn a l j = s.setJob (({ j with launch := some l.id } : Job).with ops) := by
  simp only [State.checkOn, h]

theorem checkOn_refused {code : Nat} {hd : Option Header} (h : s.checkNext a l.packet j.got j.failed = .refused code hd) :
    s.checkOn a l j = (s.dropJob j.id).refusePacket l code hd j.got := by
  simp only [State.checkOn, h]

theorem checkOn_ok {hd : Header} {ls : List (Word × Nat × Bool × Bool)} (h : s.checkNext a l.packet j.got j.failed = .ok hd ls) :
    s.checkOn a l j = (s.dropJob j.id).acceptPacket l hd ls := by
  simp only [State.checkOn, h]

end

/-- A launch that is refused is gone, and the head of its queue moves on. -/
def refusedOff (s : State) (l : Launch) : State :=
  { s.nextHead l.queue with launches := s.launches.filter (fun (x : Launch) => x.id != l.id) }

/-- Without a cairn a refusal only posts its status (R344). -/
theorem refusePacket_uncaptured (s : State) {l : Launch} (code : Nat) (h : Option Header) (got : List (List Byte)) (hcap : l.capture = none) :
    s.refusePacket l code h got =
      (refusedOff s l).postStatus l.asid l.queue l.id l.status l.done (s.statusRecord code 0 0) l.packet.count := by
  simp only [State.refusePacket, State.captureCode, hcap, Option.isSome_none, Bool.and_false, Bool.false_eq_true, if_false, List.map_id']
  rfl

theorem acceptPacket_uncaptured (s : State) {l : Launch} (h : Header) (ls : List (Word × Nat × Bool × Bool)) (hcap : l.capture = none) :
    s.acceptPacket l h ls =
      s.modLaunch l.id (fun x => { x with state := .depwait, header := h, leases := ls, polled := s.rtime }) := by
  simp only [State.acceptPacket, State.captureCode, hcap]

/-! ### The checks in their order (R345) -/

section
variable {s : State} {a : Asid} {p : Packet}

theorem checkPacket_drained (hdrain : s.drain.getLsbD 0 = true) : s.checkPacket a p = .refused 8 none := if_pos hdrain

variable (hdrain : s.drain.getLsbD 0 = false)
include hdrain

theorem checkPacket_form (hform : s.badForm a.id p = true) : s.checkPacket a p = .refused 3 none := by
  simp only [State.checkPacket, hdrain, hform, Bool.false_eq_true, if_false, if_true]

variable (hform : s.badForm a.id p = false)
include hform

theorem checkPacket_large (hsize : 33 ≤ p.w ∨ 17 ≤ p.h) : s.checkPacket a p = .refused 4 none := by
  simp only [State.checkPacket, hdrain, hform, if_pos hsize, Bool.false_eq_true, if_false]

variable (hw : p.w < 33) (hh : p.h < 17)
include hw hh

theorem checkPacket_slow (hfreq : a.ceil < p.mnfreq) : s.checkPacket a p = .refused 2 none := by
  simp only [State.checkPacket, hdrain, hform, Nat.not_le.mpr hw, Nat.not_le.mpr hh, or_self, if_pos hfreq, Bool.false_eq_true, if_false]

theorem checkPacket_code (hfreq : p.mnfreq ≤ a.ceil) : s.checkPacket a p =
    if !s.memExists a.id p.code 64 then .refused 7 none else .read [.read p.code 64] := by
  simp only [State.checkPacket, hdrain, hform, Nat.not_le.mpr hw, Nat.not_le.mpr hh, or_self, if_neg (Nat.not_lt.mpr hfreq),
    Bool.false_eq_true, if_false]

end

section
variable {s : State} {a : Asid} {p : Packet}

theorem checkNext_header (slot h : List Byte) : s.checkNext a p [slot, h] false = s.checkHeader a.id p h := by
  unfold State.checkNext
  rw [if_neg Bool.false_ne_true]

theorem checkNext_tables (slot h am lt dt : List Byte) (more : List (List Byte)) :
    s.checkNext a p (slot :: h :: am :: lt :: dt :: more) false = s.checkTables a.id p h am lt dt more := by
  unfold State.checkNext
  rw [if_neg Bool.false_ne_true]

theorem checkHeader_bad {asid : Nat} {h : List Byte} (hbad : headerBad h = true) : s.checkHeader asid p h = .refused 1 none := by
  simp only [State.checkHeader, hbad, if_true]

theorem checkHeader_code {asid : Nat} {h : List Byte} (hbad : headerBad h = false) (hcode : s.memExists asid p.code (field h 0x24 4) = false) :
    s.checkHeader asid p h = .refused 7 none := by
  simp only [State.checkHeader, hbad, hcode, Bool.not_false, Bool.false_eq_true, if_false, if_true]

theorem checkTables_bad {asid : Nat} {h am lt dt : List Byte} {more : List (List Byte)}
    (hbad : tablesBad (leaseTable lt (field h 14 1)) (dataTable dt (field h 0x22 2)) (field h 0x24 4) (field h 0x10 4) = true) :
    s.checkTables asid p h am lt dt more = .refused 1 none := by
  simp only [State.checkTables, hbad, if_true]

theorem checkCapacity_none {asid : Nat} {hd : Header} (hcap : s.capacity p hd = false) : s.checkCapacity asid p hd = .refused 5 (some hd) :=
  if_pos (by rw [hcap]; rfl)

theorem checkCapacity_noList {asid : Nat} {hd : Header} (hcap : s.capacity p hd = true) (hlist : p.gcount = 0) :
    s.checkCapacity asid p hd = .ok hd [] := by
  simp only [State.checkCapacity, hcap, hlist, Bool.not_true, Bool.false_eq_true, if_false, if_true]

theorem checkCapacity_list {asid : Nat} {hd : Header} (hcap : s.capacity p hd = true) (hlist : p.gcount ≠ 0)
    (hmem : s.memExists asid p.glist (16 * p.gcount) = false) : s.checkCapacity asid p hd = .refused 6 (some hd) := by
  simp only [State.checkCapacity, hcap, hmem, if_neg hlist, Bool.not_true, Bool.not_false, Bool.false_eq_true, if_false, if_true]

end

/-! ### Dependences (R346) -/

section
variable {p : Packet}

theorem used_none (h0 : p.dep0 = 0) (h1 : p.dep1 = 0) : p.used = [] := by
  simp [Packet.used, h0, h1]

theorem used_first (h0 : p.dep0 ≠ 0) (h1 : p.dep1 = 0) : p.used = [(p.dep0, p.thr0)] := by
  have hb : (p.dep0 != 0) = true := bne_iff_ne.mpr h0
  have hz : ((0 : Word) != 0) = false := by decide
  simp only [Packet.used, h1, List.filter_cons, hb, hz, if_true, Bool.false_eq_true, if_false, List.filter_nil]

theorem depValues_first (h0 : p.dep0 ≠ 0) (v : Word) : p.depValues [v] = [v, 0] := if_neg h0

end

section
variable {l : Nat} {x : Launch} {s : State} (hl : s.launch? l = some x) (hstate : x.state = .depwait)
include hl hstate

theorem execDependencePoll_none (hused : x.packet.used = []) : execDependencePoll l s = .next (s.depsMet l [0, 0]) := by
  simp only [execDependencePoll, hl, hstate, hused, ne_eq, not_true_eq_false, if_false, List.isEmpty_nil, if_true]

variable {d : Word × Word} (hused : x.packet.used = [d])
include hused

theorem execDependencePoll_polls (hjob : s.job? .poll l = none) : execDependencePoll l s = .next (if s.rtime < x.polled then s
    else (s.modLaunch l (fun x => { x with polled := s.rtime + 256 })).jobBegin x.asid (seqCore (x.queue % 4)) .poll l (some l)
      [.read d.1 8]) := by
  simp only [execDependencePoll, hl, hstate, hused, hjob, ne_eq, not_true_eq_false, if_false, List.isEmpty_cons, Bool.false_eq_true,
    List.map_cons, List.map_nil]

/-- A counter that has been read is compared with its threshold. -/
theorem execDependencePoll_compares {j : Job} {bs : List Byte} (hjob : s.job? .poll l = some j) (hops : j.ops = []) (hgot : j.got = [bs])
    (hread : j.failed = false) : execDependencePoll l s = .next
      (if d.2.toNat ≤ (BitVec.ofNat 64 (leNat bs)).toNat then
        (s.dropJob j.id).depsMet l (x.packet.depValues [BitVec.ofNat 64 (leNat bs)])
       else s.dropJob j.id) := by
  have hover : j.isOver = true := by simp [Job.isOver, hops]
  simp only [execDependencePoll, hl, hstate, hused, hjob, hover, hgot, hread, ne_eq, not_true_eq_false, if_false, List.isEmpty_cons,
    Bool.false_eq_true, Bool.not_true, Bool.not_false, Bool.true_and, List.map_cons, List.map_nil, List.zip_cons_cons, List.zip_nil_left,
    List.all_cons, List.all_nil, Bool.and_true, decide_eq_true_eq]

end

/-! ### Leases (R343, R346) -/

/-- A launch that is changed without its name is found changed. -/
theorem launch?_modLaunch {s : State} {l : Nat} {x : Launch} {f : Launch → Launch} (hf : ∀ y, (f y).id = y.id)
    (h : s.launch? l = some x) : (s.modLaunch l f).launch? l = some (f x) :=
  find?_replaceFirst_of_find? (fun y => by rw [hf y]) h

/-- The pins of a launch's leases. -/
def pinsOf (l : Nat) (x : Launch) : List Pin := x.leases.map (fun (e : Word × Nat × Bool × Bool) =>
  (⟨l, gaHome e.1, gaOff e.1, e.2.1, e.2.2.1, e.2.2.2⟩ : Pin))

/-- The state in which a launch has its leases: their pages are resident and pinned. -/
def leased (s : State) (l : Nat) (x : Launch) : State :=
  let resident (a : Asid) : Asid := { a with pages := a.pages.map (fun p => x.leases.foldl (fun p e => p.makeResident e) p) }
  { s.modLaunch l (fun x => { x with state := .placing, readyAt := s.rtime }) with
    asids := replaceFirst (fun a => a.id == x.asid) resident s.asids
    pins := s.pins ++ pinsOf l x }

theorem execLeasingComplete_leases {l : Nat} {x : Launch} {s : State} (hl : s.launch? l = some x) (hstate : x.state = .leasing)
    (hready : s.leasesReady x = true) (hask : s.ask 0 l = (true, s)) : execLeasingComplete l s = .next (leased s l x) := by
  simp only [execLeasingComplete, hl, hstate, hready, hask, ne_eq, not_true_eq_false, Bool.not_true, Bool.false_eq_true, or_self, if_false]
  rfl

/-- Settles O42: the doorbell, the packet's slot, its checks in their order, its dependences and its leases. -/
theorem launchEvents : Obligations.LaunchEvents := by
  unfold Obligations.LaunchEvents
  refine ⟨?_, ?_, ?_, ?_, ?_, ?_, ?_, ?_⟩
  · intro q tail x s hq
    have hexec := execQueueDoorbell_eq tail hq
    exact ⟨fun h1 h2 => hexec.trans (congrArg _ (if_pos ⟨h1, h2⟩)), fun h => hexec.trans (congrArg _ (if_neg (by omega)))⟩
  · intro q x a s hq hdev hserves hsome ha
    refine ⟨execPacketCheck_reads hq hdev hserves hsome ha, fun j hjob hops _ => execPacketCheck_busy hq hdev hserves hsome ha hjob hops,
      fun j hjob hops => ⟨fun hcur hread => ?_, fun l hl hlaunch => ?_⟩⟩
    · intro bs s1
      exact ⟨s.newLaunch x a (Packet.ofBytes bs), execPacketCheck_takes hq hdev hserves hsome ha hjob hops hcur hread,
        rfl, rfl, rfl, rfl, rfl, rfl, rfl, rfl, rfl⟩
    · have hexec := execPacketCheck_goesOn hq hdev hserves hsome ha hjob hops hl hlaunch
      exact ⟨fun ops h => hexec.trans (congrArg _ (checkOn_read h)), fun code h hn => hexec.trans (congrArg _ (checkOn_refused hn)),
        fun h ls hn => hexec.trans (congrArg _ (checkOn_ok hn))⟩
  · intro s l code h got hcap
    exact ⟨refusedOff s l, rfl, refusePacket_uncaptured s code h got hcap, rfl, rfl, rfl, rfl⟩
  · intro s l h ls hcap
    exact acceptPacket_uncaptured s h ls hcap
  · intro s a p
    refine ⟨checkPacket_drained, checkPacket_form, checkPacket_large, checkPacket_slow, fun hdrain hform hw hh hfreq => ?_⟩
    have hcheck := checkPacket_code hdrain hform hw hh hfreq
    exact ⟨fun hmem => hcheck.trans (if_pos (by rw [hmem]; rfl)), fun hmem => hcheck.trans (if_neg (by rw [hmem]; decide))⟩
  · intro s a p slot h am lt dt more
    rw [checkNext_header, checkNext_tables]
    exact ⟨checkHeader_bad, checkHeader_code, checkTables_bad, fun hd => ⟨checkCapacity_none, checkCapacity_noList, checkCapacity_list⟩⟩
  · intro l x s hl hstate met
    refine ⟨fun h0 h1 => execDependencePoll_none hl hstate (used_none h0 h1), fun h0 h1 => ?_⟩
    have hused := used_first h0 h1
    refine ⟨fun hjob hearly => ?_, fun hjob hlate => ?_, fun j bs hjob hops hgot hread => ?_⟩
    · exact (execDependencePoll_polls hl hstate hused hjob).trans (congrArg _ (if_pos hearly))
    · exact (execDependencePoll_polls hl hstate hused hjob).trans (congrArg _ (if_neg (Nat.not_lt.mpr hlate)))
    · have hexec := execDependencePoll_compares hl hstate hused hjob hops hgot hread
      rw [depValues_first h0] at hexec
      exact ⟨fun h => hexec.trans (congrArg _ (if_neg (Nat.not_le.mpr h))), fun h => hexec.trans (congrArg _ (if_pos h))⟩
  · intro l x s hl hstate hready hask
    exact ⟨leased s l x, execLeasingComplete_leases hl hstate hready hask, launch?_modLaunch (fun _ => rfl) hl, rfl, rfl, rfl⟩

end Sys2Proof.Laws
end

section
/-! SUPPORT. An arbiter's choice, and a ridge from its start to its end (17 R347-R354; 18 R390, R395). -/

namespace Sys2Proof.Laws
open Sys2Proof.Machine

/-! ### Arbitration (R347) -/

/-- The first number below n of which a function tells something. -/
theorem findSome?_range_of_first {α : Type} {f : Nat → Option α} {n k : Nat} {x : α} (hk : k < n) (hx : f k = some x)
    (hbefore : ∀ j, j < k → f j = none) : (List.range n).findSome? f = some x := by
  obtain ⟨m, rfl⟩ : ∃ m, n = k + (m + 1) := ⟨n - k - 1, by omega⟩
  have hnone : (List.range k).findSome? f = none :=
    List.findSome?_eq_none_iff.mpr (fun j hj => hbefore j (List.mem_range.mp hj))
  rw [List.range_add, List.findSome?_append, hnone, Option.none_or, List.range_succ_eq_map, List.map_cons, List.findSome?_cons, Nat.add_zero, hx]

section
variable {p : Nat} {s : State}

theorem execPlacementArbitration_none (h : ∀ n, n < 64 → s.serveLevel p n = none) : execPlacementArbitration p s = .next s := by
  have hnone : (List.range 64).findSome? (s.serveLevel p) = none :=
    List.findSome?_eq_none_iff.mpr (fun n hn => h n (List.mem_range.mp hn))
  rw [execPlacementArbitration, hnone, Option.getD_none]

theorem execPlacementArbitration_first {n : Nat} {t : State} (hn : n < 64) (ht : s.serveLevel p n = some t)
    (hbefore : ∀ m, m < n → s.serveLevel p m = none) : execPlacementArbitration p s = .next t := by
  rw [execPlacementArbitration, findSome?_range_of_first hn ht hbefore, Option.getD_some]

end

section
variable {s : State} {part prio : Nat} {o : Nat × Nat}

theorem serveLevel_places {x : Launch} (hridges : s.ridges = []) (hturn : s.turnOrder part prio = [x]) (hrect : s.rectFor part x = some o)
    (hserves : s.serves x.queue = true) (hwaits : s.waitsHost x.id = false) (hask : s.ask 2 x.id = (true, s)) :
    s.serveLevel part prio = some { s.place' x o with turns := tblSet s.turns (part, prio) x.queue } := by
  have hplacing : [x].filter (fun x => !s.waitsHost x.id && s.serves x.queue) = [x] := by
    simp only [List.filter_cons, hwaits, hserves, Bool.not_false, Bool.and_self, if_true, List.filter_nil]
  have hfind : [x].find? (fun x => (s.rectFor part x).isSome) = some x := by
    simp only [List.find?_cons, hrect, Option.isSome_some]
  simp only [State.serveLevel, hridges, hturn, hplacing, hfind, hrect, hask, List.filter_nil, List.find?_nil, oldestSaved]

/-- The cores of an eligible rectangle can hold the ridge. -/
theorem fits_of_rectOf {r : Ridge} (h : s.rectOf part r = some o) :
    (origins part r.w r.h).any (fun o => (rectCores o.1 o.2 r.w r.h).all (fun c => (s.core c).fits r.header)) = true := by
  have hfree : s.rectFree 0 r.header r.w r.h (some r.id) o = true := List.find?_some h
  refine List.any_eq_true.mpr ⟨o, List.mem_of_find?_eq_some h, List.all_eq_true.mpr (fun c hc => ?_)⟩
  have hc := List.all_eq_true.mp hfree c hc
  simp only [State.eligible, State.openTo, Bool.and_eq_true] at hc
  tauto

theorem serveLevel_resumes {r : Ridge} (hridges : s.ridges = [r]) (hstate : r.state = .saved) (hprio : r.packet.prio = prio)
    (hpart : r.y / 16 = part) (hrect : s.rectOf part r = some o) (hwaits : s.waitsHost r.id = false) (hask : s.ask 2 r.id = (true, s)) :
    s.serveLevel part prio = some (if s.imagesSound r then s.resume r o else s.damagedImage r) := by
  have hsaved : [r].filter (fun r => r.state == .saved && r.packet.prio == prio && r.y / 16 == part && !s.waitsHost r.id) = [r] := by
    simp only [List.filter_cons, hstate, hprio, hpart, hwaits, beq_self_eq_true, Bool.not_false, Bool.and_self, if_true, List.filter_nil]
  have hfits : [r].find? (fun r => !(origins part r.w r.h).any (fun o =>
      (rectCores o.1 o.2 r.w r.h).all (fun c => (s.core c).fits r.header))) = none := by
    simp only [List.find?_cons, fits_of_rectOf hrect, Bool.not_true, List.find?_nil]
  have hold : oldestSaved ([r].filter (fun r => (s.rectOf part r).isSome)) = some r := by
    simp only [List.filter_cons, hrect, Option.isSome_some, if_true, List.filter_nil, oldestSaved]
  simp only [State.serveLevel, hridges, hsaved, hfits, hold, hrect, hask]

end

/-! ### Start (R349, R352; 18 R395) -/

section
variable {id : Nat} {r : Ridge} {s : State} (hr : s.ridges.find? (fun (r : Ridge) => r.id == id) = some r)
include hr

theorem execCommonStart_copying (hstate : r.state = .resuming) (hcopy : s.jobs.any (fun (j : Job) => j.obj == id && j.fn == .resume) = true) :
    execCommonStart id s = .next (if s.jobs.all (fun (j : Job) => !j.setsUp id || j.isOver) then s.rearm r else s) := by
  simp only [execCommonStart, hr, hstate, hcopy, and_self, if_true]

/-- The ridge runs: nothing sets it up any more, and its cores have started. -/
def running (s : State) (id : Nat) (r : Ridge) : State :=
  r.cores.foldl (fun s c => s.modCore c Core.started)
    (({ s.freeWindows id with jobs := s.jobs.filter (fun (j : Job) => !j.setsUp id) } : State).modRidge id (fun r => { r with state := .running }))

section
variable (hstate : r.state = .starting ∨ r.state = .resuming ∧ s.jobs.any (fun (j : Job) => j.obj == id && j.fn == .resume) = false)
include hstate

theorem execCommonStart_due : execCommonStart id s = .next
    (if r.startAt ≤ s.rtime ∧ s.isSetUp r = true ∧ s.twinSetUp r = true ∧ s.recommitted r = true then running s id r else s) := by
  have hcopy : ¬ (r.state = .resuming ∧ s.jobs.any (fun (j : Job) => j.obj == id && j.fn == .resume) = true) := by
    rcases hstate with h | ⟨_, h⟩ <;> rw [h] <;> simp
  have hgoes : r.state = .starting ∨ r.state = .resuming := hstate.imp_right And.left
  simp only [execCommonStart, hr, hgoes, true_and]
  rw [if_neg hcopy]
  rfl

end

/-! ### Grace and saving (R350; 18 R390) -/

theorem execGraceExpiry_grace (hstate : r.state = .grace) : execGraceExpiry id s = .next
    (if r.graceEnd ≤ s.rtime then r.cores.foldl State.quiesce (s.modRidge id (fun r => { r with state := .saving })) else s) := by
  simp only [execGraceExpiry, hr, hstate, true_and]

theorem execSaveComplete_busy (hquiet : r.cores.all (s.coreQuiet r) = false) : execSaveComplete id s = .next s := by
  simp only [execSaveComplete, hr, hquiet, Bool.not_false, or_true, if_true]

/-- The ridge is saved: it has its image, and holds no refused message. -/
def imaged (s : State) (id : Nat) : State :=
  s.modRidge id (fun r => { r with state := .saved, image := r.cores.map (s.saveCore r.header), held := [] })

theorem execSaveComplete_saves (hstate : r.state = .saving) (htags : r.retiring = []) (hquiet : r.cores.all (s.coreQuiet r) = true)
    (hheld : ∀ m ∈ s.msgs, m.refused = true → m.dev = 0 → m.slot < 17 → r.cores.contains m.core = false) :
    execSaveComplete id s = .next (r.cores.foldl
      (fun (s : State) (c : Nat) => (s.idleCore c (r.header.vaultWindows.map (fun (w : Window) => (id, w)))).modCore c Core.precharged)
      (imaged s id)) := by
  have hmine : ∀ m ∈ s.msgs, (m.refused && m.dev == 0 && decide (m.slot < 17) && r.cores.contains m.core) = false := by
    intro m hm
    by_contra h
    simp only [Bool.not_eq_false, Bool.and_eq_true, beq_iff_eq, decide_eq_true_eq] at h
    obtain ⟨⟨⟨href, hdev⟩, hslot⟩, hcore⟩ := h
    exact absurd (hheld m hm href hdev hslot) (by rw [hcore]; decide)
  have hnone : s.msgs.filter (fun m => m.refused && m.dev == 0 && decide (m.slot < 17) && r.cores.contains m.core) = [] :=
    List.filter_eq_nil_iff.mpr (fun m hm => by rw [hmine m hm]; decide)
  have hall : s.msgs.filter (fun m => !(m.refused && m.dev == 0 && decide (m.slot < 17) && r.cores.contains m.core)) = s.msgs :=
    List.filter_eq_self.mpr (fun m hm => by rw [hmine m hm]; rfl)
  have hgoes : ¬ (r.state ≠ .saving ∨ (!r.retiring.isEmpty) = true ∨ (!r.cores.all (s.coreQuiet r)) = true) := by
    rw [hstate, htags, hquiet]; decide
  simp only [execSaveComplete, hr, if_neg hgoes, hnone]
  rw [show (s.modRidge id (fun r => { r with state := .saved, image := r.cores.map (s.saveCore r.header), held := [] })).msgs = s.msgs from
    rfl, hall]
  rfl

/-! ### The end (R354) -/

theorem execInstanceEnd_running (hstate : r.state = .running) (hexit : s.allExited r = false) : execInstanceEnd id s = .next s := by
  simp only [execInstanceEnd, hr, hstate, hexit, reduceCtorEq, Bool.false_eq_true, and_false, or_false, if_false]

/-- The ridge is ending: requests that never started are discarded. -/
def discarded (s : State) (id : Nat) (r : Ridge) : State :=
  (r.cores.foldl (fun (s : State) (c : Nat) => s.modCore c (fun k => { k with copies := k.copies.filter (fun (x : CopyReq) => x.active) })) s).modRidge
    id (fun r => { r with state := .ending })

theorem execInstanceEnd_exited (hstate : r.state = .running ∨ r.state = .grace) (hexit : s.allExited r = true) (himage : r.image = [])
    (hfault : r.fault = none) : execInstanceEnd id s = .next
      (if r.cores.all (discarded s id r).coreOver then ((discarded s id r).release r).countEnded r else discarded s id r) := by
  have hgoes : r.state = .ending ∨ (r.state = .running ∨ r.state = .grace) ∧ s.allExited r = true := .inr ⟨hstate, hexit⟩
  simp only [execInstanceEnd, hr, if_pos hgoes, himage, hfault, List.isEmpty_nil, Option.isSome_none, Bool.true_and, Bool.false_eq_true,
    if_false, if_true]
  rw [← discarded]
  cases h : r.cores.all (discarded s id r).coreOver <;> rfl

end

/-- Settles O43: the level an arbiter serves, and what each event of a ridge does in its state. -/
theorem placementEvents : Obligations.PlacementEvents := by
  unfold Obligations.PlacementEvents
  refine ⟨?_, ?_, ?_, ?_⟩
  · intro p s
    exact ⟨execPlacementArbitration_none, fun n t => execPlacementArbitration_first⟩
  · intro s part prio x o hridges hturn hrect hserves hwaits hask
    exact serveLevel_places hridges hturn hrect hserves hwaits hask
  · intro s part prio r o hridges hstate hprio hpart hrect hwaits hask
    have hserve := serveLevel_resumes hridges hstate hprio hpart hrect hwaits hask
    exact ⟨fun h => hserve.trans (congrArg _ (if_pos h)), fun h => hserve.trans (congrArg _ (if_neg (by rw [h]; decide)))⟩
  · intro id r s hr copying
    refine ⟨fun hstate hcopy => ?_, fun hstate => ?_, ?_, ?_, ?_, fun _ => execSaveComplete_busy hr, execInstanceEnd_running hr, ?_⟩
    · have hexec := execCommonStart_copying hr hstate hcopy
      exact ⟨fun h => hexec.trans (congrArg _ (if_pos h)), fun h => hexec.trans (congrArg _ (if_neg (by rw [h]; decide)))⟩
    · have hexec := execCommonStart_due hr hstate
      refine ⟨fun h1 h2 h3 h4 => hexec.trans (congrArg _ (if_pos ⟨h1, h2, h3, h4⟩)), fun h => hexec.trans (congrArg _ (if_neg ?_))⟩
      rintro ⟨h1, h2, h3, h4⟩
      rcases h with h | h | h | h
      · exact absurd h1 (Nat.not_le.mpr h)
      · exact absurd h2 (by rw [h]; decide)
      · exact absurd h3 (by rw [h]; decide)
      · exact absurd h4 (by rw [h]; decide)
    · intro hstate h
      exact (execGraceExpiry_grace hr hstate).trans (congrArg _ (if_pos h))
    · intro hstate h
      exact (execGraceExpiry_grace hr hstate).trans (congrArg _ (if_neg (Nat.not_le.mpr h)))
    · intro hstate htags hquiet hheld s1
      exact execSaveComplete_saves hr hstate htags hquiet hheld
    · intro hstate hexit himage hfault s2
      have hexec := execInstanceEnd_exited hr hstate hexit himage hfault
      exact ⟨fun h => hexec.trans (congrArg _ (if_pos h)), fun h => hexec.trans (congrArg _ (if_neg (Bool.not_eq_true _ ▸ h)))⟩

end Sys2Proof.Laws
end

section
/-! SUPPORT. Load levelling, the power controllers, clock pauses and the rack cap (17 R355-R359). -/

namespace Sys2Proof.Laws
open Sys2Proof.Machine

/-! ### Levelling (R355) -/

section
variable {c : Nat} {r : Ridge} {s t : State}

theorem shipReady_none (hship : (s.core c).shipping = []) : s.shipReady c = s := by
  simp only [State.shipReady, hship, List.isEmpty_nil, if_true]

/-- Levelling that is not due leaves the core as the shipments that were ready have left it. -/
theorem execLoadLevelling_notDue (ht : s.shipReady c = t) (hr : t.ridge? c = some r) (hdue : t.levelDue c r = false) :
    execLoadLevelling c s = .next t := by
  simp only [execLoadLevelling, ht, hr, hdue, Bool.not_false, if_true]

theorem execLoadLevelling_due {d : Nat} (ht : s.shipReady c = s) (hr : s.ridge? c = some r) (hdue : s.levelDue c r = true)
    (hd : (s.modCore c (fun k => { k with levelledAt := k.cycle })).shortest
      ((s.modCore c (fun k => { k with levelledAt := k.cycle })).neighbours c) = some d) :
    let s1 := s.modCore c (fun k => { k with levelledAt := k.cycle })
    let surplus := (s1.core c).wl.length - (s1.core d).wl.length
    execLoadLevelling c s = .next (if surplus < 2 then s1 else s1.ship c d (surplus / 2)) := by
  simp only [execLoadLevelling, ht, hr, hdue, hd, Bool.not_true, Bool.false_eq_true, if_false]

section
variable {x : Shipment} (hship : (s.core c).shipping = [x])
include hship

theorem shipReady_waits (hwaits : x.waits.all (fun w => s.waitsOver c w.1 w.2) = false) :
    s.shipReady c = s.modCore c (fun k => { k with shipping := [x] }) := by
  simp only [State.shipReady, State.modCore, hship, hwaits, List.isEmpty_cons, Bool.false_eq_true, if_false, List.filter_cons, List.filter_nil,
    Bool.not_false, if_true, List.foldl_nil]

theorem shipReady_leaves (hwaits : x.waits.all (fun w => s.waitsOver c w.1 w.2) = true) :
    s.shipReady c = (s.modCore c (fun k => { k with shipping := [] })).shipOff c x.dest x.entries := by
  simp only [State.shipReady, State.modCore, hship, hwaits, List.isEmpty_cons, Bool.false_eq_true, if_false, List.filter_cons, List.filter_nil,
    Bool.not_true, if_true, List.foldl_cons, List.foldl_nil]

end

/-- A core's shipments say nothing of its ridge or of its levelling. -/
theorem ridge?_shipping (es : List Shipment) : (s.modCore c (fun k => { k with shipping := es })).ridge? c = s.ridge? c := by
  simp only [State.ridge?, State.core_modCore, State.modCore_ridges]

theorem levelDue_shipping (es : List Shipment) : (s.modCore c (fun k => { k with shipping := es })).levelDue c r = s.levelDue c r := by
  simp only [State.levelDue, State.core_modCore]

end

section
variable {id : Nat} {f : Flight} {es : List Word} {s : State} (hf : s.landed? id = some f)
include hf

theorem execWlShipmentArrival_fits (hload : f.load = .ship es) (hroom : (s.core f.core).wl.length + es.length ≤ 4096) :
    execWlShipmentArrival id s =
      .next (((s.dropFlight id).appendWl f.core es).modCore f.src (fun k => { k with wlInflight := k.wlInflight - es.length })) := by
  have hle : es.length ≤ 4096 - (s.core f.core).wl.length := by omega
  simp only [execWlShipmentArrival, hf, hload, List.take_of_length_le hle, List.drop_of_length_le hle, List.isEmpty_nil, if_true]

theorem execWlShipmentArrival_back (hload : f.load = .back es) : execWlShipmentArrival id s = .next
    (if 4096 - (s.core f.core).wl.length < es.length then s
     else ((s.dropFlight id).appendWl f.core es).modCore f.core (fun k => { k with wlInflight := k.wlInflight - es.length })) := by
  simp only [execWlShipmentArrival, hf, hload]

end

/-! ### The controllers (R357, R358) -/

theorem foldl_lockstep {α : Type} {f : State → α → State} (hf : ∀ s x, (f s x).lockstep = s.lockstep) (xs : List α) (s : State) :
    (xs.foldl f s).lockstep = s.lockstep := by
  induction xs generalizing s with
  | nil => rfl
  | cons x xs ih => exact (ih (f s x)).trans (hf s x)

theorem DebugOnly.lockstep {s t : State} (h : DebugOnly s t) : t.lockstep = s.lockstep := by
  obtain ⟨cs, ht⟩ := h.rest
  rw [ht]

theorem setRemoved_lockstep (s : State) (c n : Nat) (v : Bool) : (s.setRemoved c n v).lockstep = s.lockstep := by
  rw [State.setRemoved]
  refine foldl_lockstep (fun t x => ?_) _ s
  exact (DebugOnly.trace _ _ _ _ _ _).lockstep.trans (State.modThr_lockstep t c x _)

theorem record_lockstep (s : State) (c sl : Nat) (code : BitVec 16) (addr : Word) (late nested : Bool) (tpc : Word) :
    (s.record c sl code addr late nested tpc).lockstep = s.lockstep := (DebugOnly.offer s c _).lockstep

/-- No step changes the mode. -/
theorem takeStep_lockstep (s : State) (c n : Nat) (r : Ridge) : (s.takeStep c n r).lockstep = s.lockstep := by
  rw [State.takeStep]
  split_ifs
  · exact setRemoved_lockstep _ _ _ _
  · rfl
  · exact record_lockstep _ _ _ _ _ _ _ _
  · rfl

theorem undoStep_lockstep (s : State) (c : Nat) (r : Ridge) : (s.undoStep c r).lockstep = s.lockstep := by
  rw [State.undoStep]
  split
  · rfl
  · split_ifs
    · exact setRemoved_lockstep _ _ _ _
    · rfl
    · rfl

theorem toBoth_alone {s : State} (c : Nat) (r : Ridge) (f : State → Nat → Ridge → State) (h : s.lockstep = 0) : s.toBoth c r f = f s c r := by
  simp only [State.toBoth, h, ne_eq, not_true_eq_false, false_and, if_false]

section
variable {s : State} {c avg : Nat} {r : Ridge} (h : s.lockstep = 0)
include h

theorem decidePower_takes {n : Nat} (hover : s.powerLimit c r < avg) (hn : s.nextStep c r = some n) : s.decidePower c avg r =
    (s.takeStep c n r).modCore c (fun k => k.orderFreq (s.takeStep c n r).rtime ((s.takeStep c n r).steppedFreq c r)) := by
  simp only [State.decidePower, if_pos hover, hn, toBoth_alone c r _ h]
  exact toBoth_alone c r _ ((takeStep_lockstep s c n r).trans h)

variable (hunder : avg ≤ s.powerLimit c r)
include hunder

theorem decidePower_undoes (hlow : avg * 10 < s.powerLimit c r * 9) : s.decidePower c avg r =
    (s.undoStep c r).modCore c (fun k => k.orderFreq (s.undoStep c r).rtime ((s.undoStep c r).steppedFreq c r)) := by
  simp only [State.decidePower, if_neg (Nat.not_lt.mpr hunder), if_pos hlow, toBoth_alone c r _ h]
  exact toBoth_alone c r _ ((undoStep_lockstep s c r).trans h)

theorem decidePower_keeps (hhigh : s.powerLimit c r * 9 ≤ avg * 10) : s.decidePower c avg r =
    s.modCore c (fun k => k.orderFreq s.rtime (s.steppedFreq c r)) := by
  simp only [State.decidePower, if_neg (Nat.not_lt.mpr hunder), if_neg (Nat.not_lt.mpr hhigh), toBoth_alone c r _ h]

end

section
variable {c avg : Nat} {s : State} (hbeat : s.rtime % 1024 = 0) (hlate : s.rtime ≠ 0) (hnew : (s.core c).windowAt ≠ s.rtime)
include hbeat hlate hnew

theorem execPowerWindow_idle (hr : (s.modCore c (fun k => { k with windowAt := s.rtime, windowPower := avg })).ridge? c = none) :
    execPowerWindow c avg s = .next (s.modCore c (fun k => { k with windowAt := s.rtime, windowPower := avg })) := by
  simp only [execPowerWindow, hbeat, hlate, hnew, hr, ne_eq, not_true_eq_false, or_self, if_false]

theorem execPowerWindow_decides {r : Ridge} (hr : (s.modCore c (fun k => { k with windowAt := s.rtime, windowPower := avg })).ridge? c = some r)
    (hmirror : r.mirror = false) : execPowerWindow c avg s =
      .next (drawn ((s.modCore c (fun k => { k with windowAt := s.rtime, windowPower := avg })).decidePower c avg r)) := by
  simp only [execPowerWindow, hbeat, hlate, hnew, hr, hmirror, ne_eq, not_true_eq_false, or_self, if_false, Bool.false_and, Bool.false_eq_true]
  rfl

end

/-! ### Shares, clock pauses, the cap (R356, R359) -/

theorem sharesDue_window {s : State} (h : s.rtime % 1024 = 0) :
    s.sharesDue = { s with shareWas := s.shareNow, shareNow := (s.capWatts, s.heldCores.length) } := if_pos h

theorem putOff_other {a : Arrival} {c since rt old new : Nat} (h : a.src ≠ some c) : a.putOff c since rt old new = a := if_pos (.inl h)

/-- What had still to leave another core arrives when it would have. -/
theorem mem_resumeClock_msgs {s : State} {c f : Nat} {m : Msg} (hm : m ∈ s.msgs) (hsrc : m.due.src ≠ some c) : m ∈ (s.resumeClock c f).msgs := by
  refine List.mem_map.mpr ⟨m, hm, ?_⟩
  cases (s.core c).gap with
  | none => rfl
  | some g => simp only [putOff_other hsrc]

theorem resumeClock_noGap {s : State} {c : Nat} (f : Nat) (h : (s.core c).gap = none) :
    (s.resumeClock c f).msgs = s.msgs ∧ (s.resumeClock c f).flights = s.flights := by
  simp only [State.resumeClock, h, List.map_id', and_self]

theorem execClockPauseEnd_eq {c t f : Nat} {s : State} (h : (s.core c).pause = some (t, f)) :
    execClockPauseEnd c s = .next (if t ≤ s.rtime then s.resumeClock c f else s) := by
  simp only [execClockPauseEnd, h]

theorem execCapLeaseExpiry_eq {w t : Nat} {s : State} (h : s.cap = some (w, t)) :
    execCapLeaseExpiry s = .next (if t ≤ s.rtime then { s with cap := none } else s) := by
  simp only [execCapLeaseExpiry, h]

/-- Settles O44: levelling, shipments, a controller's window, the shares, a clock that resumes, and the cap's lease. -/
theorem powerEvents : Obligations.PowerEvents := by
  unfold Obligations.PowerEvents
  refine ⟨?_, ?_, ?_, ?_, ?_, ?_, ?_⟩
  · intro c r s hship hr
    have hready := shipReady_none hship
    refine ⟨execLoadLevelling_notDue hready hr, ?_⟩
    intro d hdue s1 hd surplus
    have hexec := execLoadLevelling_due hready hr hdue hd
    exact ⟨fun h => hexec.trans (congrArg _ (if_pos h)), fun h => hexec.trans (congrArg _ (if_neg (Nat.not_lt.mpr h)))⟩
  · intro c r x s hship hr
    refine ⟨fun hwaits hdue => ?_, ?_⟩
    · refine ⟨_, execLoadLevelling_notDue (shipReady_waits hship hwaits) ((ridge?_shipping _).trans hr) ((levelDue_shipping _).trans hdue),
        rfl, ?_, ?_⟩
      · rw [State.core_modCore]
      · rw [State.core_modCore]
    · intro hwaits s1 hr1 hdue
      exact execLoadLevelling_notDue (shipReady_leaves hship hwaits) hr1 hdue
  · intro id f es s hf
    refine ⟨execWlShipmentArrival_fits hf, fun hload hroom => ?_, fun hload hfull _ => ?_⟩
    · exact (execWlShipmentArrival_back hf hload).trans (congrArg _ (if_neg (by omega)))
    · exact (execWlShipmentArrival_back hf hload).trans (congrArg _ (if_pos (by omega)))
  · intro c avg s hbeat hlate hnew s1
    refine ⟨execPowerWindow_idle hbeat hlate hnew, ?_⟩
    intro r hr hmirror hmode set
    have hexec := execPowerWindow_decides hbeat hlate hnew hr hmirror
    refine ⟨fun n hover hn => hexec.trans ?_, fun hunder hlow => hexec.trans ?_, fun hunder hhigh => hexec.trans ?_⟩
    · rw [decidePower_takes hmode hover hn]
      rfl
    · rw [decidePower_undoes hmode hunder hlow]
      rfl
    · rw [decidePower_keeps hmode hunder hhigh]
      rfl
  · intro s
    exact ⟨fun h => by rw [sharesDue_window h]; exact ⟨rfl, rfl⟩, fun h => if_neg h⟩
  · intro c t f s hpause
    have hexec := execClockPauseEnd_eq hpause
    refine ⟨fun h => ⟨s.resumeClock c f, hexec.trans (congrArg _ (if_pos h)), fun _ => rfl, rfl, rfl, List.length_map _, List.length_map _,
      fun m hm hsrc => mem_resumeClock_msgs hm hsrc, resumeClock_noGap f⟩, fun h => hexec.trans (congrArg _ (if_neg (Nat.not_le.mpr h)))⟩
  · intro w t s hcap
    have hexec := execCapLeaseExpiry_eq hcap
    exact ⟨fun h => hexec.trans (congrArg _ (if_pos h)), fun h => hexec.trans (congrArg _ (if_neg (Nat.not_le.mpr h)))⟩

end Sys2Proof.Laws
end

section
/-! SUPPORT. Writes of the registers in recovery (20 R430), against the statement on the debug block. -/

namespace Sys2Proof.Laws
open Sys2Proof.Machine

/-- Recovery accepts no write of a register (20 R430). -/
theorem execRegisterWrite_recovery {c off : Nat} {v : BitVec 64} {s : State} (h : s.devState = 0) : execRegisterWrite c off v s = .next s :=
  congrArg _ (if_pos h)

/-- The safe floor that a step leaves. -/
def floorAfter (o : Out) : Option Nat :=
  match o with
  | .next s => some s.floor
  | _ => none

/-- Refutes O45: of the registers' writes it says nothing of the device's state, and in recovery, where a device is after its
reset and which accepts none (20 R430), a write of 600 W leaves the safe floor at 1,440 W. -/
theorem not_debugEvents : ¬ Obligations.DebugEvents := by
  unfold Obligations.DebugEvents
  rintro ⟨-, -, -, hfloor, -, -⟩
  have hstated : exec (.registerWrite 1024 0x20 600) State.reset = .next { State.reset with floor := 600 } :=
    hfloor 600 State.reset (by decide) (by decide)
  have hmodel : exec (.registerWrite 1024 0x20 600) State.reset = .next State.reset := execRegisterWrite_recovery rfl
  have hafter : floorAfter (.next { State.reset with floor := 600 }) = floorAfter (.next State.reset) :=
    congrArg floorAfter (hstated.symm.trans hmodel)
  exact absurd hafter (by decide)

end Sys2Proof.Laws
end

section
/-! SUPPORT. Pre-images, the bytes of a cairn, and the comparison of a core with its mirror (19 R409-R415). -/

namespace Sys2Proof.Laws
open Sys2Proof.Machine

/-! ### Pre-images (R409, R410) -/

section
variable (s : State) (x : PreImage) (k : Cairn) (page : Nat)

/-- The pre-image is on its way no more. -/
def imageTaken : State := { s with preImages := s.preImages.erase x }

/-- The cairn has the page. -/
def imageKept : State := { imageTaken s x with
  cairns := replaceFirst (fun (y : Cairn) => y.id == k.id) (fun _ => { k with pages := k.pages ++ [(page, s.pageBytes page)] }) s.cairns }

/-- The pool has no room: the capture ends, and with it the cairn's other pre-images. -/
def captureEnded : State := { imageTaken s x with
  cairns := replaceFirst (fun (y : Cairn) => y.id == k.id) (fun _ => { k with incomplete := true, live := false }) s.cairns
  preImages := (imageTaken s x).preImages.filter (fun (y : PreImage) => y.cairn != k.id) }

theorem capture_eq :
    (imageTaken s x).capture k page = if s.pagesHeld k.asid < Config.cairnPages then imageKept s x k page else captureEnded s x k := by
  have hheld : (imageTaken s x).pagesHeld k.asid = s.pagesHeld k.asid := rfl
  by_cases h : s.pagesHeld k.asid < Config.cairnPages
  · simp only [State.capture, hheld, if_pos h, decide_eq_false (Nat.not_le.mpr h), Bool.false_eq_true, if_false]
    rfl
  · simp only [State.capture, hheld, if_neg h, decide_eq_true (Nat.not_lt.mp h), if_true]
    rfl

end

section
variable {page : Nat} {s : State}

theorem execPreImageCopy_arrives {x : PreImage} {k : Cairn}
    (hx : s.preImages.find? (fun (x : PreImage) => x.page == page && decide (x.due ≤ s.rtime)) = some x)
    (hk : s.cairns.find? (fun (k : Cairn) => k.id == x.cairn) = some k) (hlive : k.live = true) :
    execPreImageCopy page s =
      .next (if s.pagesHeld k.asid < Config.cairnPages then (imageKept s x k page).preDone else (captureEnded s x k).preDone) := by
  have hk' : (imageTaken s x).cairns.find? (fun (k : Cairn) => k.id == x.cairn) = some k := hk
  rw [imageTaken] at hk'
  simp only [execPreImageCopy, hx, hk', hlive, if_true]
  rw [← imageTaken, capture_eq, apply_ite State.preDone]

theorem execPreImageCopy_none (hx : s.preImages.find? (fun (x : PreImage) => x.page == page && decide (x.due ≤ s.rtime)) = none) :
    execPreImageCopy page s = .next s := by
  simp only [execPreImageCopy, hx]

end

/-! ### The accesses that waited (R409) -/

/-- A table whose entries all change shows the changed entry. -/
theorem assocGet_map {α : Type} (f : Nat × α → α) (xs : List (Nat × α)) (n : Nat) :
    assocGet (xs.map (fun x => (x.1, f x))) n = (assocGet xs n).map (fun a => f (n, a)) := by
  induction xs with
  | nil => rfl
  | cons x rest ih =>
    by_cases h : n = x.1
    · subst h
      simp only [List.map_cons, assocGet, if_true, Option.map_some]
    · simp only [List.map_cons, assocGet, if_neg h, ih]

theorem getElem?_vecMap {α β : Type} {n : Nat} (f : α → β) (v : Vector α n) (i : Nat) : (vecMap f v)[i]? = v[i]?.map f := by
  rw [← Vector.getElem?_toList, ← Vector.getElem?_toList]
  exact List.getElem?_map

theorem resetAt_queue (n rt b : Nat) : (Bank.resetAt n rt b).queue = [] := by
  unfold Bank.resetAt
  dsimp only
  split_ifs <;> rfl

/-- A core that the state does not list has nothing in its banks. -/
theorem bank_resetAt_queue (c rt b : Nat) : ((Core.resetAt c rt).bank b).queue = [] := by
  have hbank : (Core.resetAt c rt).banks[b]? = ((List.range 32).map (Bank.resetAt c rt))[b]? := by
    rw [← Vector.getElem?_toList]
    rfl
  rw [Core.bank, hbank, List.getElem?_map]
  cases (List.range 32)[b]? with
  | none => rfl
  | some n => exact resetAt_queue c rt n

/-- With no pre-image on its way no access waits for one. -/
theorem preDone_queue {s : State} {c b : Nat} {r : BankReq} (hr : r ∈ ((s.core c).bank b).queue) (himages : s.preImages = []) :
    { r with pre := false } ∈ ((s.preDone.core c).bank b).queue := by
  cases hcore : assocGet s.cores c with
  | none =>
    rw [State.core, hcore, Option.getD_none, bank_resetAt_queue] at hr
    exact absurd hr (List.not_mem_nil)
  | some k =>
    rw [State.core, hcore, Option.getD_some, Core.bank] at hr
    rw [State.core, State.preDone, assocGet_map, hcore, Option.map_some, Option.getD_some, Core.bank, getElem?_vecMap]
    cases hbank : k.banks[b]? with
    | none =>
      rw [hbank] at hr
      exact absurd hr (List.not_mem_nil)
    | some x =>
      rw [hbank, Option.getD_some] at hr
      refine List.mem_map.mpr ⟨r, hr, ?_⟩
      simp only [himages, List.any_nil, Bool.and_false]

/-! ### The bytes of a cairn (R410) -/

theorem head_length (k : Cairn) (sections sum : Nat) : (k.head sections sum).length = 64 := by
  simp only [Cairn.head, List.length_append, leBytes_length, wordBytes, List.length_replicate]

theorem cairnBytes_take (s : State) (k : Cairn) : ∃ sum, (s.cairnBytes k).take 64 = k.head (s.cairnSections k).length sum :=
  ⟨_, List.take_left' (head_length k _ _)⟩

/-! ### The comparison of a window (R414, R415) -/

/-- The core without the windows that have been compared. -/
def compared (w : Nat) (k : Core) : Core := { k with rolled := k.rolled.filter (fun (z : Nat × Word × Nat) => w < z.1) }

/-- The pair whose window has been compared. -/
def comparedPair (s : State) (c w : Nat) (differ : Bool) : State :=
  (s.modCore c (fun k => { compared w k with compared := w + 1, diverged := differ })).modCore (c + 512) (compared w)

/-- A difference is reported and entered into the Pacia log. -/
def reported (s : State) (r : Divergence) : State := { s with reports := s.reports ++ [r], log := s.log ++ r.entries, logCount := s.logCount + 2 }

section
variable {c : Nat} {s : State} (hmode : s.lockstep ≠ 0) (hc : c < 512) (ha : (s.core c).ridge ≠ none)
  (hb : (s.core (c + 512)).ridge ≠ none) (hmirror : s.isMirror (c + 512) = true) (hown : s.isMirror c = false)
  (hgoes : (s.core c).diverged = false) (hoverA : (s.core c).windowOver (s.core c).compared = true)
  (hoverB : (s.core (c + 512)).windowOver (s.core c).compared = true)
include hmode hc ha hb hmirror hown hgoes hoverA hoverB

theorem execLockstepWindowCompare_compares :
    let w := (s.core c).compared
    let x := (s.core c).windowHash w
    let y := (s.core (c + 512)).windowHash w
    execLockstepWindowCompare c s = .next (if x = y then comparedPair s c w false
      else reported (comparedPair s c w true) ⟨c, w, x.1, y.1, x.2, y.2, s.rtime⟩) := by
  intro w x y
  have hrun : (decide (s.lockstep = 0) || decide (512 ≤ c) || (s.core c).ridge.isNone || (s.core (c + 512)).ridge.isNone ||
      !s.isMirror (c + 512) || s.isMirror c || (s.core c).diverged || !(s.core c).windowOver (s.core c).compared ||
      !(s.core (c + 512)).windowOver (s.core c).compared) = false := by
    simp [hmode, Nat.not_le.mpr hc, Option.isSome_iff_ne_none.mpr ha, Option.isSome_iff_ne_none.mpr hb, hmirror, hown, hgoes, hoverA, hoverB]
  simp only [execLockstepWindowCompare, hrun, Bool.false_eq_true, if_false]
  by_cases h : (s.core c).windowHash (s.core c).compared = (s.core (c + 512)).windowHash (s.core c).compared
  · rw [if_neg (by rw [h]; simp), if_pos h, h, bne_self_eq_false]
    rfl
  · rw [if_pos (bne_iff_ne.mpr h), if_neg h, bne_iff_ne.mpr h]
    rfl

end

/-- Settles O46: pre-images and what waits for them, a cairn's first bytes, and the comparison of a window. -/
theorem captureEvents : Obligations.CaptureEvents := by
  unfold Obligations.CaptureEvents
  refine ⟨?_, fun page s => execPreImageCopy_none, ?_, ?_, ?_⟩
  · intro page x k s hx hk hlive s1 held
    exact execPreImageCopy_arrives hx hk hlive
  · intro c b r s hr _ himages
    exact ⟨_, preDone_queue hr himages, rfl⟩
  · intro s k
    obtain ⟨sum, h⟩ := cairnBytes_take s k
    exact ⟨sum, h, head_length k _ sum⟩
  · intro c s hmode hc ha hb hmirror hown hgoes w hoverA hoverB x y drop s1
    have hexec := execLockstepWindowCompare_compares hmode hc ha hb hmirror hown hgoes hoverA hoverB
    refine ⟨fun h => hexec.trans (congrArg _ (if_pos h)), fun h => ⟨_, _, hexec.trans (congrArg _ (if_neg h)), rfl, rfl⟩⟩

end Sys2Proof.Laws
end

section
/-! SUPPORT. Flits, acknowledgements and replays, and the states of a link (20 R420-R422; 27 R444, R445). -/

namespace Sys2Proof.Laws
open Sys2Proof.Machine

/-! ### Receiving (R420) -/

/-- The CRC of a flit agrees. -/
def goodFlit (bytes : List Byte) : Prop := field bytes 136 4 = (crc32 (bytes.take 136)).toNat

/-- The acknowledgement that a flit carries has been taken. -/
def ackTaken (s : State) (l : Nat) (bytes : List Byte) : State := s.modLink l (fun k => k.acked (field bytes 2 2))

/-- The flit of a number has been accepted, and is to be acknowledged. -/
def flitAccepted (s : State) (l seq : Nat) : State := s.modLink l (fun k => { k with
  expected := (seq + 1) % 4096, got := true, asked := false, owed := k.owed + 1, ackBy := some (k.ackBy.getD (s.rtime + 256)) })

section
variable {l : Nat} {bytes : List Byte} {s : State}

theorem execFlitReceive_down (hstate : (s.link l).state = .down ∨ (s.link l).state = .training) : execFlitReceive l bytes s = .next s :=
  congrArg _ (if_pos (.inr (.inr hstate)))

variable (hl : l < 6) (hlen : bytes.length = 144) (hup : (s.link l).state = .up16 ∨ (s.link l).state = .up8)
include hl hlen hup

/-- A flit of 144 bytes reaches a link that is up. -/
theorem flit_heard : ¬ (6 ≤ l ∨ bytes.length ≠ 144 ∨ (s.link l).state = .down ∨ (s.link l).state = .training) := by
  rintro (h | h | h | h)
  · omega
  · exact h hlen
  · rcases hup with h' | h' <;> rw [h] at h' <;> cases h'
  · rcases hup with h' | h' <;> rw [h] at h' <;> cases h'

theorem execFlitReceive_damaged (hbad : ¬ goodFlit bytes) : execFlitReceive l bytes s = .next (s.modLink l Link.ask) := by
  rw [goodFlit] at hbad
  rw [execFlitReceive, if_neg (flit_heard hl hlen hup), if_pos hbad]

variable (hgood : goodFlit bytes)
include hgood

/-- A flit without payload, and one that has been accepted before, brings its acknowledgement alone. -/
theorem execFlitReceive_old (hold : field bytes 4 1 % 4 = 0 ∨ 2048 ≤ (field bytes 0 2 % 4096 + 4096 - (s.link l).expected) % 4096) :
    execFlitReceive l bytes s = .next (ackTaken s l bytes) := by
  rw [goodFlit] at hgood
  rw [execFlitReceive, if_neg (flit_heard hl hlen hup), if_neg (not_not_intro hgood)]
  simp only [if_pos hold]
  rfl

variable (hpay : field bytes 4 1 % 4 ≠ 0)
include hpay

theorem execFlitReceive_early (hpos : 0 < (field bytes 0 2 % 4096 + 4096 - (s.link l).expected) % 4096)
    (hahead : (field bytes 0 2 % 4096 + 4096 - (s.link l).expected) % 4096 < 2048) :
    execFlitReceive l bytes s = .next ((ackTaken s l bytes).modLink l Link.ask) := by
  have hnew : ¬ (field bytes 4 1 % 4 = 0 ∨ 2048 ≤ (field bytes 0 2 % 4096 + 4096 - (s.link l).expected) % 4096) := by omega
  rw [goodFlit] at hgood
  rw [execFlitReceive, if_neg (flit_heard hl hlen hup), if_neg (not_not_intro hgood)]
  simp only [if_neg hnew, if_pos (Nat.ne_of_gt hpos)]
  rfl

/-- The expected flit is accepted, and its slots are taken in order. -/
theorem execFlitReceive_expected (hseq : field bytes 0 2 % 4096 = (s.link l).expected) :
    let s2 := flitAccepted (ackTaken s l bytes) l (field bytes 0 2 % 4096)
    let s3 := if field bytes 4 1 % 4 % 2 = 1 then s2.takeSlot l ((bytes.drop 8).take 64) else s2
    execFlitReceive l bytes s = .next (if 2 ≤ field bytes 4 1 % 4 then s3.takeSlot l ((bytes.drop 72).take 64) else s3) := by
  have hd : (field bytes 0 2 % 4096 + 4096 - (s.link l).expected) % 4096 = 0 := by omega
  have hnew : ¬ (field bytes 4 1 % 4 = 0 ∨ 2048 ≤ (field bytes 0 2 % 4096 + 4096 - (s.link l).expected) % 4096) := by omega
  rw [goodFlit] at hgood
  rw [execFlitReceive, if_neg (flit_heard hl hlen hup), if_neg (not_not_intro hgood)]
  simp only [if_neg hnew, if_neg (not_not_intro hd)]
  rfl

end

/-- A link that has not asked for a replay asks. -/
theorem modLink_ask {s : State} {l : Nat} (h : (s.link l).asked = false) :
    s.modLink l Link.ask = s.modLink l (fun k => { k with asked := true, askNow := true }) := by
  simp only [State.modLink, Link.ask, h, Bool.false_eq_true, if_false]

/-! ### Sending (R420, R445) -/

section
variable {l : Nat} {s : State} (hl : l < 6)

theorem loadLink_none (h : s.msgs.find? (s.forLink l) = none) : s.loadLink l = s := by
  have hnone : s.msgs.filter (s.forLink l) = [] := List.filter_eq_nil_iff.mpr (List.find?_eq_none.mp h)
  simp only [State.loadLink, hnone, List.foldr_nil, List.foldl_nil]

include hl

theorem execFlitSend_sends (hfree : ((s.loadLink l).link l).free s.rtime = true) (hagain : ((s.loadLink l).link l).again = [])
    (hout : ((s.loadLink l).link l).out ≠ []) (hroom : ((s.loadLink l).link l).buffer.length < 512) :
    execFlitSend l s = .next ((s.loadLink l).modLink l (fun k => { k.put s.rtime k.seq (k.out.take 2) with
      out := k.out.drop 2, buffer := k.buffer ++ [(k.seq, k.out.take 2)], seq := (k.seq + 1) % 4096 })) := by
  have hgoes : (!((s.loadLink l).link l).free s.rtime || !((s.loadLink l).link l).again.isEmpty || ((s.loadLink l).link l).out.isEmpty ||
      decide (512 ≤ ((s.loadLink l).link l).buffer.length)) = false := by
    simp [hfree, hagain, hout, hroom]
  rw [execFlitSend, if_neg (Nat.not_le.mpr hl)]
  simp only [hgoes, Bool.false_eq_true, if_false]
  rfl

theorem execFlitSend_waits (h : ((s.loadLink l).link l).free s.rtime = false ∨ ((s.loadLink l).link l).again ≠ [] ∨
    ((s.loadLink l).link l).out = [] ∨ 512 ≤ ((s.loadLink l).link l).buffer.length) : execFlitSend l s = .next (s.loadLink l) := by
  have hwaits : (!((s.loadLink l).link l).free s.rtime || !((s.loadLink l).link l).again.isEmpty || ((s.loadLink l).link l).out.isEmpty ||
      decide (512 ≤ ((s.loadLink l).link l).buffer.length)) = true := by
    rcases h with h | h | h | h <;> simp [h]
  rw [execFlitSend, if_neg (Nat.not_le.mpr hl)]
  simp only [hwaits, if_true]

theorem execFlitReplay_sends {n : Nat} {rest : List Nat} {x : Nat × List (List Byte)} (hagain : (s.link l).again = n :: rest)
    (hfree : (s.link l).free s.rtime = true)
    (hx : (s.link l).buffer.find? (fun (x : Nat × List (List Byte)) => x.1 == n) = some x) :
    execFlitReplay l s = .next (s.modLink l (fun k => { k.put s.rtime n x.2 with again := rest })) := by
  rw [execFlitReplay, if_neg (Nat.not_le.mpr hl)]
  simp only [hagain, hfree, hx, Bool.not_true, Bool.false_eq_true, if_false]

theorem execLinkAckTimer_sends (hdue : (s.link l).askNow = true ∨ 64 ≤ (s.link l).owed ∨ ∃ t, (s.link l).ackBy = some t ∧ t ≤ s.rtime)
    (hfree : (s.link l).free s.rtime = true) : execLinkAckTimer l s = .next (s.modLink l (fun k => k.put s.rtime 0 [])) := by
  rw [execLinkAckTimer, if_neg (Nat.not_le.mpr hl)]
  rcases hdue with h | h | ⟨t, h, ht⟩
  · simp only [h, hfree, Bool.true_or, Bool.not_true, Bool.or_self, Bool.false_eq_true, if_false]
  · simp only [decide_eq_true h, hfree, Bool.true_or, Bool.or_true, Bool.not_true, Bool.or_self, Bool.false_eq_true, if_false]
  · simp only [h, decide_eq_true ht, hfree, Bool.or_true, Bool.not_true, Bool.or_self, Bool.false_eq_true, if_false]

theorem execLinkAckTimer_waits (hask : (s.link l).askNow = false) (howed : (s.link l).owed < 64) (hack : (s.link l).ackBy = none) :
    execLinkAckTimer l s = .next s := by
  rw [execLinkAckTimer, if_neg (Nat.not_le.mpr hl)]
  simp only [hask, hack, decide_eq_false (Nat.not_le.mpr howed), Bool.or_self, Bool.not_false, Bool.true_or, if_true]

/-! ### Lanes and training (R421, R422) -/

section
variable {lane : Nat} (hlane : lane < 16)
include hlane

omit hl in
/-- A lane of the link is one of the lower or of the upper half. -/
theorem inHalf_iff (upper : Bool) : inHalf upper lane = true ↔ (lane < 8 ↔ upper = false) := by
  cases upper
  · simp [inHalf]
  · simp [inHalf, hlane]

theorem laneFault_heard : ¬ (6 ≤ l ∨ 16 ≤ lane) := by omega

theorem execLaneFault_up16 (hstate : (s.link l).state = .up16) :
    execLaneFault l lane s = .next (s.modLink l (fun k => k.retrain (lane < 8) lane s.rtime)) := by
  simp only [execLaneFault, if_neg (laneFault_heard hl hlane), hstate]

theorem execLaneFault_up8 (hstate : (s.link l).state = .up8) : execLaneFault l lane s = .next
    (if (lane < 8 ↔ (s.link l).upper = false) then
      (if (s.link l).again = [] then s.linkLost l else s.modLink l (fun k => k.retrain k.upper lane s.rtime)) else s) := by
  by_cases h : lane < 8 ↔ (s.link l).upper = false
  · simp only [execLaneFault, if_neg (laneFault_heard hl hlane), hstate, (inHalf_iff hlane _).mpr h, if_pos h, List.isEmpty_iff,
      Bool.not_true, Bool.false_eq_true, if_false]
  · have hout : inHalf (s.link l).upper lane = false := Bool.eq_false_iff.mpr (fun hin => h ((inHalf_iff hlane _).mp hin))
    simp only [execLaneFault, if_neg (laneFault_heard hl hlane), hstate, hout, if_neg h, Bool.not_false, if_true]

theorem execLaneFault_training {u : Bool} {t : Nat} (hstate : (s.link l).state = .training) (hhalf : (s.link l).half = some (u, t))
    (hin : lane < 8 ↔ u = false) : execLaneFault l lane s = .next (s.modLink l (fun k => { k with half := some (u, s.rtime) })) := by
  simp only [execLaneFault, if_neg (laneFault_heard hl hlane), hstate, hhalf, (inHalf_iff hlane _).mpr hin, if_true]

end

section
variable (hstate : (s.link l).state = .training)
include hstate

theorem training_heard : ¬ (6 ≤ l ∨ (s.link l).state ≠ .training) := by
  rintro (h | h)
  · omega
  · exact h hstate

section
variable (hhalf : (s.link l).half = none)
include hhalf

theorem execRetrainComplete_both : execRetrainComplete l true true s =
    .next (s.modLink l (fun k => { k with state := .up16, failed := none, peer := Config.linkPeer l })) := by
  simp only [execRetrainComplete, if_neg (training_heard hl hstate), hhalf, Bool.and_self, if_true]

theorem execRetrainComplete_lower : execRetrainComplete l true false s = .next ((drawn s).modLink l (fun k =>
    { k with state := .up8, upper := false, failed := some (8 + (Config.freeWord s.fresh).toNat % 8), peer := Config.linkPeer l })) := by
  simp only [execRetrainComplete, if_neg (training_heard hl hstate), hhalf, Bool.and_false, Bool.or_false, Bool.false_eq_true, if_false,
    if_true]
  rfl

theorem execRetrainComplete_upper : execRetrainComplete l false true s = .next ((drawn s).modLink l (fun k =>
    { k with state := .up8, upper := true, failed := some (0 + (Config.freeWord s.fresh).toNat % 8), peer := Config.linkPeer l })) := by
  simp only [execRetrainComplete, if_neg (training_heard hl hstate), hhalf, Bool.false_and, Bool.or_true, Bool.false_eq_true, if_false,
    if_true]
  rfl

end

section
variable {u : Bool} {t : Nat} (hhalf : (s.link l).half = some (u, t))
include hhalf

theorem execRetrainComplete_half (hintime : s.rtime ≤ t + 4000) : execRetrainComplete l true true s = .next ((s.modLink l (fun k => { k with
      state := .up8, upper := u, half := none, again := k.buffer.map (fun (x : Nat × List (List Byte)) => x.1), replays := k.replays + 1 })).record
        (linkCore l) 12 (det cLinkDegraded ((s.link l).failed.getD 0)) 0 false false 0) := by
  simp only [execRetrainComplete, if_neg (training_heard hl hstate), hhalf, ite_self, Bool.not_true, Bool.false_or,
    decide_eq_false (Nat.not_lt.mpr hintime), Bool.false_eq_true, if_false]

theorem execRetrainTimeout_eq : execRetrainTimeout l s = .next (if t + 4000 < s.rtime then s.linkLost l else s) := by
  simp only [execRetrainTimeout, if_neg (training_heard hl hstate), hhalf]

end

theorem execTrainingFailure_lost : execTrainingFailure l s = .next (s.linkLost l) := congrArg _ (if_neg (training_heard hl hstate))

end
end

theorem execTrainingFailure_other {l : Nat} {s : State} (hstate : (s.link l).state ≠ .training) : execTrainingFailure l s = .next s :=
  congrArg _ (if_pos (.inr hstate))

/-- Settles O47: what a flit that comes, a flit that goes, and each change of a link's lanes leave. -/
theorem linkEvents : Obligations.LinkEvents := by
  unfold Obligations.LinkEvents
  refine ⟨?_, fun l s _ hstate bytes => execFlitReceive_down hstate, ?_, ?_, ?_⟩
  · intro l bytes s hl hlen hup good s1 slots seq s2
    refine ⟨fun hbad hasked => ?_, fun hgood h0 => ?_, fun hgood h1 hseq => ?_, fun hgood h3 hseq => ?_, fun hgood hpay hpos hahead => ?_,
      fun hgood hpay hold => ?_⟩
    · exact (execFlitReceive_damaged hl hlen hup hbad).trans (congrArg _ (modLink_ask hasked))
    · exact execFlitReceive_old hl hlen hup hgood (.inl h0)
    · have hone : field bytes 4 1 % 4 = 1 := h1
      have hexec := execFlitReceive_expected hl hlen hup hgood (by omega) hseq
      simp only [hone] at hexec
      exact hexec
    · have hthree : field bytes 4 1 % 4 = 3 := h3
      have hexec := execFlitReceive_expected hl hlen hup hgood (by omega) hseq
      simp only [hthree] at hexec
      exact hexec
    · exact execFlitReceive_early hl hlen hup hgood hpay hpos hahead
    · exact execFlitReceive_old hl hlen hup hgood (.inr hold)
  · intro l s hl s1 k
    exact ⟨execFlitSend_sends hl, execFlitSend_waits hl, fun n slots => ⟨rfl, rfl⟩, loadLink_none⟩
  · intro l s hl k
    refine ⟨fun n rest x hagain hfree hx => execFlitReplay_sends hl hagain hfree hx, execLinkAckTimer_sends hl, execLinkAckTimer_waits hl⟩
  · intro l s hl k
    refine ⟨fun lane hlane => execLaneFault_up16 hl hlane, fun lane hlane => execLaneFault_up8 hl hlane,
      fun lane u t hlane => execLaneFault_training hl hlane, fun hstate hhalf => ?_,
      fun u t hstate hhalf => execRetrainComplete_half hl hstate hhalf, fun u t hstate hhalf => ?_, execTrainingFailure_lost hl,
      execTrainingFailure_other⟩
    · exact ⟨execRetrainComplete_both hl hstate hhalf, execRetrainComplete_lower hl hstate hhalf, execRetrainComplete_upper hl hstate hhalf⟩
    · have hexec := execRetrainTimeout_eq hl hstate hhalf
      exact ⟨fun h => hexec.trans (congrArg _ (if_pos h)), fun h => hexec.trans (congrArg _ (if_neg (Nat.not_lt.mpr h)))⟩

end Sys2Proof.Laws
end

section
/-! SUPPORT. RDMA: where a request's key leads, what takes it, and what answers it (16 R330; 20 R416, R417). -/

namespace Sys2Proof.Laws
open Sys2Proof.Machine

/-! ### A request to an ASID's memory (20 R417) -/

section
variable {rd wr : Bool} {r : Rdma} {s : State}

/-- Some part of a request is not open to it. -/
def shutTo (s : State) (r : Rdma) (rd wr : Bool) : Bool := r.parts.any (fun x => !s.rdmaOpen r.asid x rd wr)

theorem rdmaAsk_shut (h : shutTo s r rd wr = true) : s.rdmaAsk rd wr r = { s with hostAnswer := .accessNak } := if_pos h

theorem rdmaAsk_open (h : shutTo s r rd wr = false) : s.rdmaAsk rd wr r = (drawn s).rdmaTake r := if_neg (Bool.eq_false_iff.mp h)

end

section
variable {rkey : BitVec 32} {va : BitVec 64} {s : State}

theorem execRdmaWrite_asid {a : Nat} {data : List Byte} (hkey : s.keyTo rkey = .asid a) (hdata : data ≠ []) : execRdmaWrite rkey va data s =
    .next (s.rdmaAsk false true (s.rdmaOf a 0 (rdmaParts va data.length) data .swap 0 0)) := by
  have hsome : data.isEmpty = false := List.isEmpty_eq_false_iff.mpr hdata
  simp only [execRdmaWrite, hkey, hsome, Bool.false_eq_true, if_false]

theorem execRdmaRead_asid {a n : Nat} (hkey : s.keyTo rkey = .asid a) (hn : 0 < n) : execRdmaRead rkey va n s =
    .next (s.rdmaAsk true false (s.rdmaOf a 1 (rdmaParts va n) [] .swap 0 0)) := by
  simp only [execRdmaRead, hkey, if_neg (Nat.ne_of_gt hn)]

section
variable {a : Nat} {op : AtomOp} {x y : Word} (hkey : s.keyTo rkey = .asid a)
include hkey

/-- An atomic to a word that is misaligned or not open is refused. -/
theorem rdmaAtomic_shut (h : va.toNat % 8 ≠ 0 ∨ s.rdmaOpen a (va, 8) true true = false) :
    s.rdmaAtomic rkey va op x y = .next { s with hostAnswer := .accessNak } := by
  by_cases halign : va.toNat % 8 = 0
  · have hshut : shutTo s (s.rdmaOf a 2 [(va, 8)] [] op x y) true true = true := by
      have hclosed := h.resolve_left (not_not_intro halign)
      simp only [shutTo, State.rdmaOf, List.any_cons, hclosed, Bool.not_false, Bool.true_or]
    simp only [State.rdmaAtomic, hkey, if_neg (not_not_intro halign), rdmaAsk_shut hshut]
  · simp only [State.rdmaAtomic, hkey, if_pos halign]
    rfl

theorem rdmaAtomic_open (halign : va.toNat % 8 = 0) (hopen : s.rdmaOpen a (va, 8) true true = true) :
    s.rdmaAtomic rkey va op x y = .next ((drawn s).rdmaTake (s.rdmaOf a 2 [(va, 8)] [] op x y)) := by
  have hshut : shutTo s (s.rdmaOf a 2 [(va, 8)] [] op x y) true true = false := by
    simp only [shutTo, State.rdmaOf, List.any_cons, hopen, List.any_nil, Bool.not_true, Bool.or_false]
  simp only [State.rdmaAtomic, hkey, if_neg (not_not_intro halign), rdmaAsk_open hshut]

end

/-! ### A request to the Pacia space (20 R424) -/

theorem execRdmaWrite_pacia (data : List Byte) (hkey : s.keyTo rkey = .pacia) :
    execRdmaWrite rkey va data s = .next (s.rdmaSpace (s.rdmaOf 0 3 [(va, data.length)] data .swap 0 0)) := by
  simp only [execRdmaWrite, hkey]

theorem execRdmaRead_pacia (n : Nat) (hkey : s.keyTo rkey = .pacia) :
    execRdmaRead rkey va n s = .next (s.rdmaSpace (s.rdmaOf 0 4 [(va, n)] [] .swap 0 0)) := by
  simp only [execRdmaRead, hkey]

/-- No request stands before it. -/
theorem rdmaSpace_first (r : Rdma) (h : s.rdmas = []) : s.rdmaSpace r = s.rdmaPacia r := if_pos (by rw [h]; rfl)

theorem rdmaSpace_behind (r : Rdma) (h : s.rdmas ≠ []) : s.rdmaSpace r = { s with fresh := s.fresh + 1, rdmas := s.rdmas ++ [r] } :=
  if_neg (by rw [List.isEmpty_iff]; exact h)

theorem rdmaPacia_write (data : List Byte) : s.rdmaPacia (s.rdmaOf 0 3 [(va, data.length)] data .swap 0 0) =
    match s.paciaWrite va.toNat data with
    | some s1 => s1.answerHost .ack
    | none => s.answerHost .accessNak := rfl

theorem rdmaPacia_read (n : Nat) : s.rdmaPacia (s.rdmaOf 0 4 [(va, n)] [] .swap 0 0) =
    if s.paciaReadable va.toNat n then s.answerHost (.data ((List.range n).map (fun i => s.paciaRead (va.toNat + i))))
    else s.answerHost .accessNak := rfl

end

/-! ### The messages of a request (14 R275; 20 R416) -/

/-- The kind of message that performs a part of n bytes of a request. -/
def rdmaKind (r : Rdma) (n : Nat) : MsgKind :=
  if r.kind = 0 then .copyWrite ((r.data.take n).map (fun (b : Byte) => (b, false)))
  else if r.kind = 1 then .copyRead n 0 else .ratom r.op r.x r.y

/-- With no page moving a part goes whole. -/
theorem rdmaCut_whole {s : State} (r : Rdma) (a : Word) (n : Nat) (rest : List (Word × Nat)) (h : s.migrations = []) :
    s.rdmaCut r a n rest = (n, s) := by
  simp only [State.rdmaCut, h, List.any_nil, Bool.and_false, Bool.false_eq_true, if_false]

theorem listCore_rdmas (s : State) (home : Nat) : (s.listCore home).rdmas = s.rdmas := by
  unfold State.listCore
  split <;> rfl

/-- A request that is the only one is begun with the message of its first part. -/
theorem rdmaTake_alone {r : Rdma} {a : Word} {n : Nat} {rest : List (Word × Nat)} {s : State} (hparts : r.parts = (a, n) :: rest)
    (hkind : r.kind < 3) (halone : s.rdmas = []) (hstill : s.migrations = []) : ∃ m : Msg, (s.rdmaTake r).msgs = s.msgs ++ [m] ∧
      (s.rdmaTake r).rdmas = [r] ∧ m.home = gaHome a ∧ m.off = gaOff a ∧ m.asid = r.asid ∧ m.slot = 17 ∧ m.pend = r.id ∧
      m.kind = rdmaKind r n := by
  have hbegun : s.rdmaTake r = ({ s with rdmas := [r], hostAnswer := .none } : State).rdmaSend := by
    simp only [State.rdmaTake, halone, List.isEmpty_nil, if_true, List.nil_append]
  have hcut := rdmaCut_whole (s := { s with rdmas := [r], hostAnswer := .none }) r a n rest hstill
  rw [hbegun]
  simp only [State.rdmaSend, hkind, if_true, hparts, hcut]
  exact ⟨_, rfl, listCore_rdmas _ _, rfl, rfl, rfl, rfl, rfl, rfl⟩

/-- The last part of the oldest request has been answered. -/
theorem rdmaAnswer_last {m : Msg} {r : Rdma} {x : Word × Nat} {rest : List Rdma} {s : State} (bytes : List Byte) (bad : Bool)
    (hrdmas : s.rdmas = r :: rest) (hid : r.id = m.pend) (hlast : r.parts = [x]) : s.rdmaAnswer m bytes bad =
      ({ s.dropMsg m.id with rdmas := rest, hostAnswer := if bad then .accessNak else if r.kind = 0 then .ack else .data (r.got ++ bytes) } :
        State).rdmaSend := by
  have hdrop : (s.dropMsg m.id).rdmas = r :: rest := hrdmas
  cases bad
  · simp only [State.rdmaAnswer, hdrop, hid, hlast, ne_eq, not_true_eq_false, Bool.false_eq_true, if_false]
    rfl
  · simp only [State.rdmaAnswer, hdrop, hid, ne_eq, not_true_eq_false, if_false, if_true]
    rfl

theorem execCopyWritePerformed_rdma {id : Nat} {m : Msg} {dst : Word} {data : List (Byte × Bool)} {n : Nat} {fault : Option (BitVec 16)}
    {s : State} (hm : s.arrived? id = some m) (hslot : m.slot = 17) (hdev : m.dev = 0) (hk : m.kind = .copyDone dst data n fault) :
    execCopyWritePerformed id s = .next (s.rdmaAnswer m (data.map (fun (y : Byte × Bool) => y.1))
      (fault.isSome || data.any (fun (y : Byte × Bool) => y.2))) := by
  simp only [execCopyWritePerformed, hm, hk, hslot, hdev, bne_self_eq_false, Bool.or_false]
  rfl

end Sys2Proof.Laws
end

section
/-! SUPPORT. The snapshot, the control page, resets and the migration of pages (14 R291; 20 R425-R430). -/

namespace Sys2Proof.Laws
open Sys2Proof.Machine

/-! ### The snapshot (20 R425) -/

/-- The snapshot that a rewrite publishes. -/
def newSnap (s : State) : Snap := s.rewrite.snap

section
variable {s : State}

theorem execSnapshotRewrite_due (hboot : s.booting = false) (hdue : s.snap.stamp + 20000000 ≤ s.rtime) :
    execSnapshotRewrite s = .next s.rewrite := by
  simp only [execSnapshotRewrite, hboot, Bool.false_eq_true, if_false, if_pos hdue]

theorem execSnapshotRewrite_before (hboot : s.booting = false) (hbefore : s.snap.stamp + 20000000 = s.rtime + 1)
    (heven : s.snap.seq % 2 = 0) : execSnapshotRewrite s = .next { s with snap := { s.snap with seq := s.snap.seq + 1 } } := by
  have hnot : ¬ s.snap.stamp + 20000000 ≤ s.rtime := by omega
  simp only [execSnapshotRewrite, hboot, Bool.false_eq_true, if_false, if_neg hnot, if_pos (And.intro hbefore heven)]

theorem execSnapshotRewrite_early (hboot : s.booting = false) (hearly : s.rtime + 1 < s.snap.stamp + 20000000) :
    execSnapshotRewrite s = .next s := by
  have hnot : ¬ s.snap.stamp + 20000000 ≤ s.rtime := by omega
  have hnext : ¬ (s.snap.stamp + 20000000 = s.rtime + 1 ∧ s.snap.seq % 2 = 0) := by omega
  simp only [execSnapshotRewrite, hboot, Bool.false_eq_true, if_false, if_neg hnot, if_neg hnext]

theorem execSnapshotRewrite_booting (hboot : s.booting = true) (hdev : s.devState = 0) : execSnapshotRewrite s = .next
    (if s.links.all (fun (k : Link) => k.state != .training) then ({ s with booting := false, devState := 1 } : State).rewrite else s) := by
  simp only [execSnapshotRewrite, State.hasTrained, hboot, hdev, beq_self_eq_true, Bool.and_self, Bool.true_and, if_true]

end

/-! ### The control page (20 R426, R427; 17 R353) -/

/-- The supported features are the first four, of generation 1. -/
theorem supported_getLsbD (j : Nat) (h : j < 128) : supported.getLsbD j = (decide (j < 4) || j == 120) := by
  revert j
  decide

theorem featRequest_getLsbD (v : BitVec 128) (j : Nat) : (v &&& supported).getLsbD j = (v.getLsbD j && (decide (j < 4) || j == 120)) := by
  rw [BitVec.getLsbD_and]
  by_cases h : j < 128
  · rw [supported_getLsbD j h]
  · rw [BitVec.getLsbD_of_ge v j (Nat.not_lt.mp h), Bool.false_and, Bool.false_and]

/-- Core n takes a drain bit. -/
def drainCore (s : State) (n : Nat) (b : Bool) : State :=
  if (s.core n).drained == b then s else s.modCore n (fun k => { k with drained := b })

theorem drainCore_drained (s : State) (n : Nat) (b : Bool) (c : Nat) :
    ((drainCore s n b).core c).drained = if c = n then b else (s.core c).drained := by
  unfold drainCore
  by_cases hc : c = n
  · subst hc
    rw [if_pos rfl]
    split
    next h => exact eq_of_beq h
    next => rw [State.core_modCore]
  · rw [if_neg hc]
    split
    · rfl
    · rw [State.core_modCore_other s _ hc]

/-- Draining changes neither memory nor the other drains. -/
theorem drainCore_rest (s : State) (n : Nat) (b : Bool) : (drainCore s n b).mem = s.mem ∧ (drainCore s n b).drain = s.drain := by
  unfold drainCore
  split <;> exact ⟨rfl, rfl⟩

/-- The first k bits of a word from core `first` on have been taken. -/
theorem drainBits_drained (s : State) (first : Nat) (v : Word) (k c : Nat) :
    (((List.range k).foldl (fun s i => drainCore s (first + i) (v.getLsbD i)) s).core c).drained =
      if first ≤ c ∧ c < first + k then v.getLsbD (c - first) else (s.core c).drained := by
  induction k with
  | zero => rw [if_neg (by omega)]; rfl
  | succ k ih =>
    rw [List.range_succ, List.foldl_append, List.foldl_cons, List.foldl_nil, drainCore_drained, ih]
    by_cases hc : c = first + k
    · rw [if_pos hc, if_pos (by omega), hc, Nat.add_sub_cancel_left]
    · rw [if_neg hc]
      exact if_congr (by omega) rfl rfl

theorem drainWord_drained (s : State) (first : Nat) (v : Word) (c : Nat) :
    ((s.drainWord first v).core c).drained = if first ≤ c ∧ c < first + 64 then v.getLsbD (c - first) else (s.core c).drained :=
  drainBits_drained s first v 64 c

theorem drainWord_rest (s : State) (first : Nat) (v : Word) : (s.drainWord first v).mem = s.mem ∧ (s.drainWord first v).drain = s.drain :=
  List.foldlRecOn (motive := fun t => t.mem = s.mem ∧ t.drain = s.drain) _ _ ⟨rfl, rfl⟩ fun t ht i _ =>
    ⟨(drainCore_rest t (first + i) (v.getLsbD i)).1.trans ht.1, (drainCore_rest t (first + i) (v.getLsbD i)).2.trans ht.2⟩

/-- The cores of the first k words of cdrain have taken their bits. -/
def drainWords (s : State) (v : BitVec 1024) (k : Nat) : State :=
  (List.range k).foldl (fun s w => s.drainWord (64 * w) (v.extractLsb' (64 * w) 64)) s

theorem drainWords_drained (s : State) (v : BitVec 1024) (k c : Nat) :
    ((drainWords s v k).core c).drained = if c < 64 * k then v.getLsbD c else (s.core c).drained := by
  induction k with
  | zero => rw [if_neg (by omega)]; rfl
  | succ k ih =>
    rw [drainWords, List.range_succ, List.foldl_append, List.foldl_cons, List.foldl_nil, ← drainWords, drainWord_drained, ih]
    by_cases hc : 64 * k ≤ c ∧ c < 64 * k + 64
    · have hin : c - 64 * k < 64 := by omega
      have hbit : 64 * k + (c - 64 * k) = c := by omega
      rw [if_pos hc, if_pos (by omega), BitVec.getLsbD_extractLsb', decide_eq_true hin, Bool.true_and, hbit]
    · rw [if_neg hc]
      exact if_congr (by omega) rfl rfl

theorem drainWords_rest (s : State) (v : BitVec 1024) (k : Nat) : (drainWords s v k).mem = s.mem ∧ (drainWords s v k).drain = s.drain :=
  List.foldlRecOn (motive := fun t => t.mem = s.mem ∧ t.drain = s.drain) _ _ ⟨rfl, rfl⟩ fun t ht w _ =>
    ⟨(drainWord_rest t (64 * w) (v.extractLsb' (64 * w) 64)).1.trans ht.1, (drainWord_rest t (64 * w) (v.extractLsb' (64 * w) 64)).2.trans ht.2⟩

theorem execCdrainWrite_drains {s : State} {v : BitVec 1024} (hdev : s.devState ≠ 0) : execCdrainWrite v s = .next (drainWords s v 16) := by
  rw [execCdrainWrite, if_neg hdev, drainWords]

/-! ### Power-on reset and the watchdog (20 R430; 18 R370) -/

/-- The machine at power-on, before its self-test. -/
def unproven (s : State) : State :=
  { State.reset with fw := { s.fw with version := s.fw.next.getD s.fw.version, next := none }, agenda := s.agenda, fresh := s.fresh }

/-- The machine whose steps of power-on reset have passed, with what its self-test has found. -/
def poweredOn (caps : List Nat) (found : List (Nat × Option (Nat × Nat × BitVec 12))) (s : State) : State :=
  { found.foldl (fun s x => if x.1 < 1024 then s.modCore x.1 (fun k => k.tested x.2) else s) (unproven s) with
    farCap := (List.range 16).map (fun j => (j, dataCapacity ((caps[j / 2]?).getD 0 / 2)))
    portsDown := (List.range 8).filter (fun p => (caps[p]?).getD 0 == 0)
    booting := true }

theorem poweredOn_core (caps : List Nat) {n : Nat} (x : Option (Nat × Nat × BitVec 12)) (s : State) (hn : n < 1024) :
    (poweredOn caps [(n, x)] s).core n = (Core.resetAt n 0).tested x := by
  have hcore : ((unproven s).modCore n (fun k => k.tested x)).core n = ((unproven s).core n).tested x := State.core_modCore _ _ _
  rw [poweredOn, List.foldl_cons, List.foldl_nil, if_pos hn]
  exact hcore

/-- A lost device has no ridge that goes on. -/
theorem actByGrade_lost {s : State} {c sl : Nat} {code : BitVec 16} (hgrade : grade code = 7) :
    ∀ r ∈ (s.actByGrade c sl code).ridges, r.state = .ending ∨ r.state = .ended := by
  intro r hr
  simp only [State.actByGrade, hgrade, Nat.reduceEqDiff, Nat.reduceLeDiff, if_false, if_true] at hr
  obtain ⟨x, -, rfl⟩ := List.mem_map.mp hr
  dsimp only
  cases x.state <;> simp

/-! ### Migration (14 R291, R292) -/

/-- A page whose leases have gone begins to move; until then it waits. -/
theorem execPageLineCopy_waiting {id : Nat} {m : Migration} {s : State}
    (hm : s.migrations.find? (fun (m : Migration) => m.id == id) = some m) (hwait : m.waiting = true) : execPageLineCopy id s =
      .next (if s.mayMove m then s.modMigration id (fun x => { x with waiting := false }) else s) := by
  simp only [execPageLineCopy, hm, hwait, if_true]

section
variable {id : Nat} {m : Migration} {s : State} (hm : s.migrations.find? (fun (m : Migration) => m.id == id) = some m)
  (hwait : m.waiting = false) (hbusy : m.busy = false)
include hm hwait hbusy

theorem execPageLineCopy_asks (hmore : 64 * m.copied < m.bytes) (hold : m.home < 1024) (hnew : m.newHome < 1024) :
    execPageLineCopy id s = .next ((s.modMigration id (fun x => { x with busy := true })).inject (.copyRead 64 0) m.home 19 id m.home
      (m.off + 64 * m.copied) 0 m.asid 0) := by
  simp only [execPageLineCopy, hm, hwait, hbusy, if_neg (Nat.not_le.mpr hmore), State.homeUp, decide_eq_true hold, decide_eq_true hnew,
    Bool.true_or, Bool.not_true, Bool.or_self, Bool.false_eq_true, if_false]

/-- The page maps to its new home. -/
def movedPage (m : Migration) (p : Page) : Page := if p.va = m.va then { p with home := m.newHome, off := m.newOff } else p

/-- The page is at its new home. -/
def pageMoved (s : State) (id : Nat) (m : Migration) : State := { s with
  migrations := s.migrations.filter (fun (x : Migration) => x.id != id)
  asids := replaceFirst (fun (a : Asid) => a.id == m.asid) (fun a => { a with pages := a.pages.map (movedPage m) }) s.asids }

theorem execPageLineCopy_ends (hdone : m.bytes ≤ 64 * m.copied) : execPageLineCopy id s = .next (pageMoved s id m) := by
  simp only [execPageLineCopy, hm, hwait, hbusy, if_pos hdone, Bool.false_eq_true, if_false]
  rfl

end

/-- A page has begun to move, or waits for its leases. -/
def moveBegun (s : State) (m : Migration) : State := { s with
  fresh := s.fresh + 1
  migrations := s.migrations ++ [{ m with waiting := !s.mayMove m }]
  asids := replaceFirst (fun (a : Asid) => a.id == m.asid) (fun a => { a with pages := a.pages.flatMap (fun x => x.split m.va m.bytes) }) s.asids }

theorem execPageMigrationStart_begins {asid home off : Nat} {va : BitVec 64} {p : Page} {s : State}
    (hp : s.page? asid (va.toNat % 2 ^ 53 / Config.homeSpan) (va.toNat % 2 ^ 53 % Config.homeSpan) 1 = some p)
    (halign : va.toNat % 2 ^ 53 % p.pageBytes (va.toNat % 2 ^ 53) = 0) (hoff : off % p.pageBytes (va.toNat % 2 ^ 53) = 0) (hhome : home < 1040)
    (hroom : off + p.pageBytes (va.toNat % 2 ^ 53) ≤ (if home < 1024 then Config.vaultBytes else (assocGet s.farCap (home - 1024)).getD 0))
    (hfirst : s.migrations.any (fun (m : Migration) => m.asid == asid && m.va == va.toNat % 2 ^ 53) = false) :
    execPageMigrationStart asid va home off s = .next (moveBegun s ⟨s.fresh, asid, va.toNat % 2 ^ 53, p.pageBytes (va.toNat % 2 ^ 53), p.home,
      p.off + (va.toNat % 2 ^ 53 - p.va), home, off, 0, true, false⟩) := by
  simp only [execPageMigrationStart, hp, halign, hoff, hfirst, Nat.not_le.mpr hhome, Nat.not_lt.mpr hroom, ne_eq, not_true_eq_false,
    Bool.false_eq_true, or_self, if_false]
  rfl

/-! ### The copy of a line (14 R291) -/

theorem DebugOnly.msgs {s t : State} (h : DebugOnly s t) : t.msgs = s.msgs := by
  obtain ⟨cs, ht⟩ := h.rest
  rw [ht]

theorem sendLine_sends {s : State} {m : Msg} {g : Migration} (data : List (Byte × Bool))
    (hg : s.migrations.find? (fun (x : Migration) => x.id == m.pend) = some g) : ∃ w : Msg, (s.sendLine m data).msgs.getLast? = some w ∧
      w.home = g.newHome ∧ w.off = g.newOff + 64 * g.copied ∧ w.kind = .copyWrite data := by
  simp only [State.sendLine, hg, State.inject]
  exact ⟨_, List.getLast?_concat, rfl, rfl, rfl⟩

/-- The last beat of a line copy sends the line to its new home. -/
theorem execHomeCopyRead_line {c n h off : Nat} {m : Msg} {dst : Word} {s : State} (hm : s.agentMsg? c = some m)
    (hhere : s.forwardTo m = none) (hfirst : s.behindRefused m = false) (hslot : m.slot = 19) (hk : m.kind = .copyRead n dst)
    (hbeat : s.hasBeat c .agentRun = true) (hat : s.copyAt m n true false = .ok h off) (hlast : n ≤ beatBytes off n)
    (hgot : (s.core c).agentGot = []) : execHomeCopyRead c s =
      .next (((s.sense c off (beatBytes off n) m.actor).agentDone c).sendLine m
        ((s.sense c off (beatBytes off n) m.actor).copyBytes c off (beatBytes off n))) := by
  have hall : ¬ ((s.sense c off (beatBytes off n) m.actor).copyBytes c off (beatBytes off n)).length < n := by
    rw [State.copyBytes, List.length_map, List.length_range]
    omega
  refine congrArg _ (runAgent_runs hm hhere hfirst ?_)
  simp only [hk, hat, hbeat, hgot, hslot, List.length_nil, Nat.add_zero, Nat.sub_zero, List.nil_append, Bool.not_true, Bool.false_eq_true,
    if_neg hall, if_false, if_true]

theorem execCopyWritePerformed_line {id n : Nat} {m : Msg} {dst : Word} {data : List (Byte × Bool)} {fault : Option (BitVec 16)} {s : State}
    (hm : s.arrived? id = some m) (hslot : m.slot = 19) (hdev : m.dev = 0) (hk : m.kind = .copyDone dst data n fault) :
    execCopyWritePerformed id s = .next (s.lineDone m fault.isSome) := by
  simp only [execCopyWritePerformed, hm, hk, hslot, hdev, bne_self_eq_false, Bool.or_false]
  rfl

theorem lineDone_failed (s : State) (m : Msg) : s.lineDone m true = { s.dropMsg m.id with
    migrations := replaceFirst (fun (x : Migration) => x.id == m.pend)
      (fun x => { x with busy := false, copied := if m.off = x.newHome then x.copied - 1 else x.copied }) s.migrations } := by
  simp only [State.lineDone, Bool.true_and, beq_iff_eq]

/-- Settles O48: requests over RDMA, the snapshot, the control page, the resets and the migration of a page. -/
theorem hostEvents : Obligations.HostEvents := by
  unfold Obligations.HostEvents
  refine ⟨?_, ?_, ?_, ?_, ?_, ?_, ?_, ?_, ?_, ?_, ?_, ?_, ?_, ?_, ?_, ?_, ?_, ?_, ?_, ?_, ?_, ?_, ?_, ?_⟩
  · intro rkey va s hkey nak
    refine ⟨fun data => ?_, fun n => ?_, fun x y => ?_, fun x => ?_⟩
    · show execRdmaWrite rkey va data s = _
      simp only [execRdmaWrite, hkey]
      rfl
    · show execRdmaRead rkey va n s = _
      simp only [execRdmaRead, hkey]
      rfl
    · show s.rdmaAtomic rkey va .cas x y = _
      simp only [State.rdmaAtomic, hkey]
      rfl
    · show s.rdmaAtomic rkey va .add x 0 = _
      simp only [State.rdmaAtomic, hkey]
      rfl
  · intro rkey a va s hkey taken shut
    refine ⟨fun data hdata => ?_, fun n hn => ?_, fun x y => ?_⟩
    · have hexec := execRdmaWrite_asid (va := va) hkey hdata
      exact ⟨fun h => hexec.trans (congrArg _ (rdmaAsk_shut h)), fun h => hexec.trans (congrArg _ (rdmaAsk_open h))⟩
    · have hexec := execRdmaRead_asid (va := va) hkey hn
      exact ⟨fun h => hexec.trans (congrArg _ (rdmaAsk_shut h)), fun h => hexec.trans (congrArg _ (rdmaAsk_open h))⟩
    · exact ⟨fun h => ⟨rdmaAtomic_shut hkey h, rdmaAtomic_shut hkey h⟩,
        fun halign hopen => ⟨rdmaAtomic_open hkey halign hopen, rdmaAtomic_open hkey halign hopen⟩⟩
  · intro rkey va s hkey hbehind data
    exact ⟨s.rdmaOf 0 3 [(va, data.length)] data .swap 0 0, rfl, rfl, rfl,
      (execRdmaWrite_pacia data hkey).trans (congrArg _ (rdmaSpace_behind _ hbehind))⟩
  · intro rkey va s hkey hfirst
    refine ⟨fun data t ht => ?_, fun data ht => ?_, fun n hn => ?_, fun n hn => ?_, fun x y => ⟨?_, ?_⟩⟩
    · refine (execRdmaWrite_pacia data hkey).trans (congrArg _ ?_)
      rw [rdmaSpace_first _ hfirst, rdmaPacia_write, ht]
      rfl
    · refine (execRdmaWrite_pacia data hkey).trans (congrArg _ ?_)
      rw [rdmaSpace_first _ hfirst, rdmaPacia_write, ht]
      rfl
    · refine (execRdmaRead_pacia n hkey).trans (congrArg _ ?_)
      rw [rdmaSpace_first _ hfirst, rdmaPacia_read, if_pos hn]
      rfl
    · refine (execRdmaRead_pacia n hkey).trans (congrArg _ ?_)
      rw [rdmaSpace_first _ hfirst, rdmaPacia_read, if_neg (Bool.eq_false_iff.mp hn)]
      rfl
    · show s.rdmaAtomic rkey va .cas x y = _
      simp only [State.rdmaAtomic, hkey]
      rfl
    · show s.rdmaAtomic rkey va .add x 0 = _
      simp only [State.rdmaAtomic, hkey]
      rfl
  · intro r a n rest s hparts hkind halone hstill
    exact rdmaTake_alone hparts hkind halone hstill
  · intro id m r x rest s hm hslot hdev hrdmas hid hlast s1
    refine ⟨fun dst data n hk hclean => ?_, fun dst data n code hk => ?_⟩
    · refine (execCopyWritePerformed_rdma hm hslot hdev hk).trans (congrArg _ ?_)
      rw [hclean, rdmaAnswer_last _ _ hrdmas hid hlast]
      rfl
    · refine (execCopyWritePerformed_rdma hm hslot hdev hk).trans (congrArg _ ?_)
      rw [Option.isSome_some, Bool.true_or, rdmaAnswer_last _ _ hrdmas hid hlast]
      rfl
  · intro op s
    rfl
  · intro s hboot
    refine ⟨fun hdue => ⟨newSnap s, execSnapshotRewrite_due hboot hdue, ?_, ?_, rfl, rfl, rfl, rfl, rfl, List.length_map _⟩,
      execSnapshotRewrite_before hboot, execSnapshotRewrite_early hboot⟩
    · show (2 * (s.snap.seq / 2) + 2) % 2 = 0
      omega
    · show s.snap.seq < 2 * (s.snap.seq / 2) + 2
      omega
  · intro s hboot hdev
    have hexec := execSnapshotRewrite_booting hboot hdev
    refine ⟨fun h => ⟨newSnap { s with booting := false, devState := 1 }, ?_, rfl, rfl⟩,
      fun h => hexec.trans (congrArg _ (if_neg (Bool.eq_false_iff.mp h)))⟩
    rw [if_pos h] at hexec
    exact hexec
  · intro v s
    exact ⟨fun hdev hgen => ⟨v &&& supported, congrArg _ (if_pos ⟨hdev, hgen⟩), featRequest_getLsbD v⟩,
      fun hdev => congrArg _ (if_neg (fun h => hdev h.1))⟩
  · intro v s
    exact ⟨fun h => congrArg _ (if_pos h), fun h => congrArg _ (if_neg (Bool.eq_false_iff.mp h)), fun h => congrArg _ (if_neg h),
      fun h => congrArg _ (if_pos h)⟩
  · intro v s hdev
    refine ⟨drainWords s v 16, execCdrainWrite_drains hdev, (drainWords_rest s v 16).1, (drainWords_rest s v 16).2, fun n hn => ?_⟩
    rw [drainWords_drained, if_pos hn]
  · intro v w s hdev
    exact ⟨congrArg _ (if_pos hdev), fun c off => execRegisterWrite_recovery hdev⟩
  · intro fn slot s done
    rfl
  · intro bist caps dead s
    exact ⟨_, rfl, rfl, rfl, rfl, rfl, rfl, rfl⟩
  · intro caps s
    exact ⟨_, rfl, rfl, rfl, rfl, rfl, rfl⟩
  · intro caps n x s hn
    have hcore := poweredOn_core caps x s hn
    refine ⟨poweredOn caps [(n, x)] s, rfl, ?_, rfl, ?_, ?_⟩
    · rw [poweredOn, List.foldl_cons, List.foldl_nil, if_pos hn]
      rfl
    · rintro rfl
      rw [hcore]
      rfl
    · rintro gcap vcap redmask rfl
      rw [hcore]
      exact ⟨rfl, rfl, rfl, rfl⟩
  · intro s
    refine ⟨_, rfl, rfl, ?_, ?_⟩
    · exact (actByGrade_logCount _ _ _ _).trans (record_logCount ..)
    · exact actByGrade_lost (by decide)
  · intro port up s
    rfl
  · intro asid va home off p s v hp n halign hoff hhome hroom hfirst m
    exact execPageMigrationStart_begins hp halign hoff hhome hroom hfirst
  · intro id m s hm set
    refine ⟨fun hwait hmay => ?_, fun hwait hmay => ?_, execPageLineCopy_asks hm, execPageLineCopy_ends hm⟩
    · exact (execPageLineCopy_waiting hm hwait).trans (congrArg _ (if_pos hmay))
    · exact (execPageLineCopy_waiting hm hwait).trans (congrArg _ (if_neg (Bool.eq_false_iff.mp hmay)))
  · intro c m dst n h off g s hm hhere hfirst hslot hk hbeat hat hlast hgot s1 hg
    exact ⟨_, execHomeCopyRead_line hm hhere hfirst hslot hk hbeat hat hlast hgot, sendLine_sends _ hg⟩
  · intro id m dst data n s hm hslot hdev hk
    exact execCopyWritePerformed_line hm hslot hdev hk
  · intro id m dst data n code s hm hslot hdev hk
    exact (execCopyWritePerformed_line hm hslot hdev hk).trans (congrArg _ (lineDone_failed s m))

end Sys2Proof.Laws
end

section
/-! SUPPORT. The commands of the Pacia slots: the answer of each one's function, and the state it ends in (20 R429-R431). -/

namespace Sys2Proof.Laws
open Sys2Proof.Machine

/-! ### The order of the bells -/

/-- Bytes of the command slots change nothing else. -/
theorem paciaPut_rest (bs : List Byte) : ∀ (s : State) (off : Nat), ∃ p, s.paciaPut off bs = { s with pacia := p } := by
  induction bs with
  | nil => exact fun s off => ⟨s.pacia, rfl⟩
  | cons b rest ih =>
    intro s off
    obtain ⟨p, hp⟩ := ih { s with pacia := memSet s.pacia off b } (off + 1)
    exact ⟨p, hp⟩

theorem paciaPut_rung (s : State) (off : Nat) (bs : List Byte) : (s.paciaPut off bs).rung = s.rung := by
  obtain ⟨_, h⟩ := paciaPut_rest bs s off
  rw [h]

/-- The order of the bells does not matter to the bytes. -/
theorem paciaPut_setRung (bs : List Byte) (q : List Nat) : ∀ (s : State) (off : Nat),
    { s.paciaPut off bs with rung := q } = ({ s with rung := q } : State).paciaPut off bs := by
  induction bs with
  | nil => exact fun s off => rfl
  | cons b rest ih => exact fun s off => ih { s with pacia := memSet s.pacia off b } (off + 1)

theorem assistRecord_rung (s : State) (fn slot : Nat) : (s.assistRecord fn slot).rung = s.rung := by
  unfold State.assistRecord
  dsimp only
  generalize (List.range 8).flatMap _ = bs
  generalize 0x03000000 + 0x3000 * fn + 64 * slot = off
  exact paciaPut_rung s off bs

theorem ask_rung (s : State) (fn obj : Nat) : (s.ask fn obj).2.rung = s.rung := by
  unfold State.ask
  cases s.assist.find? (fun a => a.fn == fn && a.obj == obj) with
  | some a =>
    cases ha : a.answered with
    | true => simp only [ha, if_true]
    | false => simp only [ha, Bool.false_eq_true, if_false]
  | none =>
    cases s.modes.getLsbD fn with
    | true =>
      have hrec := assistRecord_rung s fn ((s.assistCount[fn]?).getD 0 % 128)
      simp only [if_true]
      generalize s.assistRecord fn ((s.assistCount[fn]?).getD 0 % 128) = t at hrec ⊢
      exact hrec
    | false => simp only [Bool.false_eq_true, if_false]

/-- What a message of the scheduler leaves: the launches and the order of the bells. -/
def SameOrders (s t : State) : Prop := t.launches = s.launches ∧ t.rung = s.rung

theorem SameOrders.trans {s t u : State} (h : SameOrders s t) (h' : SameOrders t u) : SameOrders s u :=
  ⟨h'.1.trans h.1, h'.2.trans h.2⟩

theorem listCore_orders (s : State) (home : Nat) : SameOrders s (s.listCore home) := by
  unfold State.listCore
  split <;> exact ⟨rfl, rfl⟩

theorem trace_orders (s : State) (c sl kind : Nat) (pc : Word) (pay : List Byte) : SameOrders s (s.trace c sl kind pc pay) := by
  unfold State.trace
  split <;> exact ⟨rfl, rfl⟩

theorem jobSend_orders (s : State) (j : Job) : SameOrders s (s.jobSend j) := by
  unfold State.jobSend
  split
  · exact ⟨rfl, rfl⟩
  · dsimp only
    refine SameOrders.trans ?_ (listCore_orders _ _)
    split
    · exact trace_orders ..
    · exact ⟨rfl, rfl⟩

theorem jobBegin_orders (s : State) (asid core : Nat) (fn : JobFn) (obj : Nat) (launch : Option Nat) (ops : List JobOp) :
    SameOrders s (s.jobBegin asid core fn obj launch ops) := jobSend_orders _ _

end Sys2Proof.Laws
end

section
/-! SUPPORT. What each command's function answers (14; 17; 19; 20 R429-R432). -/

namespace Sys2Proof.Laws
open Sys2Proof.Machine

section
variable {slot : Nat} {s : State}

/-- An ASID of the device. -/
def hasAsid (s : State) (a : Nat) : Bool := s.asids.any (fun (x : Asid) => x.id == a)

/-- The check of a command on its ASID, in the form in which the commands write it. -/
theorem asid_passes {n : Nat} (h : hasAsid s n = true) : ¬ (!s.asids.any (fun (a : Asid) => a.id == n)) = true := by
  rw [hasAsid] at h
  rw [h]
  exact Bool.false_ne_true

theorem asid_fails {n : Nat} (h : hasAsid s n = false) : (!s.asids.any (fun (a : Asid) => a.id == n)) = true := congrArg (!·) h

/-! ### ASIDs and grants -/

/-- An ASID that is still used. -/
def asidBusy (s : State) (n : Nat) : Bool :=
  s.ridges.any (fun (r : Ridge) => r.asid == n && r.state != .ended) || s.queues.any (fun (q : Queue) => q.asid == n)

section
variable {n ceil mw : Nat} {boost : Bool}

theorem execAsidCreate_large (hturn : CommandTurn s 0x01 slot) (hn : 512 ≤ n) : Ends s slot 2 s (execAsidCreate slot n ceil mw boost s) :=
  runCommand_ends hturn (if_pos hn) rfl

theorem execAsidCreate_again (hturn : CommandTurn s 0x01 slot) (hn : n < 512) (hknown : hasAsid s n = true) :
    Ends s slot 4 s (execAsidCreate slot n ceil mw boost s) :=
  runCommand_ends hturn ((if_neg (Nat.not_le.mpr hn)).trans (if_pos (.inr (.inr hknown)))) rfl

/-- The rkey of an ASID names it above its 21 free bits (20 R417). -/
theorem rkey_asid {n : Nat} (hn : n < 512) (k : BitVec 32) : (BitVec.ofNat 32 (n * 2 ^ 21) ||| (k &&& 0x1FFFFF#32)).toNat / 2 ^ 21 = n := by
  have hlow : (k &&& 0x1FFFFF#32).toNat / 2 ^ 21 = 0 := by
    have hand : (k &&& 0x1FFFFF#32).toNat ≤ 0x1FFFFF := by
      rw [BitVec.toNat_and]
      exact Nat.and_le_right
    omega
  have hhigh : (BitVec.ofNat 32 (n * 2 ^ 21)).toNat = n * 2 ^ 21 := by
    rw [BitVec.toNat_ofNat]
    omega
  rw [BitVec.toNat_or, ← Nat.shiftRight_eq_div_pow, Nat.shiftRight_or_distrib, Nat.shiftRight_eq_div_pow, Nat.shiftRight_eq_div_pow, hlow, hhigh,
    Nat.or_zero, Nat.mul_div_cancel _ (by decide)]

/-- The ASID that a command creates. -/
def newAsid (s : State) (n ceil mw : Nat) (boost : Bool) : Asid :=
  { id := n, ceil := ceil, mw := mw, boost := boost, rkey := BitVec.ofNat 32 (n * 2 ^ 21) ||| (Config.freeRkey s.fresh &&& 0x1FFFFF#32),
    suspect := false, gfrn := 0, sample := 0, keyName := s.fresh + 1, pages := s.newPages, hostWins := [] }

/-- The state with a new ASID, its rkey in the command's slot. -/
def asidMade (s : State) (slot : Nat) (a : Asid) : State :=
  ({ s with asids := s.asids ++ [a], fresh := s.fresh + 2 } : State).paciaPut (0x02000000 + 64 * slot + 8) (leBytes a.rkey.toNat 4)

theorem paciaPut_asids (s : State) (off : Nat) (bs : List Byte) : (s.paciaPut off bs).asids = s.asids := by
  obtain ⟨_, h⟩ := paciaPut_rest bs s off
  rw [h]

theorem execAsidCreate_makes (hturn : CommandTurn s 0x01 slot) (hn : n < 512) (hknown : hasAsid s n = false) (hdev : s.devState = 2)
    (hnum : s.devNum ≠ 0) : Ends s slot 1 (asidMade s slot (newAsid s n ceil mw boost)) (execAsidCreate slot n ceil mw boost s) := by
  have hfree : ¬ (s.devState ≠ 2 ∨ s.devNum = 0 ∨ s.asids.any (fun a => a.id == n) = true) := by
    rw [hasAsid] at hknown
    rw [hknown, hdev]
    simp only [ne_eq, not_true_eq_false, hnum, Bool.false_eq_true, or_self, not_false_eq_true]
  refine runCommand_ends hturn ((if_neg (Nat.not_le.mpr hn)).trans (if_neg hfree)) ?_
  exact paciaPut_rung _ _ _

theorem execAsidCreate_asids (hturn : CommandTurn s 0x01 slot) (hn : n < 512) (hknown : hasAsid s n = false) (hdev : s.devState = 2)
    (hnum : s.devNum ≠ 0) : ∃ t : State, execAsidCreate slot n ceil mw boost s = .next t ∧ t.asids = s.asids ++ [newAsid s n ceil mw boost] :=
  ⟨_, execAsidCreate_makes hturn hn hknown hdev hnum, (paciaPut_asids _ _ _).trans (paciaPut_asids _ _ _)⟩

theorem execAsidRelease_unknown (hturn : CommandTurn s 0x02 slot) (hknown : hasAsid s n = false) : Ends s slot 2 s (execAsidRelease slot n s) :=
  runCommand_ends hturn (if_pos (asid_fails hknown)) rfl

theorem execAsidRelease_busy (hturn : CommandTurn s 0x02 slot) (hknown : hasAsid s n = true) (hbusy : asidBusy s n = true) :
    Ends s slot 4 s (execAsidRelease slot n s) :=
  runCommand_ends hturn ((if_neg (asid_passes hknown)).trans (if_pos hbusy)) rfl

theorem execAsidRelease_free (hturn : CommandTurn s 0x02 slot) (hknown : hasAsid s n = true) (hbusy : asidBusy s n = false) :
    Ends s slot 1 { s with asids := s.asids.filter (fun (a : Asid) => a.id != n) } (execAsidRelease slot n s) :=
  runCommand_ends hturn ((if_neg (asid_passes hknown)).trans (if_neg (Bool.not_eq_true _ ▸ hbusy))) rfl

theorem execGrantSet_unknown (hturn : CommandTurn s 0x03 slot) (hknown : hasAsid s n = false) :
    Ends s slot 2 s (execGrantSet slot n ceil mw boost s) :=
  runCommand_ends hturn (if_pos (asid_fails hknown)) rfl

theorem execGrantSet_known (hturn : CommandTurn s 0x03 slot) (hknown : hasAsid s n = true) :
    Ends s slot 1 { s with
      asids := replaceFirst (fun (a : Asid) => a.id == n) (fun a => { a with next := some (ceil, mw, boost) }) s.asids }
      (execGrantSet slot n ceil mw boost s) :=
  runCommand_ends hturn (if_neg (asid_passes hknown)) rfl

end

/-! ### Queues -/

section
variable {q a n : Nat} {ring : BitVec 64}

theorem queueCreate_passes (hq : q < 512) (hlow : 2 ≤ n) (hhigh : n ≤ 65536) (hknown : hasAsid s a = true) :
    ¬ (512 ≤ q ∨ n < 2 ∨ 65536 < n ∨ (!s.asids.any (fun (x : Asid) => x.id == a)) = true) := by
  have hasid := asid_passes hknown
  rintro (h | h | h | h)
  · omega
  · omega
  · omega
  · exact hasid h

theorem execQueueCreate_makes (hturn : CommandTurn s 0x04 slot) (hq : q < 512) (hlow : 2 ≤ n) (hhigh : n ≤ 65536) (hknown : hasAsid s a = true)
    (hnone : s.queue? q = none) :
    Ends s slot 1 { s with queues := s.queues ++ [⟨q, a, ring, n, 0, 0, none, false⟩] } (execQueueCreate slot q a ring n s) := by
  have hfree : ¬ (s.queue? q).isSome = true := by rw [hnone]; exact Bool.false_ne_true
  exact runCommand_ends hturn ((if_neg (queueCreate_passes hq hlow hhigh hknown)).trans (if_neg hfree)) rfl

theorem execQueueCreate_again (hturn : CommandTurn s 0x04 slot) (hq : q < 512) (hlow : 2 ≤ n) (hhigh : n ≤ 65536) (hknown : hasAsid s a = true)
    (hsome : s.queue? q ≠ none) : Ends s slot 4 s (execQueueCreate slot q a ring n s) :=
  runCommand_ends hturn ((if_neg (queueCreate_passes hq hlow hhigh hknown)).trans (if_pos (Option.isSome_iff_ne_none.mpr hsome))) rfl

theorem execQueueDestroy_unknown (hturn : CommandTurn s 0x05 slot) (hnone : s.queue? q = none) : Ends s slot 2 s (execQueueDestroy slot q s) :=
  runCommand_ends hturn (if_pos (Option.isNone_iff_eq_none.mpr hnone)) rfl

/-- A launch that keeps its queue: one past checking, or a replay. -/
def keepsQueue (s : State) (q : Nat) : Bool := s.launches.any (fun (l : Launch) => l.queue == q && (l.replay || l.state != .checking))

theorem keepsQueue_true (h : ∃ l ∈ s.launches, l.queue = q ∧ (l.state ≠ .checking ∨ l.replay = true)) : keepsQueue s q = true := by
  obtain ⟨l, hl, hlq, hkeep⟩ := h
  refine List.any_eq_true.mpr ⟨l, hl, ?_⟩
  rw [Bool.and_eq_true, Bool.or_eq_true, beq_iff_eq, bne_iff_ne]
  exact ⟨hlq, hkeep.symm⟩

theorem keepsQueue_false (h : ∀ l ∈ s.launches, l.queue = q → l.state = .checking ∧ l.replay = false) : keepsQueue s q = false := by
  refine List.any_eq_false.mpr fun l hl => ?_
  rw [Bool.and_eq_true, Bool.or_eq_true, beq_iff_eq, bne_iff_ne]
  rintro ⟨hlq, hreplay | hstate⟩
  · exact Bool.false_ne_true ((h l hl hlq).2.symm.trans hreplay)
  · exact hstate (h l hl hlq).1

theorem execQueueDestroy_kept (hturn : CommandTurn s 0x05 slot) (hsome : s.queue? q ≠ none) (hkeep : keepsQueue s q = true) :
    Ends s slot 4 s (execQueueDestroy slot q s) :=
  runCommand_ends hturn ((if_neg (fun h => hsome (Option.isNone_iff_eq_none.mp h))).trans (if_pos hkeep)) rfl

theorem execQueueDestroy_gone (hturn : CommandTurn s 0x05 slot) (hsome : s.queue? q ≠ none) (hkeep : keepsQueue s q = false) :
    Ends s slot 1 (s.withoutQueue q) (execQueueDestroy slot q s) := by
  have hnot : ¬ keepsQueue s q = true := by rw [hkeep]; exact Bool.false_ne_true
  exact runCommand_ends hturn ((if_neg (fun h => hsome (Option.isNone_iff_eq_none.mp h))).trans (if_neg hnot)) rfl

end

/-! ### Caps, numbers, routes and host windows -/

section
variable {seq watts ms : Nat}

theorem execCap_newer (hturn : CommandTurn s 0x06 slot) (hmode : s.modes.getLsbD 4 = false) (hseq : ∀ n, s.capSeq = some n → n < seq) :
    Ends s slot 1 { s with capSeq := some seq, cap := some (watts, s.rtime + ms * 2000000) } (execCap slot seq watts ms s) := by
  have hold : ¬ ifSome s.capSeq false (fun n => decide (seq ≤ n)) = true := by
    cases hcap : s.capSeq with
    | none => exact Bool.false_ne_true
    | some n => exact fun h => Nat.not_le.mpr (hseq n hcap) (of_decide_eq_true h)
  exact runCommand_ends hturn ((if_neg (Bool.not_eq_true _ ▸ hmode)).trans (if_neg hold)) rfl

theorem execCap_older {n : Nat} (hturn : CommandTurn s 0x06 slot) (hmode : s.modes.getLsbD 4 = false) (hcap : s.capSeq = some n) (hseq : seq ≤ n) :
    Ends s slot 1 s (execCap slot seq watts ms s) := by
  have hold : ifSome s.capSeq false (fun n => decide (seq ≤ n)) = true := by
    rw [hcap]
    exact decide_eq_true hseq
  exact runCommand_ends hturn ((if_neg (Bool.not_eq_true _ ▸ hmode)).trans (if_pos hold)) rfl

theorem execCap_assisted (hturn : CommandTurn s 0x06 slot) (hmode : s.modes.getLsbD 4 = true) :
    Ends s slot 1 { (s.ask 4 s.fresh).2 with fresh := s.fresh + 1 } (execCap slot seq watts ms s) :=
  runCommand_ends hturn (if_pos hmode) (ask_rung s 4 s.fresh)

end

section
variable {n : Nat}

theorem execDeviceNumber_bad (hturn : CommandTurn s 0x07 slot) (hn : n = 0 ∨ 2046 < n) : Ends s slot 2 s (execDeviceNumber slot n s) :=
  runCommand_ends hturn (if_pos hn) rfl

theorem deviceNumber_passes (hlow : 1 ≤ n) (hhigh : n ≤ 2046) : ¬ (n = 0 ∨ 2046 < n) := by omega

theorem execDeviceNumber_used (hturn : CommandTurn s 0x07 slot) (hlow : 1 ≤ n) (hhigh : n ≤ 2046) (hasids : s.asids ≠ []) :
    Ends s slot 4 s (execDeviceNumber slot n s) := by
  have hused : (!s.asids.isEmpty) = true := by
    rw [List.isEmpty_eq_false_iff.mpr hasids]
    rfl
  exact runCommand_ends hturn ((if_neg (deviceNumber_passes hlow hhigh)).trans (if_pos (.inr hused))) rfl

theorem execDeviceNumber_set (hturn : CommandTurn s 0x07 slot) (hlow : 1 ≤ n) (hhigh : n ≤ 2046) (hasids : s.asids = []) (hdev : s.devState = 2) :
    Ends s slot 1 { s with devNum := n } (execDeviceNumber slot n s) := by
  have hfree : ¬ (s.devState ≠ 2 ∨ (!s.asids.isEmpty) = true) := by
    rw [hasids, hdev]
    decide
  exact runCommand_ends hturn ((if_neg (deviceNumber_passes hlow hhigh)).trans (if_neg hfree)) rfl

end

section
variable {first l : Nat}

theorem routeSet_passes (hfirst : first < 2047) (hl : l < 6) :
    ¬ (2048 < first + [l].length ∨ [l].any (fun l => decide (6 ≤ l) && l != 15) = true) := by
  rintro (h | h)
  · rw [List.length_singleton] at h
    omega
  · simp only [List.any_cons, List.any_nil, Bool.or_false, Bool.and_eq_true, decide_eq_true_eq] at h
    omega

theorem setRoute_other (hlow : 1 ≤ first) (hhigh : first < 2047) (hown : first ≠ s.devNum) (hl : l < 6) :
    s.setRoute first l = { s with routes := assocSet s.routes first [l] } := by
  have hset : ¬ (first = 0 ∨ first = 2047 ∨ first = s.devNum) := by omega
  rw [State.setRoute, if_neg hset, if_pos hl]

theorem execRouteSet_sets (hturn : CommandTurn s 0x08 slot) (hlow : 1 ≤ first) (hhigh : first < 2047) (hown : first ≠ s.devNum) (hl : l < 6)
    (hdrain : s.drain.getLsbD 0 = true) (hridges : s.ridges = []) :
    Ends s slot 1 { s with routes := assocSet s.routes first [l] } (execRouteSet slot first [l] s) := by
  have hidle : ¬ ((!s.drain.getLsbD 0) = true ∨ s.ridges.any Ridge.isRunning = true) := by
    rw [hdrain, hridges]
    decide
  refine runCommand_ends hturn ((if_neg (routeSet_passes hhigh hl)).trans ((if_neg hidle).trans ?_)) rfl
  exact congrArg (Prod.mk 1) (setRoute_other hlow hhigh hown hl)

theorem execRouteSet_undrained (hturn : CommandTurn s 0x08 slot) (hhigh : first < 2047) (hl : l < 6) (hdrain : s.drain.getLsbD 0 = false) :
    Ends s slot 4 s (execRouteSet slot first [l] s) :=
  runCommand_ends hturn ((if_neg (routeSet_passes hhigh hl)).trans (if_pos (.inl (congrArg (!·) hdrain)))) rfl

end

section
variable {a entry qp len : Nat} {rkey : BitVec 32} {base : BitVec 64}

theorem execHostWindow_sets (hturn : CommandTurn s 0x09 slot) (hentry : entry < 64) (hqp : qp < 4096) (hknown : hasAsid s a = true) :
    Ends s slot 1 { s with asids := replaceFirst (fun (x : Asid) => x.id == a) (fun x => { x with
      hostWins := x.hostWins.filter (fun (w : HostWin) => w.entry != entry) ++ [⟨entry, qp, rkey, base, len⟩] }) s.asids }
      (execHostWindow slot a entry qp rkey base len s) := by
  have hasid := asid_passes hknown
  refine runCommand_ends hturn (if_neg ?_) rfl
  rintro (h | h | h)
  · omega
  · omega
  · exact hasid h

theorem execHostWindow_bad (hturn : CommandTurn s 0x09 slot) (hentry : 64 ≤ entry) : Ends s slot 2 s (execHostWindow slot a entry qp rkey base len s) :=
  runCommand_ends hturn (if_pos (.inl hentry)) rfl

end
end

end Sys2Proof.Laws
end

section
/-! SUPPORT. Capture, replay, links, the report, firmware and lockstep among the commands, and the statement about all of them (19
R409-R413; 20 R421, R428-R432). -/

namespace Sys2Proof.Laws
open Sys2Proof.Machine

section
variable {slot : Nat} {s : State}

/-! ### Capture and replay -/

section
variable {q n first count : Nat} {status : BitVec 64}

theorem not_feature {i : Nat} (h : s.feat.getLsbD i = false) : (!s.feat.getLsbD i) = true := congrArg (!·) h

theorem feature_passes {i : Nat} (h : s.feat.getLsbD i = true) : ¬ (!s.feat.getLsbD i) = true := by
  rw [h]
  exact Bool.false_ne_true

theorem execCaptureArm_missing (hturn : CommandTurn s 0x0A slot) (hfeat : s.feat.getLsbD 2 = false) : Ends s slot 3 s (execCaptureArm slot q s) :=
  runCommand_ends hturn (if_pos (not_feature hfeat)) rfl

theorem armCapture_queue (hfeat : s.feat.getLsbD 2 = true) (hsome : s.queue? q ≠ none) :
    s.armCapture q = (1, s.modQueue q (fun x => { x with armed := true })) := by
  obtain ⟨x, hx⟩ := Option.ne_none_iff_exists'.mp hsome
  rw [State.armCapture, if_neg (feature_passes hfeat)]
  simp only [hx]

theorem execCaptureArm_arms (hturn : CommandTurn s 0x0A slot) (hfeat : s.feat.getLsbD 2 = true) (hsome : s.queue? q ≠ none) :
    Ends s slot 1 (s.modQueue q (fun x => { x with armed := true })) (execCaptureArm slot q s) :=
  runCommand_ends hturn (armCapture_queue hfeat hsome) rfl

/-- No other replay waits for its cairn. -/
def noReplayWaits (s : State) : Prop := ∀ l ∈ s.launches, l.replay = true → l.state ≠ .queued

theorem replay_runs (hturn : CommandTurn s 0x0B slot) (hfree : noReplayWaits s) :
    ¬ (!s.runs 0x0B slot || s.launches.any (fun (l : Launch) => l.replay && l.state == .queued)) = true := by
  have hany : s.launches.any (fun (l : Launch) => l.replay && l.state == .queued) = false := by
    refine List.any_eq_false.mpr fun l hl => ?_
    rw [Bool.and_eq_true, beq_iff_eq]
    exact fun h => hfree l hl h.1 h.2
  rw [runs_at_turn hturn, hany]
  exact Bool.false_ne_true

theorem execCairnReplay_ends {t : State} {st : Nat} (hturn : CommandTurn s 0x0B slot) (hfree : noReplayWaits s)
    (h : s.replay n q first count status = (some st, t)) (ht : t.rung = s.rung) : Ends s slot st t (execCairnReplay slot n q first count status s) := by
  have ⟨_, hhead, _⟩ := hturn
  rw [Ends, execCairnReplay, if_neg (replay_runs hturn hfree), h]
  exact congrArg Host.Outcome.next (commandDone_at_head hhead ht)

theorem execCairnReplay_reads {t : State} (hturn : CommandTurn s 0x0B slot) (hfree : noReplayWaits s)
    (h : s.replay n q first count status = (none, t)) : execCairnReplay slot n q first count status s = .next t := by
  rw [execCairnReplay, if_neg (replay_runs hturn hfree), h]

theorem replay_missing (hfeat : s.feat.getLsbD 2 = false) : s.replay n q first count status = (some 3, s) := if_pos (not_feature hfeat)

theorem replay_noQueue (hfeat : s.feat.getLsbD 2 = true) (hnone : s.queue? q = none) : s.replay n q first count status = (some 2, s) := by
  rw [State.replay, if_neg (feature_passes hfeat)]
  simp only [hnone]

/-- The state with a launch that has just been made. -/
def withLaunch (s : State) (l : Launch) : State := { s with fresh := s.fresh + 1, launches := s.launches ++ [l] }

section
variable {x : Queue} {k : Cairn} (hfeat : s.feat.getLsbD 2 = true) (hqueue : s.queue? q = some x)
include hfeat hqueue

theorem replay_named (hk : s.cairns.find? (fun (k : Cairn) => k.id == n) = some k) :
    s.replay n q first count status =
      if !k.allows first count || !s.cairnSound k then (some 2, s)
      else (some 1, (withLaunch s (s.replayLaunch x n first count status)).replayPages (s.replayLaunch x n first count status) k) := by
  rw [State.replay, if_neg (feature_passes hfeat)]
  simp only [hqueue, hk, withLaunch]

theorem replay_unnamed (hk : s.cairns.find? (fun (k : Cairn) => k.id == n) = none) :
    s.replay n q first count status =
      if !isGlobal (BitVec.ofNat 64 n) || !s.memExists x.asid (BitVec.ofNat 64 n) 64 || count = 0 then (some 2, s)
      else (none, (withLaunch s (s.replayLaunch x n first count status)).jobBegin x.asid (seqCore (q % 4)) .replay s.fresh none
        [.read (BitVec.ofNat 64 n) 64]) := by
  rw [State.replay, if_neg (feature_passes hfeat)]
  simp only [hqueue, hk, withLaunch]
  rfl

end

theorem allows_false {k : Cairn} (h : k.live = true ∨ count = 0 ∨ k.packet.count < first + count ∨ s.cairnSound k = false) :
    (!k.allows first count || !s.cairnSound k) = true := by
  rw [Cairn.allows]
  obtain h | h | h | h := h
  · simp only [h, Bool.not_true, Bool.false_and, Bool.not_false, Bool.true_or]
  · simp only [h, bne_self_eq_false, Bool.and_false, Bool.false_and, Bool.not_false, Bool.true_or]
  · simp only [decide_eq_false (Nat.not_le.mpr h), Bool.and_false, Bool.false_and, Bool.not_false, Bool.true_or]
  · rw [h, Bool.not_false, Bool.or_true]

theorem allows_true {k : Cairn} (hlive : k.live = false) (hpos : 0 < count) (hfit : first + count ≤ k.packet.count)
    (hcode : k.header.codeSize ≠ 0) (hsound : s.cairnSound k = true) : ¬ (!k.allows first count || !s.cairnSound k) = true := by
  have hallows : k.allows first count = true := by
    rw [Cairn.allows, hlive, bne_iff_ne.mpr hcode, bne_iff_ne.mpr (Nat.pos_iff_ne_zero.mp hpos), decide_eq_true hfit]
    rfl
  rw [hallows, hsound]
  exact Bool.false_ne_true

theorem unreadable_true {x : Queue} {a : Word} (h : isGlobal a = false ∨ s.memExists x.asid a 64 = false) :
    (!isGlobal a || !s.memExists x.asid a 64 || decide (count = 0)) = true := by
  obtain h | h := h
  · rw [h, Bool.not_false, Bool.true_or, Bool.true_or]
  · rw [h, Bool.not_false, Bool.or_true, Bool.true_or]

theorem unreadable_false {x : Queue} {a : Word} (hglobal : isGlobal a = true) (hexists : s.memExists x.asid a 64 = true) (hpos : 0 < count) :
    ¬ (!isGlobal a || !s.memExists x.asid a 64 || decide (count = 0)) = true := by
  rw [hglobal, hexists, decide_eq_false (Nat.pos_iff_ne_zero.mp hpos)]
  exact Bool.false_ne_true

/-- A change to the last element of a list that no other one meets. -/
theorem replaceFirst_append_last {α : Type} {p : α → Bool} {f : α → α} {xs : List α} {a : α} (hnone : xs.find? p = none) (ha : p a = true) :
    replaceFirst p f (xs ++ [a]) = xs ++ [f a] := by
  induction xs with
  | nil => exact if_pos ha
  | cons x rest ih =>
    rw [List.find?_cons] at hnone
    cases hx : p x with
    | true => rw [hx] at hnone; exact absurd hnone (Option.some_ne_none x)
    | false =>
      rw [hx] at hnone
      exact (if_neg (Bool.not_eq_true _ ▸ hx)).trans (congrArg (x :: ·) (ih hnone))

/-- A launch that takes what its cairn holds (19 R411). -/
def Launch.taking (l : Launch) (k : Cairn) : Launch :=
  { l with serial := k.seq, packet := k.packet, header := k.header, deps := k.deps, state := .checking }

theorem replayPages_rung (s : State) (l : Launch) (k : Cairn) : (s.replayPages l k).rung = s.rung := (jobBegin_orders _ _ _ _ _ _ _).2

theorem replayPages_launches {l : Launch} (k : Cairn) (hnew : s.launch? l.id = none) :
    ((withLaunch s l).replayPages l k).launches = s.launches ++ [Launch.taking l k] :=
  ((jobBegin_orders _ _ _ _ _ _ _).1).trans (replaceFirst_append_last (f := fun x => Launch.taking x k) hnew (beq_self_eq_true l.id))

theorem paciaPut_launches (s : State) (off : Nat) (bs : List Byte) : (s.paciaPut off bs).launches = s.launches := by
  obtain ⟨_, h⟩ := paciaPut_rest bs s off
  rw [h]

theorem queue?_id {x : Queue} (h : s.queue? q = some x) : x.id = q :=
  beq_iff_eq.mp (List.find?_some (p := fun (x : Queue) => x.id == q) h)

/-- A cairn of this device is submitted: its launch is behind the others, in checking, and the command has finished. -/
theorem execCairnReplay_submits {x : Queue} {k : Cairn} (hturn : CommandTurn s 0x0B slot) (hfree : noReplayWaits s)
    (h : s.replay n q first count status =
      (some 1, (withLaunch s (s.replayLaunch x n first count status)).replayPages (s.replayLaunch x n first count status) k))
    (hnew : s.launch? s.fresh = none) : ∃ t : State, execCairnReplay slot n q first count status s = .next t ∧
      t.launches = s.launches ++ [Launch.taking (s.replayLaunch x n first count status) k] ∧ t.rung = s.rung.tail :=
  ⟨_, execCairnReplay_ends hturn hfree h (replayPages_rung _ _ _),
    (paciaPut_launches _ _ _).trans (replayPages_launches k hnew), paciaPut_rung _ _ _⟩

end

/-! ### Debug session, links, core limits, lockstep -/

theorem execDebugSession_closes (hturn : CommandTurn s 0x0C slot) : Ends s slot 1 { s with debugAsid := none } (execDebugSession slot 0xFFFF s) :=
  runCommand_ends hturn (if_pos rfl) rfl

theorem execDebugSession_opens {n : Nat} (hturn : CommandTurn s 0x0C slot) (hn : n ≠ 0xFFFF) (hknown : hasAsid s n = true) :
    Ends s slot 1 { s with debugAsid := some n } (execDebugSession slot n s) :=
  runCommand_ends hturn ((if_neg hn).trans (if_neg (asid_passes hknown))) rfl

theorem execDebugSession_unknown {n : Nat} (hturn : CommandTurn s 0x0C slot) (hn : n ≠ 0xFFFF) (hknown : hasAsid s n = false) :
    Ends s slot 2 s (execDebugSession slot n s) :=
  runCommand_ends hturn ((if_neg hn).trans (if_pos (asid_fails hknown))) rfl

/-- A link that trains again on all its lanes. -/
def retrained (s : State) (l : Nat) : State :=
  s.modLink l (fun k => { Link.reset with failed := k.failed, peer := k.peer, replays := k.replays, retrains := k.retrains + 1 })

theorem execRetrain_down {l : Nat} (hturn : CommandTurn s 0x0D slot) (hl : l < 6) (hdown : (s.link l).state = .down) :
    Ends s slot 1 (retrained s l) (execRetrain slot l s) :=
  runCommand_ends hturn ((if_neg (Nat.not_le.mpr hl)).trans (if_neg (fun h => h hdown))) rfl

theorem execRetrain_up {l : Nat} (hturn : CommandTurn s 0x0D slot) (hl : l < 6) (hup : (s.link l).state ≠ .down) :
    Ends s slot 4 s (execRetrain slot l s) :=
  runCommand_ends hturn ((if_neg (Nat.not_le.mpr hl)).trans (if_pos hup)) rfl

theorem execCoreLimit_missing {c mw : Nat} (hturn : CommandTurn s 0x0E slot) (hmode : s.modes.getLsbD 4 = false) :
    Ends s slot 3 s (execCoreLimit slot c mw s) :=
  runCommand_ends hturn (if_pos (congrArg (!·) hmode)) rfl

theorem execCoreLimit_sets {c mw : Nat} (hturn : CommandTurn s 0x0E slot) (hmode : s.modes.getLsbD 4 = true) (hc : c < 1024) :
    Ends s slot 1 (s.modCore c (fun k => { k with coreLimit := some mw })) (execCoreLimit slot c mw s) := by
  have hset : ¬ (!s.modes.getLsbD 4) = true := by rw [hmode]; exact Bool.false_ne_true
  exact runCommand_ends hturn ((if_neg hset).trans (if_neg (Nat.not_le.mpr hc))) rfl

theorem execLockstep_missing {v : Nat} (hturn : CommandTurn s 0x11 slot) (hfeat : s.feat.getLsbD 1 = false) :
    Ends s slot 3 s (execLockstep slot v s) :=
  runCommand_ends hturn (if_pos (not_feature hfeat)) rfl

theorem execLockstep_sets {v : Nat} (hturn : CommandTurn s 0x11 slot) (hfeat : s.feat.getLsbD 1 = true) (hv : v ≤ 1) (hridges : s.ridges = []) :
    Ends s slot 1 { s with lockstep := v } (execLockstep slot v s) := by
  have hidle : ¬ s.ridges.any Ridge.isRunning = true := by rw [hridges]; exact Bool.false_ne_true
  exact runCommand_ends hturn ((if_neg (feature_passes hfeat)).trans ((if_neg (Nat.not_lt.mpr hv)).trans (if_neg hidle))) rfl

theorem execLockstep_bad {v : Nat} (hturn : CommandTurn s 0x11 slot) (hfeat : s.feat.getLsbD 1 = true) (hv : 1 < v) :
    Ends s slot 2 s (execLockstep slot v s) :=
  runCommand_ends hturn ((if_neg (feature_passes hfeat)).trans (if_pos hv)) rfl

/-! ### The report -/

theorem execAttest_other {n : Nat} (hn : s.slotField slot 8 ≠ n) : execAttest slot n s = .next s := if_pos hn

theorem execAttest_bad {n : Nat} (hturn : CommandTurn s 0x0F slot) (hn : s.slotField slot 8 = n)
    (hbad : 1023 < n + 4 ∨ n ≤ slot ∧ slot ≤ n + 4) : Ends s slot 2 s (execAttest slot n s) := by
  rw [execAttest, if_neg (fun h => h hn)]
  exact runCommand_ends hturn (if_pos hbad) rfl

/-- The report that the command slots from n on take, signed. -/
def signedReport (s : State) (n : Nat) : List Byte :=
  let body := s.reportBody ((List.range 64).map (fun i => s.paciaByte (0x02000000 + 64 * n + i)))
  body ++ padTo (Config.signature body) 132 ++ List.replicate 20 0

theorem execAttest_reports {n : Nat} (hturn : CommandTurn s 0x0F slot) (hn : s.slotField slot 8 = n) (hfit : n + 4 ≤ 1023)
    (hapart : slot < n ∨ n + 4 < slot) :
    execAttest slot n s = .next ((({ s with rung := s.rung.tail } : State).paciaPut (0x02000000 + 64 * n) (signedReport s n)).paciaPut
      (0x02000000 + 64 * slot + 2) (leBytes 1 2)) := by
  have hgood : ¬ (1023 < n + 4 ∨ n ≤ slot ∧ slot ≤ n + 4) := by omega
  have hends : Ends s slot 1 (s.paciaPut (0x02000000 + 64 * n) (signedReport s n)) (execAttest slot n s) := by
    rw [execAttest, if_neg (fun h => h hn)]
    exact runCommand_ends hturn (if_neg hgood) (paciaPut_rung _ _ _)
  rw [Ends, paciaPut_setRung] at hends
  exact hends

/-! ### Firmware -/

section
variable {addr : BitVec 64} {len : Nat}

/-- Recovery admits the staging of firmware. -/
theorem firmware_runs (hslot : slot < 1024) (hhead : s.rung.head? = some slot) (hcode : s.slotField slot 0 = 0x10)
    (hjob : s.job? .firmware slot = none) : ¬ (!s.runs 0x10 slot || (s.job? .firmware slot).isSome) = true := by
  have hruns : s.runs 0x10 slot = true := by
    rw [State.runs, hcode, hhead, decide_eq_true hslot]
    simp only [beq_self_eq_true, Bool.or_true, Bool.and_self]
  rw [hruns, hjob]
  exact Bool.false_ne_true

theorem stage_bad (h : s.thisDev addr = false ∨ 1040 ≤ gaHome addr) : (!s.thisDev addr || decide (1040 ≤ gaHome addr)) = true := by
  obtain h | h := h
  · rw [h, Bool.not_false, Bool.true_or]
  · rw [decide_eq_true h, Bool.or_true]

theorem execFirmwareStage_bad (hslot : slot < 1024) (hhead : s.rung.head? = some slot) (hcode : s.slotField slot 0 = 0x10)
    (hjob : s.job? .firmware slot = none) (hbad : (!s.thisDev addr || decide (1040 ≤ gaHome addr)) = true) :
    Ends s slot 2 s (execFirmwareStage slot addr len s) := by
  rw [Ends, execFirmwareStage, if_neg (firmware_runs hslot hhead hcode hjob), if_pos hbad]
  exact congrArg Host.Outcome.next (commandDone_at_head hhead rfl)

theorem execFirmwareStage_reads (hslot : slot < 1024) (hhead : s.rung.head? = some slot) (hcode : s.slotField slot 0 = 0x10)
    (hjob : s.job? .firmware slot = none) (hdev : s.thisDev addr = true) (hhome : gaHome addr < 1040) :
    execFirmwareStage slot addr len s =
      .next (s.jobBegin 512 (ethCore 0) .firmware slot none [.look (gaHome addr) (gaOff addr) len]) := by
  have hgood : ¬ (!s.thisDev addr || decide (1040 ≤ gaHome addr)) = true := by
    rw [hdev, decide_eq_false (Nat.not_le.mpr hhome)]
    exact Bool.false_ne_true
  rw [execFirmwareStage, if_neg (firmware_runs hslot hhead hcode hjob), if_neg hgood]

section
variable {j : Job} {image : List Byte}

theorem firmware_over (hfn : j.fn = .firmware) (hops : j.ops = []) : ¬ (j.fn != .firmware || !j.isOver) = true := by
  rw [hfn, Job.isOver, hops]
  decide

theorem firmwareOn_installs {v : Nat} (hhead : s.rung.head? = some slot) (hfn : j.fn = .firmware) (hops : j.ops = []) (hgot : j.got = [image])
    (himage : Config.firmware image = some v) (hv : s.fw.minimum ≤ v) (hread : j.failed = false) :
    Ends s slot 1 { s.dropJob j.id with fw := ⟨s.fw.version, some v, v⟩ } (.next (s.firmwareOn j)) := by
  have himg : (if j.failed = true then none else Config.firmware (j.got.headD [])) = some v := by
    rw [hread, hgot]
    exact himage
  have hmin : ¬ v < (s.dropJob j.id).fw.minimum := Nat.not_lt.mpr hv
  rw [Ends, State.firmwareOn, if_neg (firmware_over hfn hops)]
  simp only [himg]
  rw [if_neg hmin]
  exact congrArg Host.Outcome.next (commandDone_at_head hhead rfl)

theorem firmwareOn_refuses (hhead : s.rung.head? = some slot) (hfn : j.fn = .firmware) (hops : j.ops = []) (hgot : j.got = [image])
    (hbad : j.failed = true ∨ (∀ v, Config.firmware image = some v → v < s.fw.minimum)) :
    Ends s slot 2 (s.dropJob j.id) (.next (s.firmwareOn j)) := by
  have hmin : ∀ v, (if j.failed = true then none else Config.firmware (j.got.headD [])) = some v → v < (s.dropJob j.id).fw.minimum := by
    intro v himg
    obtain hfailed | hold := hbad
    · rw [if_pos hfailed] at himg
      exact absurd himg.symm (Option.some_ne_none v)
    · rw [hgot] at himg
      split at himg
      · exact absurd himg.symm (Option.some_ne_none v)
      · exact hold v himg
  rw [Ends, State.firmwareOn, if_neg (firmware_over hfn hops)]
  refine congrArg Host.Outcome.next (Eq.trans ?_ (commandDone_at_head (s := s) hhead rfl))
  cases himg : (if j.failed = true then none else Config.firmware (j.got.headD [])) with
  | none => simp only
  | some v => exact if_pos (hmin v himg)

end
end

/-! ### Codes that are no command -/

theorem not_listed {code : Nat} (h : code = 0 ∨ 0x11 < code) : ¬ (1 ≤ code ∧ code ≤ 0x11) := by omega

theorem execUnknownCommand_ends {code : Nat} (hturn : CommandTurn s code slot) (h : code = 0 ∨ 0x11 < code) :
    Ends s slot 2 s (execUnknownCommand slot code s) := by
  rw [execUnknownCommand, if_neg (not_listed h)]
  exact runCommand_ends hturn rfl rfl

theorem skipCommands_recovery {rest : List Nat} (hrung : s.rung = slot :: rest) (hdev : s.devState = 0) (hcode : s.slotField slot 0 ≠ 0x10) :
    s.skipCommands = { s with rung := rest } := by
  unfold State.skipCommands
  simp only [hrung]
  rw [if_pos hdev, if_neg hcode]

end

/-- Settles O49: each command's clause is the law of its own function at its slot's turn, above. -/
theorem paciaCommands : Obligations.PaciaCommands := by
  intro slot s turn known
  refine ⟨?_, ?_, ?_, ?_, ?_, ?_, ?_, ?_, ?_, ?_, ?_, ?_, ?_, ?_, ?_, ?_, ?_, ?_, ?_, ?_, ?_, ?_⟩
  · exact fun n ceil mw boost hturn hn => execAsidCreate_large hturn hn
  · exact fun n ceil mw boost hturn hn hknown => execAsidCreate_again hturn hn hknown
  · intro n ceil mw boost hturn hn hknown hdev hnum
    obtain ⟨t, hexec, hasids⟩ := execAsidCreate_asids (ceil := ceil) (mw := mw) (boost := boost) hturn hn hknown hdev hnum
    exact ⟨newAsid s n ceil mw boost, t, hexec, hasids, rfl, rfl, rfl, rfl, rkey_asid hn _, rfl, rfl, rfl⟩
  · exact fun n hturn => ⟨execAsidRelease_unknown hturn, execAsidRelease_busy hturn, execAsidRelease_free hturn⟩
  · intro n ceil mw boost hturn
    refine ⟨execGrantSet_unknown hturn, ?_⟩
    intro granted hknown
    exact execGrantSet_known hturn hknown
  · exact fun q a ring n hturn hq hlow hhigh hknown =>
      ⟨execQueueCreate_makes hturn hq hlow hhigh hknown, execQueueCreate_again hturn hq hlow hhigh hknown⟩
  · exact fun q hturn => ⟨execQueueDestroy_unknown hturn, fun hsome hkeep => execQueueDestroy_kept hturn hsome (keepsQueue_true hkeep),
      fun hsome hfree => execQueueDestroy_gone hturn hsome (keepsQueue_false hfree)⟩
  · exact fun seq watts ms hturn hmode => ⟨execCap_newer hturn hmode, fun n hcap hseq => execCap_older hturn hmode hcap hseq⟩
  · exact fun seq watts ms hturn hmode => execCap_assisted hturn hmode
  · exact fun n hturn => ⟨execDeviceNumber_bad hturn, execDeviceNumber_used hturn, execDeviceNumber_set hturn⟩
  · exact fun first l hturn hlow hhigh hown hl =>
      ⟨execRouteSet_sets hturn hlow hhigh hown hl, execRouteSet_undrained hturn hhigh hl⟩
  · intro a entry qp rkey base len hturn
    refine ⟨?_, execHostWindow_bad hturn⟩
    intro wins put hentry hqp hknown
    exact execHostWindow_sets hturn hentry hqp hknown
  · exact fun q hturn => ⟨execCaptureArm_missing hturn, execCaptureArm_arms hturn⟩
  · intro n q first count status hturn hfree
    refine ⟨fun hfeat => execCairnReplay_ends hturn hfree (replay_missing hfeat) rfl,
      fun hfeat hnone => execCairnReplay_ends hturn hfree (replay_noQueue hfeat hnone) rfl, ?_, ?_⟩
    · intro k x hfeat hk hqueue
      have hreplay := replay_named (first := first) (count := count) (status := status) hfeat hqueue hk
      refine ⟨fun hbad => execCairnReplay_ends hturn hfree (hreplay.trans (if_pos (allows_false hbad))) rfl, ?_⟩
      intro hlive hpos hfit hcode hsound hnew
      obtain ⟨t, hexec, hlaunches, hrung⟩ := execCairnReplay_submits hturn hfree
        (hreplay.trans (if_neg (allows_true hlive hpos hfit hcode hsound))) hnew
      exact ⟨_, t, hexec, hlaunches, hrung, rfl, queue?_id hqueue, rfl, rfl, rfl, rfl, rfl, rfl, rfl⟩
    · intro x a hfeat hk hqueue
      have hreplay := replay_unnamed (first := first) (count := count) (status := status) hfeat hqueue hk
      refine ⟨fun hbad => execCairnReplay_ends hturn hfree (hreplay.trans (if_pos (unreadable_true hbad))) rfl, ?_⟩
      intro hglobal hexists hpos
      exact ⟨s.replayLaunch x n first count status, rfl, rfl,
        execCairnReplay_reads hturn hfree (hreplay.trans (if_neg (unreadable_false hglobal hexists hpos)))⟩
  · intro n hturn
    refine ⟨?_, execDebugSession_opens hturn, execDebugSession_unknown hturn⟩
    rintro rfl
    exact execDebugSession_closes hturn
  · exact fun l hturn => ⟨execRetrain_down hturn, execRetrain_up hturn⟩
  · exact fun c mw hturn => ⟨execCoreLimit_missing hturn, execCoreLimit_sets hturn⟩
  · intro n hturn
    refine ⟨execAttest_other, fun hn => ⟨execAttest_bad hturn hn, ?_⟩⟩
    intro hfit hapart body
    exact execAttest_reports hturn hn hfit hapart
  · intro addr len hslot hhead hcode
    refine ⟨fun hjob hbad => execFirmwareStage_bad hslot hhead hcode hjob (stage_bad hbad), execFirmwareStage_reads hslot hhead hcode, ?_⟩
    intro j image hfn hops hgot
    exact ⟨fun v himage hv hread => firmwareOn_installs hhead hfn hops hgot himage hv hread, firmwareOn_refuses hhead hfn hops hgot⟩
  · exact fun v hturn => ⟨execLockstep_missing hturn, execLockstep_sets hturn, execLockstep_bad hturn⟩
  · exact fun code hcode hturn => execUnknownCommand_ends hturn hcode
  · exact fun rest hrung hdev hcode => skipCommands_recovery hrung hdev hcode

end Sys2Proof.Laws
end
